-- ==== Sys2Proof/Word.lean ====
section
/-! DEFINITION. The word types of the machine (R2, R5), register numbers (R28) and sparse tables. -/

namespace Sys2Proof

/-- A byte is 8 bits (R5). -/
abbrev Byte := BitVec 8
/-- A half is 16 bits (R5). -/
abbrev Half := BitVec 16
/-- A word is 32 bits (R5). -/
abbrev Word := BitVec 32
/-- A double is 64 bits (R5). -/
abbrev Dbl := BitVec 64
/-- A scalar register number, s0 to s255 (R28). -/
abbrev SReg := BitVec 8
/-- A vector register number, v0 to v127 (R28). -/
abbrev VReg := BitVec 7

/-- A table by number, holding only the entries that differ from the table's default value, in rising order. -/
abbrev Sparse (α : Type) := List (Nat × α)

/-- The word that holds `n` modulo 2^32. -/
abbrev word (n : Nat) : Word := BitVec.ofNat 32 n
/-- The double that holds `n` modulo 2^64. -/
abbrev dbl (n : Nat) : Dbl := BitVec.ofNat 64 n

end Sys2Proof
end

