-- ==== Sys2Proof/Config.lean ====
section
/-! DEFINITION. What the part fixes (R17) and the free values: constants without a body, so that nothing can be proved of their values. -/

namespace Sys2Proof.Config

/-- Cores of the device (R17). -/
def cores : Nat := 256
/-- Team slots of a core (R21, R382). -/
def slotsPerCore : Nat := 64
/-- Vaults and columns of the device (R15). -/
def vaults : Nat := 64
/-- Bytes of one vault (R15, R17). -/
def vaultBytes : Nat := 64 * 2 ^ 20
/-- Steps in which a vault is divided (R16). -/
def vaultStep : Nat := 8 * 2 ^ 20
/-- Scratchpad bytes of one core (R17). -/
def scratchBytes : Nat := 393216
/-- Accumulator tiles of one core (R17). -/
def tiles : Nat := 128
/-- Elements of one tile (R17). -/
def tileElems : Nat := 1024
/-- Lane-registers of one quadrant (R21). -/
def laneRegs : Nat := 65536
/-- Most instructions in flight on one path (R190). -/
def maxInFlight : Nat := 1024
/-- Entries of a partition's range-lock table (R261). -/
def lockEntries : Nat := 512
/-- Entries of a mailbox (R246). -/
def mailboxEntries : Nat := 256
/-- Entries of a partition's task queue (R374). -/
def taskEntries : Nat := 4096
/-- Releases the router holds for one partition (R343). -/
def handedReleases : Nat := 256
/-- Words that an instruction cache holds, 64 KiB (R17). -/
def icacheWords : Nat := 16384
/-- 32-byte sectors that an L1 data cache holds, 640 KiB (R17). -/
def l1Sectors : Nat := 20480
/-- Memory requests of a core outstanding at most (R17, R189). -/
def coreRequests : Nat := 1024
/-- Bytes of HBM, 12 stacks of 64 GiB (R17). -/
def hbmBytes : Nat := 12 * 64 * 2 ^ 30
/-- Words of one loop buffer (R132). -/
def loopBufferWords : Nat := 256
/-- Entries of an operand cache (R46). -/
def operandCacheEntries : Nat := 8
/-- Entries of the divergence stack held in hardware (R123). -/
def hardwareStack : Nat := 16
/-- Commands a copy, layout or grammar queue holds (R258, R305). -/
def engineQueue : Nat := 64
/-- Commands the matrix or the generation unit holds (R275, R305). -/
def unitQueue : Nat := 16
/-- Commands a journal engine's queue holds (R305). -/
def journalQueue : Nat := 256
/-- Entries of the collective log (R354). -/
def logEntries : Nat := 4096
/-- Speculative groups a core holds at most (R253). -/
def speculativeGroups : Nat := 16
/-- Banks of a scratchpad (R188). -/
def spadBanks : Nat := 48
/-- Sectors (32 bytes) of speculative L1 state of one core, 512 KiB (R252). -/
def speculativeSectors : Nat := 16384

/-- Which of the entries that the tables have held since the last completed invalidation an access uses (R387); log entry 3. -/
opaque leafChoice : Nat → Nat
/-- The bytes of the signature of an attestation report (R407); log entry 11. -/
opaque signature : Nat → List Byte

/-- The address a report names for a buffer record beyond the table, and the element width of a record that is not read (R206); log
entry 3. -/
opaque openAddress : Nat → Dbl
/-- The width of that record's elements; log entry 3. -/
opaque openWidth : Nat → Nat
/-- A byte of another device that the spec gives no other way to read (R205, R206); log entry 3. -/
opaque peerByte : Nat → Byte

/-- INFO of a status whose count does not fit its 24 bits (R259); log entry 3. -/
opaque openInfo : Nat → Nat

/-- The second word of a status pair that a failure leaves without a value (R306, R315); log entry 3. -/
opaque openWord : Nat → Word

/-- Nanoseconds that a die's reference time has advanced since it was read last (R376); log entry 3. -/
opaque elapsed : Nat → Nat

/-- Which line a full L1 drops, modulo the lines it holds (R17, R187); log entry 3. -/
opaque evicted : Nat → Nat

/-- How far a die's count is steered towards the host's time at a reading, modulo what is left (R376); log entry 3. -/
opaque steered : Nat → Nat

/-- The output queue of a port is more than half full (R356); log entry 3. -/
opaque portBusy : Nat → Bool
/-- The length of a port's output queue (R356); log entry 3. -/
opaque portQueue : Nat → Nat
/-- The station through which a UALink packet leaves, modulo the stations (R344, R355); log entry 3. -/
opaque stationFor : Nat → Nat
/-- A byte of a flit's ciphertext or tag (R358); log entry 3. -/
opaque sealedByte : Nat → Byte

/-- The HBM stack that holds a device physical address, modulo the stacks (R403, R406); log entry 3. -/
opaque stackOf : Nat → Nat

/-- The Netrum minor version that first defines a word which 4.2 reserves (R55); log entry 3. -/
opaque introduced : Nat → Nat

/-- The public identity key that the device derives from its unclonable function at power-up (R404); log entry 3. -/
opaque identityKey : Nat → List Byte

/-- A core failed its power-up self-test (R397, R406); log entry 3. -/
opaque coreFailed : Nat → Bool

end Sys2Proof.Config
end

