-- ==== Sys2Proof/Syntax.lean ====
section
/-! DEFINITION. The instructions of the Aveus G9 at Netrum 4.2: one constructor of Instr for each row of the table of
operations and events, and the records that events carry. An encoded instruction carries the fields of its word (R35);
an event carries which outstanding operation or unit it concerns and what the outside world supplies (log entry 1). -/

namespace Sys2Proof

/-- A failure reported with returning data or an acknowledgement (R198): its code, whether the peer's import table refused the
access (R338), and the request it answers: the number of a 128-byte line, its first key divided by 128 (R189, R340). -/
structure ReturnFail where
  code : Byte
  refused : Bool
  line : Nat := 0
  deriving DecidableEq, Repr

/-- How a load's data return (R47): whether a relaxed load takes the L1 copies it hits (R219), the bytes that peers
returned, in lane order, for the peer lanes whose packet did not fail (R338), and the failures, one for each request that failed. -/
structure LoadReturn where
  useCopies : Bool
  peer : List Byte
  fails : List ReturnFail
  deriving DecidableEq, Repr

/-- How an atomic's old values return from a peer: one word for each peer lane whose packet did not fail, in order, and the failures
of the others (R198). -/
structure AtomReturn where
  peer : List Word
  fails : List ReturnFail
  deriving DecidableEq, Repr

/-- How an engine command ends: the units done when a cancellation stops it (R271), and which bytes of a failing unit hold their new
value, bit i for the i-th byte the unit writes (R260). -/
structure EngineEnd where
  units : Nat
  part : Nat
  deriving DecidableEq, Repr

/-- The kinds of journal record (R321). -/
inductive RecKind where
  | opn | step | close | trunc
  deriving DecidableEq, Repr

/-- An entry of a route log (R319): layer, number of experts and their ids. -/
structure RouteEntry where
  layer : Half
  k : Byte
  ids : List Half
  deriving DecidableEq, Repr

/-- A journal record (R321, R322). Fields that a kind does not carry are zero. -/
structure JRecord where
  kind : RecKind
  reason : Byte
  srcdev : Nat
  seqid : Dbl
  step : Word
  c : Word
  topk : Half
  topp : Half
  key : Dbl
  ctr : Dbl
  imgid : Dbl
  imgdig : List Byte
  start : Word
  prompt : List Word
  token : Word
  digest : Dbl
  routes : List RouteEntry
  deriving DecidableEq, Repr

/-- What an atomic computes at its word (R234, R236): the forms of AADD, AMIN and AMAX carry the kind of AKIND. -/
inductive AtomFn where
  | addI | addF | minI | minN | minF | maxI | maxN | maxF | and | or | xor | xch | cas
  deriving DecidableEq, Repr

/-- What a packet from a peer asks (R337 to R340, R345): an access, of which an atomic says whether its old values return, a line brought to
its home vault (R214), a signal, a SEMWAIT or BAR on a word here, or that such a request of
a discarded group, named by its packet's number, be withdrawn (R239 to R241). A load names the 32-byte sectors of its line; other offsets are
bytes from the packet's address; a stored byte has its mask (R205, R340). -/
inductive PeerOp where
  | load (sectors : BitVec 4)
  | store (bytes : List (Nat × Byte × Byte))
  | atomic (fn : AtomFn) (ret : Bool) (lanes : List (Nat × Word × Word))
  | prefetch
  | rsig (gen : Option Word) (n : Word)
  | semwait (units : Word)
  | bar (parties : Word)
  | withdraw (request : Word)
  deriving DecidableEq, Repr

/-- A packet from another device (R340, R341): source device and partition, sequence number, fabric address. Packets to different lines may
be applied in any order: `apart` says of one that arrives before earlier packets that none of those goes to its line. -/
structure PeerPacket where
  src : Nat
  part : Nat
  seq : Word
  addr : Nat
  op : PeerOp
  apart : Bool := false
  deriving DecidableEq, Repr

/-- What a participant of a collective on another device contributes (R350, R352): its shard and device, the hash of its
canonical tree, its COUNT, V and mapping, its elements and whether a read or write failed there. -/
structure RemoteShare where
  shard : Nat
  dev : Nat
  hash : List Byte
  count : Nat
  v : Nat
  mapping : List Nat
  data : List Word
  failed : Bool
  deriving DecidableEq, Repr

/-- A direct-mode flit as it arrives (R357), with whether its authentication tag holds under the key that KEYSEL names (R358). -/
structure Flit where
  type : Byte
  flags : Byte
  dst : Half
  src : Half
  mid : Half
  part : Byte
  len : Byte
  zero : Half
  seq : Word
  payload : List Byte
  tagOk : Bool
  deriving DecidableEq, Repr

/-- An entry of a command queue (R365): OP, ADDR, VALUE, STATUS, and whether a reserved field is non-zero. -/
structure QEntry where
  op : Byte
  addr : Dbl
  value : Dbl
  status : Dbl
  reserved : Bool
  deriving DecidableEq, Repr

/-- One route of the routing table (R356): the minimal route's next device and port, the usable non-minimal routes as
intermediate device and first port, and the hops of the minimal route. -/
structure Route where
  dest : Nat
  next : Nat
  port : Nat
  hops : Nat
  nonMin : List (Nat × Nat)
  deriving DecidableEq, Repr

/-- A signed image as boot flash holds it (R404): whether its SM2 signature checks, its bytes, and what they say: in the configuration
image device id, fabric mode, the neighbour on each port, routes, the journal port of the partner and the ports of each station to a
switch (R356, R359); in the Beloft image the firmware version and the highest minor version its emulation set covers (R57). -/
structure BootImage where
  sigOk : Bool
  bytes : List Byte
  version : Word
  emulMin : Nat
  devid : Nat
  direct : Bool
  partnerPort : Nat
  neighbours : List (Nat × Nat)
  routes : List Route
  stations : List (List Nat)
  deriving DecidableEq, Repr

/-- The two images of boot flash (R404). -/
inductive ImageKind where
  | beloft | configuration
  deriving DecidableEq, Repr

/-- An entry of the import table (R337): the source device and partition it admits, the fabric page and its bytes, the
target partition and physical base, and the three permissions. -/
structure Import where
  src : Nat
  srcPart : Nat
  page : Nat
  size : Nat
  part : Nat
  base : Nat
  rd : Bool
  wr : Bool
  atom : Bool
  deriving DecidableEq, Repr

/-- Writes of management-interface registers that have no row of their own (R409): queue doorbells (R403), a queue's priority (R365),
import-table entries (R337), host-memory windows and the host's own share of HBM (R403), a die's trap queue and the status page's base
(R378, R410). -/
inductive MgmtWrite where
  | doorbell (part queue : Nat) (e : QEntry)
  | queuePrio (part queue prio : Nat)
  | importSet (e : Import)
  | hostWindow (base size : Nat)
  | hostShare (base size : Nat)
  | trapQueue (die : Nat) (slots : List Nat)
  | statusPage (part base : Nat)
  deriving DecidableEq, Repr

/-- Where the loader places a code object (R68): the object's physical address, the address of each section in order
(virtual, as the code will see it, and physical), the symbols' addresses, the address of its buffer-record table and the number of
templates of each kernel. -/
structure ObjectPlacing where
  part : Nat
  src : Nat
  size : Nat
  sections : List (Nat × Nat)
  syms : List Nat
  records : Nat
  templates : List Nat
  deriving DecidableEq, Repr

/-- Where an uncorrectable error of a core lies (R397): in a team's registers or window, in a group's scratchpad or spill
area, in a tile, or in bits that no group holds. -/
inductive CoreError where
  | team (slot : Nat)
  | group (gid : Nat)
  | unheld (core : Nat)
  deriving DecidableEq, Repr

/-- Where Beloft places a lazy function that it binds (R74): the address of its code as teams will see it, and the code. -/
structure LazyPlace where
  entry : Nat
  code : List Byte
  deriving DecidableEq, Repr

/-- A load of an emulation routine (R56): the bytes of each access, whether its form is speculative, where the data go (vector or scalar
registers from one on, or the routine alone), and its lanes with their addresses. -/
structure RoutineLoad where
  size : Nat
  spec : Bool
  vreg : Option Nat
  sreg : Option Nat
  lanes : List (Nat × Dbl)
  deriving DecidableEq, Repr

/-- An atomic of an emulation routine (R56): the function, its destination, if any, a vector or a scalar register, and its lanes with address
and operands. -/
structure RoutineAtomic where
  fn : AtomFn
  vreg : Option Nat
  sreg : Option Nat
  lanes : List (Nat × Dbl × Word × Word)
  deriving DecidableEq, Repr

/-- The commit step of an emulation routine (R56): its loads, the scalar registers, the lanes of vector registers (data and tag) and the mode
register that it writes, its stores and atomics, the statistics as it updates them (R100): magnitudes by slot, flags, draws of SRCNT; and the
branch target where the instruction branches. -/
structure RoutineCommit where
  loads : List RoutineLoad
  sregs : List (Nat × Word)
  lanes : List (Nat × Nat × Word × Bool)
  mode : Half
  stores : List (Dbl × Byte)
  atoms : List RoutineAtomic
  amax : List (Nat × Word)
  flags : BitVec 4
  draws : Nat
  target : Option Dbl
  deriving DecidableEq, Repr

/-- How an emulation routine ends (R56): with its commit step; without success, with the destination registers of a speculative form, first and
number; or with a fault of the emulated instruction at an address. -/
inductive RoutineEnd where
  | commit (c : RoutineCommit)
  | failed (speculative : Option (Nat × Nat))
  | fault (code : Byte) (va : Dbl)
  deriving DecidableEq, Repr

/-- A trap that Beloft takes (R380): the die whose trap queue it reads and, where the trap binds a lazy function, the place it gives it. -/
structure TrapTake where
  die : Nat
  bind : Option LazyPlace
  deriving DecidableEq, Repr

/-- What RESUME gives a team (R56, R380): the PC that was written to its window, and the end of the routine that emulated its instruction. -/
structure Restart where
  pc : Option Dbl
  routine : Option RoutineEnd
  deriving DecidableEq, Repr

/-- A waiting group of a launch (R367, R374): its index in the launch or, of a command of a team, in that command's launch. -/
structure GroupName where
  child : Option Nat
  index : Nat
  deriving DecidableEq, Repr

/-- A packet that this device sent (R341): of a partition, to a destination, by its sequence number. -/
structure PacketName where
  part : Nat
  dest : Nat
  seq : Word
  deriving DecidableEq, Repr

/-- A range of HBM in bytes (R31). -/
structure HbmRange where
  base : Nat
  size : Nat
  deriving DecidableEq, Repr

/-- A page service (R388): the die whose management core holds it, and the partition of the page. -/
structure ServiceName where
  die : Nat
  part : Nat
  deriving DecidableEq, Repr

/-- Who asks for a pre-emption (R391). -/
inductive PreSource where
  | distributor | host | beloft
  deriving DecidableEq, Repr

/-- The instructions and events of the table of operations and events, each group in the table's order: words with operands,
words without, events. Hints la, lb and keep are R44 and R46. -/
inductive Instr where
  /-- SADD (R111). Scalar add: sd := sa + sb modulo 2^32. -/
  | sadd (sd sa sb : SReg)
  /-- SSUB (R111). Scalar subtract: sd := sa − sb modulo 2^32. -/
  | ssub (sd sa sb : SReg)
  /-- SMUL (R111). Scalar multiply: sd := bits 31:0 of sa·sb. -/
  | smul (sd sa sb : SReg)
  /-- SMULHI (R111). sd := bits 63:32 of the signed 64-bit product. -/
  | smulhi (sd sa sb : SReg)
  /-- SMULHN (R111). sd := bits 63:32 of the unsigned 64-bit product. -/
  | smulhn (sd sa sb : SReg)
  /-- SDIVI (R112). Signed quotient truncated towards zero, with defined division-by-zero and overflow results. -/
  | sdivi (sd sa sb : SReg)
  /-- SDIVN (R112). Unsigned quotient, with a defined division-by-zero result. -/
  | sdivn (sd sa sb : SReg)
  /-- SREMI (R112). Signed remainder with the sign of sa. -/
  | sremi (sd sa sb : SReg)
  /-- SREMN (R112). Unsigned remainder. -/
  | sremn (sd sa sb : SReg)
  /-- SAND (R111). sd := sa AND sb. -/
  | sand (sd sa sb : SReg)
  /-- SOR (R111). sd := sa OR sb. -/
  | sor (sd sa sb : SReg)
  /-- SXOR (R111). sd := sa XOR sb. -/
  | sxor (sd sa sb : SReg)
  /-- SSHL (R111). Left shift of sa by sb, 0 when sb ≥ 32. -/
  | sshl (sd sa sb : SReg)
  /-- SSHRN (R111). Logical right shift of sa by sb, 0 when sb ≥ 32. -/
  | sshrn (sd sa sb : SReg)
  /-- SSHRI (R111). Arithmetic right shift of sa by sb. -/
  | sshri (sd sa sb : SReg)
  /-- SMINI (R111). Signed minimum of sa and sb. -/
  | smini (sd sa sb : SReg)
  /-- SMINN (R111). Unsigned minimum of sa and sb. -/
  | sminn (sd sa sb : SReg)
  /-- SMAXI (R111). Signed maximum of sa and sb. -/
  | smaxi (sd sa sb : SReg)
  /-- SMAXN (R111). Unsigned maximum of sa and sb. -/
  | smaxn (sd sa sb : SReg)
  /-- SLTI (R111). sd := 1 if sa < sb signed, else 0. -/
  | slti (sd sa sb : SReg)
  /-- SLTN (R111). sd := 1 if sa < sb unsigned, else 0. -/
  | sltn (sd sa sb : SReg)
  /-- SEQ (R111). sd := 1 if sa = sb, else 0. -/
  | seq (sd sa sb : SReg)
  /-- SSEL (R111). sd := sa if the old sd is non-zero, else sb. -/
  | ssel (sd sa sb : SReg)
  /-- SADDI (R113). sd := sd + sign-extended imm16. -/
  | saddi (sd : SReg) (imm : BitVec 16)
  /-- SLI (R113). sd := sign-extended imm16. -/
  | sli (sd : SReg) (imm : BitVec 16)
  /-- SLIH (R113). sd := (imm16 << 16) OR sd bits 15:0. -/
  | slih (sd : SReg) (imm : BitVec 16)
  /-- SBITOP_POPC (R114). sd := number of set bits of sa. -/
  | sbitopPopc (sd sa : SReg)
  /-- SBITOP_CLZ (R114). sd := leading zeros of sa, 32 for zero. -/
  | sbitopClz (sd sa : SReg)
  /-- SBITOP_CTZ (R114). sd := trailing zeros of sa, 32 for zero. -/
  | sbitopCtz (sd sa : SReg)
  /-- SBITOP_BREV (R114). sd := sa with bit order reversed. -/
  | sbitopBrev (sd sa : SReg)
  /-- SBFX (R114). Extract a bit field of sa under the control word in sb. -/
  | sbfx (sd sa sb : SReg)
  /-- SBFI (R114). Insert the low bits of sa into a field of sd under the control word in sb. -/
  | sbfi (sd sa sb : SReg)
  /-- SADD64 (R115). 64-bit add of scalar pairs modulo 2^64. -/
  | sadd64 (sd sa sb : SReg)
  /-- MODE (R41). Sets the enabled fields of the mode register from an immediate. -/
  | mode (en : BitVec 5) (imm : BitVec 12)
  /-- MODES (R42). Sets the enabled fields of the mode register from scalar sa. -/
  | modes (en : BitVec 5) (sa : SReg)
  /-- MODEGET (R43). sd := the zero-extended mode register. -/
  | modeget (sd : SReg)
  /-- BRA (R120). Uniform unconditional branch by a 24-bit word offset. -/
  | bra (off : BitVec 24)
  /-- BANY (R120). Branch when some exec lane has its bit set in W(sa); raises cond poison. -/
  | bany (sa : SReg) (off : BitVec 16)
  /-- BALL (R120). Branch when every exec lane has its bit set in W(sa). -/
  | ball (sa : SReg) (off : BitVec 16)
  /-- BNONE (R120). Branch when no exec lane has its bit set in W(sa). -/
  | bnone (sa : SReg) (off : BitVec 16)
  /-- BSZ (R120). Branch when sa = 0. -/
  | bsz (sa : SReg) (off : BitVec 16)
  /-- BSNZ (R120). Branch when sa ≠ 0. -/
  | bsnz (sa : SReg) (off : BitVec 16)
  /-- BDIV (R125). Divergent branch running the taken lanes first, pushing join and path entries. -/
  | bdiv (tgt rcv : BitVec 12)
  /-- BDIVL (R125). Divergent branch running the fall-through lanes first. -/
  | bdivl (tgt rcv : BitVec 12)
  /-- CALL (R129). Pushes a call entry, sets RPC to none and continues at the target. -/
  | call (off : BitVec 24)
  /-- CALLS (R122). Calls the function at the 64-bit address in sa:sa+1. -/
  | calls (sa : SReg)
  /-- BRS (R122). Branches to the 64-bit address in sa:sa+1. -/
  | brs (sa : SReg)
  /-- LOOP (R130). Starts a counted loop of count sa over the body up to E. -/
  | loop (sa : SReg) (off : BitVec 16)
  /-- MOP_NOT (R118). W(sd) := NOT W(sa). -/
  | mopNot (sa sd : SReg)
  /-- MOP_AND (R118). W(sd) := W(sa) AND the cond window. -/
  | mopAnd (sa sd : SReg)
  /-- MOP_OR (R118). W(sd) := W(sa) OR the cond window. -/
  | mopOr (sa sd : SReg)
  /-- MOP_ANDN (R118). W(sd) := W(sa) AND NOT the cond window. -/
  | mopAndn (sa sd : SReg)
  /-- MOP_LOAD (R118). Exec window := W(sa), masked by the live mask. -/
  | mopLoad (sa : SReg)
  /-- MOP_SAVE (R118). W(sd) := the exec window. -/
  | mopSave (sd : SReg)
  /-- MOP_POPC (R118). sd := number of set bits in W(sa). -/
  | mopPopc (sa sd : SReg)
  /-- MOP_FIRST (R118). sd := lowest lane whose bit is set in W(sa), or 0xFFFF_FFFF. -/
  | mopFirst (sa sd : SReg)
  /-- MSAVE (R119). Saves the exec and cond windows to 2k scalars. -/
  | msave (sd : SReg)
  /-- MREST (R119). Restores the exec and cond windows from 2k scalars. -/
  | mrest (sa : SReg)
  /-- YIELD (R135). Makes the team youngest in its class and not ready for imm16 cycles. -/
  | yield (imm : BitVec 16)
  /-- PROBE (R136). Reads a register's full/empty bit without waiting. -/
  | probe (sd : SReg) (reg : BitVec 8) (vec : Bool)
  /-- BRK (R138). Parks the team for the host when debug is enabled, else no effect. -/
  | brk (imm : BitVec 16)
  /-- STKQ (R139). Reads divergence-stack, RPC, loop or live-mask state selected by SEL. -/
  | stkq (sd : SReg) (sel : BitVec 8)
  /-- VMOV (R147). vd := va, tag included, per active lane. -/
  | vmov (vd va : VReg) (la lb keep : Bool)
  /-- VMOVS (R147). vd := scalar sb, tag clear, per active lane. -/
  | vmovs (vd : VReg) (sb : SReg) (la keep : Bool)
  /-- VLI (R147). vd := sign-extended imm16. -/
  | vli (vd : VReg) (imm : BitVec 16)
  /-- VLIH (R147). vd := (imm16 << 16) OR vd bits 15:0. -/
  | vlih (vd : VReg) (imm : BitVec 16)
  /-- VAND (R147). Per-lane va AND vb. -/
  | vand (vd va vb : VReg) (la lb keep : Bool)
  /-- VOR (R147). Per-lane va OR vb. -/
  | vor (vd va vb : VReg) (la lb keep : Bool)
  /-- VXOR (R147). Per-lane va XOR vb. -/
  | vxor (vd va vb : VReg) (la lb keep : Bool)
  /-- VANDN (R147). Per-lane va AND NOT vb. -/
  | vandn (vd va vb : VReg) (la lb keep : Bool)
  /-- VSHL (R147). Per-lane left shift by vb. -/
  | vshl (vd va vb : VReg) (la lb keep : Bool)
  /-- VSHRN (R147). Per-lane logical right shift by vb. -/
  | vshrn (vd va vb : VReg) (la lb keep : Bool)
  /-- VSHRI (R147). Per-lane arithmetic right shift by vb. -/
  | vshri (vd va vb : VReg) (la lb keep : Bool)
  /-- VSHLI (R147). Per-lane left shift by immediate n. -/
  | vshli (vd va : VReg) (la : Bool) (n : BitVec 5)
  /-- VSHRNI (R147). Per-lane logical right shift by immediate n. -/
  | vshrni (vd va : VReg) (la : Bool) (n : BitVec 5)
  /-- VSHRII (R147). Per-lane arithmetic right shift by immediate n. -/
  | vshrii (vd va : VReg) (la : Bool) (n : BitVec 5)
  /-- VROT (R147). Per-lane rotate left by vb mod 32. -/
  | vrot (vd va vb : VReg) (la lb keep : Bool)
  /-- VBITOP_POPC (R147). Per-lane population count. -/
  | vbitopPopc (vd va : VReg) (la lb keep : Bool)
  /-- VBITOP_CLZ (R147). Per-lane count of leading zeros. -/
  | vbitopClz (vd va : VReg) (la lb keep : Bool)
  /-- VBITOP_CTZ (R147). Per-lane count of trailing zeros. -/
  | vbitopCtz (vd va : VReg) (la lb keep : Bool)
  /-- VBITOP_BREV (R147). Per-lane bit reversal. -/
  | vbitopBrev (vd va : VReg) (la lb keep : Bool)
  /-- VBFX (R147). Per-lane field extract of va under control word sb. -/
  | vbfx (vd va : VReg) (sb : SReg) (la keep : Bool)
  /-- VBFI (R147). Per-lane field insert of va into vd under control word sb. -/
  | vbfi (vd va : VReg) (sb : SReg) (la keep : Bool)
  /-- VPRMB (R148). Builds each result byte from a selector byte of vb. -/
  | vprmb (vd va vb : VReg) (la lb keep : Bool)
  /-- VSEL (R149). Selects va where cond is 1, else vb. -/
  | vsel (vd va vb : VReg) (la lb keep : Bool)
  /-- VADDA (R147). Per-lane integer add modulo 2^32. -/
  | vadda (vd va vb : VReg) (la lb keep : Bool)
  /-- VMADA (R147). Per-lane va·vb + vd modulo 2^32. -/
  | vmada (vd va vb : VReg) (la lb keep : Bool)
  /-- VADDA64 (R147). Per-lane 64-bit add of va pair and sign-extended vb. -/
  | vadda64 (vd va vb : VReg) (la lb keep : Bool)
  /-- VLANE (R150). Writes the lane index, in-beat index or beat number selected. -/
  | vlane (vd : VReg) (sel : BitVec 7) (la lb keep : Bool)
  /-- VSHFL (R153). Gathers va from the source lane given per lane by vb, writing cond. -/
  | vshfl (vd va vb : VReg) (la lb keep : Bool)
  /-- VSHFLI_XOR (R154). Gathers from lane L XOR c. -/
  | vshfliXor (vd va : VReg) (la : Bool) (c : BitVec 6)
  /-- VSHFLI_UP (R154). Gathers from lane L − c. -/
  | vshfliUp (vd va : VReg) (la : Bool) (c : BitVec 6)
  /-- VSHFLI_DOWN (R154). Gathers from lane L + c. -/
  | vshfliDown (vd va : VReg) (la : Bool) (c : BitVec 6)
  /-- VSHFLI_ROT (R154). Gathers by rotation within the beat. -/
  | vshfliRot (vd va : VReg) (la : Bool) (c : BitVec 6)
  /-- VBCAST (R155). Broadcasts va of lane sb to every active lane. -/
  | vbcast (vd va : VReg) (sb : SReg) (la keep : Bool)
  /-- VTEST (R151). Integer comparison of va and vb written to the cond window. -/
  | vtest (code : BitVec 7) (va vb : VReg) (la lb keep : Bool)
  /-- VPACK (R156). Packs the low w bits of n consecutive lanes into one lane. -/
  | vpack (vd va : VReg) (w : BitVec 7) (la lb keep : Bool)
  /-- VUNPK (R157). Unpacks sub-elements of width w into lanes. -/
  | vunpk (vd va : VReg) (la sx : Bool) (w : BitVec 6)
  /-- VTOS_IDX (R158). sb := va of lane old sb if valid. -/
  | vtosIdx (va : VReg) (sb : SReg) (la keep : Bool)
  /-- VTOS_FIRST (R158). sb := va of the lowest active lane. -/
  | vtosFirst (va : VReg) (sb : SReg) (la keep : Bool)
  /-- VTOS_LAST (R158). sb := va of the highest active lane. -/
  | vtosLast (va : VReg) (sb : SReg) (la keep : Bool)
  /-- VTOS_OR (R158). sb := OR of va over active lanes. -/
  | vtosOr (va : VReg) (sb : SReg) (la keep : Bool)
  /-- VTOS_AND (R158). sb := AND of va over active lanes. -/
  | vtosAnd (va : VReg) (sb : SReg) (la keep : Bool)
  /-- VTOS_ADD (R158). sb := sum of va over active lanes modulo 2^32. -/
  | vtosAdd (va : VReg) (sb : SReg) (la keep : Bool)
  /-- VTOS_MAXN (R158). sb := unsigned maximum of va over active lanes. -/
  | vtosMaxn (va : VReg) (sb : SReg) (la keep : Bool)
  /-- VTOS_MINN (R158). sb := unsigned minimum of va over active lanes. -/
  | vtosMinn (va : VReg) (sb : SReg) (la keep : Bool)
  /-- VADD (R164). Format add of sub-elements. -/
  | vadd (vd va vb : VReg) (la lb keep : Bool)
  /-- VSUB (R164). Format subtract. -/
  | vsub (vd va vb : VReg) (la lb keep : Bool)
  /-- VMUL (R164). Format multiply. -/
  | vmul (vd va vb : VReg) (la lb keep : Bool)
  /-- VFMA (R164). Fused a·b + d with one rounding. -/
  | vfma (vd va vb : VReg) (la lb keep : Bool)
  /-- VFMS (R164). Fused a·b − d with one rounding. -/
  | vfms (vd va vb : VReg) (la lb keep : Bool)
  /-- VFNMA (R164). Fused d − a·b with one rounding. -/
  | vfnma (vd va vb : VReg) (la lb keep : Bool)
  /-- VMIN (R165). Minimum of exact values with NaN rule. -/
  | vmin (vd va vb : VReg) (la lb keep : Bool)
  /-- VMAX (R165). Maximum of exact values with NaN rule. -/
  | vmax (vd va vb : VReg) (la lb keep : Bool)
  /-- VMINM (R165). Operand of smaller magnitude. -/
  | vminm (vd va vb : VReg) (la lb keep : Bool)
  /-- VMAXM (R165). Operand of larger magnitude. -/
  | vmaxm (vd va vb : VReg) (la lb keep : Bool)
  /-- VABS (R164). Exact encoding of |a|. -/
  | vabs (vd va : VReg) (la lb keep : Bool)
  /-- VNEG (R164). Exact encoding of −a. -/
  | vneg (vd va : VReg) (la lb keep : Bool)
  /-- VDIV (R168). a / b on the special-function path; vd empty until written. -/
  | vdiv (vd va vb : VReg) (la lb keep : Bool)
  /-- VSQRT (R168). Square root on the special-function path. -/
  | vsqrt (vd va : VReg) (la lb keep : Bool)
  /-- VRCP (R168). Reciprocal on the special-function path. -/
  | vrcp (vd va : VReg) (la lb keep : Bool)
  /-- VRSQ (R168). Reciprocal square root on the special-function path. -/
  | vrsq (vd va : VReg) (la lb keep : Bool)
  /-- VEXP2 (R168). 2^a on the special-function path. -/
  | vexp2 (vd va : VReg) (la lb keep : Bool)
  /-- VLOG2 (R168). log2 a on the special-function path. -/
  | vlog2 (vd va : VReg) (la lb keep : Bool)
  /-- VSIN (R168). sin(π·a) on the special-function path. -/
  | vsin (vd va : VReg) (la lb keep : Bool)
  /-- VCOS (R168). cos(π·a) on the special-function path. -/
  | vcos (vd va : VReg) (la lb keep : Bool)
  /-- VTANH (R168). tanh a on the special-function path. -/
  | vtanh (vd va : VReg) (la lb keep : Bool)
  /-- VCMP (R172). Format comparison combined over sub-elements and written to the cond window. -/
  | vcmp (code : BitVec 7) (va vb : VReg) (la lb keep : Bool)
  /-- VCLASS (R173). Sets cond where some sub-element's class is in the mask. -/
  | vclass (cmask : BitVec 7) (va : VReg) (la lb keep : Bool)
  /-- VCVT (R171). Converts between source slot S and destination slot SLOT, part P. -/
  | vcvt (vd va : VReg) (fs : BitVec 4) (p : BitVec 3) (la lb keep : Bool)
  /-- VRND (R167). Rounds to an integer under the effective rounding. -/
  | vrnd (vd va : VReg) (la lb keep : Bool)
  /-- VSCALB (R167). Encodes x·2^k with k an integer per lane in vb. -/
  | vscalb (vd va vb : VReg) (la lb keep : Bool)
  /-- VMULHI (R166). High half of the exact integer product. -/
  | vmulhi (vd va vb : VReg) (la lb keep : Bool)
  /-- VDOT (R175). Per-lane dot product over sub-elements added to a binary32 or int32 accumulator. -/
  | vdot (vd va vb : VReg) (la lb keep : Bool)
  /-- VQNT (R178). Packs scaled binary32 lane values into the slot. -/
  | vqnt (vd va : VReg) (sb : SReg) (la keep : Bool)
  /-- VDQNT (R179). Unpacks slot sub-elements to scaled binary32 lanes. -/
  | vdqnt (vd va : VReg) (sb : SReg) (la keep : Bool)
  /-- VREDADD (R176). Pairwise-tree sum over active elements broadcast to every active lane. -/
  | vredadd (vd va : VReg) (la lb keep : Bool)
  /-- VREDMAX (R176). Maximum over active elements broadcast. -/
  | vredmax (vd va : VReg) (la lb keep : Bool)
  /-- VREDMIN (R176). Minimum over active elements broadcast. -/
  | vredmin (vd va : VReg) (la lb keep : Bool)
  /-- VSCAN_ADD (R177). Inclusive left-to-right sum scan. -/
  | vscanAdd (vd va : VReg) (la lb keep : Bool)
  /-- VSCAN_ADDX (R177). Exclusive left-to-right sum scan. -/
  | vscanAddx (vd va : VReg) (la lb keep : Bool)
  /-- VSCAN_MAX (R177). Running maximum scan. -/
  | vscanMax (vd va : VReg) (la lb keep : Bool)
  /-- VSCAN_MIN (R177). Running minimum scan. -/
  | vscanMin (vd va : VReg) (la lb keep : Bool)
  /-- VSTAT (R180). Updates amax and flags from va's sub-elements without writing a register. -/
  | vstat (va : VReg) (la lb keep : Bool)
  /-- FDEF (R102). Loads a format definition from a scalar pair if valid. -/
  | fdef (n : BitVec 4) (sa : SReg)
  /-- FDEFI (R103). Loads a built-in format definition with PACK := P. -/
  | fdefi (n : BitVec 4) (pair : Bool) (idx : BitVec 8)
  /-- FGET (R104). Reads a format definition into a scalar pair. -/
  | fget (sd : SReg) (n : BitVec 4)
  /-- STGET (R105). Reads one statistics item after earlier statistics updates land. -/
  | stget (sd : SReg) (sel : BitVec 8)
  /-- STCLR (R106). Clears selected amax values and flags. -/
  | stclr (co cn ca c1 : Bool) (n : BitVec 4)
  /-- STSEED (R107). Sets the stochastic-rounding seed and clears SRCNT. -/
  | stseed (sa : SReg)
  /-- LD8 (R195). Plain 1-byte vector load, precise on failure. -/
  | ld8 (vd va : VReg) (sb : SReg) (la keep : Bool)
  /-- LD16 (R195). Plain 2-byte vector load. -/
  | ld16 (vd va : VReg) (sb : SReg) (la keep : Bool)
  /-- LD32 (R195). Plain 4-byte vector load. -/
  | ld32 (vd va : VReg) (sb : SReg) (la keep : Bool)
  /-- LD64 (R195). Plain 8-byte vector load into a pair. -/
  | ld64 (vd va : VReg) (sb : SReg) (la keep : Bool)
  /-- LD128 (R195). Plain 16-byte vector load into a quad. -/
  | ld128 (vd va : VReg) (sb : SReg) (la keep : Bool)
  /-- LDS8 (R196). Speculative 1-byte load; failures become poison. -/
  | lds8 (vd va : VReg) (sb : SReg) (la keep : Bool)
  /-- LDS16 (R196). Speculative 2-byte load. -/
  | lds16 (vd va : VReg) (sb : SReg) (la keep : Bool)
  /-- LDS32 (R196). Speculative 4-byte load. -/
  | lds32 (vd va : VReg) (sb : SReg) (la keep : Bool)
  /-- LDS64 (R196). Speculative 8-byte load. -/
  | lds64 (vd va : VReg) (sb : SReg) (la keep : Bool)
  /-- LDS128 (R196). Speculative 16-byte load. -/
  | lds128 (vd va : VReg) (sb : SReg) (la keep : Bool)
  /-- ST8 (R197). 1-byte vector store, all lanes or none. -/
  | st8 (vd va : VReg) (sb : SReg) (la keep : Bool)
  /-- ST16 (R197). 2-byte vector store. -/
  | st16 (vd va : VReg) (sb : SReg) (la keep : Bool)
  /-- ST32 (R197). 4-byte vector store. -/
  | st32 (vd va : VReg) (sb : SReg) (la keep : Bool)
  /-- ST64 (R197). 8-byte vector store from a pair. -/
  | st64 (vd va : VReg) (sb : SReg) (la keep : Bool)
  /-- ST128 (R197). 16-byte vector store from a quad. -/
  | st128 (vd va : VReg) (sb : SReg) (la keep : Bool)
  /-- LDB (R207). Plain load through a buffer record with conversion. -/
  | ldb (vd va : VReg) (sb : SReg) (la keep : Bool)
  /-- LDBS (R207). Speculative load through a buffer record. -/
  | ldbs (vd va : VReg) (sb : SReg) (la keep : Bool)
  /-- STB (R207). Store through a buffer record with encoding and scale computation. -/
  | stb (vd va : VReg) (sb : SReg) (la keep : Bool)
  /-- SLD32 (R201). Scalar 4-byte load made once for the team. -/
  | sld32 (sd sa sb : SReg)
  /-- SLD64 (R201). Scalar 8-byte load into a pair. -/
  | sld64 (sd sa sb : SReg)
  /-- SST32 (R201). Scalar 4-byte store. -/
  | sst32 (sd sa sb : SReg)
  /-- SST64 (R201). Scalar 8-byte store from a pair. -/
  | sst64 (sd sa sb : SReg)
  /-- CHK (R209). Raises a deferred fault when an active lane of va is poisoned or dead. -/
  | chk (va : VReg) (la lb keep : Bool)
  /-- CHKB (R210). Sends poisoned lanes to a recovery block with a join push. -/
  | chkb (vd : VReg) (off : BitVec 16)
  /-- PTEST (R211). Writes cond := poisoned-or-dead per active lane. -/
  | ptest (va : VReg) (la lb keep : Bool)
  /-- PCLR (R212). Clears poisoned or dead lanes of vd to 0. -/
  | pclr (vd : VReg) (la lb keep : Bool)
  /-- WAITP (R213). Sleeps until the named in-flight counter is at most sa. -/
  | waitp (path : BitVec 8) (sa : SReg)
  /-- PREF_L1 (R214). Prefetches lines to the L1. -/
  | prefL1 (va : VReg) (sb : SReg) (la keep : Bool)
  /-- PREF_L2 (R214). Prefetches lines to their home vault. -/
  | prefL2 (va : VReg) (sb : SReg) (la keep : Bool)
  /-- CFLUSH_WB (R215). Registers the team's unregistered stores of each line. -/
  | cflushWb (va : VReg) (sb : SReg) (la keep : Bool)
  /-- CFLUSH_INV (R215). Registers and then drops each line from the L1. -/
  | cflushInv (va : VReg) (sb : SReg) (la keep : Bool)
  /-- AADD (R234). Atomic add under AKIND per lane. -/
  | aadd (vd va vb : VReg) (la lb : Bool)
  /-- AMIN (R234). Atomic minimum under AKIND. -/
  | amin (vd va vb : VReg) (la lb : Bool)
  /-- AMAX (R234). Atomic maximum under AKIND. -/
  | amax (vd va vb : VReg) (la lb : Bool)
  /-- AAND (R234). Atomic AND. -/
  | aand (vd va vb : VReg) (la lb : Bool)
  /-- AOR (R234). Atomic OR. -/
  | aor (vd va vb : VReg) (la lb : Bool)
  /-- AXOR (R234). Atomic XOR. -/
  | axor (vd va vb : VReg) (la lb : Bool)
  /-- AXCH (R234). Atomic exchange. -/
  | axch (vd va vb : VReg) (la lb : Bool)
  /-- ACAS (R234). Atomic compare-and-swap with the pair vb:vb+1. -/
  | acas (vd va vb : VReg) (la lb : Bool)
  /-- BAR (R240). Arrives at a barrier of P parties on a synchronisation word, sleeping until the generation completes. -/
  | bar (sd sa sb : SReg)
  /-- SEMSIG (R238). Signals a synchronisation word by sb without a generation test, granting waiters. -/
  | semsig (sa sb : SReg)
  /-- SEMSIG_GEN (R238). Signals a word only when its GEN equals sg, else drops and counts an orphan. -/
  | semsigGen (sg sa sb : SReg)
  /-- SEMWAIT (R239). Requests sb units and sleeps until the home grants them in age order. -/
  | semwait (sd sa sb : SReg)
  /-- RGARR (R243). Adds arrivals to a stage-ring slot, flipping phase and waking waiters. -/
  | rgarr (sa sb : SReg)
  /-- RGWAIT (R244). Sleeps until a stage-ring slot's phase equals bit 0 of sb. -/
  | rgwait (sd sa sb : SReg)
  /-- SIGX (R246). Sets queue wake bits or appends a message to the management-core mailbox. -/
  | sigx (sa sb : SReg)
  /-- SAOP_ADD (R236). Scalar atomic add. -/
  | saopAdd (sa sd : SReg)
  /-- SAOP_MINI (R236). Scalar atomic signed minimum. -/
  | saopMini (sa sd : SReg)
  /-- SAOP_MINN (R236). Scalar atomic unsigned minimum. -/
  | saopMinn (sa sd : SReg)
  /-- SAOP_MAXI (R236). Scalar atomic signed maximum. -/
  | saopMaxi (sa sd : SReg)
  /-- SAOP_MAXN (R236). Scalar atomic unsigned maximum. -/
  | saopMaxn (sa sd : SReg)
  /-- SAOP_AND (R236). Scalar atomic AND. -/
  | saopAnd (sa sd : SReg)
  /-- SAOP_OR (R236). Scalar atomic OR. -/
  | saopOr (sa sd : SReg)
  /-- SAOP_XOR (R236). Scalar atomic XOR. -/
  | saopXor (sa sd : SReg)
  /-- SAOP_XCH (R236). Scalar atomic exchange. -/
  | saopXch (sa sd : SReg)
  /-- SAOP_CAS (R236). Scalar atomic compare-and-swap returning old value and swap flag. -/
  | saopCas (sa sd : SReg)
  /-- XCOPY (R264). Copies V rows between windows on the column copy engine. -/
  | xcopy (sd sa sb : SReg)
  /-- XEXP (R269). Expands LZ4-compressed 4 KiB chunks. -/
  | xexp (sd sa sb : SReg)
  /-- XFILL (R265). Fills V rows with a 64-bit pattern. -/
  | xfill (sd sa sb : SReg)
  /-- XGATH (R267). Gathers table rows by an index list in scratchpad. -/
  | xgath (sd sa sb : SReg)
  /-- XTRN (R266). Transposes the two innermost dimensions of batched matrices. -/
  | xtrn (sd sa sb : SReg)
  /-- LAYIC (R270). Forms an im2col matrix into vault-absolute memory on the die layout engine. -/
  | layic (sd sa sb : SReg)
  /-- XCANCEL (R271). Cancels the team's pending copy and layout commands with status t, or all when t = 0. -/
  | xcancel (sd st : SReg)
  /-- MMA (R285). Multiplies a register A block by memory B segments into accumulator tiles. -/
  | mma (tile : BitVec 7) (va : VReg) (j : BitVec 5) (ra la ovw : Bool)
  /-- MMAL (R291). Runs a K-step matrix loop with A and B read from memory. -/
  | mmal (sd sa sb : SReg)
  /-- MMAW4 (R290). G7-compatible MMA of bfloat16 A by expanded 4-bit weights. -/
  | mmaw4 (tile : BitVec 7) (va : VReg) (j : BitVec 5) (ra la ovw : Bool)
  /-- MFMT (R280). Sets the matrix format mode MXM. -/
  | mfmt (imm : BitVec 16)
  /-- ACALLOC (R293). Maps a run of c accumulator tiles from the core pool or returns 0xFFFF_FFFF. -/
  | acalloc (sd sa : SReg)
  /-- ACFREE (R293). Unmaps tile indices, returning tiles to the pool after earlier commands. -/
  | acfree (sa sb : SReg)
  /-- ACZERO (R293). Zeroes tiles and clears their tags in acceptance order. -/
  | aczero (sa sb : SReg)
  /-- ACLOAD (R294). Loads tiles from FP32 words in memory. -/
  | acload (sd sa sb : SReg)
  /-- ACREAD (R295). Moves tile slices into vector registers. -/
  | acread (vd : VReg) (sb : SReg) (la keep : Bool)
  /-- ACDRAIN (R296). Runs bias, activation, requantisation and packing over tiles. -/
  | acdrain (sd sa sb : SReg)
  /-- ATLOAD (R301). Fills the inactive bank of an activation table and makes it active. -/
  | atload (sd sa : SReg)
  /-- GMASK (R313). Writes the legal-token mask for the SCB's grammar state. -/
  | gmask (sd sa : SReg)
  /-- GADV (R314). Advances the grammar automaton by a token. -/
  | gadv (sd sa : SReg)
  /-- SAMPLE (R315). Chooses a token from logits by bit-exact weights, top-k, top-p and a draw. -/
  | sample (sd sa sb : SReg)
  /-- ROUTE (R319). Chooses k experts and their weights, optionally logging them in the SCB. -/
  | route (sd sa : SReg)
  /-- EMIT (R323). Journals an OPEN, STEP or CLOSE record to the partner. -/
  | emit (sd sa : SReg)
  /-- JTRUNC (R330). Sends a TRUNC record releasing journal records up to step s. -/
  | jtrunc (sd sa : SReg)
  /-- JREPLAY (R331). Rebuilds a failed device's sequence from the journal held here. -/
  | jreplay (sd sa : SReg)
  /-- JSTAT (R334). Reports journal and partner state selected by P0. -/
  | jstat (sd sa : SReg)
  /-- RSIG (R345). Signals a synchronisation word at a peer without a generation test. -/
  | rsig (sa sb : SReg)
  /-- RSIG_GEN (R345). Signals a peer word only under a matching generation. -/
  | rsigGen (sg sa sb : SReg)
  /-- COLL (R348). Runs one participant's share of a collective over a reduction tree. -/
  | coll (sd sa sb : SReg)
  /-- PEERQ (R347). Asks the local router about a peer or port. -/
  | peerq (sd sa sb : SReg)
  /-- TRAP (R389). Enters Beloft deliberately with CAUSE 0x13 and the given code. -/
  | trap (imm : BitVec 16)
  /-- PWREQ (R400). Requests u power units for the team's reservation. -/
  | pwreq (sd sa : SReg)
  /-- PWREL (R400). Returns power units from the team's reservation. -/
  | pwrel (sa : SReg)
  /-- TASKQ (R374). Adds groups of a child record to the issuing group's launch. -/
  | taskq (sd sa sb : SReg)
  /-- LAUNCH (R373). Submits a launch record as if accepted on queue P2. -/
  | launch (sd sa : SReg)
  /-- CLKRD (R376). Reads the quadrant cycle count or the die reference time into a pair. -/
  | clkrd (sd : SReg) (sel : BitVec 8)
  /-- SRD (R375). Reads a special register into sd. -/
  | srd (sd : SReg) (num : BitVec 16)
  /-- SWR (R375). Writes a writable special register from sa with value checks. -/
  | swr (sa : SReg) (num : BitVec 16)
  /-- RET (R129). Pops the top call entry and returns; ILLEGAL when the top is not a call entry. -/
  | ret
  /-- KILL (R133). Clears the live and exec bits of every active lane, popping or exiting when none remains. -/
  | kill
  /-- EXIT (R134). Ends the team; it leaves the quadrant once its accesses and handed releases are performed. -/
  | exit
  /-- IFENCE (R137). Waits for the team's copy commands, performs a full fence and invalidates fetched code. -/
  | ifence
  /-- FENCE_ACQ (R230). Waits for earlier loads and atomics, then acquires. -/
  | fenceAcq
  /-- FENCE_REL (R230). A release; the team sleeps until it is performed. -/
  | fenceRel
  /-- FENCE_FULL (R230). fence.rel followed by fence.acq. -/
  | fenceFull
  /-- PMASK (R392). Increments PMCOUNT, deferring pre-emption requests. -/
  | pmask
  /-- PUNMASK (R392). Decrements PMCOUNT; a deferred request may then be taken. -/
  | punmask
  /-- SFU_RESULT_WRITTEN (R170). The last beat of a special-function instruction is written, vd fills and its statistics update lands. -/
  | sfuResultWritten (op : Nat)
  /-- LOAD_DATA_RETURN (R47). A load's data or poison returns and fills its destination, or a failure reported with returning data leaves it empty. -/
  | loadDataReturn (op : Nat) (ret : LoadReturn)
  /-- STORE_PERFORMED (R218). A store registers at its home or is acknowledged by the peer, taking ownership. -/
  | storePerformed (op : Nat) (unit : Nat) (fail : Option ReturnFail)
  /-- L1_LINE_EVICTION (R218). A line leaves the L1 and its unregistered stores register. -/
  | l1LineEviction (core : Nat) (line : Nat)
  /-- ATOMIC_APPLIED (R224). An atomic is applied indivisibly at owner or home and its old values return to vd. -/
  | atomicApplied (op : Nat) (ret : AtomReturn)
  /-- ENGINE_COMMAND_START (R245). A queued engine command begins once conflicting earlier commands complete and its issue release is performed. -/
  | engineCommandStart (op : Nat)
  /-- COPY_COMMAND_COMPLETION (R259). A copy or layout command ends: writes registered, locks released, status filled as the team's acquire. -/
  | copyCommandCompletion (op : Nat) (fin : EngineEnd)
  /-- MATRIX_COMMAND_COMPLETION (R275). An accepted matrix command completes; tiles or registers are written and any status fills. -/
  | matrixCommandCompletion (op : Nat) (fin : EngineEnd)
  /-- GRAMMAR_UNIT_COMPLETION (R306). A GMASK or GADV completes at the grammar unit and writes its status. -/
  | grammarUnitCompletion (op : Nat)
  /-- GENERATION_UNIT_COMPLETION (R306). A SAMPLE or ROUTE completes at the generation unit and writes its status. -/
  | generationUnitCompletion (op : Nat)
  /-- JOURNAL_ACK_RECEIVED (R324). The partner's durable acknowledgement arrives and the record's SCB, result-buffer and status effects land. -/
  | journalAckReceived (op : Nat)
  /-- JOURNAL_RECORD_RECEIVED (R325). A journal record arrives at the partner, is written and registered, and is acknowledged. -/
  | journalRecordReceived (rec : JRecord)
  /-- HEARTBEAT_SEND (R32). Every 10 µs a heartbeat is sent on the partner journal port. -/
  | heartbeatSend
  /-- HEARTBEAT_RECEIVED (R32). A heartbeat from the partner arrives and resets the missed-interval count. -/
  | heartbeatReceived
  /-- PARTNER_LOST (R327). Three heartbeat intervals pass without a heartbeat; the partner is declared lost and POLICY governs pending commands. -/
  | partnerLost
  /-- RESYNCHRONISATION_COMPLETE (R328). Every resent tail record is acknowledged by the new partner and waiting commands proceed. -/
  | resynchronisationComplete
  /-- ROUTER_ANSWER (R347). The router's answer to PEERQ is written and sd fills. -/
  | routerAnswer (op : Nat)
  /-- COLL_COMPLETION (R352). Collective participants complete together, results written and statuses filled. -/
  | collCompletion (cid : Dbl) (sq : Word) (shares : List RemoteShare) (fin : EngineEnd)
  /-- PEER_PACKET_ARRIVAL (R338). A packet from another device arrives and its operations are performed in sequence order at the word's home. -/
  | peerPacketArrival (pkt : PeerPacket)
  /-- FABRIC_ACK_ARRIVAL (R342). A cumulative acknowledgement raises ACKED(d) at the source router. -/
  | fabricAckArrival (part : Nat) (dest : Nat) (count : Nat)
  /-- RETRANSMIT_TIMEOUT (R344). A packet unacknowledged for 20 µs is retransmitted on another path or port. -/
  | retransmitTimeout (packet : PacketName)
  /-- FLIT_ARRIVAL (R357). A direct-mode flit arrives; reserved types or failing tags are dropped and counted or retried. -/
  | flitArrival (port : Nat) (flit : Flit)
  /-- LINK_LANE_FAILURE (R359). Lanes of a link fail and it continues degraded, a journal port moving to NRZ first. -/
  | linkLaneFailure (port : Nat) (persist : Bool)
  /-- LINK_KEY_LIMIT (R358). A link's flit counter reaches 2^48 under one key and the link stops sending until a new key is installed. -/
  | linkKeyLimit (port : Nat)
  /-- PWREQ_GRANT (R399). The governor grants a queued PWREQ request and sd fills GRANTED. -/
  | pwreqGrant (op : Nat)
  /-- PWREQ_TIMEOUT (R400). A request at the head of the queue for 1 ms ends TIMEOUT. -/
  | pwreqTimeout (op : Nat)
  /-- POWER_PERMIT_GRANT (R399). A command's permit ask is granted from the floor or free units and the command may begin. -/
  | powerPermitGrant (op : Nat)
  /-- DIE_HOT_THRESHOLD (R399). A die reaches its hot threshold and the governor stops new grants. -/
  | dieHotThreshold (die : Nat)
  /-- DIE_CRITICAL_THRESHOLD (R399). A die reaches its critical threshold; the governor reports and removes package power. -/
  | dieCriticalThreshold (die : Nat)
  /-- CLKRD_ANSWER (R376). The clock value is written and the pair fills. -/
  | clkrdAnswer (op : Nat)
  /-- ILLEGAL_OPCODE (R53). A word with primary opcode 0x00 or 0xFF takes a precise ILLEGAL fault. -/
  | illegalOpcode
  /-- RESERVED_OPCODE_PARK (R55). A reserved opcode or form parks the team for the emulation path. -/
  | reservedOpcodePark
  /-- DIVERGENCE_POP (R124). When the PC equals RPC the team pops the divergence stack before issuing. -/
  | divergencePop
  /-- TEAM_PROMOTION (R372). A ready team not issued for 1,024 cycles enters the top scheduling class. -/
  | teamPromotion (slot : Nat)
  /-- YIELD_EXPIRY (R135). The imm16 cycles of a YIELD pass and the team becomes ready again. -/
  | yieldExpiry (slot : Nat)
  /-- TEAM_LEAVE_QUADRANT (R134). An exited team leaves once its accesses, commands and handed releases are performed; the last team's exit ends the group. -/
  | teamLeaveQuadrant (slot : Nat)
  /-- GROUP_COMMIT (R249). An exited group that is oldest commits its held stores and deferred atomics in ply order. -/
  | groupCommit (gid : Nat)
  /-- LAUNCH_START (R247). An accepted launch starts once handle ordering allows, after the record checks. -/
  | launchStart (lid : Nat)
  /-- GROUP_PLACEMENT (R368). The distributor places a group on a core where all resource conditions hold. -/
  | groupPlacement (lid : Nat) (group : GroupName) (core : Nat) (quads : List Nat)
  /-- QUEUE_LAUNCH (R365). A LAUNCH queue entry is accepted. -/
  | queueLaunch (part : Nat) (queue : Nat)
  /-- QUEUE_DRAIN (R365). A DRAIN entry is accepted once the queue's earlier launches complete. -/
  | queueDrain (part : Nat) (queue : Nat)
  /-- QUEUE_WRITE (R365). A WRITE entry writes VALUE at ADDR as a release after earlier launches complete. -/
  | queueWrite (part : Nat) (queue : Nat)
  /-- QUEUE_WAITWAKE (R365). A WAITWAKE entry is accepted once wake AND VALUE ≠ 0 and clears those bits. -/
  | queueWaitwake (part : Nat) (queue : Nat)
  /-- QUEUE_NOP (R365). A NOP entry is accepted. -/
  | queueNop (part : Nat) (queue : Nat)
  /-- QUEUE_ENTRY_SKIPPED (R365). An entry with a reserved OP or field is skipped and the queue's error count rises. -/
  | queueEntrySkipped (part : Nat) (queue : Nat)
  /-- PREEMPTION_REQUEST (R393). A pre-emption request reaches the group's core and is taken, deferred or waits on handlers. -/
  | preemptionRequest (gid : Nat) (src : PreSource)
  /-- MASK_WATCHDOG_EXPIRY (R394). The 2 ms watchdog of a deferred request expires and the partition swaps out. -/
  | maskWatchdogExpiry (gid : Nat)
  /-- HANDLER_WATCHDOG_EXPIRY (R394). The 200 µs handler watchdog expires and the partition swaps out. -/
  | handlerWatchdogExpiry (gid : Nat)
  /-- PARTITION_RESTORE (R396). The partition's saved state is reloaded and held grants, statuses and wakes delivered. -/
  | partitionRestore (part : Nat)
  /-- TRAP_QUEUE_TAKE (R380). Beloft takes a trap-queue entry and the team enters its handler. -/
  | trapQueueTake (take : TrapTake)
  /-- CTRL_RESUME (R380). RESUME returns the team to its scheduler at the window's PC. -/
  | ctrlResume (slot : Nat) (how : Restart)
  /-- CTRL_KILL (R380). KILL kills the group without re-queue. -/
  | ctrlKill (slot : Nat)
  /-- CTRL_DETACH (R380). DETACH ends the handler and leaves the team awaiting service. -/
  | ctrlDetach (slot : Nat)
  /-- TEAM_STATE_WINDOW_WRITE (R383). A write to the team-state window edits team state under its rules or is ignored and counted. -/
  | teamStateWindowWrite (die : Nat) (addr : Nat) (wide : Bool) (value : Dbl)
  /-- PAGE_SERVICE_COMPLETE (R388). Beloft registers the leaf and resumes every detached team and waiting engine. -/
  | pageServiceComplete (service : ServiceName) (va : Dbl) (leaf : Dbl)
  /-- PAGE_SERVICE_REFUSAL (R388). Beloft refuses the page; the groups are killed and engine commands fail NOT_PRESENT. -/
  | pageServiceRefusal (service : ServiceName) (va : Dbl)
  /-- CORE_UNCORRECTABLE_ERROR (R397). An uncorrectable error in register file, scratchpad or accumulator kills or re-queues the holding group. -/
  | coreUncorrectableError (err : CoreError)
  /-- MEMORY_UNCORRECTABLE_ERROR (R193). An uncorrectable error marks the failing 32-byte sector poisoned. -/
  | memoryUncorrectableError (key : Nat)
  /-- POWER_UP (R404). Boot ROM loads and checks the Beloft and configuration images and records their digests. -/
  | powerUp
  /-- FUNCTION_READY (R406). A function passes self-test and sets its READY bit. -/
  | functionReady (bit : Nat)
  /-- BOOT_IMAGE_LOAD (R405). The host loads a new image over CXL and writes it to boot flash. -/
  | bootImageLoad (kind : ImageKind) (image : BootImage)
  /-- ATTESTATION_REQUEST (R407). Beloft returns a signed attestation report for a nonce. -/
  | attestationRequest (nonce : List Byte)
  /-- POWERCTL_WRITE (R402). The host writes die capacities and the package ceiling, or the write is ignored and counted. -/
  | powerctlWrite (value : Dbl)
  /-- REFERENCE_TIME_WRITE (R376). The host writes the current time, towards which management cores steer. -/
  | referenceTimeWrite (value : Dbl)
  /-- SET_VAULT_SPLIT (R185). Sets a vault's directly addressed part D, refused when limits are broken. -/
  | setVaultSplit (vault : Nat) (d : Nat)
  /-- SET_SHADOW_STORAGE (R185). Enables or disables shadow storage on a die, refused when limits are broken. -/
  | setShadowStorage (die : Nat) (enable : Bool)
  /-- SET_PARTITION_COLUMNS (R370). Assigns columns to a partition while none of its groups is resident. -/
  | setPartitionColumns (part : Nat) (columns : Dbl)
  /-- SET_HBM_SHARE (R370). Sets a partition's HBM share. -/
  | setHbmShare (part : Nat) (range : HbmRange)
  /-- SET_DETERMINISTIC_MODE (R31). Sets deterministic mode for a partition. -/
  | setDeterministicMode (part : Nat) (enable : Bool)
  /-- SET_DEBUG (R138). Enables or disables debug for a partition. -/
  | setDebug (part : Nat) (enable : Bool)
  /-- QUEUE_CREATE (R365). System software creates a command queue with a priority. -/
  | queueCreate (part : Nat) (queue : Nat) (prio : Nat)
  /-- WAKE_BITS_WRITE (R365). The host sets wake bits of a queue. -/
  | wakeBitsWrite (part : Nat) (queue : Nat) (bits : Word)
  /-- PARTNER_ASSIGN (R328). Assigns a journal partner, starting resynchronisation of both tails. -/
  | partnerAssign (dev : Nat)
  /-- CASTLING_CANDIDATE_NAME (R32). Names the castling candidate on the second journal port. -/
  | castlingCandidateName (dev : Nat)
  /-- JOURNAL_CAPACITY_SET (R325). Sets the journal region capacity before a partner is assigned. -/
  | journalCapacitySet (mib : Nat)
  /-- DEVICE_FENCE (R329). System software declares a device failed and fences it, enabling JREPLAY of its journal. -/
  | deviceFence (dev : Nat)
  /-- LINK_KEY_INSTALL (R358). Installs a key into a link's write-only key slot. -/
  | linkKeyInstall (port : Nat) (kslot : Nat) (key : Nat)
  /-- UNREACHABLE_CLEAR (R344). Clears a destination's unreachable declaration. -/
  | unreachableClear (dest : Nat)
  /-- COLLECTIVE_ABORT (R352). System software aborts a collective and participants end CANCELLED. -/
  | collectiveAbort (cid : Dbl) (sq : Word)
  /-- PAGE_TABLE_ROOT_SET (R386). Sets a partition's page-table root. -/
  | pageTableRootSet (part : Nat) (root : Dbl)
  /-- TLB_INVALIDATION (R387). Invalidates leaf entries so later accesses use the new entry. -/
  | tlbInvalidation (part : Nat) (va : Dbl)
  /-- COLLECTIVE_LOG_BASE_SET (R354). Sets the collective-log base. -/
  | collectiveLogBaseSet (part : Nat) (base : Dbl)
  /-- TSW_BASE_SET (R382). Beloft sets the team-state area base. -/
  | tswBaseSet (die : Nat) (base : Dbl)
  /-- RESTORE_WRITE (R396). The host or Beloft writes a restore for a swapped-out partition. -/
  | restoreWrite (part : Nat) (src : PreSource)
  /-- HOST_PREEMPTION_REQUEST (R391). The host or Beloft requests pre-emption of a group. -/
  | hostPreemptionRequest (gid : Nat)
  /-- LAUNCH_CANCEL (R366). The host cancels a launch, which ends CANCELLED. -/
  | launchCancel (lid : Nat)
  /-- CODE_OBJECT_LOAD (R72). The command processor loads and places a code object or rejects it. -/
  | codeObjectLoad (placing : ObjectPlacing)
  /-- HOST_CXL_MEM_ACCESS (R403). A host access to HBM over CXL.mem is performed at the word's home. -/
  | hostCxlMemAccess (key : Nat) (write : Option (List Byte)) (size : Nat)
  /-- STATUS_PAGE_UPDATE (R410). Beloft rewrites the partition status page with a release at least every 100 µs. -/
  | statusPageUpdate (part : Nat)
  /-- MANAGEMENT_REGISTER_WRITE (R409). A write to a management-interface register without its own row, refused while R370 forbids it. -/
  | managementRegisterWrite (reg : MgmtWrite)
  /-- HOT_THRESHOLD_CLEARED (R399). A die's temperature falls below its hot threshold and the governor resumes making grants. -/
  | hotThresholdCleared (die : Nat)
  /-- TLB_INVALIDATION_COMPLETE (R387). An invalidation made through the management interface completes, after which every later access uses the new leaf entry. -/
  | tlbInvalidationComplete (part : Nat) (va : Dbl)
  /-- LINK_RETRAINING_COMPLETE (R359). A link's line-mode change or retraining ends, and the port runs at its new mode or is left down. -/
  | linkRetrainingComplete (port : Nat) (up : Bool)
  deriving DecidableEq, Repr

end Sys2Proof
end

