-- ==== Sys2Proof/WellFormed.lean ====
section
/-! DEFINITION. The static checks of R37, R41 and R54: what a word's fields must meet whatever the team's state. The checks that
depend on the team (its declared registers, its beats, the definitions of its slots) are in Sys2Proof/Machine/Operands.lean. -/

namespace Sys2Proof

/-- A field that names a 64-bit operand is even (R37). -/
def even {w : Nat} (x : BitVec w) : Bool := x.toNat % 2 == 0
/-- A field that names a 128-bit operand is a multiple of 4 (R37). -/
def quad {w : Nat} (x : BitVec w) : Bool := x.toNat % 4 == 0
/-- The X parameter-block field is a multiple of 8 (R37). -/
def block (x : SReg) : Bool := x.toNat % 8 == 0
/-- An enabled field of MODE holds no reserved code: RND 7, GUARD 3 (R41). -/
def modeOk (en : BitVec 5) (imm : BitVec 12) : Bool :=
  !(en.getLsbD 1 && imm.extractLsb' 4 3 == 7) && !(en.getLsbD 3 && imm.extractLsb' 8 2 == 3)
/-- The offset of LOOP is at least 1 (R130). -/
def loopOk (off : BitVec 16) : Bool := decide (1 ≤ off.toInt)
/-- The selectors of STKQ (R139). -/
def stkqOk (sel : BitVec 8) : Bool := decide (sel.toNat ≤ 6 ∨ (0x20 ≤ sel.toNat ∧ sel.toNat ≤ 0x3F))
/-- A width of VPACK and VUNPK is 1 to 32 (R156, R157). -/
def widthOk {n : Nat} (w : BitVec n) : Bool := decide (1 ≤ w.toNat ∧ w.toNat ≤ 32)
/-- AFMT and BFMT of MFMT are 0 to 6 (R280). -/
def mfmtOk (imm : BitVec 16) : Bool := decide ((imm.extractLsb' 0 4).toNat < 7 ∧ (imm.extractLsb' 4 4).toNat < 7)
/-- The special registers SRD reads (R375). -/
def readableNumbers : List (BitVec 16) :=
  [0, 1, 2, 3, 4, 5, 6, 7, 8, 9, 0x10, 0x11, 0x12, 0x13, 0x14, 0x15, 0x16, 0x17, 0x18, 0x19, 0x1A, 0x1B, 0x1C, 0x1D, 0x1E,
   0x1F, 0x20, 0x21, 0x22, 0x23, 0x24, 0x25]
/-- The special registers SWR writes: AKIND, BRTABLO, BRTABHI (R375). -/
def writableNumbers : List (BitVec 16) := [8, 0x22, 0x23]

/-- The static field checks of an instruction (R37, R54). An event has no fields of a word. -/
def Instr.wf : Instr → Bool
  | .sadd _ _ _ => true
  | .ssub _ _ _ => true
  | .smul _ _ _ => true
  | .smulhi _ _ _ => true
  | .smulhn _ _ _ => true
  | .sdivi _ _ _ => true
  | .sdivn _ _ _ => true
  | .sremi _ _ _ => true
  | .sremn _ _ _ => true
  | .sand _ _ _ => true
  | .sor _ _ _ => true
  | .sxor _ _ _ => true
  | .sshl _ _ _ => true
  | .sshrn _ _ _ => true
  | .sshri _ _ _ => true
  | .smini _ _ _ => true
  | .sminn _ _ _ => true
  | .smaxi _ _ _ => true
  | .smaxn _ _ _ => true
  | .slti _ _ _ => true
  | .sltn _ _ _ => true
  | .seq _ _ _ => true
  | .ssel _ _ _ => true
  | .saddi _ _ => true
  | .sli _ _ => true
  | .slih _ _ => true
  | .sbitopPopc _ _ => true
  | .sbitopClz _ _ => true
  | .sbitopCtz _ _ => true
  | .sbitopBrev _ _ => true
  | .sbfx _ _ _ => true
  | .sbfi _ _ _ => true
  | .sadd64 sd sa sb => even sd && even sa && even sb
  | .mode en imm => modeOk en imm
  | .modes _ _ => true
  | .modeget _ => true
  | .bra _ => true
  | .bany _ _ => true
  | .ball _ _ => true
  | .bnone _ _ => true
  | .bsz _ _ => true
  | .bsnz _ _ => true
  | .bdiv _ _ => true
  | .bdivl _ _ => true
  | .call _ => true
  | .calls sa => even sa
  | .ret => true
  | .brs sa => even sa
  | .loop _ off => loopOk off
  | .mopNot _ _ => true
  | .mopAnd _ _ => true
  | .mopOr _ _ => true
  | .mopAndn _ _ => true
  | .mopLoad _ => true
  | .mopSave _ => true
  | .mopPopc _ _ => true
  | .mopFirst _ _ => true
  | .msave _ => true
  | .mrest _ => true
  | .kill => true
  | .exit => true
  | .yield _ => true
  | .probe _ _ _ => true
  | .ifence => true
  | .brk _ => true
  | .stkq _ sel => stkqOk sel
  | .vmov _ _ _ _ _ => true
  | .vmovs _ _ _ _ => true
  | .vli _ _ => true
  | .vlih _ _ => true
  | .vand _ _ _ _ _ _ => true
  | .vor _ _ _ _ _ _ => true
  | .vxor _ _ _ _ _ _ => true
  | .vandn _ _ _ _ _ _ => true
  | .vshl _ _ _ _ _ _ => true
  | .vshrn _ _ _ _ _ _ => true
  | .vshri _ _ _ _ _ _ => true
  | .vshli _ _ _ _ => true
  | .vshrni _ _ _ _ => true
  | .vshrii _ _ _ _ => true
  | .vrot _ _ _ _ _ _ => true
  | .vbitopPopc _ _ _ _ _ => true
  | .vbitopClz _ _ _ _ _ => true
  | .vbitopCtz _ _ _ _ _ => true
  | .vbitopBrev _ _ _ _ _ => true
  | .vbfx _ _ _ _ _ => true
  | .vbfi _ _ _ _ _ => true
  | .vprmb _ _ _ _ _ _ => true
  | .vsel _ _ _ _ _ _ => true
  | .vadda _ _ _ _ _ _ => true
  | .vmada _ _ _ _ _ _ => true
  | .vadda64 vd va _ _ _ _ => even vd && even va
  | .vlane _ sel _ _ _ => decide (sel.toNat < 3)
  | .vshfl _ _ _ _ _ _ => true
  | .vshfliXor _ _ _ _ => true
  | .vshfliUp _ _ _ _ => true
  | .vshfliDown _ _ _ _ => true
  | .vshfliRot _ _ _ _ => true
  | .vbcast _ _ _ _ _ => true
  | .vtest code _ _ _ _ _ => decide (code.toNat < 8)
  | .vpack _ _ w _ _ _ => widthOk w
  | .vunpk _ _ _ _ w => widthOk w
  | .vtosIdx _ _ _ _ => true
  | .vtosFirst _ _ _ _ => true
  | .vtosLast _ _ _ _ => true
  | .vtosOr _ _ _ _ => true
  | .vtosAnd _ _ _ _ => true
  | .vtosAdd _ _ _ _ => true
  | .vtosMaxn _ _ _ _ => true
  | .vtosMinn _ _ _ _ => true
  | .vadd _ _ _ _ _ _ => true
  | .vsub _ _ _ _ _ _ => true
  | .vmul _ _ _ _ _ _ => true
  | .vfma _ _ _ _ _ _ => true
  | .vfms _ _ _ _ _ _ => true
  | .vfnma _ _ _ _ _ _ => true
  | .vmin _ _ _ _ _ _ => true
  | .vmax _ _ _ _ _ _ => true
  | .vminm _ _ _ _ _ _ => true
  | .vmaxm _ _ _ _ _ _ => true
  | .vabs _ _ _ _ _ => true
  | .vneg _ _ _ _ _ => true
  | .vdiv _ _ _ _ _ _ => true
  | .vsqrt _ _ _ _ _ => true
  | .vrcp _ _ _ _ _ => true
  | .vrsq _ _ _ _ _ => true
  | .vexp2 _ _ _ _ _ => true
  | .vlog2 _ _ _ _ _ => true
  | .vsin _ _ _ _ _ => true
  | .vcos _ _ _ _ _ => true
  | .vtanh _ _ _ _ _ => true
  | .vcmp code _ _ _ _ _ => decide (code.toNat < 16)
  | .vclass _ _ _ _ _ => true
  | .vcvt _ _ _ _ _ _ _ => true
  | .vrnd _ _ _ _ _ => true
  | .vscalb _ _ _ _ _ _ => true
  | .vmulhi _ _ _ _ _ _ => true
  | .vdot _ _ _ _ _ _ => true
  | .vqnt _ _ _ _ _ => true
  | .vdqnt _ _ _ _ _ => true
  | .vredadd _ _ _ _ _ => true
  | .vredmax _ _ _ _ _ => true
  | .vredmin _ _ _ _ _ => true
  | .vscanAdd _ _ _ _ _ => true
  | .vscanAddx _ _ _ _ _ => true
  | .vscanMax _ _ _ _ _ => true
  | .vscanMin _ _ _ _ _ => true
  | .vstat _ _ _ _ => true
  | .sfuResultWritten _ => true
  | .fdef _ sa => even sa
  | .fdefi _ _ idx => decide (idx.toNat < 16)
  | .fget sd _ => even sd
  | .stget _ sel => decide (sel.toNat < 21)
  | .stclr _ _ _ _ _ => true
  | .stseed sa => even sa
  | .ld8 _ _ sb _ _ => even sb
  | .ld16 _ _ sb _ _ => even sb
  | .ld32 _ _ sb _ _ => even sb
  | .ld64 vd _ sb _ _ => even vd && even sb
  | .ld128 vd _ sb _ _ => quad vd && even sb
  | .lds8 _ _ sb _ _ => even sb
  | .lds16 _ _ sb _ _ => even sb
  | .lds32 _ _ sb _ _ => even sb
  | .lds64 vd _ sb _ _ => even vd && even sb
  | .lds128 vd _ sb _ _ => quad vd && even sb
  | .st8 _ _ sb _ _ => even sb
  | .st16 _ _ sb _ _ => even sb
  | .st32 _ _ sb _ _ => even sb
  | .st64 vd _ sb _ _ => even vd && even sb
  | .st128 vd _ sb _ _ => quad vd && even sb
  | .ldb _ _ _ _ _ => true
  | .ldbs _ _ _ _ _ => true
  | .stb _ _ _ _ _ => true
  | .sld32 _ sa _ => even sa
  | .sld64 sd sa _ => even sa && even sd
  | .sst32 _ sa _ => even sa
  | .sst64 sd sa _ => even sa && even sd
  | .loadDataReturn _ _ => true
  | .storePerformed _ _ _ => true
  | .l1LineEviction _ _ => true
  | .atomicApplied _ _ => true
  | .chk _ _ _ _ => true
  | .chkb _ _ => true
  | .ptest _ _ _ _ => true
  | .pclr _ _ _ _ => true
  | .waitp path _ => decide (path.toNat < 6)
  | .prefL1 _ sb _ _ => even sb
  | .prefL2 _ sb _ _ => even sb
  | .cflushWb _ sb _ _ => even sb
  | .cflushInv _ sb _ _ => even sb
  | .aadd _ va _ _ _ => even va
  | .amin _ va _ _ _ => even va
  | .amax _ va _ _ _ => even va
  | .aand _ va _ _ _ => even va
  | .aor _ va _ _ _ => even va
  | .axor _ va _ _ _ => even va
  | .axch _ va _ _ _ => even va
  | .acas _ va vb _ _ => even va && even vb
  | .fenceAcq => true
  | .fenceRel => true
  | .fenceFull => true
  | .bar _ sa _ => even sa
  | .semsig sa _ => even sa
  | .semsigGen sg sa _ => decide (sg ≠ 0) && even sa
  | .semwait _ sa _ => even sa
  | .rgarr _ _ => true
  | .rgwait _ _ _ => true
  | .sigx _ _ => true
  | .saopAdd sa _ => even sa
  | .saopMini sa _ => even sa
  | .saopMinn sa _ => even sa
  | .saopMaxi sa _ => even sa
  | .saopMaxn sa _ => even sa
  | .saopAnd sa _ => even sa
  | .saopOr sa _ => even sa
  | .saopXor sa _ => even sa
  | .saopXch sa _ => even sa
  | .saopCas sa sd => even sa && even sd
  | .xcopy _ sa _ => block sa
  | .xexp _ sa _ => block sa
  | .xfill _ sa _ => block sa
  | .xgath _ sa _ => block sa
  | .xtrn _ sa _ => block sa
  | .layic _ sa _ => block sa
  | .xcancel _ _ => true
  | .engineCommandStart _ => true
  | .copyCommandCompletion _ _ => true
  | .mma _ _ _ _ _ _ => true
  | .mmal _ sa _ => block sa
  | .mmaw4 _ _ _ _ _ _ => true
  | .mfmt imm => mfmtOk imm
  | .acalloc _ _ => true
  | .acfree _ _ => true
  | .aczero _ _ => true
  | .acload _ sa _ => block sa
  | .acread _ _ _ _ => true
  | .acdrain _ sa _ => block sa
  | .atload _ sa => block sa
  | .matrixCommandCompletion _ _ => true
  | .gmask _ sa => block sa
  | .gadv _ sa => block sa
  | .sample sd sa sb => even sd && block sa && even sb
  | .route _ sa => block sa
  | .emit _ sa => block sa
  | .jtrunc _ sa => block sa
  | .jreplay _ sa => block sa
  | .jstat sd sa => even sd && block sa
  | .grammarUnitCompletion _ => true
  | .generationUnitCompletion _ => true
  | .journalAckReceived _ => true
  | .journalRecordReceived _ => true
  | .heartbeatSend => true
  | .heartbeatReceived => true
  | .partnerLost => true
  | .resynchronisationComplete => true
  | .rsig sa _ => even sa
  | .rsigGen sg sa _ => decide (sg ≠ 0) && even sa
  | .coll _ sa _ => block sa
  | .peerq _ _ _ => true
  | .routerAnswer _ => true
  | .collCompletion _ _ _ _ => true
  | .peerPacketArrival _ => true
  | .fabricAckArrival _ _ _ => true
  | .retransmitTimeout _ => true
  | .flitArrival _ _ => true
  | .linkLaneFailure _ _ => true
  | .linkKeyLimit _ => true
  | .trap _ => true
  | .pmask => true
  | .punmask => true
  | .pwreq _ _ => true
  | .pwrel _ => true
  | .pwreqGrant _ => true
  | .pwreqTimeout _ => true
  | .powerPermitGrant _ => true
  | .dieHotThreshold _ => true
  | .dieCriticalThreshold _ => true
  | .taskq _ sa _ => block sa
  | .launch _ sa => block sa
  | .clkrd sd sel => even sd && decide (sel.toNat < 2)
  | .clkrdAnswer _ => true
  | .srd _ num => decide (num ∈ readableNumbers)
  | .swr _ num => decide (num ∈ writableNumbers)
  | .illegalOpcode => true
  | .reservedOpcodePark => true
  | .divergencePop => true
  | .teamPromotion _ => true
  | .yieldExpiry _ => true
  | .teamLeaveQuadrant _ => true
  | .groupCommit _ => true
  | .launchStart _ => true
  | .groupPlacement _ _ _ _ => true
  | .queueLaunch _ _ => true
  | .queueDrain _ _ => true
  | .queueWrite _ _ => true
  | .queueWaitwake _ _ => true
  | .queueNop _ _ => true
  | .queueEntrySkipped _ _ => true
  | .preemptionRequest _ _ => true
  | .maskWatchdogExpiry _ => true
  | .handlerWatchdogExpiry _ => true
  | .partitionRestore _ => true
  | .trapQueueTake _ => true
  | .ctrlResume _ _ => true
  | .ctrlKill _ => true
  | .ctrlDetach _ => true
  | .teamStateWindowWrite _ _ _ _ => true
  | .pageServiceComplete _ _ _ => true
  | .pageServiceRefusal _ _ => true
  | .coreUncorrectableError _ => true
  | .memoryUncorrectableError _ => true
  | .powerUp => true
  | .functionReady _ => true
  | .bootImageLoad _ _ => true
  | .attestationRequest _ => true
  | .powerctlWrite _ => true
  | .referenceTimeWrite _ => true
  | .setVaultSplit _ _ => true
  | .setShadowStorage _ _ => true
  | .setPartitionColumns _ _ => true
  | .setHbmShare _ _ => true
  | .setDeterministicMode _ _ => true
  | .setDebug _ _ => true
  | .queueCreate _ _ _ => true
  | .wakeBitsWrite _ _ _ => true
  | .partnerAssign _ => true
  | .castlingCandidateName _ => true
  | .journalCapacitySet _ => true
  | .deviceFence _ => true
  | .linkKeyInstall _ _ _ => true
  | .unreachableClear _ => true
  | .collectiveAbort _ _ => true
  | .pageTableRootSet _ _ => true
  | .tlbInvalidation _ _ => true
  | .collectiveLogBaseSet _ _ => true
  | .tswBaseSet _ _ => true
  | .restoreWrite _ _ => true
  | .hostPreemptionRequest _ => true
  | .launchCancel _ => true
  | .codeObjectLoad _ => true
  | .hostCxlMemAccess _ _ _ => true
  | .statusPageUpdate _ => true
  | .managementRegisterWrite _ => true
  | .hotThresholdCleared _ => true
  | .tlbInvalidationComplete _ _ => true
  | .linkRetrainingComplete _ _ => true

/-- The instruction is a row with an encoding, not an event of the machine. -/
def Instr.isWord : Instr → Bool
  | .sadd _ _ _ => true
  | .ssub _ _ _ => true
  | .smul _ _ _ => true
  | .smulhi _ _ _ => true
  | .smulhn _ _ _ => true
  | .sdivi _ _ _ => true
  | .sdivn _ _ _ => true
  | .sremi _ _ _ => true
  | .sremn _ _ _ => true
  | .sand _ _ _ => true
  | .sor _ _ _ => true
  | .sxor _ _ _ => true
  | .sshl _ _ _ => true
  | .sshrn _ _ _ => true
  | .sshri _ _ _ => true
  | .smini _ _ _ => true
  | .sminn _ _ _ => true
  | .smaxi _ _ _ => true
  | .smaxn _ _ _ => true
  | .slti _ _ _ => true
  | .sltn _ _ _ => true
  | .seq _ _ _ => true
  | .ssel _ _ _ => true
  | .saddi _ _ => true
  | .sli _ _ => true
  | .slih _ _ => true
  | .sbitopPopc _ _ => true
  | .sbitopClz _ _ => true
  | .sbitopCtz _ _ => true
  | .sbitopBrev _ _ => true
  | .sbfx _ _ _ => true
  | .sbfi _ _ _ => true
  | .sadd64 _ _ _ => true
  | .mode _ _ => true
  | .modes _ _ => true
  | .modeget _ => true
  | .bra _ => true
  | .bany _ _ => true
  | .ball _ _ => true
  | .bnone _ _ => true
  | .bsz _ _ => true
  | .bsnz _ _ => true
  | .bdiv _ _ => true
  | .bdivl _ _ => true
  | .call _ => true
  | .calls _ => true
  | .ret => true
  | .brs _ => true
  | .loop _ _ => true
  | .mopNot _ _ => true
  | .mopAnd _ _ => true
  | .mopOr _ _ => true
  | .mopAndn _ _ => true
  | .mopLoad _ => true
  | .mopSave _ => true
  | .mopPopc _ _ => true
  | .mopFirst _ _ => true
  | .msave _ => true
  | .mrest _ => true
  | .kill => true
  | .exit => true
  | .yield _ => true
  | .probe _ _ _ => true
  | .ifence => true
  | .brk _ => true
  | .stkq _ _ => true
  | .vmov _ _ _ _ _ => true
  | .vmovs _ _ _ _ => true
  | .vli _ _ => true
  | .vlih _ _ => true
  | .vand _ _ _ _ _ _ => true
  | .vor _ _ _ _ _ _ => true
  | .vxor _ _ _ _ _ _ => true
  | .vandn _ _ _ _ _ _ => true
  | .vshl _ _ _ _ _ _ => true
  | .vshrn _ _ _ _ _ _ => true
  | .vshri _ _ _ _ _ _ => true
  | .vshli _ _ _ _ => true
  | .vshrni _ _ _ _ => true
  | .vshrii _ _ _ _ => true
  | .vrot _ _ _ _ _ _ => true
  | .vbitopPopc _ _ _ _ _ => true
  | .vbitopClz _ _ _ _ _ => true
  | .vbitopCtz _ _ _ _ _ => true
  | .vbitopBrev _ _ _ _ _ => true
  | .vbfx _ _ _ _ _ => true
  | .vbfi _ _ _ _ _ => true
  | .vprmb _ _ _ _ _ _ => true
  | .vsel _ _ _ _ _ _ => true
  | .vadda _ _ _ _ _ _ => true
  | .vmada _ _ _ _ _ _ => true
  | .vadda64 _ _ _ _ _ _ => true
  | .vlane _ _ _ _ _ => true
  | .vshfl _ _ _ _ _ _ => true
  | .vshfliXor _ _ _ _ => true
  | .vshfliUp _ _ _ _ => true
  | .vshfliDown _ _ _ _ => true
  | .vshfliRot _ _ _ _ => true
  | .vbcast _ _ _ _ _ => true
  | .vtest _ _ _ _ _ _ => true
  | .vpack _ _ _ _ _ _ => true
  | .vunpk _ _ _ _ _ => true
  | .vtosIdx _ _ _ _ => true
  | .vtosFirst _ _ _ _ => true
  | .vtosLast _ _ _ _ => true
  | .vtosOr _ _ _ _ => true
  | .vtosAnd _ _ _ _ => true
  | .vtosAdd _ _ _ _ => true
  | .vtosMaxn _ _ _ _ => true
  | .vtosMinn _ _ _ _ => true
  | .vadd _ _ _ _ _ _ => true
  | .vsub _ _ _ _ _ _ => true
  | .vmul _ _ _ _ _ _ => true
  | .vfma _ _ _ _ _ _ => true
  | .vfms _ _ _ _ _ _ => true
  | .vfnma _ _ _ _ _ _ => true
  | .vmin _ _ _ _ _ _ => true
  | .vmax _ _ _ _ _ _ => true
  | .vminm _ _ _ _ _ _ => true
  | .vmaxm _ _ _ _ _ _ => true
  | .vabs _ _ _ _ _ => true
  | .vneg _ _ _ _ _ => true
  | .vdiv _ _ _ _ _ _ => true
  | .vsqrt _ _ _ _ _ => true
  | .vrcp _ _ _ _ _ => true
  | .vrsq _ _ _ _ _ => true
  | .vexp2 _ _ _ _ _ => true
  | .vlog2 _ _ _ _ _ => true
  | .vsin _ _ _ _ _ => true
  | .vcos _ _ _ _ _ => true
  | .vtanh _ _ _ _ _ => true
  | .vcmp _ _ _ _ _ _ => true
  | .vclass _ _ _ _ _ => true
  | .vcvt _ _ _ _ _ _ _ => true
  | .vrnd _ _ _ _ _ => true
  | .vscalb _ _ _ _ _ _ => true
  | .vmulhi _ _ _ _ _ _ => true
  | .vdot _ _ _ _ _ _ => true
  | .vqnt _ _ _ _ _ => true
  | .vdqnt _ _ _ _ _ => true
  | .vredadd _ _ _ _ _ => true
  | .vredmax _ _ _ _ _ => true
  | .vredmin _ _ _ _ _ => true
  | .vscanAdd _ _ _ _ _ => true
  | .vscanAddx _ _ _ _ _ => true
  | .vscanMax _ _ _ _ _ => true
  | .vscanMin _ _ _ _ _ => true
  | .vstat _ _ _ _ => true
  | .sfuResultWritten _ => false
  | .fdef _ _ => true
  | .fdefi _ _ _ => true
  | .fget _ _ => true
  | .stget _ _ => true
  | .stclr _ _ _ _ _ => true
  | .stseed _ => true
  | .ld8 _ _ _ _ _ => true
  | .ld16 _ _ _ _ _ => true
  | .ld32 _ _ _ _ _ => true
  | .ld64 _ _ _ _ _ => true
  | .ld128 _ _ _ _ _ => true
  | .lds8 _ _ _ _ _ => true
  | .lds16 _ _ _ _ _ => true
  | .lds32 _ _ _ _ _ => true
  | .lds64 _ _ _ _ _ => true
  | .lds128 _ _ _ _ _ => true
  | .st8 _ _ _ _ _ => true
  | .st16 _ _ _ _ _ => true
  | .st32 _ _ _ _ _ => true
  | .st64 _ _ _ _ _ => true
  | .st128 _ _ _ _ _ => true
  | .ldb _ _ _ _ _ => true
  | .ldbs _ _ _ _ _ => true
  | .stb _ _ _ _ _ => true
  | .sld32 _ _ _ => true
  | .sld64 _ _ _ => true
  | .sst32 _ _ _ => true
  | .sst64 _ _ _ => true
  | .loadDataReturn _ _ => false
  | .storePerformed _ _ _ => false
  | .l1LineEviction _ _ => false
  | .atomicApplied _ _ => false
  | .chk _ _ _ _ => true
  | .chkb _ _ => true
  | .ptest _ _ _ _ => true
  | .pclr _ _ _ _ => true
  | .waitp _ _ => true
  | .prefL1 _ _ _ _ => true
  | .prefL2 _ _ _ _ => true
  | .cflushWb _ _ _ _ => true
  | .cflushInv _ _ _ _ => true
  | .aadd _ _ _ _ _ => true
  | .amin _ _ _ _ _ => true
  | .amax _ _ _ _ _ => true
  | .aand _ _ _ _ _ => true
  | .aor _ _ _ _ _ => true
  | .axor _ _ _ _ _ => true
  | .axch _ _ _ _ _ => true
  | .acas _ _ _ _ _ => true
  | .fenceAcq => true
  | .fenceRel => true
  | .fenceFull => true
  | .bar _ _ _ => true
  | .semsig _ _ => true
  | .semsigGen _ _ _ => true
  | .semwait _ _ _ => true
  | .rgarr _ _ => true
  | .rgwait _ _ _ => true
  | .sigx _ _ => true
  | .saopAdd _ _ => true
  | .saopMini _ _ => true
  | .saopMinn _ _ => true
  | .saopMaxi _ _ => true
  | .saopMaxn _ _ => true
  | .saopAnd _ _ => true
  | .saopOr _ _ => true
  | .saopXor _ _ => true
  | .saopXch _ _ => true
  | .saopCas _ _ => true
  | .xcopy _ _ _ => true
  | .xexp _ _ _ => true
  | .xfill _ _ _ => true
  | .xgath _ _ _ => true
  | .xtrn _ _ _ => true
  | .layic _ _ _ => true
  | .xcancel _ _ => true
  | .engineCommandStart _ => false
  | .copyCommandCompletion _ _ => false
  | .mma _ _ _ _ _ _ => true
  | .mmal _ _ _ => true
  | .mmaw4 _ _ _ _ _ _ => true
  | .mfmt _ => true
  | .acalloc _ _ => true
  | .acfree _ _ => true
  | .aczero _ _ => true
  | .acload _ _ _ => true
  | .acread _ _ _ _ => true
  | .acdrain _ _ _ => true
  | .atload _ _ => true
  | .matrixCommandCompletion _ _ => false
  | .gmask _ _ => true
  | .gadv _ _ => true
  | .sample _ _ _ => true
  | .route _ _ => true
  | .emit _ _ => true
  | .jtrunc _ _ => true
  | .jreplay _ _ => true
  | .jstat _ _ => true
  | .grammarUnitCompletion _ => false
  | .generationUnitCompletion _ => false
  | .journalAckReceived _ => false
  | .journalRecordReceived _ => false
  | .heartbeatSend => false
  | .heartbeatReceived => false
  | .partnerLost => false
  | .resynchronisationComplete => false
  | .rsig _ _ => true
  | .rsigGen _ _ _ => true
  | .coll _ _ _ => true
  | .peerq _ _ _ => true
  | .routerAnswer _ => false
  | .collCompletion _ _ _ _ => false
  | .peerPacketArrival _ => false
  | .fabricAckArrival _ _ _ => false
  | .retransmitTimeout _ => false
  | .flitArrival _ _ => false
  | .linkLaneFailure _ _ => false
  | .linkKeyLimit _ => false
  | .trap _ => true
  | .pmask => true
  | .punmask => true
  | .pwreq _ _ => true
  | .pwrel _ => true
  | .pwreqGrant _ => false
  | .pwreqTimeout _ => false
  | .powerPermitGrant _ => false
  | .dieHotThreshold _ => false
  | .dieCriticalThreshold _ => false
  | .taskq _ _ _ => true
  | .launch _ _ => true
  | .clkrd _ _ => true
  | .clkrdAnswer _ => false
  | .srd _ _ => true
  | .swr _ _ => true
  | .illegalOpcode => false
  | .reservedOpcodePark => false
  | .divergencePop => false
  | .teamPromotion _ => false
  | .yieldExpiry _ => false
  | .teamLeaveQuadrant _ => false
  | .groupCommit _ => false
  | .launchStart _ => false
  | .groupPlacement _ _ _ _ => false
  | .queueLaunch _ _ => false
  | .queueDrain _ _ => false
  | .queueWrite _ _ => false
  | .queueWaitwake _ _ => false
  | .queueNop _ _ => false
  | .queueEntrySkipped _ _ => false
  | .preemptionRequest _ _ => false
  | .maskWatchdogExpiry _ => false
  | .handlerWatchdogExpiry _ => false
  | .partitionRestore _ => false
  | .trapQueueTake _ => false
  | .ctrlResume _ _ => false
  | .ctrlKill _ => false
  | .ctrlDetach _ => false
  | .teamStateWindowWrite _ _ _ _ => false
  | .pageServiceComplete _ _ _ => false
  | .pageServiceRefusal _ _ => false
  | .coreUncorrectableError _ => false
  | .memoryUncorrectableError _ => false
  | .powerUp => false
  | .functionReady _ => false
  | .bootImageLoad _ _ => false
  | .attestationRequest _ => false
  | .powerctlWrite _ => false
  | .referenceTimeWrite _ => false
  | .setVaultSplit _ _ => false
  | .setShadowStorage _ _ => false
  | .setPartitionColumns _ _ => false
  | .setHbmShare _ _ => false
  | .setDeterministicMode _ _ => false
  | .setDebug _ _ => false
  | .queueCreate _ _ _ => false
  | .wakeBitsWrite _ _ _ => false
  | .partnerAssign _ => false
  | .castlingCandidateName _ => false
  | .journalCapacitySet _ => false
  | .deviceFence _ => false
  | .linkKeyInstall _ _ _ => false
  | .unreachableClear _ => false
  | .collectiveAbort _ _ => false
  | .pageTableRootSet _ _ => false
  | .tlbInvalidation _ _ => false
  | .collectiveLogBaseSet _ _ => false
  | .tswBaseSet _ _ => false
  | .restoreWrite _ _ => false
  | .hostPreemptionRequest _ => false
  | .launchCancel _ => false
  | .codeObjectLoad _ => false
  | .hostCxlMemAccess _ _ _ => false
  | .statusPageUpdate _ => false
  | .managementRegisterWrite _ => false
  | .hotThresholdCleared _ => false
  | .tlbInvalidationComplete _ _ => false
  | .linkRetrainingComplete _ _ => false

/-- The instruction passes the static checks. -/
abbrev WellFormed (i : Instr) : Prop := i.wf = true

end Sys2Proof
end

