-- ==== Sys2Proof/Decode.lean ====
section
/-! DEFINITION. From words to instructions and back: fields (R35, R51, R52), the opcode map (R50), the static checks in the order
of R53, and the encoder written from the same tables. -/

namespace Sys2Proof

/-- Why a word is no instruction (R53): an opcode that is always illegal, a reserved opcode, a reserved form of a defined opcode,
or a field condition of R54. -/
inductive Reject where
  | illegalOpcode | reservedOpcode | reservedForm | badField
  deriving DecidableEq, Repr

/-- Bits lo to lo+n-1 of a word. -/
abbrev wfld (w : Word) (lo n : Nat) : BitVec n := w.extractLsb' lo n
/-- The scalar register field at bit lo (R35). -/
abbrev ws (w : Word) (lo : Nat) : SReg := w.extractLsb' lo 8
/-- The vector register field at bit lo (R35). -/
abbrev wv (w : Word) (lo : Nat) : VReg := w.extractLsb' lo 7
/-- Bit i of a word. -/
abbrev wbit (w : Word) (i : Nat) : Bool := w.getLsbD i
/-- Bits lo to lo+n-1 of a word are zero. -/
abbrev wzero (w : Word) (lo n : Nat) : Bool := w.extractLsb' lo n == 0
/-- The instruction, where the bits that its entry fixes at zero are zero (R54). -/
abbrev whenZero (ok : Bool) (i : Instr) : Except Reject Instr := if ok then .ok i else .error .badField

/-- The opcodes 0x00 to 0x0F (R50). -/
def decode0 (w : Word) : Except Reject Instr :=
  match (wfld w 24 4).toNat with
  | 0 => .error .illegalOpcode
  | 1 => .ok (.sadd (ws w 16) (ws w 8) (ws w 0))
  | 2 => .ok (.ssub (ws w 16) (ws w 8) (ws w 0))
  | 3 => .ok (.smul (ws w 16) (ws w 8) (ws w 0))
  | 4 => .ok (.smulhi (ws w 16) (ws w 8) (ws w 0))
  | 5 => .ok (.smulhn (ws w 16) (ws w 8) (ws w 0))
  | 6 => .ok (.sdivi (ws w 16) (ws w 8) (ws w 0))
  | 7 => .ok (.sdivn (ws w 16) (ws w 8) (ws w 0))
  | 8 => .ok (.sremi (ws w 16) (ws w 8) (ws w 0))
  | 9 => .ok (.sremn (ws w 16) (ws w 8) (ws w 0))
  | 10 => .ok (.sand (ws w 16) (ws w 8) (ws w 0))
  | 11 => .ok (.sor (ws w 16) (ws w 8) (ws w 0))
  | 12 => .ok (.sxor (ws w 16) (ws w 8) (ws w 0))
  | 13 => .ok (.sshl (ws w 16) (ws w 8) (ws w 0))
  | 14 => .ok (.sshrn (ws w 16) (ws w 8) (ws w 0))
  | _ => .ok (.sshri (ws w 16) (ws w 8) (ws w 0))

/-- The opcodes 0x10 to 0x1F (R50). -/
def decode1 (w : Word) : Except Reject Instr :=
  match (wfld w 24 4).toNat with
  | 0 => .ok (.smini (ws w 16) (ws w 8) (ws w 0))
  | 1 => .ok (.sminn (ws w 16) (ws w 8) (ws w 0))
  | 2 => .ok (.smaxi (ws w 16) (ws w 8) (ws w 0))
  | 3 => .ok (.smaxn (ws w 16) (ws w 8) (ws w 0))
  | 4 => .ok (.slti (ws w 16) (ws w 8) (ws w 0))
  | 5 => .ok (.sltn (ws w 16) (ws w 8) (ws w 0))
  | 6 => .ok (.seq (ws w 16) (ws w 8) (ws w 0))
  | 7 => .ok (.ssel (ws w 16) (ws w 8) (ws w 0))
  | 8 => .ok (.saddi (ws w 16) (wfld w 0 16))
  | 9 => .ok (.sli (ws w 16) (wfld w 0 16))
  | 10 => .ok (.slih (ws w 16) (wfld w 0 16))
  | 11 =>
    match (wfld w 0 8).toNat with
    | 0 => .ok (.sbitopPopc (ws w 16) (ws w 8))
    | 1 => .ok (.sbitopClz (ws w 16) (ws w 8))
    | 2 => .ok (.sbitopCtz (ws w 16) (ws w 8))
    | 3 => .ok (.sbitopBrev (ws w 16) (ws w 8))
    | _ => .error .reservedForm
  | 12 => .ok (.sbfx (ws w 16) (ws w 8) (ws w 0))
  | 13 => .ok (.sbfi (ws w 16) (ws w 8) (ws w 0))
  | 14 => .ok (.sadd64 (ws w 16) (ws w 8) (ws w 0))
  | _ => .error .reservedOpcode

/-- The opcodes 0x20 to 0x2F (R50). -/
def decode2 (w : Word) : Except Reject Instr :=
  match (wfld w 24 4).toNat with
  | 0 => whenZero (wzero w 21 3 && wzero w 12 4) (.mode (wfld w 16 5) (wfld w 0 12))
  | 1 => whenZero (wzero w 21 3 && wzero w 0 8) (.modes (wfld w 16 5) (ws w 8))
  | 2 => whenZero (wzero w 0 16) (.modeget (ws w 16))
  | 3 => .ok (.bra (wfld w 0 24))
  | 4 => .ok (.bany (ws w 16) (wfld w 0 16))
  | 5 => .ok (.ball (ws w 16) (wfld w 0 16))
  | 6 => .ok (.bnone (ws w 16) (wfld w 0 16))
  | 7 => .ok (.bsz (ws w 16) (wfld w 0 16))
  | 8 => .ok (.bsnz (ws w 16) (wfld w 0 16))
  | 9 => .ok (.bdiv (wfld w 12 12) (wfld w 0 12))
  | 10 => .ok (.bdivl (wfld w 12 12) (wfld w 0 12))
  | 11 => .ok (.call (wfld w 0 24))
  | 12 => whenZero (wzero w 16 8 && wzero w 0 8) (.calls (ws w 8))
  | 13 => if wzero w 16 8 then whenZero (wzero w 0 16) (.ret) else .error .reservedForm
  | 14 => whenZero (wzero w 16 8 && wzero w 0 8) (.brs (ws w 8))
  | _ => .ok (.loop (ws w 16) (wfld w 0 16))

/-- The opcodes 0x30 to 0x3F (R50). -/
def decode3 (w : Word) : Except Reject Instr :=
  match (wfld w 24 4).toNat with
  | 0 =>
    match (wfld w 16 8).toNat with
    | 0 => .ok (.mopNot (ws w 8) (ws w 0))
    | 1 => .ok (.mopAnd (ws w 8) (ws w 0))
    | 2 => .ok (.mopOr (ws w 8) (ws w 0))
    | 3 => .ok (.mopAndn (ws w 8) (ws w 0))
    | 4 => whenZero (wzero w 0 8) (.mopLoad (ws w 8))
    | 5 => whenZero (wzero w 8 8) (.mopSave (ws w 0))
    | 6 => .ok (.mopPopc (ws w 8) (ws w 0))
    | 7 => .ok (.mopFirst (ws w 8) (ws w 0))
    | _ => .error .reservedForm
  | 1 => whenZero (wzero w 0 16) (.msave (ws w 16))
  | 2 => whenZero (wzero w 16 8 && wzero w 0 8) (.mrest (ws w 8))
  | 3 => if wzero w 16 8 then whenZero (wzero w 0 16) (.kill) else .error .reservedForm
  | 4 => if wzero w 16 8 then whenZero (wzero w 0 16) (.exit) else .error .reservedForm
  | 5 => if wzero w 16 8 then .ok (.yield (wfld w 0 16)) else .error .reservedForm
  | 6 => if (wfld w 0 8).toNat < 2 then .ok (.probe (ws w 16) (wfld w 8 8) (wbit w 0)) else .error .reservedForm
  | 7 => if wzero w 16 8 then whenZero (wzero w 0 16) (.ifence) else .error .reservedForm
  | 8 => if wzero w 16 8 then .ok (.brk (wfld w 0 16)) else .error .reservedForm
  | 9 => whenZero (wzero w 0 8) (.stkq (ws w 16) (wfld w 8 8))
  | 10 => .error .reservedOpcode
  | 11 => .error .reservedOpcode
  | 12 => .error .reservedOpcode
  | 13 => .error .reservedOpcode
  | 14 => .error .reservedOpcode
  | _ => .error .reservedOpcode

/-- The opcodes 0x40 to 0x4F (R50). -/
def decode4 (w : Word) : Except Reject Instr :=
  match (wfld w 24 4).toNat with
  | 0 => whenZero (wzero w 3 7) (.vmov (wv w 17) (wv w 10) (wbit w 2) (wbit w 1) (wbit w 0))
  | 1 => whenZero (wzero w 10 7) (.vmovs (wv w 17) (ws w 2) (wbit w 1) (wbit w 0))
  | 2 => whenZero (wzero w 16 1) (.vli (wv w 17) (wfld w 0 16))
  | 3 => whenZero (wzero w 16 1) (.vlih (wv w 17) (wfld w 0 16))
  | 4 => .ok (.vand (wv w 17) (wv w 10) (wv w 3) (wbit w 2) (wbit w 1) (wbit w 0))
  | 5 => .ok (.vor (wv w 17) (wv w 10) (wv w 3) (wbit w 2) (wbit w 1) (wbit w 0))
  | 6 => .ok (.vxor (wv w 17) (wv w 10) (wv w 3) (wbit w 2) (wbit w 1) (wbit w 0))
  | 7 => .ok (.vandn (wv w 17) (wv w 10) (wv w 3) (wbit w 2) (wbit w 1) (wbit w 0))
  | 8 => .ok (.vshl (wv w 17) (wv w 10) (wv w 3) (wbit w 2) (wbit w 1) (wbit w 0))
  | 9 => .ok (.vshrn (wv w 17) (wv w 10) (wv w 3) (wbit w 2) (wbit w 1) (wbit w 0))
  | 10 => .ok (.vshri (wv w 17) (wv w 10) (wv w 3) (wbit w 2) (wbit w 1) (wbit w 0))
  | 11 => whenZero (wzero w 5 4) (.vshli (wv w 17) (wv w 10) (wbit w 9) (wfld w 0 5))
  | 12 => whenZero (wzero w 5 4) (.vshrni (wv w 17) (wv w 10) (wbit w 9) (wfld w 0 5))
  | 13 => whenZero (wzero w 5 4) (.vshrii (wv w 17) (wv w 10) (wbit w 9) (wfld w 0 5))
  | 14 => .ok (.vrot (wv w 17) (wv w 10) (wv w 3) (wbit w 2) (wbit w 1) (wbit w 0))
  | _ =>
    match (wfld w 3 7).toNat with
    | 0 => .ok (.vbitopPopc (wv w 17) (wv w 10) (wbit w 2) (wbit w 1) (wbit w 0))
    | 1 => .ok (.vbitopClz (wv w 17) (wv w 10) (wbit w 2) (wbit w 1) (wbit w 0))
    | 2 => .ok (.vbitopCtz (wv w 17) (wv w 10) (wbit w 2) (wbit w 1) (wbit w 0))
    | 3 => .ok (.vbitopBrev (wv w 17) (wv w 10) (wbit w 2) (wbit w 1) (wbit w 0))
    | _ => .error .reservedForm

/-- The opcodes 0x50 to 0x5F (R50). -/
def decode5 (w : Word) : Except Reject Instr :=
  match (wfld w 24 4).toNat with
  | 0 => .ok (.vbfx (wv w 17) (wv w 10) (ws w 2) (wbit w 1) (wbit w 0))
  | 1 => .ok (.vbfi (wv w 17) (wv w 10) (ws w 2) (wbit w 1) (wbit w 0))
  | 2 => .ok (.vprmb (wv w 17) (wv w 10) (wv w 3) (wbit w 2) (wbit w 1) (wbit w 0))
  | 3 => .ok (.vsel (wv w 17) (wv w 10) (wv w 3) (wbit w 2) (wbit w 1) (wbit w 0))
  | 4 => .ok (.vadda (wv w 17) (wv w 10) (wv w 3) (wbit w 2) (wbit w 1) (wbit w 0))
  | 5 => .ok (.vmada (wv w 17) (wv w 10) (wv w 3) (wbit w 2) (wbit w 1) (wbit w 0))
  | 6 => .ok (.vadda64 (wv w 17) (wv w 10) (wv w 3) (wbit w 2) (wbit w 1) (wbit w 0))
  | 7 => if decide ((wfld w 3 7).toNat < 3) then whenZero (wzero w 10 7) (.vlane (wv w 17) (wfld w 3 7) (wbit w 2) (wbit w 1) (wbit w 0)) else .error .reservedForm
  | 8 => .ok (.vshfl (wv w 17) (wv w 10) (wv w 3) (wbit w 2) (wbit w 1) (wbit w 0))
  | 9 =>
    match (wfld w 6 3).toNat with
    | 0 => .ok (.vshfliXor (wv w 17) (wv w 10) (wbit w 9) (wfld w 0 6))
    | 1 => .ok (.vshfliUp (wv w 17) (wv w 10) (wbit w 9) (wfld w 0 6))
    | 2 => .ok (.vshfliDown (wv w 17) (wv w 10) (wbit w 9) (wfld w 0 6))
    | 3 => .ok (.vshfliRot (wv w 17) (wv w 10) (wbit w 9) (wfld w 0 6))
    | _ => .error .reservedForm
  | 10 => .ok (.vbcast (wv w 17) (wv w 10) (ws w 2) (wbit w 1) (wbit w 0))
  | 11 => if decide ((wfld w 17 7).toNat < 8) then .ok (.vtest (wfld w 17 7) (wv w 10) (wv w 3) (wbit w 2) (wbit w 1) (wbit w 0)) else .error .reservedForm
  | 12 => .ok (.vpack (wv w 17) (wv w 10) (wfld w 3 7) (wbit w 2) (wbit w 1) (wbit w 0))
  | 13 => whenZero (wzero w 6 2) (.vunpk (wv w 17) (wv w 10) (wbit w 9) (wbit w 8) (wfld w 0 6))
  | 14 =>
    match (wfld w 17 7).toNat with
    | 0 => .ok (.vtosIdx (wv w 10) (ws w 2) (wbit w 1) (wbit w 0))
    | 1 => .ok (.vtosFirst (wv w 10) (ws w 2) (wbit w 1) (wbit w 0))
    | 2 => .ok (.vtosLast (wv w 10) (ws w 2) (wbit w 1) (wbit w 0))
    | 3 => .ok (.vtosOr (wv w 10) (ws w 2) (wbit w 1) (wbit w 0))
    | 4 => .ok (.vtosAnd (wv w 10) (ws w 2) (wbit w 1) (wbit w 0))
    | 5 => .ok (.vtosAdd (wv w 10) (ws w 2) (wbit w 1) (wbit w 0))
    | 6 => .ok (.vtosMaxn (wv w 10) (ws w 2) (wbit w 1) (wbit w 0))
    | 7 => .ok (.vtosMinn (wv w 10) (ws w 2) (wbit w 1) (wbit w 0))
    | _ => .error .reservedForm
  | _ => .error .reservedOpcode

/-- The opcodes 0x60 to 0x6F (R50). -/
def decode6 (w : Word) : Except Reject Instr :=
  match (wfld w 24 4).toNat with
  | 0 => .ok (.vadd (wv w 17) (wv w 10) (wv w 3) (wbit w 2) (wbit w 1) (wbit w 0))
  | 1 => .ok (.vsub (wv w 17) (wv w 10) (wv w 3) (wbit w 2) (wbit w 1) (wbit w 0))
  | 2 => .ok (.vmul (wv w 17) (wv w 10) (wv w 3) (wbit w 2) (wbit w 1) (wbit w 0))
  | 3 => .ok (.vfma (wv w 17) (wv w 10) (wv w 3) (wbit w 2) (wbit w 1) (wbit w 0))
  | 4 => .ok (.vfms (wv w 17) (wv w 10) (wv w 3) (wbit w 2) (wbit w 1) (wbit w 0))
  | 5 => .ok (.vfnma (wv w 17) (wv w 10) (wv w 3) (wbit w 2) (wbit w 1) (wbit w 0))
  | 6 => .ok (.vmin (wv w 17) (wv w 10) (wv w 3) (wbit w 2) (wbit w 1) (wbit w 0))
  | 7 => .ok (.vmax (wv w 17) (wv w 10) (wv w 3) (wbit w 2) (wbit w 1) (wbit w 0))
  | 8 => .ok (.vminm (wv w 17) (wv w 10) (wv w 3) (wbit w 2) (wbit w 1) (wbit w 0))
  | 9 => .ok (.vmaxm (wv w 17) (wv w 10) (wv w 3) (wbit w 2) (wbit w 1) (wbit w 0))
  | 10 => whenZero (wzero w 3 7) (.vabs (wv w 17) (wv w 10) (wbit w 2) (wbit w 1) (wbit w 0))
  | 11 => whenZero (wzero w 3 7) (.vneg (wv w 17) (wv w 10) (wbit w 2) (wbit w 1) (wbit w 0))
  | 12 => .ok (.vdiv (wv w 17) (wv w 10) (wv w 3) (wbit w 2) (wbit w 1) (wbit w 0))
  | 13 => whenZero (wzero w 3 7) (.vsqrt (wv w 17) (wv w 10) (wbit w 2) (wbit w 1) (wbit w 0))
  | 14 => whenZero (wzero w 3 7) (.vrcp (wv w 17) (wv w 10) (wbit w 2) (wbit w 1) (wbit w 0))
  | _ => whenZero (wzero w 3 7) (.vrsq (wv w 17) (wv w 10) (wbit w 2) (wbit w 1) (wbit w 0))

/-- The opcodes 0x70 to 0x7F (R50). -/
def decode7 (w : Word) : Except Reject Instr :=
  match (wfld w 24 4).toNat with
  | 0 => whenZero (wzero w 3 7) (.vexp2 (wv w 17) (wv w 10) (wbit w 2) (wbit w 1) (wbit w 0))
  | 1 => whenZero (wzero w 3 7) (.vlog2 (wv w 17) (wv w 10) (wbit w 2) (wbit w 1) (wbit w 0))
  | 2 => whenZero (wzero w 3 7) (.vsin (wv w 17) (wv w 10) (wbit w 2) (wbit w 1) (wbit w 0))
  | 3 => whenZero (wzero w 3 7) (.vcos (wv w 17) (wv w 10) (wbit w 2) (wbit w 1) (wbit w 0))
  | 4 => whenZero (wzero w 3 7) (.vtanh (wv w 17) (wv w 10) (wbit w 2) (wbit w 1) (wbit w 0))
  | 5 => if decide ((wfld w 17 7).toNat < 16) then .ok (.vcmp (wfld w 17 7) (wv w 10) (wv w 3) (wbit w 2) (wbit w 1) (wbit w 0)) else .error .reservedForm
  | 6 => whenZero (wzero w 3 7) (.vclass (wfld w 17 7) (wv w 10) (wbit w 2) (wbit w 1) (wbit w 0))
  | 7 => .ok (.vcvt (wv w 17) (wv w 10) (wfld w 6 4) (wfld w 3 3) (wbit w 2) (wbit w 1) (wbit w 0))
  | 8 => whenZero (wzero w 3 7) (.vrnd (wv w 17) (wv w 10) (wbit w 2) (wbit w 1) (wbit w 0))
  | 9 => .ok (.vscalb (wv w 17) (wv w 10) (wv w 3) (wbit w 2) (wbit w 1) (wbit w 0))
  | 10 => .ok (.vmulhi (wv w 17) (wv w 10) (wv w 3) (wbit w 2) (wbit w 1) (wbit w 0))
  | 11 => .ok (.vdot (wv w 17) (wv w 10) (wv w 3) (wbit w 2) (wbit w 1) (wbit w 0))
  | 12 => .ok (.vqnt (wv w 17) (wv w 10) (ws w 2) (wbit w 1) (wbit w 0))
  | 13 => .ok (.vdqnt (wv w 17) (wv w 10) (ws w 2) (wbit w 1) (wbit w 0))
  | 14 => whenZero (wzero w 3 7) (.vredadd (wv w 17) (wv w 10) (wbit w 2) (wbit w 1) (wbit w 0))
  | _ => whenZero (wzero w 3 7) (.vredmax (wv w 17) (wv w 10) (wbit w 2) (wbit w 1) (wbit w 0))

/-- The opcodes 0x80 to 0x8F (R50). -/
def decode8 (w : Word) : Except Reject Instr :=
  match (wfld w 24 4).toNat with
  | 0 => whenZero (wzero w 3 7) (.vredmin (wv w 17) (wv w 10) (wbit w 2) (wbit w 1) (wbit w 0))
  | 1 =>
    match (wfld w 3 7).toNat with
    | 0 => .ok (.vscanAdd (wv w 17) (wv w 10) (wbit w 2) (wbit w 1) (wbit w 0))
    | 1 => .ok (.vscanAddx (wv w 17) (wv w 10) (wbit w 2) (wbit w 1) (wbit w 0))
    | 2 => .ok (.vscanMax (wv w 17) (wv w 10) (wbit w 2) (wbit w 1) (wbit w 0))
    | 3 => .ok (.vscanMin (wv w 17) (wv w 10) (wbit w 2) (wbit w 1) (wbit w 0))
    | _ => .error .reservedForm
  | 2 => whenZero (wzero w 17 7 && wzero w 3 7) (.vstat (wv w 10) (wbit w 2) (wbit w 1) (wbit w 0))
  | 3 => .error .reservedOpcode
  | 4 => .error .reservedOpcode
  | 5 => .error .reservedOpcode
  | 6 => .error .reservedOpcode
  | 7 => .error .reservedOpcode
  | 8 => .error .reservedOpcode
  | 9 => .error .reservedOpcode
  | 10 => .error .reservedOpcode
  | 11 => .error .reservedOpcode
  | 12 => .error .reservedOpcode
  | 13 => .error .reservedOpcode
  | 14 => .error .reservedOpcode
  | _ => .error .reservedOpcode

/-- The opcodes 0x90 to 0x9F (R50). -/
def decode9 (w : Word) : Except Reject Instr :=
  match (wfld w 24 4).toNat with
  | 0 => whenZero (wzero w 20 4 && wzero w 0 8) (.fdef (wfld w 16 4) (ws w 8))
  | 1 => if decide ((wfld w 0 8).toNat < 16) then whenZero (wzero w 20 4 && wzero w 9 7) (.fdefi (wfld w 16 4) (wbit w 8) (wfld w 0 8)) else .error .reservedForm
  | 2 => whenZero (wzero w 12 4 && wzero w 0 8) (.fget (ws w 16) (wfld w 8 4))
  | 3 => whenZero (wzero w 0 8) (.stget (ws w 16) (wfld w 8 8))
  | 4 => if wzero w 16 8 then whenZero (wzero w 8 8) (.stclr (wbit w 7) (wbit w 6) (wbit w 5) (wbit w 4) (wfld w 0 4)) else .error .reservedForm
  | 5 => whenZero (wzero w 16 8 && wzero w 0 8) (.stseed (ws w 8))
  | 6 => .error .reservedOpcode
  | 7 => .error .reservedOpcode
  | 8 => .error .reservedOpcode
  | 9 => .error .reservedOpcode
  | 10 => .error .reservedOpcode
  | 11 => .error .reservedOpcode
  | 12 => .error .reservedOpcode
  | 13 => .error .reservedOpcode
  | 14 => .error .reservedOpcode
  | _ => .error .reservedOpcode

/-- The opcodes 0xA0 to 0xAF (R50). -/
def decodeA (w : Word) : Except Reject Instr :=
  match (wfld w 24 4).toNat with
  | 0 => .ok (.ld8 (wv w 17) (wv w 10) (ws w 2) (wbit w 1) (wbit w 0))
  | 1 => .ok (.ld16 (wv w 17) (wv w 10) (ws w 2) (wbit w 1) (wbit w 0))
  | 2 => .ok (.ld32 (wv w 17) (wv w 10) (ws w 2) (wbit w 1) (wbit w 0))
  | 3 => .ok (.ld64 (wv w 17) (wv w 10) (ws w 2) (wbit w 1) (wbit w 0))
  | 4 => .ok (.ld128 (wv w 17) (wv w 10) (ws w 2) (wbit w 1) (wbit w 0))
  | 5 => .ok (.lds8 (wv w 17) (wv w 10) (ws w 2) (wbit w 1) (wbit w 0))
  | 6 => .ok (.lds16 (wv w 17) (wv w 10) (ws w 2) (wbit w 1) (wbit w 0))
  | 7 => .ok (.lds32 (wv w 17) (wv w 10) (ws w 2) (wbit w 1) (wbit w 0))
  | 8 => .ok (.lds64 (wv w 17) (wv w 10) (ws w 2) (wbit w 1) (wbit w 0))
  | 9 => .ok (.lds128 (wv w 17) (wv w 10) (ws w 2) (wbit w 1) (wbit w 0))
  | 10 => .ok (.st8 (wv w 17) (wv w 10) (ws w 2) (wbit w 1) (wbit w 0))
  | 11 => .ok (.st16 (wv w 17) (wv w 10) (ws w 2) (wbit w 1) (wbit w 0))
  | 12 => .ok (.st32 (wv w 17) (wv w 10) (ws w 2) (wbit w 1) (wbit w 0))
  | 13 => .ok (.st64 (wv w 17) (wv w 10) (ws w 2) (wbit w 1) (wbit w 0))
  | 14 => .ok (.st128 (wv w 17) (wv w 10) (ws w 2) (wbit w 1) (wbit w 0))
  | _ => .ok (.ldb (wv w 17) (wv w 10) (ws w 2) (wbit w 1) (wbit w 0))

/-- The opcodes 0xB0 to 0xBF (R50). -/
def decodeB (w : Word) : Except Reject Instr :=
  match (wfld w 24 4).toNat with
  | 0 => .ok (.ldbs (wv w 17) (wv w 10) (ws w 2) (wbit w 1) (wbit w 0))
  | 1 => .ok (.stb (wv w 17) (wv w 10) (ws w 2) (wbit w 1) (wbit w 0))
  | 2 => .ok (.sld32 (ws w 16) (ws w 8) (ws w 0))
  | 3 => .ok (.sld64 (ws w 16) (ws w 8) (ws w 0))
  | 4 => .ok (.sst32 (ws w 16) (ws w 8) (ws w 0))
  | 5 => .ok (.sst64 (ws w 16) (ws w 8) (ws w 0))
  | 6 => whenZero (wzero w 17 7 && wzero w 3 7) (.chk (wv w 10) (wbit w 2) (wbit w 1) (wbit w 0))
  | 7 => whenZero (wzero w 16 1) (.chkb (wv w 17) (wfld w 0 16))
  | 8 => whenZero (wzero w 17 7 && wzero w 3 7) (.ptest (wv w 10) (wbit w 2) (wbit w 1) (wbit w 0))
  | 9 => whenZero (wzero w 3 14) (.pclr (wv w 17) (wbit w 2) (wbit w 1) (wbit w 0))
  | 10 => if decide ((wfld w 16 8).toNat < 6) then whenZero (wzero w 0 8) (.waitp (wfld w 16 8) (ws w 8)) else .error .reservedForm
  | 11 =>
    match (wfld w 17 7).toNat with
    | 0 => .ok (.prefL1 (wv w 10) (ws w 2) (wbit w 1) (wbit w 0))
    | 1 => .ok (.prefL2 (wv w 10) (ws w 2) (wbit w 1) (wbit w 0))
    | _ => .error .reservedForm
  | 12 =>
    match (wfld w 17 7).toNat with
    | 0 => .ok (.cflushWb (wv w 10) (ws w 2) (wbit w 1) (wbit w 0))
    | 1 => .ok (.cflushInv (wv w 10) (ws w 2) (wbit w 1) (wbit w 0))
    | _ => .error .reservedForm
  | 13 => .error .reservedOpcode
  | 14 => .error .reservedOpcode
  | _ => .error .reservedOpcode

/-- The opcodes 0xC0 to 0xCF (R50). -/
def decodeC (w : Word) : Except Reject Instr :=
  match (wfld w 24 4).toNat with
  | 0 => whenZero (wzero w 0 1) (.aadd (wv w 17) (wv w 10) (wv w 3) (wbit w 2) (wbit w 1))
  | 1 => whenZero (wzero w 0 1) (.amin (wv w 17) (wv w 10) (wv w 3) (wbit w 2) (wbit w 1))
  | 2 => whenZero (wzero w 0 1) (.amax (wv w 17) (wv w 10) (wv w 3) (wbit w 2) (wbit w 1))
  | 3 => whenZero (wzero w 0 1) (.aand (wv w 17) (wv w 10) (wv w 3) (wbit w 2) (wbit w 1))
  | 4 => whenZero (wzero w 0 1) (.aor (wv w 17) (wv w 10) (wv w 3) (wbit w 2) (wbit w 1))
  | 5 => whenZero (wzero w 0 1) (.axor (wv w 17) (wv w 10) (wv w 3) (wbit w 2) (wbit w 1))
  | 6 => whenZero (wzero w 0 1) (.axch (wv w 17) (wv w 10) (wv w 3) (wbit w 2) (wbit w 1))
  | 7 => whenZero (wzero w 0 1) (.acas (wv w 17) (wv w 10) (wv w 3) (wbit w 2) (wbit w 1))
  | 8 =>
    match (wfld w 16 8).toNat with
    | 1 => whenZero (wzero w 0 16) (.fenceAcq)
    | 2 => whenZero (wzero w 0 16) (.fenceRel)
    | 3 => whenZero (wzero w 0 16) (.fenceFull)
    | _ => .error .reservedForm
  | 9 => .ok (.bar (ws w 16) (ws w 8) (ws w 0))
  | 10 => if wzero w 16 8 then .ok (.semsig (ws w 8) (ws w 0)) else .ok (.semsigGen (ws w 16) (ws w 8) (ws w 0))
  | 11 => .ok (.semwait (ws w 16) (ws w 8) (ws w 0))
  | 12 => whenZero (wzero w 16 8) (.rgarr (ws w 8) (ws w 0))
  | 13 => .ok (.rgwait (ws w 16) (ws w 8) (ws w 0))
  | 14 => whenZero (wzero w 16 8) (.sigx (ws w 8) (ws w 0))
  | _ =>
    match (wfld w 16 8).toNat with
    | 0 => .ok (.saopAdd (ws w 8) (ws w 0))
    | 1 => .ok (.saopMini (ws w 8) (ws w 0))
    | 2 => .ok (.saopMinn (ws w 8) (ws w 0))
    | 3 => .ok (.saopMaxi (ws w 8) (ws w 0))
    | 4 => .ok (.saopMaxn (ws w 8) (ws w 0))
    | 5 => .ok (.saopAnd (ws w 8) (ws w 0))
    | 6 => .ok (.saopOr (ws w 8) (ws w 0))
    | 7 => .ok (.saopXor (ws w 8) (ws w 0))
    | 8 => .ok (.saopXch (ws w 8) (ws w 0))
    | 9 => .ok (.saopCas (ws w 8) (ws w 0))
    | _ => .error .reservedForm

/-- The opcodes 0xD0 to 0xDF (R50). -/
def decodeD (w : Word) : Except Reject Instr :=
  match (wfld w 24 4).toNat with
  | 0 => .ok (.xcopy (ws w 16) (ws w 8) (ws w 0))
  | 1 => .ok (.xexp (ws w 16) (ws w 8) (ws w 0))
  | 2 => .ok (.xfill (ws w 16) (ws w 8) (ws w 0))
  | 3 => .ok (.xgath (ws w 16) (ws w 8) (ws w 0))
  | 4 => .ok (.xtrn (ws w 16) (ws w 8) (ws w 0))
  | 5 => .ok (.layic (ws w 16) (ws w 8) (ws w 0))
  | 6 => whenZero (wzero w 8 8) (.xcancel (ws w 16) (ws w 0))
  | 7 => .error .reservedOpcode
  | 8 => whenZero (wzero w 8 2) (.mma (wfld w 17 7) (wv w 10) (wfld w 3 5) (wbit w 2) (wbit w 1) (wbit w 0))
  | 9 => .ok (.mmal (ws w 16) (ws w 8) (ws w 0))
  | 10 => whenZero (wzero w 8 2) (.mmaw4 (wfld w 17 7) (wv w 10) (wfld w 3 5) (wbit w 2) (wbit w 1) (wbit w 0))
  | 11 => if wzero w 16 8 then .ok (.mfmt (wfld w 0 16)) else .error .reservedForm
  | 12 => whenZero (wzero w 0 8) (.acalloc (ws w 16) (ws w 8))
  | 13 => whenZero (wzero w 16 8) (.acfree (ws w 8) (ws w 0))
  | 14 => whenZero (wzero w 16 8) (.aczero (ws w 8) (ws w 0))
  | _ => .ok (.acload (ws w 16) (ws w 8) (ws w 0))

/-- The opcodes 0xE0 to 0xEF (R50). -/
def decodeE (w : Word) : Except Reject Instr :=
  match (wfld w 24 4).toNat with
  | 0 => whenZero (wzero w 10 7) (.acread (wv w 17) (ws w 2) (wbit w 1) (wbit w 0))
  | 1 => .ok (.acdrain (ws w 16) (ws w 8) (ws w 0))
  | 2 => whenZero (wzero w 0 8) (.atload (ws w 16) (ws w 8))
  | 3 => .error .reservedOpcode
  | 4 => whenZero (wzero w 0 8) (.gmask (ws w 16) (ws w 8))
  | 5 => whenZero (wzero w 0 8) (.gadv (ws w 16) (ws w 8))
  | 6 => .ok (.sample (ws w 16) (ws w 8) (ws w 0))
  | 7 => whenZero (wzero w 0 8) (.route (ws w 16) (ws w 8))
  | 8 => whenZero (wzero w 0 8) (.emit (ws w 16) (ws w 8))
  | 9 => whenZero (wzero w 0 8) (.jtrunc (ws w 16) (ws w 8))
  | 10 => whenZero (wzero w 0 8) (.jreplay (ws w 16) (ws w 8))
  | 11 => whenZero (wzero w 0 8) (.jstat (ws w 16) (ws w 8))
  | 12 => if wzero w 16 8 then .ok (.rsig (ws w 8) (ws w 0)) else .ok (.rsigGen (ws w 16) (ws w 8) (ws w 0))
  | 13 => .ok (.coll (ws w 16) (ws w 8) (ws w 0))
  | 14 => .ok (.peerq (ws w 16) (ws w 8) (ws w 0))
  | _ => .error .reservedOpcode

/-- The opcodes 0xF0 to 0xFF (R50). -/
def decodeF (w : Word) : Except Reject Instr :=
  match (wfld w 24 4).toNat with
  | 0 => .error .reservedOpcode
  | 1 => .error .reservedOpcode
  | 2 => .error .reservedOpcode
  | 3 => .error .reservedOpcode
  | 4 => if wzero w 16 8 then .ok (.trap (wfld w 0 16)) else .error .reservedForm
  | 5 => if wzero w 16 8 then whenZero (wzero w 0 16) (.pmask) else .error .reservedForm
  | 6 => if wzero w 16 8 then whenZero (wzero w 0 16) (.punmask) else .error .reservedForm
  | 7 => whenZero (wzero w 0 8) (.pwreq (ws w 16) (ws w 8))
  | 8 => whenZero (wzero w 16 8 && wzero w 0 8) (.pwrel (ws w 8))
  | 9 => .ok (.taskq (ws w 16) (ws w 8) (ws w 0))
  | 10 => whenZero (wzero w 0 8) (.launch (ws w 16) (ws w 8))
  | 11 => if decide ((wfld w 0 8).toNat < 2) then whenZero (wzero w 8 8) (.clkrd (ws w 16) (wfld w 0 8)) else .error .reservedForm
  | 12 => if decide (wfld w 0 16 ∈ readableNumbers) then .ok (.srd (ws w 16) (wfld w 0 16)) else .error .reservedForm
  | 13 => if decide (wfld w 0 16 ∈ readableNumbers) then .ok (.swr (ws w 16) (wfld w 0 16)) else .error .reservedForm
  | 14 => .error .reservedOpcode
  | _ => .error .illegalOpcode

/-- The fields of a word whose opcode and form are defined, before the register rules of R37. -/
def decodeFields (w : Word) : Except Reject Instr :=
  match (wfld w 28 4).toNat with
  | 0 => decode0 w
  | 1 => decode1 w
  | 2 => decode2 w
  | 3 => decode3 w
  | 4 => decode4 w
  | 5 => decode5 w
  | 6 => decode6 w
  | 7 => decode7 w
  | 8 => decode8 w
  | 9 => decode9 w
  | 10 => decodeA w
  | 11 => decodeB w
  | 12 => decodeC w
  | 13 => decodeD w
  | 14 => decodeE w
  | _ => decodeF w

/-- The checks of R53 that a word's bits alone decide: an illegal opcode, a reserved opcode or form, a field condition of R54. -/
def decode (w : Word) : Except Reject Instr :=
  match decodeFields w with
  | .ok i => if i.wf then .ok i else .error .badField
  | .error r => .error r

/-- The word of an instruction (R35, R50 to R52), fields from the high bit down. An event has no word. -/
def encode : Instr → Option Word
  | .sadd sd sa sb => some (0x1#8 ++ sd ++ sa ++ sb)
  | .ssub sd sa sb => some (0x2#8 ++ sd ++ sa ++ sb)
  | .smul sd sa sb => some (0x3#8 ++ sd ++ sa ++ sb)
  | .smulhi sd sa sb => some (0x4#8 ++ sd ++ sa ++ sb)
  | .smulhn sd sa sb => some (0x5#8 ++ sd ++ sa ++ sb)
  | .sdivi sd sa sb => some (0x6#8 ++ sd ++ sa ++ sb)
  | .sdivn sd sa sb => some (0x7#8 ++ sd ++ sa ++ sb)
  | .sremi sd sa sb => some (0x8#8 ++ sd ++ sa ++ sb)
  | .sremn sd sa sb => some (0x9#8 ++ sd ++ sa ++ sb)
  | .sand sd sa sb => some (0xa#8 ++ sd ++ sa ++ sb)
  | .sor sd sa sb => some (0xb#8 ++ sd ++ sa ++ sb)
  | .sxor sd sa sb => some (0xc#8 ++ sd ++ sa ++ sb)
  | .sshl sd sa sb => some (0xd#8 ++ sd ++ sa ++ sb)
  | .sshrn sd sa sb => some (0xe#8 ++ sd ++ sa ++ sb)
  | .sshri sd sa sb => some (0xf#8 ++ sd ++ sa ++ sb)
  | .smini sd sa sb => some (0x10#8 ++ sd ++ sa ++ sb)
  | .sminn sd sa sb => some (0x11#8 ++ sd ++ sa ++ sb)
  | .smaxi sd sa sb => some (0x12#8 ++ sd ++ sa ++ sb)
  | .smaxn sd sa sb => some (0x13#8 ++ sd ++ sa ++ sb)
  | .slti sd sa sb => some (0x14#8 ++ sd ++ sa ++ sb)
  | .sltn sd sa sb => some (0x15#8 ++ sd ++ sa ++ sb)
  | .seq sd sa sb => some (0x16#8 ++ sd ++ sa ++ sb)
  | .ssel sd sa sb => some (0x17#8 ++ sd ++ sa ++ sb)
  | .saddi sd imm => some (0x18#8 ++ sd ++ imm)
  | .sli sd imm => some (0x19#8 ++ sd ++ imm)
  | .slih sd imm => some (0x1a#8 ++ sd ++ imm)
  | .sbitopPopc sd sa => some (0x1b#8 ++ sd ++ sa ++ 0#8)
  | .sbitopClz sd sa => some (0x1b#8 ++ sd ++ sa ++ 1#8)
  | .sbitopCtz sd sa => some (0x1b#8 ++ sd ++ sa ++ 2#8)
  | .sbitopBrev sd sa => some (0x1b#8 ++ sd ++ sa ++ 3#8)
  | .sbfx sd sa sb => some (0x1c#8 ++ sd ++ sa ++ sb)
  | .sbfi sd sa sb => some (0x1d#8 ++ sd ++ sa ++ sb)
  | .sadd64 sd sa sb => some (0x1e#8 ++ sd ++ sa ++ sb)
  | .mode en imm => some (0x20#8 ++ 0#3 ++ en ++ 0#4 ++ imm)
  | .modes en sa => some (0x21#8 ++ 0#3 ++ en ++ sa ++ 0#8)
  | .modeget sd => some (0x22#8 ++ sd ++ 0#16)
  | .bra off => some (0x23#8 ++ off)
  | .bany sa off => some (0x24#8 ++ sa ++ off)
  | .ball sa off => some (0x25#8 ++ sa ++ off)
  | .bnone sa off => some (0x26#8 ++ sa ++ off)
  | .bsz sa off => some (0x27#8 ++ sa ++ off)
  | .bsnz sa off => some (0x28#8 ++ sa ++ off)
  | .bdiv tgt rcv => some (0x29#8 ++ tgt ++ rcv)
  | .bdivl tgt rcv => some (0x2a#8 ++ tgt ++ rcv)
  | .call off => some (0x2b#8 ++ off)
  | .calls sa => some (0x2c#8 ++ 0#8 ++ sa ++ 0#8)
  | .ret => some (0x2d#8 ++ 0#24)
  | .brs sa => some (0x2e#8 ++ 0#8 ++ sa ++ 0#8)
  | .loop sa off => some (0x2f#8 ++ sa ++ off)
  | .mopNot sa sd => some (0x30#8 ++ 0#8 ++ sa ++ sd)
  | .mopAnd sa sd => some (0x30#8 ++ 1#8 ++ sa ++ sd)
  | .mopOr sa sd => some (0x30#8 ++ 2#8 ++ sa ++ sd)
  | .mopAndn sa sd => some (0x30#8 ++ 3#8 ++ sa ++ sd)
  | .mopLoad sa => some (0x30#8 ++ 4#8 ++ sa ++ 0#8)
  | .mopSave sd => some (0x30#8 ++ 1280#16 ++ sd)
  | .mopPopc sa sd => some (0x30#8 ++ 6#8 ++ sa ++ sd)
  | .mopFirst sa sd => some (0x30#8 ++ 7#8 ++ sa ++ sd)
  | .msave sd => some (0x31#8 ++ sd ++ 0#16)
  | .mrest sa => some (0x32#8 ++ 0#8 ++ sa ++ 0#8)
  | .kill => some (0x33#8 ++ 0#24)
  | .exit => some (0x34#8 ++ 0#24)
  | .yield imm => some (0x35#8 ++ 0#8 ++ imm)
  | .probe sd reg vec => some (0x36#8 ++ sd ++ reg ++ 0#7 ++ BitVec.ofBool vec)
  | .ifence => some (0x37#8 ++ 0#24)
  | .brk imm => some (0x38#8 ++ 0#8 ++ imm)
  | .stkq sd sel => some (0x39#8 ++ sd ++ sel ++ 0#8)
  | .vmov vd va la lb keep => some (0x40#8 ++ vd ++ va ++ 0#7 ++ BitVec.ofBool la ++ BitVec.ofBool lb ++ BitVec.ofBool keep)
  | .vmovs vd sb la keep => some (0x41#8 ++ vd ++ 0#7 ++ sb ++ BitVec.ofBool la ++ BitVec.ofBool keep)
  | .vli vd imm => some (0x42#8 ++ vd ++ 0#1 ++ imm)
  | .vlih vd imm => some (0x43#8 ++ vd ++ 0#1 ++ imm)
  | .vand vd va vb la lb keep => some (0x44#8 ++ vd ++ va ++ vb ++ BitVec.ofBool la ++ BitVec.ofBool lb ++ BitVec.ofBool keep)
  | .vor vd va vb la lb keep => some (0x45#8 ++ vd ++ va ++ vb ++ BitVec.ofBool la ++ BitVec.ofBool lb ++ BitVec.ofBool keep)
  | .vxor vd va vb la lb keep => some (0x46#8 ++ vd ++ va ++ vb ++ BitVec.ofBool la ++ BitVec.ofBool lb ++ BitVec.ofBool keep)
  | .vandn vd va vb la lb keep => some (0x47#8 ++ vd ++ va ++ vb ++ BitVec.ofBool la ++ BitVec.ofBool lb ++ BitVec.ofBool keep)
  | .vshl vd va vb la lb keep => some (0x48#8 ++ vd ++ va ++ vb ++ BitVec.ofBool la ++ BitVec.ofBool lb ++ BitVec.ofBool keep)
  | .vshrn vd va vb la lb keep => some (0x49#8 ++ vd ++ va ++ vb ++ BitVec.ofBool la ++ BitVec.ofBool lb ++ BitVec.ofBool keep)
  | .vshri vd va vb la lb keep => some (0x4a#8 ++ vd ++ va ++ vb ++ BitVec.ofBool la ++ BitVec.ofBool lb ++ BitVec.ofBool keep)
  | .vshli vd va la n => some (0x4b#8 ++ vd ++ va ++ BitVec.ofBool la ++ 0#4 ++ n)
  | .vshrni vd va la n => some (0x4c#8 ++ vd ++ va ++ BitVec.ofBool la ++ 0#4 ++ n)
  | .vshrii vd va la n => some (0x4d#8 ++ vd ++ va ++ BitVec.ofBool la ++ 0#4 ++ n)
  | .vrot vd va vb la lb keep => some (0x4e#8 ++ vd ++ va ++ vb ++ BitVec.ofBool la ++ BitVec.ofBool lb ++ BitVec.ofBool keep)
  | .vbitopPopc vd va la lb keep => some (0x4f#8 ++ vd ++ va ++ 0#7 ++ BitVec.ofBool la ++ BitVec.ofBool lb ++ BitVec.ofBool keep)
  | .vbitopClz vd va la lb keep => some (0x4f#8 ++ vd ++ va ++ 1#7 ++ BitVec.ofBool la ++ BitVec.ofBool lb ++ BitVec.ofBool keep)
  | .vbitopCtz vd va la lb keep => some (0x4f#8 ++ vd ++ va ++ 2#7 ++ BitVec.ofBool la ++ BitVec.ofBool lb ++ BitVec.ofBool keep)
  | .vbitopBrev vd va la lb keep => some (0x4f#8 ++ vd ++ va ++ 3#7 ++ BitVec.ofBool la ++ BitVec.ofBool lb ++ BitVec.ofBool keep)
  | .vbfx vd va sb la keep => some (0x50#8 ++ vd ++ va ++ sb ++ BitVec.ofBool la ++ BitVec.ofBool keep)
  | .vbfi vd va sb la keep => some (0x51#8 ++ vd ++ va ++ sb ++ BitVec.ofBool la ++ BitVec.ofBool keep)
  | .vprmb vd va vb la lb keep => some (0x52#8 ++ vd ++ va ++ vb ++ BitVec.ofBool la ++ BitVec.ofBool lb ++ BitVec.ofBool keep)
  | .vsel vd va vb la lb keep => some (0x53#8 ++ vd ++ va ++ vb ++ BitVec.ofBool la ++ BitVec.ofBool lb ++ BitVec.ofBool keep)
  | .vadda vd va vb la lb keep => some (0x54#8 ++ vd ++ va ++ vb ++ BitVec.ofBool la ++ BitVec.ofBool lb ++ BitVec.ofBool keep)
  | .vmada vd va vb la lb keep => some (0x55#8 ++ vd ++ va ++ vb ++ BitVec.ofBool la ++ BitVec.ofBool lb ++ BitVec.ofBool keep)
  | .vadda64 vd va vb la lb keep => some (0x56#8 ++ vd ++ va ++ vb ++ BitVec.ofBool la ++ BitVec.ofBool lb ++ BitVec.ofBool keep)
  | .vlane vd sel la lb keep => some (0x57#8 ++ vd ++ 0#7 ++ sel ++ BitVec.ofBool la ++ BitVec.ofBool lb ++ BitVec.ofBool keep)
  | .vshfl vd va vb la lb keep => some (0x58#8 ++ vd ++ va ++ vb ++ BitVec.ofBool la ++ BitVec.ofBool lb ++ BitVec.ofBool keep)
  | .vshfliXor vd va la c => some (0x59#8 ++ vd ++ va ++ BitVec.ofBool la ++ 0#3 ++ c)
  | .vshfliUp vd va la c => some (0x59#8 ++ vd ++ va ++ BitVec.ofBool la ++ 1#3 ++ c)
  | .vshfliDown vd va la c => some (0x59#8 ++ vd ++ va ++ BitVec.ofBool la ++ 2#3 ++ c)
  | .vshfliRot vd va la c => some (0x59#8 ++ vd ++ va ++ BitVec.ofBool la ++ 3#3 ++ c)
  | .vbcast vd va sb la keep => some (0x5a#8 ++ vd ++ va ++ sb ++ BitVec.ofBool la ++ BitVec.ofBool keep)
  | .vtest code va vb la lb keep => some (0x5b#8 ++ code ++ va ++ vb ++ BitVec.ofBool la ++ BitVec.ofBool lb ++ BitVec.ofBool keep)
  | .vpack vd va w la lb keep => some (0x5c#8 ++ vd ++ va ++ w ++ BitVec.ofBool la ++ BitVec.ofBool lb ++ BitVec.ofBool keep)
  | .vunpk vd va la sx w => some (0x5d#8 ++ vd ++ va ++ BitVec.ofBool la ++ BitVec.ofBool sx ++ 0#2 ++ w)
  | .vtosIdx va sb la keep => some (0x5e#8 ++ 0#7 ++ va ++ sb ++ BitVec.ofBool la ++ BitVec.ofBool keep)
  | .vtosFirst va sb la keep => some (0x5e#8 ++ 1#7 ++ va ++ sb ++ BitVec.ofBool la ++ BitVec.ofBool keep)
  | .vtosLast va sb la keep => some (0x5e#8 ++ 2#7 ++ va ++ sb ++ BitVec.ofBool la ++ BitVec.ofBool keep)
  | .vtosOr va sb la keep => some (0x5e#8 ++ 3#7 ++ va ++ sb ++ BitVec.ofBool la ++ BitVec.ofBool keep)
  | .vtosAnd va sb la keep => some (0x5e#8 ++ 4#7 ++ va ++ sb ++ BitVec.ofBool la ++ BitVec.ofBool keep)
  | .vtosAdd va sb la keep => some (0x5e#8 ++ 5#7 ++ va ++ sb ++ BitVec.ofBool la ++ BitVec.ofBool keep)
  | .vtosMaxn va sb la keep => some (0x5e#8 ++ 6#7 ++ va ++ sb ++ BitVec.ofBool la ++ BitVec.ofBool keep)
  | .vtosMinn va sb la keep => some (0x5e#8 ++ 7#7 ++ va ++ sb ++ BitVec.ofBool la ++ BitVec.ofBool keep)
  | .vadd vd va vb la lb keep => some (0x60#8 ++ vd ++ va ++ vb ++ BitVec.ofBool la ++ BitVec.ofBool lb ++ BitVec.ofBool keep)
  | .vsub vd va vb la lb keep => some (0x61#8 ++ vd ++ va ++ vb ++ BitVec.ofBool la ++ BitVec.ofBool lb ++ BitVec.ofBool keep)
  | .vmul vd va vb la lb keep => some (0x62#8 ++ vd ++ va ++ vb ++ BitVec.ofBool la ++ BitVec.ofBool lb ++ BitVec.ofBool keep)
  | .vfma vd va vb la lb keep => some (0x63#8 ++ vd ++ va ++ vb ++ BitVec.ofBool la ++ BitVec.ofBool lb ++ BitVec.ofBool keep)
  | .vfms vd va vb la lb keep => some (0x64#8 ++ vd ++ va ++ vb ++ BitVec.ofBool la ++ BitVec.ofBool lb ++ BitVec.ofBool keep)
  | .vfnma vd va vb la lb keep => some (0x65#8 ++ vd ++ va ++ vb ++ BitVec.ofBool la ++ BitVec.ofBool lb ++ BitVec.ofBool keep)
  | .vmin vd va vb la lb keep => some (0x66#8 ++ vd ++ va ++ vb ++ BitVec.ofBool la ++ BitVec.ofBool lb ++ BitVec.ofBool keep)
  | .vmax vd va vb la lb keep => some (0x67#8 ++ vd ++ va ++ vb ++ BitVec.ofBool la ++ BitVec.ofBool lb ++ BitVec.ofBool keep)
  | .vminm vd va vb la lb keep => some (0x68#8 ++ vd ++ va ++ vb ++ BitVec.ofBool la ++ BitVec.ofBool lb ++ BitVec.ofBool keep)
  | .vmaxm vd va vb la lb keep => some (0x69#8 ++ vd ++ va ++ vb ++ BitVec.ofBool la ++ BitVec.ofBool lb ++ BitVec.ofBool keep)
  | .vabs vd va la lb keep => some (0x6a#8 ++ vd ++ va ++ 0#7 ++ BitVec.ofBool la ++ BitVec.ofBool lb ++ BitVec.ofBool keep)
  | .vneg vd va la lb keep => some (0x6b#8 ++ vd ++ va ++ 0#7 ++ BitVec.ofBool la ++ BitVec.ofBool lb ++ BitVec.ofBool keep)
  | .vdiv vd va vb la lb keep => some (0x6c#8 ++ vd ++ va ++ vb ++ BitVec.ofBool la ++ BitVec.ofBool lb ++ BitVec.ofBool keep)
  | .vsqrt vd va la lb keep => some (0x6d#8 ++ vd ++ va ++ 0#7 ++ BitVec.ofBool la ++ BitVec.ofBool lb ++ BitVec.ofBool keep)
  | .vrcp vd va la lb keep => some (0x6e#8 ++ vd ++ va ++ 0#7 ++ BitVec.ofBool la ++ BitVec.ofBool lb ++ BitVec.ofBool keep)
  | .vrsq vd va la lb keep => some (0x6f#8 ++ vd ++ va ++ 0#7 ++ BitVec.ofBool la ++ BitVec.ofBool lb ++ BitVec.ofBool keep)
  | .vexp2 vd va la lb keep => some (0x70#8 ++ vd ++ va ++ 0#7 ++ BitVec.ofBool la ++ BitVec.ofBool lb ++ BitVec.ofBool keep)
  | .vlog2 vd va la lb keep => some (0x71#8 ++ vd ++ va ++ 0#7 ++ BitVec.ofBool la ++ BitVec.ofBool lb ++ BitVec.ofBool keep)
  | .vsin vd va la lb keep => some (0x72#8 ++ vd ++ va ++ 0#7 ++ BitVec.ofBool la ++ BitVec.ofBool lb ++ BitVec.ofBool keep)
  | .vcos vd va la lb keep => some (0x73#8 ++ vd ++ va ++ 0#7 ++ BitVec.ofBool la ++ BitVec.ofBool lb ++ BitVec.ofBool keep)
  | .vtanh vd va la lb keep => some (0x74#8 ++ vd ++ va ++ 0#7 ++ BitVec.ofBool la ++ BitVec.ofBool lb ++ BitVec.ofBool keep)
  | .vcmp code va vb la lb keep => some (0x75#8 ++ code ++ va ++ vb ++ BitVec.ofBool la ++ BitVec.ofBool lb ++ BitVec.ofBool keep)
  | .vclass cmask va la lb keep => some (0x76#8 ++ cmask ++ va ++ 0#7 ++ BitVec.ofBool la ++ BitVec.ofBool lb ++ BitVec.ofBool keep)
  | .vcvt vd va fs p la lb keep => some (0x77#8 ++ vd ++ va ++ fs ++ p ++ BitVec.ofBool la ++ BitVec.ofBool lb ++ BitVec.ofBool keep)
  | .vrnd vd va la lb keep => some (0x78#8 ++ vd ++ va ++ 0#7 ++ BitVec.ofBool la ++ BitVec.ofBool lb ++ BitVec.ofBool keep)
  | .vscalb vd va vb la lb keep => some (0x79#8 ++ vd ++ va ++ vb ++ BitVec.ofBool la ++ BitVec.ofBool lb ++ BitVec.ofBool keep)
  | .vmulhi vd va vb la lb keep => some (0x7a#8 ++ vd ++ va ++ vb ++ BitVec.ofBool la ++ BitVec.ofBool lb ++ BitVec.ofBool keep)
  | .vdot vd va vb la lb keep => some (0x7b#8 ++ vd ++ va ++ vb ++ BitVec.ofBool la ++ BitVec.ofBool lb ++ BitVec.ofBool keep)
  | .vqnt vd va sb la keep => some (0x7c#8 ++ vd ++ va ++ sb ++ BitVec.ofBool la ++ BitVec.ofBool keep)
  | .vdqnt vd va sb la keep => some (0x7d#8 ++ vd ++ va ++ sb ++ BitVec.ofBool la ++ BitVec.ofBool keep)
  | .vredadd vd va la lb keep => some (0x7e#8 ++ vd ++ va ++ 0#7 ++ BitVec.ofBool la ++ BitVec.ofBool lb ++ BitVec.ofBool keep)
  | .vredmax vd va la lb keep => some (0x7f#8 ++ vd ++ va ++ 0#7 ++ BitVec.ofBool la ++ BitVec.ofBool lb ++ BitVec.ofBool keep)
  | .vredmin vd va la lb keep => some (0x80#8 ++ vd ++ va ++ 0#7 ++ BitVec.ofBool la ++ BitVec.ofBool lb ++ BitVec.ofBool keep)
  | .vscanAdd vd va la lb keep => some (0x81#8 ++ vd ++ va ++ 0#7 ++ BitVec.ofBool la ++ BitVec.ofBool lb ++ BitVec.ofBool keep)
  | .vscanAddx vd va la lb keep => some (0x81#8 ++ vd ++ va ++ 1#7 ++ BitVec.ofBool la ++ BitVec.ofBool lb ++ BitVec.ofBool keep)
  | .vscanMax vd va la lb keep => some (0x81#8 ++ vd ++ va ++ 2#7 ++ BitVec.ofBool la ++ BitVec.ofBool lb ++ BitVec.ofBool keep)
  | .vscanMin vd va la lb keep => some (0x81#8 ++ vd ++ va ++ 3#7 ++ BitVec.ofBool la ++ BitVec.ofBool lb ++ BitVec.ofBool keep)
  | .vstat va la lb keep => some (0x82#8 ++ 0#7 ++ va ++ 0#7 ++ BitVec.ofBool la ++ BitVec.ofBool lb ++ BitVec.ofBool keep)
  | .sfuResultWritten _ => none
  | .fdef n sa => some (0x90#8 ++ 0#4 ++ n ++ sa ++ 0#8)
  | .fdefi n pair idx => some (0x91#8 ++ 0#4 ++ n ++ 0#7 ++ BitVec.ofBool pair ++ idx)
  | .fget sd n => some (0x92#8 ++ sd ++ 0#4 ++ n ++ 0#8)
  | .stget sd sel => some (0x93#8 ++ sd ++ sel ++ 0#8)
  | .stclr co cn ca c1 n => some (0x94#8 ++ 0#16 ++ BitVec.ofBool co ++ BitVec.ofBool cn ++ BitVec.ofBool ca ++ BitVec.ofBool c1 ++ n)
  | .stseed sa => some (0x95#8 ++ 0#8 ++ sa ++ 0#8)
  | .ld8 vd va sb la keep => some (0xa0#8 ++ vd ++ va ++ sb ++ BitVec.ofBool la ++ BitVec.ofBool keep)
  | .ld16 vd va sb la keep => some (0xa1#8 ++ vd ++ va ++ sb ++ BitVec.ofBool la ++ BitVec.ofBool keep)
  | .ld32 vd va sb la keep => some (0xa2#8 ++ vd ++ va ++ sb ++ BitVec.ofBool la ++ BitVec.ofBool keep)
  | .ld64 vd va sb la keep => some (0xa3#8 ++ vd ++ va ++ sb ++ BitVec.ofBool la ++ BitVec.ofBool keep)
  | .ld128 vd va sb la keep => some (0xa4#8 ++ vd ++ va ++ sb ++ BitVec.ofBool la ++ BitVec.ofBool keep)
  | .lds8 vd va sb la keep => some (0xa5#8 ++ vd ++ va ++ sb ++ BitVec.ofBool la ++ BitVec.ofBool keep)
  | .lds16 vd va sb la keep => some (0xa6#8 ++ vd ++ va ++ sb ++ BitVec.ofBool la ++ BitVec.ofBool keep)
  | .lds32 vd va sb la keep => some (0xa7#8 ++ vd ++ va ++ sb ++ BitVec.ofBool la ++ BitVec.ofBool keep)
  | .lds64 vd va sb la keep => some (0xa8#8 ++ vd ++ va ++ sb ++ BitVec.ofBool la ++ BitVec.ofBool keep)
  | .lds128 vd va sb la keep => some (0xa9#8 ++ vd ++ va ++ sb ++ BitVec.ofBool la ++ BitVec.ofBool keep)
  | .st8 vd va sb la keep => some (0xaa#8 ++ vd ++ va ++ sb ++ BitVec.ofBool la ++ BitVec.ofBool keep)
  | .st16 vd va sb la keep => some (0xab#8 ++ vd ++ va ++ sb ++ BitVec.ofBool la ++ BitVec.ofBool keep)
  | .st32 vd va sb la keep => some (0xac#8 ++ vd ++ va ++ sb ++ BitVec.ofBool la ++ BitVec.ofBool keep)
  | .st64 vd va sb la keep => some (0xad#8 ++ vd ++ va ++ sb ++ BitVec.ofBool la ++ BitVec.ofBool keep)
  | .st128 vd va sb la keep => some (0xae#8 ++ vd ++ va ++ sb ++ BitVec.ofBool la ++ BitVec.ofBool keep)
  | .ldb vd va sb la keep => some (0xaf#8 ++ vd ++ va ++ sb ++ BitVec.ofBool la ++ BitVec.ofBool keep)
  | .ldbs vd va sb la keep => some (0xb0#8 ++ vd ++ va ++ sb ++ BitVec.ofBool la ++ BitVec.ofBool keep)
  | .stb vd va sb la keep => some (0xb1#8 ++ vd ++ va ++ sb ++ BitVec.ofBool la ++ BitVec.ofBool keep)
  | .sld32 sd sa sb => some (0xb2#8 ++ sd ++ sa ++ sb)
  | .sld64 sd sa sb => some (0xb3#8 ++ sd ++ sa ++ sb)
  | .sst32 sd sa sb => some (0xb4#8 ++ sd ++ sa ++ sb)
  | .sst64 sd sa sb => some (0xb5#8 ++ sd ++ sa ++ sb)
  | .loadDataReturn _ _ => none
  | .storePerformed _ _ _ => none
  | .l1LineEviction _ _ => none
  | .atomicApplied _ _ => none
  | .chk va la lb keep => some (0xb6#8 ++ 0#7 ++ va ++ 0#7 ++ BitVec.ofBool la ++ BitVec.ofBool lb ++ BitVec.ofBool keep)
  | .chkb vd off => some (0xb7#8 ++ vd ++ 0#1 ++ off)
  | .ptest va la lb keep => some (0xb8#8 ++ 0#7 ++ va ++ 0#7 ++ BitVec.ofBool la ++ BitVec.ofBool lb ++ BitVec.ofBool keep)
  | .pclr vd la lb keep => some (0xb9#8 ++ vd ++ 0#14 ++ BitVec.ofBool la ++ BitVec.ofBool lb ++ BitVec.ofBool keep)
  | .waitp path sa => some (0xba#8 ++ path ++ sa ++ 0#8)
  | .prefL1 va sb la keep => some (0xbb#8 ++ 0#7 ++ va ++ sb ++ BitVec.ofBool la ++ BitVec.ofBool keep)
  | .prefL2 va sb la keep => some (0xbb#8 ++ 1#7 ++ va ++ sb ++ BitVec.ofBool la ++ BitVec.ofBool keep)
  | .cflushWb va sb la keep => some (0xbc#8 ++ 0#7 ++ va ++ sb ++ BitVec.ofBool la ++ BitVec.ofBool keep)
  | .cflushInv va sb la keep => some (0xbc#8 ++ 1#7 ++ va ++ sb ++ BitVec.ofBool la ++ BitVec.ofBool keep)
  | .aadd vd va vb la lb => some (0xc0#8 ++ vd ++ va ++ vb ++ BitVec.ofBool la ++ BitVec.ofBool lb ++ 0#1)
  | .amin vd va vb la lb => some (0xc1#8 ++ vd ++ va ++ vb ++ BitVec.ofBool la ++ BitVec.ofBool lb ++ 0#1)
  | .amax vd va vb la lb => some (0xc2#8 ++ vd ++ va ++ vb ++ BitVec.ofBool la ++ BitVec.ofBool lb ++ 0#1)
  | .aand vd va vb la lb => some (0xc3#8 ++ vd ++ va ++ vb ++ BitVec.ofBool la ++ BitVec.ofBool lb ++ 0#1)
  | .aor vd va vb la lb => some (0xc4#8 ++ vd ++ va ++ vb ++ BitVec.ofBool la ++ BitVec.ofBool lb ++ 0#1)
  | .axor vd va vb la lb => some (0xc5#8 ++ vd ++ va ++ vb ++ BitVec.ofBool la ++ BitVec.ofBool lb ++ 0#1)
  | .axch vd va vb la lb => some (0xc6#8 ++ vd ++ va ++ vb ++ BitVec.ofBool la ++ BitVec.ofBool lb ++ 0#1)
  | .acas vd va vb la lb => some (0xc7#8 ++ vd ++ va ++ vb ++ BitVec.ofBool la ++ BitVec.ofBool lb ++ 0#1)
  | .fenceAcq => some (0xc8#8 ++ 65536#24)
  | .fenceRel => some (0xc8#8 ++ 131072#24)
  | .fenceFull => some (0xc8#8 ++ 196608#24)
  | .bar sd sa sb => some (0xc9#8 ++ sd ++ sa ++ sb)
  | .semsig sa sb => some (0xca#8 ++ 0#8 ++ sa ++ sb)
  | .semsigGen sg sa sb => some (0xca#8 ++ sg ++ sa ++ sb)
  | .semwait sd sa sb => some (0xcb#8 ++ sd ++ sa ++ sb)
  | .rgarr sa sb => some (0xcc#8 ++ 0#8 ++ sa ++ sb)
  | .rgwait sd sa sb => some (0xcd#8 ++ sd ++ sa ++ sb)
  | .sigx sa sb => some (0xce#8 ++ 0#8 ++ sa ++ sb)
  | .saopAdd sa sd => some (0xcf#8 ++ 0#8 ++ sa ++ sd)
  | .saopMini sa sd => some (0xcf#8 ++ 1#8 ++ sa ++ sd)
  | .saopMinn sa sd => some (0xcf#8 ++ 2#8 ++ sa ++ sd)
  | .saopMaxi sa sd => some (0xcf#8 ++ 3#8 ++ sa ++ sd)
  | .saopMaxn sa sd => some (0xcf#8 ++ 4#8 ++ sa ++ sd)
  | .saopAnd sa sd => some (0xcf#8 ++ 5#8 ++ sa ++ sd)
  | .saopOr sa sd => some (0xcf#8 ++ 6#8 ++ sa ++ sd)
  | .saopXor sa sd => some (0xcf#8 ++ 7#8 ++ sa ++ sd)
  | .saopXch sa sd => some (0xcf#8 ++ 8#8 ++ sa ++ sd)
  | .saopCas sa sd => some (0xcf#8 ++ 9#8 ++ sa ++ sd)
  | .xcopy sd sa sb => some (0xd0#8 ++ sd ++ sa ++ sb)
  | .xexp sd sa sb => some (0xd1#8 ++ sd ++ sa ++ sb)
  | .xfill sd sa sb => some (0xd2#8 ++ sd ++ sa ++ sb)
  | .xgath sd sa sb => some (0xd3#8 ++ sd ++ sa ++ sb)
  | .xtrn sd sa sb => some (0xd4#8 ++ sd ++ sa ++ sb)
  | .layic sd sa sb => some (0xd5#8 ++ sd ++ sa ++ sb)
  | .xcancel sd st => some (0xd6#8 ++ sd ++ 0#8 ++ st)
  | .engineCommandStart _ => none
  | .copyCommandCompletion _ _ => none
  | .mma tile va j ra la ovw => some (0xd8#8 ++ tile ++ va ++ 0#2 ++ j ++ BitVec.ofBool ra ++ BitVec.ofBool la ++ BitVec.ofBool ovw)
  | .mmal sd sa sb => some (0xd9#8 ++ sd ++ sa ++ sb)
  | .mmaw4 tile va j ra la ovw => some (0xda#8 ++ tile ++ va ++ 0#2 ++ j ++ BitVec.ofBool ra ++ BitVec.ofBool la ++ BitVec.ofBool ovw)
  | .mfmt imm => some (0xdb#8 ++ 0#8 ++ imm)
  | .acalloc sd sa => some (0xdc#8 ++ sd ++ sa ++ 0#8)
  | .acfree sa sb => some (0xdd#8 ++ 0#8 ++ sa ++ sb)
  | .aczero sa sb => some (0xde#8 ++ 0#8 ++ sa ++ sb)
  | .acload sd sa sb => some (0xdf#8 ++ sd ++ sa ++ sb)
  | .acread vd sb la keep => some (0xe0#8 ++ vd ++ 0#7 ++ sb ++ BitVec.ofBool la ++ BitVec.ofBool keep)
  | .acdrain sd sa sb => some (0xe1#8 ++ sd ++ sa ++ sb)
  | .atload sd sa => some (0xe2#8 ++ sd ++ sa ++ 0#8)
  | .matrixCommandCompletion _ _ => none
  | .gmask sd sa => some (0xe4#8 ++ sd ++ sa ++ 0#8)
  | .gadv sd sa => some (0xe5#8 ++ sd ++ sa ++ 0#8)
  | .sample sd sa sb => some (0xe6#8 ++ sd ++ sa ++ sb)
  | .route sd sa => some (0xe7#8 ++ sd ++ sa ++ 0#8)
  | .emit sd sa => some (0xe8#8 ++ sd ++ sa ++ 0#8)
  | .jtrunc sd sa => some (0xe9#8 ++ sd ++ sa ++ 0#8)
  | .jreplay sd sa => some (0xea#8 ++ sd ++ sa ++ 0#8)
  | .jstat sd sa => some (0xeb#8 ++ sd ++ sa ++ 0#8)
  | .grammarUnitCompletion _ => none
  | .generationUnitCompletion _ => none
  | .journalAckReceived _ => none
  | .journalRecordReceived _ => none
  | .heartbeatSend => none
  | .heartbeatReceived => none
  | .partnerLost => none
  | .resynchronisationComplete => none
  | .rsig sa sb => some (0xec#8 ++ 0#8 ++ sa ++ sb)
  | .rsigGen sg sa sb => some (0xec#8 ++ sg ++ sa ++ sb)
  | .coll sd sa sb => some (0xed#8 ++ sd ++ sa ++ sb)
  | .peerq sd sa sb => some (0xee#8 ++ sd ++ sa ++ sb)
  | .routerAnswer _ => none
  | .collCompletion _ _ _ _ => none
  | .peerPacketArrival _ => none
  | .fabricAckArrival _ _ _ => none
  | .retransmitTimeout _ => none
  | .flitArrival _ _ => none
  | .linkLaneFailure _ _ => none
  | .linkKeyLimit _ => none
  | .trap imm => some (0xf4#8 ++ 0#8 ++ imm)
  | .pmask => some (0xf5#8 ++ 0#24)
  | .punmask => some (0xf6#8 ++ 0#24)
  | .pwreq sd sa => some (0xf7#8 ++ sd ++ sa ++ 0#8)
  | .pwrel sa => some (0xf8#8 ++ 0#8 ++ sa ++ 0#8)
  | .pwreqGrant _ => none
  | .pwreqTimeout _ => none
  | .powerPermitGrant _ => none
  | .dieHotThreshold _ => none
  | .dieCriticalThreshold _ => none
  | .taskq sd sa sb => some (0xf9#8 ++ sd ++ sa ++ sb)
  | .launch sd sa => some (0xfa#8 ++ sd ++ sa ++ 0#8)
  | .clkrd sd sel => some (0xfb#8 ++ sd ++ 0#8 ++ sel)
  | .clkrdAnswer _ => none
  | .srd sd num => some (0xfc#8 ++ sd ++ num)
  | .swr sa num => some (0xfd#8 ++ sa ++ num)
  | .illegalOpcode => none
  | .reservedOpcodePark => none
  | .divergencePop => none
  | .teamPromotion _ => none
  | .yieldExpiry _ => none
  | .teamLeaveQuadrant _ => none
  | .groupCommit _ => none
  | .launchStart _ => none
  | .groupPlacement _ _ _ _ => none
  | .queueLaunch _ _ => none
  | .queueDrain _ _ => none
  | .queueWrite _ _ => none
  | .queueWaitwake _ _ => none
  | .queueNop _ _ => none
  | .queueEntrySkipped _ _ => none
  | .preemptionRequest _ _ => none
  | .maskWatchdogExpiry _ => none
  | .handlerWatchdogExpiry _ => none
  | .partitionRestore _ => none
  | .trapQueueTake _ => none
  | .ctrlResume _ _ => none
  | .ctrlKill _ => none
  | .ctrlDetach _ => none
  | .teamStateWindowWrite _ _ _ _ => none
  | .pageServiceComplete _ _ _ => none
  | .pageServiceRefusal _ _ => none
  | .coreUncorrectableError _ => none
  | .memoryUncorrectableError _ => none
  | .powerUp => none
  | .functionReady _ => none
  | .bootImageLoad _ _ => none
  | .attestationRequest _ => none
  | .powerctlWrite _ => none
  | .referenceTimeWrite _ => none
  | .setVaultSplit _ _ => none
  | .setShadowStorage _ _ => none
  | .setPartitionColumns _ _ => none
  | .setHbmShare _ _ => none
  | .setDeterministicMode _ _ => none
  | .setDebug _ _ => none
  | .queueCreate _ _ _ => none
  | .wakeBitsWrite _ _ _ => none
  | .partnerAssign _ => none
  | .castlingCandidateName _ => none
  | .journalCapacitySet _ => none
  | .deviceFence _ => none
  | .linkKeyInstall _ _ _ => none
  | .unreachableClear _ => none
  | .collectiveAbort _ _ => none
  | .pageTableRootSet _ _ => none
  | .tlbInvalidation _ _ => none
  | .collectiveLogBaseSet _ _ => none
  | .tswBaseSet _ _ => none
  | .restoreWrite _ _ => none
  | .hostPreemptionRequest _ => none
  | .launchCancel _ => none
  | .codeObjectLoad _ => none
  | .hostCxlMemAccess _ _ _ => none
  | .statusPageUpdate _ => none
  | .managementRegisterWrite _ => none
  | .hotThresholdCleared _ => none
  | .tlbInvalidationComplete _ _ => none
  | .linkRetrainingComplete _ _ => none

/-- The word whose bytes, from the lowest address, are the little-endian bytes of w (R2, R34): its bits are the table's. -/
def decodeTableWord (nbits w : Nat) : Option Instr :=
  match decode (BitVec.ofNat 32 (w % 2 ^ min nbits 32)) with
  | .ok i => some i
  | .error _ => none

end Sys2Proof
end

