-- ==== Sys2Proof/Machine/State.lean ====
section
/-! DEFINITION. The state of the machine as plain data: teams, groups, cores, partitions, dies, launches, the journal, the fabric,
power and boot, memory, and the operations that have issued and are not complete; the reasons a step stops; the state at reset. -/

namespace Sys2Proof.Machine

/-- Why the machine stops. -/
inductive Fault where
  /-- Raised by a word instruction where no team issues: no team is current or its slot is empty. Safe: no word is executed there. -/
  | noTeam
  /-- Raised by step once the package's power is removed (R399). Safe: no unit runs until the next power-up. -/
  | powerRemoved
  deriving DecidableEq, Repr

/-- Why the model gives no meaning. -/
inductive Refusal where
  /-- Raised by an arm of exec whose instruction has no meaning in the model yet. Safe: nothing is claimed of it. -/
  | notModelled (mnemonic : String)
  deriving DecidableEq, Repr

/-- Memory by byte key: the entries that differ from 0, in rising order (log entry 7). A key below 2^48 is a device physical
address, 2^48 + p a host physical address, 2^49 + 64 MiB V + o an offset of vault V, 2^62 + 2^20 g + o an offset of the
reservation of group g. -/
abbrev Memory := Sparse Byte

/-! ## Teams -/

/-- One lane of a vector register (R28, R44, R95). -/
structure Lane where
  data : Word
  tag : Bool
  dead : Bool
  deriving DecidableEq, Repr

/-- The registers of a team (R28) with their empty marks (R47). -/
structure Regs where
  s : Sparse Word
  sEmpty : Sparse Bool
  v : Sparse (List Lane)
  vEmpty : Sparse Bool
  deriving DecidableEq, Repr

/-- Kinds of divergence-stack entry (R123). -/
inductive DivKind where
  | join | path | call
  deriving DecidableEq, Repr

/-- An entry of the divergence stack (R123). -/
structure DivEntry where
  kind : DivKind
  pc : Dbl
  mask : List Word
  rpc : Dbl
  deriving DecidableEq, Repr

/-- The counted loop of a team, whether its first pass is being captured, and the words its loop buffer has captured, by word of the
body (R131, R132). -/
structure LoopState where
  lc : Word
  start : Dbl
  last : Dbl
  active : Bool
  capture : Bool
  buffer : Sparse (Option Word)
  deriving DecidableEq, Repr

/-- Divergence and loop state (R116, R117, R123, R126, R131). `stack` holds the hardware entries, newest first; `spilled` counts
the entries in the spill area, which begins at offset `spillOff` of the group's reservation and holds `spillDepth`; `above` holds what the
team-state window wrote to hardware entries above the depth, by 40 n + i for word i of entry n (R382). -/
structure Control where
  stack : List DivEntry
  spilled : Nat
  spillOff : Nat
  spillDepth : Nat
  rpc : Dbl
  loop : LoopState
  live : List Word
  cpois : List Word
  ctok : List Word
  above : Sparse Word := []
  deriving DecidableEq, Repr

/-- Format definitions and statistics (R79, R97, R89). -/
structure FormatState where
  fdr : Sparse Dbl
  amax : Sparse Word
  flags : BitVec 4
  seed : Dbl
  srcnt : Dbl
  deriving DecidableEq, Repr

/-- The A latch (R287): the format word of the block, its first register, its registers' lanes. -/
structure Latch where
  va : Nat
  fmt : Word
  slotDef : Dbl
  rows : List (List Lane)
  deriving DecidableEq, Repr

/-- Trap report (R379, R382). -/
structure TrapReport where
  cause : Word
  vaddr : Dbl
  recpc : Dbl
  token : Word
  tcode : Word
  flw : List Word
  deriving DecidableEq, Repr

/-- What the status of a team is (CTRL.STATE of R382); a team that has executed EXIT is exited (R134). -/
inductive TeamStatus where
  | running | trapped | inHandler | awaiting | parked | exited
  deriving DecidableEq, Repr

/-- The request a sleeping team waits on (R239, R240, R244). -/
inductive SleepReq where
  | sem (key : Nat) | bar (key : Nat) | ring (ring slot : Nat) (phase : Bool)
  deriving DecidableEq, Repr

/-- An instruction that a counter of R190 counts: the operation, the path, whether it has returned. -/
structure Flight where
  op : Nat
  path : Nat
  returned : Bool
  deriving DecidableEq, Repr

/-- A failure that came with returning data and is not raised yet (R198): what it left empty, and its report. -/
structure Failure where
  op : Nat
  pc : Dbl
  code : Byte
  vaddr : Dbl
  token : Word
  lanes : List Nat
  sregs : List Nat
  vregs : List Nat
  paths : List Nat
  store : Bool
  atomic : Bool
  deriving DecidableEq, Repr

/-- A status register that holds a drain's deferred fault (R299). -/
structure DrainMark where
  reg : Nat
  pc : Dbl
  token : Word
  vaddr : Dbl
  deriving DecidableEq, Repr

/-- What a stopped team waits for (R55, R381, R390): a page; the commands whose locks refused it; nothing more; the host, with the PC to go
on behind its instruction or to stay; the end of a binding; an emulation routine. -/
inductive Service where
  | page (va : Dbl) | unlock (ops : List Nat) | ready | host | debug | bound | routine
  deriving DecidableEq, Repr

/-- Scheduling (R24, R135, R372): when it was placed or yielded last, promotion, whether YIELD keeps it not ready. -/
structure Sched where
  age : Nat
  promoted : Bool
  yielding : Bool
  deriving DecidableEq, Repr

/-- A team (R20, R28, R382). `fence` holds the router's counts that a fence, a barrier or a trap it has reached waits for (R222, R230);
`power` is its reservation and `powerAt` the number of the grant of the first request it holds (R401); `latchRows` what the team-state window
wrote to the registers of an empty A latch (R382). -/
structure Team where
  core : Nat
  quad : Nat
  group : Nat
  tidx : Nat
  beats : Nat
  nvregs : Nat
  role : Nat
  status : TeamStatus
  service : Option Service
  pc : Dbl
  mode : Half
  akind : BitVec 2
  pmcount : Nat
  regs : Regs
  ctl : Control
  fmt : FormatState
  mxm : Half
  latch : Option Latch
  latchRows : List (List Lane) := []
  report : TrapReport
  frcur : Nat
  frBase : Dbl
  frLog2 : Nat
  brtab : Dbl
  lvidx : List Word
  lvext : List Word
  flight : List Flight
  failures : List Failure
  drains : List DrainMark
  power : Nat
  powerAt : Nat
  request : Option SleepReq
  fence : Option (List (Nat × Nat))
  sched : Sched
  deriving DecidableEq, Repr

/-! ## Groups -/

/-- A stage ring (R242): slots, target, arrival counts and phases by slot (false white, true black). -/
structure Ring where
  size : Nat
  target : Nat
  count : Sparse Nat
  phase : Sparse Bool
  deriving DecidableEq, Repr

/-- A team asleep at RGWAIT (R244). -/
structure RingWaiter where
  slot : Nat
  ring : Nat
  rslot : Nat
  phase : Bool
  sd : Nat
  deriving DecidableEq, Repr

/-- An atomic or signal deferred to commit (R252); the lanes of an atomic at peers, of an instruction known by its operation's number, go
out in packets then. -/
inductive Deferred where
  | atom (fn : AtomFn) (key : Nat) (b c : Word)
  | peers (op : Nat) (fn : AtomFn) (lanes : List (Nat × Word × Word))
  | signal (key : Nat) (gen : Option Word) (n : Word)
  deriving DecidableEq, Repr

/-- Speculative state of a group of a deterministic partition (R250 to R252): marked sectors, held stores by byte key, the sectors one
held store writes in full, deferred atomics and signals in program order. -/
structure SpecState where
  marks : Sparse Bool
  held : Sparse (Option Byte)
  sectors : List Nat
  deferred : List Deferred
  deriving DecidableEq, Repr

/-- A pending pre-emption request, its running watchdogs, and those that have expired and were reported (R391 to R394). -/
structure PreRequest where
  src : PreSource
  maskDog : Bool
  handlerDog : Bool
  maskPast : Bool := false
  handlerPast : Bool := false
  deriving DecidableEq, Repr

/-- A group (R22, R28, R361). `child` is the set of TASKQ children it belongs to, if any. `tileMap` maps a group tile index to a
core tile plus one, 0 unmapped (R276). `leaving` says that it was discarded or killed and that engine commands of it still run, which
keep its reservation and its tiles (R274, R371). -/
structure Group where
  launch : Nat
  child : Option Nat
  index : Nat
  part : Nat
  core : Nat
  idem : Bool
  mxsel : Bool
  prio : Nat
  qprio : Nat
  ply : Dbl
  minor : Nat
  scratchBytes : Nat
  reservation : Nat
  resBase : Nat
  tileMap : Sparse Nat
  rings : List Ring
  waiters : List RingWaiter
  spec : SpecState
  request : Option PreRequest
  reruns : Nat
  placedAt : Nat
  leaving : Bool := false
  deriving DecidableEq, Repr

/-! ## Cores -/

/-- A tile that ACFREE unmapped and earlier commands still use (R293). -/
structure Freeing where
  tile : Nat
  after : List Nat
  deriving DecidableEq, Repr

/-- State of a core (R16, R187, R206, R137, R276): not-owned L1 copies and owned words by word key, record-cache bytes,
instruction-cache words by word key, cached last first, tiles and their tags by 1024 t + e, pool of freed tiles, activation tables by
(2 table + bank) 2064 + byte with their active banks and generations, cycle counts of the four quadrants (R19), the operand
caches of the quadrants as (slot, register) pairs, most recent first (R46), and the lines that buffer records under CPOL 1 brought to
the L1 (R202). -/
structure CoreState where
  copies : Sparse (Option Word)
  owned : Sparse Bool
  recCache : Sparse (Option Byte)
  icache : List (Nat × Word)
  tiles : Sparse Word
  tileTags : Sparse Bool
  freeing : List Freeing
  tileUsed : Sparse Bool
  atab : Sparse Byte
  atabBank : Sparse Bool
  atabGen : Sparse Word
  cycles : Sparse Dbl
  opcache : Sparse (List (Nat × Nat))
  unavailable : Bool
  streaming : Sparse Bool := []
  deriving DecidableEq, Repr

/-! ## Operations that have issued -/

/-- Where a result goes: consecutive vector or scalar registers. -/
inductive Dest where
  | none
  | vec (reg count : Nat)
  | scal (reg count : Nat)
  deriving DecidableEq, Repr

/-- One lane's access: the keys of its bytes, lowest address first, or the token it carries; its address. -/
structure Access where
  lane : Nat
  va : Dbl
  keys : List Nat
  token : Option Word
  deriving DecidableEq, Repr

/-- A decoded buffer record (R202). -/
structure BufRec where
  base : Dbl
  len : Nat
  sx : Bool
  ew : Nat
  fslot : Nat
  enc : Nat
  cpol : Nat
  bpol : Nat
  ilv : Nat
  nc : Nat
  stride : Nat
  sptr : Dbl
  round : Nat
  smode : Nat
  sgrp : Nat
  tstride : Nat
  zp : Int
  deriving DecidableEq, Repr

/-- One element of a buffer-record access (R203): lane, sub-element, keys of the bytes that hold it, the bit of the first byte
where it starts, keys and address of its scale. An element read from no position has no keys. -/
structure Elem where
  lane : Nat
  q : Nat
  va : Dbl
  keys : List Nat
  bit : Nat
  scale : List Nat
  scaleVa : Dbl := 0
  deriving DecidableEq, Repr

/-- A load (R195, R196, R201, R204): `buf` holds the record, the slot's definition and the elements of LDB and LDBS; `keep` is its hint (R46);
`once` says that it is made once for the team (R201); `detail` is the detail word of its records without the path (R191). -/
structure LoadOp where
  dest : Dest
  size : Nat
  accs : List Access
  buf : Option (BufRec × Dbl × List Elem)
  spec : Bool
  keep : Bool
  acquire : Bool
  once : Bool
  detail : Nat
  deriving DecidableEq, Repr

/-- The part of a store in one word: byte keys with the bits written (mask and value), and, for a peer word, the router's number of
the store (R342). -/
structure StoreUnit where
  lane : Nat
  va : Dbl
  bytes : List (Nat × Byte × Byte)
  sent : Option (Nat × Nat)
  deriving DecidableEq, Repr

/-- What an STB whose scales lie at a peer stores once they have come (R205, R340): the record, the slot's definition, the elements, and the
data of its lanes. -/
structure PendStore where
  buf : BufRec
  fd : Dbl
  elems : List Elem
  data : List (Nat × Nat)
  deriving DecidableEq, Repr

/-- A store: the units not yet performed, and the 32-byte sectors whose every byte the instruction writes (R193); `pend` while the scales
that an STB reads have not come; `cpol` is the cache policy of its record (R202). -/
structure StoreOp where
  units : List StoreUnit
  sectors : List Nat
  release : Bool
  once : Bool
  detail : Nat
  pend : Option PendStore := none
  cpol : Nat := 0
  deriving DecidableEq, Repr

/-- One lane of an atomic: word key, address, operands. -/
structure AtomLane where
  lane : Nat
  va : Dbl
  key : Nat
  b : Word
  c : Word
  deriving DecidableEq, Repr

/-- An atomic (R233 to R236): no destination in the no-return form; `cas2` where a scalar cas also writes sd+1. -/
structure AtomOp where
  fn : AtomFn
  dest : Dest
  cas2 : Bool
  lanes : List AtomLane
  acquire : Bool
  release : Bool
  once : Bool
  deriving DecidableEq, Repr

/-- A release that changes a word or a queue and returns nothing (R238, R243, R246, R345). -/
inductive Signal where
  | sem (key : Nat) (va : Dbl) (gen : Option Word) (n : Word)
  | ring (ring slot : Nat) (n : Word)
  | wake (queue : Nat) (v : Word)
  | mail (v : Word)
  | remote (dest addr : Nat) (gen : Option Word) (n : Word)
  deriving DecidableEq, Repr

/-- What one special-function instruction writes when it completes (R170): vd's lanes and the statistics update. -/
structure SfuOp where
  vd : List (Nat × List (Option Lane))
  slot : Nat
  amax : Word
  flags : BitVec 4
  deriving DecidableEq, Repr

/-- An answer that is still outstanding (R347, R376, R400): PEERQ with its operands, CLKRD with what was read at issue, PWREQ with its
units; and the grant of a SEMWAIT or BAR on a peer word, for its units or parties (R239, R240). -/
inductive Question where
  | wake (sd : Nat) (key : Nat) (va : Dbl) (bar : Bool) (n : Word)
  | peer (sd : Nat) (a b : Word)
  | clock (sd : Nat) (sel : Nat) (count : Dbl)
  | power (sd : Nat) (units : Nat)
  deriving DecidableEq, Repr

/-- The commands of the engines (R255, R275, R304, R349, R373). -/
inductive Command where
  | xcopy | xexp | xfill | xgath | xtrn | layic | xcancel
  | mma | mmal | mmaw4 | aczero | acload | acread | acdrain | atload
  | gmask | gadv | sample | route | emit | jtrunc | jreplay | jstat
  | coll | taskq | launch
  deriving DecidableEq, Repr

/-- A locked byte range (R261): its first address and its bytes, which wrap modulo 2^64; the group whose scratchpad it means where it lies
in that window; whether it is a write lock. -/
structure Lock where
  write : Bool
  gid : Nat := 0
  key : Nat
  size : Nat
  deriving DecidableEq, Repr

/-- Where a permit's units come from (R399). -/
inductive PermitFrom where
  | team | floor | above
  deriving DecidableEq, Repr

/-- An engine command (R245, R255, R275, R304): parameters read at issue, valid count, status register, what else it captured at
issue (the A block's lanes, the definitions of the slots, MXM, BRTAB, SAMPLE's draw), its locks, and its progress: whether the
release that its issue is has been performed, whether it has started, the token of a
matrix command whose release can no longer be performed, which XCANCELs wait for it, the parts of a request block that its engine has read
(R351). -/
structure CommandOp where
  cmd : Command
  unit : Nat
  params : List Word
  valid : Nat
  units : Nat
  sd : Nat
  sdCount : Nat
  extra : List Nat
  rows : List (List Lane)
  defs : List Dbl
  mxm : Half
  brtab : Dbl
  locks : List Lock
  need : Nat
  permit : Option PermitFrom
  released : Bool
  started : Bool
  failed : Option Word
  cancel : List Nat
  block : List (List Byte) := []
  deriving DecidableEq, Repr

/-- What has issued. -/
inductive OpKind where
  | sfu (o : SfuOp)
  | load (o : LoadOp)
  | store (o : StoreOp)
  | atom (o : AtomOp)
  | touch (lines : List Nat) (flush inv l1 : Bool)
  | signal (o : Signal)
  | ask (q : Question)
  | command (c : CommandOp)
  deriving DecidableEq, Repr

/-- An operation that has issued and is not complete (R30, R217): its number, its team's slot, group and partition, the PC, the
router's counts that a release handed to it waits for and whether it was handed over (R222, R342), the numbers under which the router
counts its packets, whether its team is gone and its result lands nowhere (R335, R353, R373), how many of its memory requests have returned
(R189), and the unreachable destinations to which its packets have failed (R344). -/
structure Op where
  id : Nat
  slot : Nat
  gid : Nat
  part : Nat
  core : Nat
  pc : Dbl
  snapshot : List (Nat × Nat)
  handed : Bool
  sent : List (Nat × Nat)
  orphan : Bool
  kind : OpKind
  returned : Nat := 0
  lost : List Nat := []
  deriving DecidableEq, Repr

/-- A team waiting at the home of a synchronisation word (R237): SEMWAIT with the units asked, or BAR with no units. A team of another
device is known by its device, its partition and the number of its packet (R338); slot, group and register are then of no account. -/
structure SemWaiter where
  slot : Nat
  gid : Nat
  part : Nat
  key : Nat
  units : Option Word
  sd : Nat
  remote : Option (Nat × Nat × Word) := none
  deriving DecidableEq, Repr

/-! ## Launches -/

/-- One level of a launch record (R361): extent, domain and home codes. -/
structure Level where
  extent : Nat
  domain : Nat
  home : Nat
  deriving DecidableEq, Repr

/-- One team declaration (R361): beats, registers, role. -/
structure TeamDecl where
  beats : Nat
  nvregs : Nat
  role : Nat
  deriving DecidableEq, Repr

/-- A checked launch record (R361). -/
structure LaunchRec where
  levels : List Level
  gteams : Nat
  teams : List TeamDecl
  rings : List (Nat × Nat)
  coop : Bool
  idem : Bool
  mxsel : Bool
  prio : Nat
  tiles : Nat
  spilld : Nat
  frlog2 : Nat
  scratch : Nat
  fsidx : Nat
  entry : Dbl
  ctab : Dbl
  brtab : Dbl
  frbase : Dbl
  plybase : Dbl
  plystep : Dbl
  args : List Word
  fmts : List Dbl
  handles : List (Nat × Nat)
  minor : Nat
  deriving DecidableEq, Repr

/-- Where a launch's status goes (R366). -/
inductive StatusDest where
  | none
  | memory (addr : Dbl)
  | command (op : Nat)
  deriving DecidableEq, Repr

/-- A group waiting for placement: its set of children (none for the launch's own), its index, the re-runs it has had, whether it was
placed before, and the groups whose pre-emption the distributor chose to request for it (R367). -/
structure Waiting where
  child : Option Nat
  index : Nat
  reruns : Nat
  again : Bool
  victims : List Nat := []
  deriving DecidableEq, Repr

/-- The groups added by one TASKQ (R374): the command, the child record, how many were added and have ended, how many killed. -/
structure ChildSet where
  op : Nat
  record : LaunchRec
  added : Nat
  ended : Nat
  killed : Nat
  deriving DecidableEq, Repr

/-- A launch (R247, R365 to R368). `units` holds, for an instance of a level, the unit it occupies. -/
structure Launch where
  part : Nat
  queue : Nat
  qprio : Nat
  record : LaunchRec
  dest : StatusDest
  parent : Option Nat
  started : Bool
  waiting : List Waiting
  resident : List Nat
  begun : Nat
  ended : Nat
  killed : Nat
  cancelled : Bool
  complete : Bool
  children : List ChildSet
  units : List (Nat × Nat × Nat)
  deriving DecidableEq, Repr

/-! ## Partitions and dies -/

/-- A command queue (R365). -/
structure Queue where
  prio : Nat
  wake : Word
  ring : List QEntry
  errors : Nat
  deriving DecidableEq, Repr

/-- A leaf entry used since the last completed invalidation (R387): the base of its page, the page's bytes, the entry. -/
structure TlbEntry where
  base : Nat
  size : Nat
  leaf : Dbl
  deriving DecidableEq, Repr

/-- What a swapped-out partition keeps (R395, R396): who asked for what led to it, the launches that were waiting at priority 7, the saved
teams, groups and cores, the trap-queue entries by die, the writes of statuses that fall due meanwhile (R377), and whether a restore has been
written. -/
structure Swap where
  src : PreSource
  allowed : List Nat
  teams : Sparse (Option Team)
  groups : Sparse (Option Group)
  cores : List (Nat × CoreState)
  traps : List (Nat × List Nat)
  due : List (Dbl × Word)
  asked : Bool
  deriving DecidableEq, Repr

/-- A partition (R31, R370, R409). Its share of HBM is hbmShare bytes from hbmBase. `stale` holds, by the physical address of a table entry,
the entries with V = 1 it held since the last completed invalidation (R387). -/
structure Partition where
  columns : Dbl
  hbmBase : Nat
  hbmShare : Nat
  det : Bool
  debug : Bool
  root : Dbl
  tlb : List TlbEntry
  stale : List (Nat × Dbl)
  invalidating : List Nat
  queues : Sparse (Option Queue)
  orphans : Nat
  kills : Nat
  frlost : Nat
  logBase : Dbl
  logNext : Nat
  statusPage : Dbl
  sent : Sparse Nat
  acked : Sparse Nat
  swap : Option Swap
  taskUsed : Nat
  deriving DecidableEq, Repr

/-- A compute die (R18, R378, R399, R410). `binds` holds the lazy functions that a TRAP asked Beloft to bind, as partition and entry (R75,
R390); `asks` the commands that asked the governor for a permit, in the order they did (R399); `refGap` how far the host's time is ahead of the
die's count (R376). -/
structure Die where
  hot : Bool
  mailbox : List (Nat × Word)
  mboxOv : Nat
  trapQueue : List Nat
  binds : List (Nat × Dbl)
  asks : List Nat
  tsw : Dbl
  tswIgn : Nat
  refTime : Dbl
  refGap : Int
  services : List (Nat × Nat)
  floorHeld : Nat
  aboveHeld : Nat
  lockWaits : Nat
  cecc : Nat
  uecc : Nat
  shadow : Bool
  deriving DecidableEq, Repr

/-! ## Journal, fabric, power, boot -/

/-- A record sent to the partner, or to be sent, and not acknowledged (R324, R327, R328): the command that waits for it (none for a record
of the tail sent again), whether it has gone out, the sequence's POLICY. -/
structure JSend where
  op : Option Nat
  sent : Bool
  policy : Bool
  record : JRecord
  deriving DecidableEq, Repr

/-- A sequence being replayed (R331, R332): the key of its SCB, the failed device, the sequence. -/
structure Replay where
  scb : Nat
  dev : Nat
  seqid : Dbl
  deriving DecidableEq, Repr

/-- The journal engines' state (R32, R324 to R334). `port` is the journal port that reaches the partner, 0 J0 or 1 J1; `held` is the region: records of the partner's sequences and, under this device's own
id, the local tail. -/
structure Journal where
  partner : Option Nat
  port : Nat
  candidate : Option Nat
  capacity : Nat
  link : Nat
  missed : Nat
  held : List JRecord
  sends : List JSend
  replays : List Replay
  fenced : List Nat
  deriving DecidableEq, Repr

/-- A fabric port (R357 to R359): working lanes, NRZ signalling, up, errors, the two key slots, the slot in use, the slots whose key the sender
has used up, the link's flit counter and what it was when the key in use began, stopped for want of a key, a change of line mode under way. -/
structure Port where
  lanes : Nat
  nrz : Bool
  up : Bool
  errors : Nat
  keys : Sparse (Option Nat)
  inUse : Nat
  spent : List Nat
  flits : Nat
  keyFrom : Nat
  stopped : Bool
  retraining : Bool
  deriving DecidableEq, Repr

/-- A flit as it leaves by a link: the port, the link's flit counter, the bytes of each working lane (R357 to R359). -/
structure WireFlit where
  port : Nat
  counter : Nat
  lanes : List (List Byte)
  deriving DecidableEq, Repr

/-- What a packet to a peer carries (R340, R345): the mask of the 32-byte sectors a load needs; a store's bytes by offset in the line, with
the bits written; an atomic's lanes as offset, vb and vb+1; a signal or a request at a synchronisation word, by its offset; the request of a
discarded group that is withdrawn, by its packet's number (R241); a line to bring home. -/
inductive PacketBody where
  | load (sectors : BitVec 4)
  | store (bytes : List (Nat × Byte × Byte))
  | atomic (fn : AtomFn) (lanes : List (Nat × Word × Word))
  | signal (offset : Nat) (gen : Option Word) (n : Word)
  | wait (offset : Nat) (bar : Bool) (n : Word)
  | withdraw (request : Word)
  | prefetch
  deriving DecidableEq, Repr

/-- A packet that left for a peer and is not answered (R340 to R344): its operation, source partition, destination, 128-byte fabric line,
sequence number, number in SENT where it is counted, contents, and the ways its transmissions took, the last one first: routes by number,
0 the minimal one, in direct mode, ports in UALink mode. -/
structure Packet where
  op : Nat
  part : Nat
  dest : Nat
  line : Nat
  seq : Word
  count : Option Nat
  body : PacketBody
  ways : List Nat
  deriving DecidableEq, Repr

/-- Fabric routers and engines (R33, R337 to R359). `neighbours` gives the device on a port, `stations` the ports of each station to a
switch; `sentSeq` holds the number of the next packet, by 2048 p + d for source partition p and destination d, `packets` those not
answered; `expected` the number of the next packet of a source and its partition, by 8 d + p, `early` those held until the ones before
them have arrived, `ahead` those performed before them, `performed` how many counted ones were performed (R341, R342); `aborted` the
collectives that were aborted (R352); `wire` the flits that left, oldest first. -/
structure Fabric where
  direct : Bool
  devid : Nat
  neighbours : List (Nat × Nat)
  routes : List Route
  partnerPort : Nat
  stations : List (List Nat)
  ports : Sparse Port
  unreachable : List Nat
  imports : List Import
  sentSeq : Sparse Nat
  packets : List Packet
  expected : Sparse Nat
  early : List PeerPacket
  ahead : List PeerPacket
  performed : Sparse Nat
  aborted : List (Dbl × Word)
  wire : List WireFlit
  deriving DecidableEq, Repr

/-- Where boot stands (R404, R405). -/
inductive BootStatus where
  | waiting | running | badBeloft | badConfiguration
  deriving DecidableEq, Repr

/-- Power, boot and management (R402 to R410). `beloft` and `config` are the images and `certificate` the certificate in boot flash (R404,
R405), the digests are the measurement registers, `identity` is the public identity key, `hostShare` the HBM the host keeps for itself as
base and size (R403). -/
structure Board where
  powered : Bool
  removed : Bool
  boot : BootStatus
  beloft : Option BootImage
  config : Option BootImage
  certificate : List Byte
  beloftDigest : List Byte
  configDigest : List Byte
  identity : List Byte
  ready : BitVec 128
  powerctl : Dbl
  pwrErr : Nat
  mgmtError : Option Nat
  emulMin : Nat
  fwVersion : Word
  refReg : Dbl
  hostWindows : List (Nat × Nat)
  hostShare : Nat × Nat
  deriving DecidableEq, Repr

/-- A placed code object (R68 to R74): where its header is, its bytes, its version, its code table and the number of its entries, its
buffer-record table and the number of its records. -/
structure CodeObject where
  part : Nat
  header : Dbl
  size : Nat
  major : Nat
  minor : Nat
  codetab : Nat
  entries : Nat
  records : Nat
  recordCount : Nat
  deriving DecidableEq, Repr

/-- What the device answers to a packet of a peer (R338, R342): performed, the bytes of a load, the old words of an atomic, what a woken
SEMWAIT or BAR receives, or a failure with its code and whether the import table refused it. -/
inductive PeerAnswer where
  | performed
  | bytes (bs : List Byte)
  | olds (ws : List Word)
  | woken (v : Word)
  | failed (code : Nat) (refused : Bool)
  deriving DecidableEq, Repr

/-- What leaves the device: reports to the host (R366, R381, R390, R394, R397, R399, R407), answers and cumulative acknowledgements to a peer
(R338, R342), acknowledgements to the partner (R325). -/
inductive HostEvent where
  | peerAnswer (src part : Nat) (seq : Word) (answer : PeerAnswer)
  | peerAcked (src part count : Nat)
  | journalAck (dev : Nat) (seqid : Dbl) (kind : RecKind) (step : Word)
  | trapReport (slot : Nat) (cause : Word) (pc : Dbl)
  | trapCode (slot : Nat) (code : Word)
  | brk (slot : Nat) (code : Word)
  | pageRefused (part : Nat) (va : Dbl)
  | watchdog (gid : Nat)
  | killed (part gid : Nat)
  | critical (die : Nat)
  | partnerLost
  | attestation (bytes : List Byte)
  | bindFailed (slot : Nat) (entry : Dbl)
  | objectRefused (part : Nat) (status : Word)
  | memRead (key : Nat) (data : Option (List Byte))
  | unreachable (dest : Nat)
  deriving DecidableEq, Repr

/-- What moves next (log entry 1): a quadrant has an issue slot, where `held` says that the fetch may use a word the instruction cache holds
(R137, R263); an event happens; a quadrant's cycles pass. -/
inductive Entry where
  | issue (core quad : Nat) (held : Bool)
  | event (i : Instr)
  | idle (core quad cycles : Nat)
  deriving DecidableEq, Repr

end Sys2Proof.Machine

namespace Sys2Proof.Machine

/-- The machine. -/
structure State where
  agenda : List Entry
  cur : Option Nat
  nextId : Nat
  freeCount : Nat
  hostLog : List HostEvent
  teams : Sparse (Option Team)
  groups : Sparse (Option Group)
  cores : Sparse CoreState
  ops : List Op
  semWaiters : List SemWaiter
  locks : List (Nat × Nat × Lock)
  mem : Memory
  marks : Sparse Bool
  vaultSplit : Sparse Nat
  parts : Sparse Partition
  dies : Sparse Die
  launches : Sparse (Option Launch)
  objects : List CodeObject
  journal : Journal
  fabric : Fabric
  board : Board
  deriving DecidableEq, Repr

/-- A core as it is at power-up: every cache empty, every tile free and zero (log entry 5), cycle counts zero (log entry 6). -/
def CoreState.reset : CoreState :=
  { copies := [], owned := [], recCache := [], icache := [], tiles := [], tileTags := [], freeing := [], tileUsed := [],
    atab := [], atabBank := [], atabGen := [], cycles := [], opcache := [], unavailable := false, streaming := [] }

/-- A partition before the host configures it (log entry 8). -/
def Partition.reset : Partition :=
  { columns := 0, hbmBase := 0, hbmShare := 0, det := false, debug := false, root := 0, tlb := [], stale := [], invalidating := [], queues := [],
    orphans := 0, kills := 0, frlost := 0, logBase := 0, logNext := 0, statusPage := 0, sent := [], acked := [], swap := none,
    taskUsed := 0 }

/-- A die after reset (log entry 8). -/
def Die.reset : Die :=
  { hot := false, mailbox := [], mboxOv := 0, trapQueue := [], binds := [], asks := [], tsw := 0, tswIgn := 0, refTime := 0, refGap := 0,
    services := [], floorHeld := 0, aboveHeld := 0, lockWaits := 0, cecc := 0, uecc := 0, shadow := false }

/-- A port before it trains (log entry 8). -/
def Port.reset : Port :=
  { lanes := 4, nrz := false, up := false, errors := 0, keys := [], inUse := 0, spent := [], flits := 0, keyFrom := 0, stopped := false, retraining := false }

/-- The journal before a partner is assigned: link state 3 (R327). -/
def Journal.reset : Journal :=
  { partner := none, port := 0, candidate := none, capacity := 0, link := 3, missed := 0, held := [], sends := [], replays := [], fenced := [] }

/-- The fabric before the configuration image is loaded (log entry 8). -/
def Fabric.reset : Fabric :=
  { direct := false, devid := 0, neighbours := [], routes := [], partnerPort := 0, stations := [], ports := [], unreachable := [],
    imports := [], sentSeq := [], packets := [], expected := [], early := [], ahead := [], performed := [], aborted := [],
    wire := [] }

/-- POWERCTL at power-up (R402): LOCK 0, each die 300 W, package 2,400 W. -/
def powerctlReset : Dbl := 0x0004B12C4B12C960#64

/-- The board before power-up (R402, R404, R406). -/
def Board.reset : Board :=
  { powered := false, removed := false, boot := .waiting, beloft := none, config := none, certificate := [],
    beloftDigest := List.replicate 32 0, configDigest := List.replicate 32 0, identity := [], ready := 0,
    powerctl := powerctlReset, pwrErr := 0, mgmtError := none, emulMin := 2, fwVersion := 0, refReg := 0, hostWindows := [],
    hostShare := (0, 0) }

/-- The machine right after reset: nothing is placed, no operation is outstanding, memory lists nothing. -/
def State.reset : State :=
  { agenda := [], cur := none, nextId := 0, freeCount := 0, hostLog := [], teams := [], groups := [], cores := [], ops := [],
    semWaiters := [], locks := [], mem := [], marks := [], vaultSplit := [], parts := [], dies := [], launches := [],
    objects := [], journal := Journal.reset, fabric := Fabric.reset, board := Board.reset }

end Sys2Proof.Machine
end

