-- ==== Sys2Proof/Machine/Ops.lean ====
section
/-! DEFINITION. The named operations over tables, memory, registers, masks, the program counter and the divergence stack; taking a
trap and returning from it (R378, R380). -/

namespace Sys2Proof.Machine

/-! ## Tables by number -/

/-- The value at k, d where nothing is listed. -/
def sget {α : Type} (d : α) : Sparse α → Nat → α
  | [], _ => d
  | (j, v) :: t, k => if j = k then v else sget d t k

/-- The table without an entry at k. -/
def sdel {α : Type} (t : Sparse α) (k : Nat) : Sparse α := t.filter fun e => e.1 != k

/-- The table with (k, v) before the first larger key. -/
def sins {α : Type} (k : Nat) (v : α) : Sparse α → Sparse α
  | [] => [(k, v)]
  | (j, w) :: t => if k < j then (k, v) :: (j, w) :: t else (j, w) :: sins k v t

/-- The table with v at k; an entry equal to the default d is not listed. -/
def sput {α : Type} [DecidableEq α] (d : α) (t : Sparse α) (k : Nat) (v : α) : Sparse α :=
  if v = d then sdel t k else sins k v (sdel t k)

/-- Keys rise strictly and no entry holds the default d. -/
def swf {α : Type} [DecidableEq α] (d : α) : Sparse α → Bool
  | [] => true
  | (k, v) :: t => decide (v ≠ d) && t.all (fun e => decide (k < e.1)) && swf d t

/-- The canonical form of memory. -/
def Memory.wf (m : Memory) : Bool := swf 0 m

/-! ## Bytes -/

/-- The number whose little-endian bytes are given (R2). -/
def leNat : List Byte → Nat
  | [] => 0
  | b :: t => b.toNat + 256 * leNat t

/-- The n low little-endian bytes of x (R2). -/
def leBytes : Nat → Nat → List Byte
  | 0, _ => []
  | n + 1, x => BitVec.ofNat 8 x :: leBytes n (x / 256)

/-- The byte a key holds. -/
def Memory.byte (m : Memory) (k : Nat) : Byte := sget 0 m k
/-- Memory with b at a key. -/
def Memory.setByte (m : Memory) (k : Nat) (b : Byte) : Memory := sput 0 m k b
/-- The n bytes from a key. -/
def Memory.bytes (m : Memory) (k n : Nat) : List Byte := (List.range n).map fun i => m.byte (k + i)
/-- Memory with the bytes written from a key upward. -/
def Memory.setBytes : Memory → Nat → List Byte → Memory
  | m, _, [] => m
  | m, k, b :: t => Memory.setBytes (m.setByte k b) (k + 1) t
/-- The little-endian number of n bytes at a key. -/
def Memory.nat (m : Memory) (k n : Nat) : Nat := leNat (m.bytes k n)
/-- Memory with some bits of a byte written (R205). -/
def Memory.maskByte (m : Memory) (k : Nat) (mask v : Byte) : Memory :=
  m.setByte k ((m.byte k &&& ~~~mask) ||| (v &&& mask))

/-- Key of a host physical address. -/
def hostKey (p : Nat) : Nat := 2 ^ 48 + p
/-- Key of a vault offset (R182). -/
def vaultKey (v o : Nat) : Nat := 2 ^ 49 + v * 2 ^ 26 + o
/-- Key of a peer word: device id and fabric address (R337). -/
def peerKey (d a : Nat) : Nat := 2 ^ 60 + d * 2 ^ 48 + a
/-- Key of an offset of a group's reservation (R184, R371). -/
def spadKey (g o : Nat) : Nat := 2 ^ 62 + g * 2 ^ 20 + o
/-- The path code of R190 for a key. -/
def keyPath (k : Nat) : Nat :=
  if k < 2 ^ 48 then 2 else if k < 2 ^ 49 then 3 else if k < 2 ^ 60 then 1 else if k < 2 ^ 62 then 4 else 0

/-! ## Teams, groups, cores, partitions, dies -/

/-- The team of a slot. -/
def State.team? (s : State) (slot : Nat) : Option Team := sget none s.teams slot
/-- The state with a team in a slot. -/
def State.setTeam (s : State) (slot : Nat) (t : Team) : State := { s with teams := sput none s.teams slot (some t) }
/-- The state with the team of a slot changed, where there is one. -/
def State.onTeam (s : State) (slot : Nat) (f : Team → Team) : State :=
  match s.team? slot with
  | some t => s.setTeam slot (f t)
  | none => s
/-- The group of a number. -/
def State.group? (s : State) (g : Nat) : Option Group := sget none s.groups g
/-- The state with a group. -/
def State.setGroup (s : State) (g : Nat) (x : Group) : State := { s with groups := sput none s.groups g (some x) }
/-- The state with a group changed, where there is one. -/
def State.onGroup (s : State) (g : Nat) (f : Group → Group) : State :=
  match s.group? g with
  | some x => s.setGroup g (f x)
  | none => s
/-- A core. -/
def State.core (s : State) (c : Nat) : CoreState := sget CoreState.reset s.cores c
/-- The state with a core changed. -/
def State.onCore (s : State) (c : Nat) (f : CoreState → CoreState) : State :=
  { s with cores := sput CoreState.reset s.cores c (f (s.core c)) }
/-- A partition. -/
def State.part (s : State) (p : Nat) : Partition := sget Partition.reset s.parts p
/-- The state with a partition changed. -/
def State.onPart (s : State) (p : Nat) (f : Partition → Partition) : State :=
  { s with parts := sput Partition.reset s.parts p (f (s.part p)) }
/-- A compute die. -/
def State.die (s : State) (d : Nat) : Die := sget Die.reset s.dies d
/-- The state with a die changed. -/
def State.onDie (s : State) (d : Nat) (f : Die → Die) : State :=
  { s with dies := sput Die.reset s.dies d (f (s.die d)) }
/-- A launch. -/
def State.launch? (s : State) (l : Nat) : Option Launch := sget none s.launches l
/-- The state with a launch. -/
def State.setLaunch (s : State) (l : Nat) (x : Launch) : State := { s with launches := sput none s.launches l (some x) }
/-- The state with a launch changed, where there is one. -/
def State.onLaunch (s : State) (l : Nat) (f : Launch → Launch) : State :=
  match s.launch? l with
  | some x => s.setLaunch l (f x)
  | none => s
/-- The compute die of a core (R15). -/
def dieOf (core : Nat) : Nat := core / 64
/-- The column of a core (R15). -/
def columnOf (core : Nat) : Nat := core / 4
/-- The partition of a team (R31): that of its group. -/
def State.partOf (s : State) (t : Team) : Nat :=
  match s.group? t.group with
  | some g => g.part
  | none => 0
/-- The state with an event reported to the host. -/
def State.tell (s : State) (e : HostEvent) : State := { s with hostLog := s.hostLog ++ [e] }
/-- The operation of a number. -/
def State.op? (s : State) (id : Nat) : Option Op := s.ops.find? fun o => o.id == id
/-- The state with an operation replaced. -/
def State.setOp (s : State) (o : Op) : State := { s with ops := s.ops.map fun p => if p.id == o.id then o else p }
/-- The state without an operation. -/
def State.dropOp (s : State) (id : Nat) : State := { s with ops := s.ops.filter fun o => o.id != id }

/-! ## Scalar registers -/

/-- A register number lies in the exec window s224 to s224+k-1 (R28). -/
def Team.inExec (t : Team) (r : Nat) : Bool := decide (224 ≤ r ∧ r < 224 + t.beats)
/-- A register number lies in the cond window s192 to s192+k-1 (R28). -/
def Team.inCond (t : Team) (r : Nat) : Bool := decide (192 ≤ r ∧ r < 192 + t.beats)

/-- The value of a scalar register; s0 reads as zero (R37). -/
def Team.rs (t : Team) (r : Nat) : Word := if r = 0 then 0 else sget 0 t.regs.s r
/-- A scalar register with the next one as bits 63:32. -/
def Team.rd64 (t : Team) (r : Nat) : Dbl := t.rs (r + 1) ++ t.rs r

/-- Word b of a mask held as a list of words. -/
def maskWord (m : List Word) (b : Nat) : Word := m.getD b 0
/-- Lane L's bit of a mask. -/
def maskBit (m : List Word) (l : Nat) : Bool := (maskWord m (l / 32)).getLsbD (l % 32)
/-- The k-word mask of the lanes that satisfy p. -/
def maskOf (k : Nat) (p : Nat → Bool) : List Word :=
  (List.range k).map fun b => BitVec.ofNat 32 (((List.range 32).map fun i => if p (32 * b + i) then 2 ^ i else 0).sum)
/-- A mask with word b replaced, as k words. -/
def maskSet (k : Nat) (m : List Word) (b : Nat) (w : Word) : List Word :=
  (List.range k).map fun i => if i = b then w else maskWord m i

/-- The register table with one word stored, whatever the window. -/
def Team.pokeS (t : Team) (r : Nat) (v : Word) : Team := { t with regs := { t.regs with s := sput 0 t.regs.s r v } }

/-- The write of a scalar register: s0 discards it (R37), an exec word is masked by the live mask (R116), a cond word loses its
poison bits and token (R117). -/
def Team.ws (t : Team) (r : Nat) (v : Word) : Team :=
  if r = 0 then t
  else if t.inExec r then t.pokeS r (v &&& maskWord t.ctl.live (r - 224))
  else if t.inCond r then
    { t.pokeS r v with ctl := { t.ctl with
        cpois := maskSet t.beats t.ctl.cpois (r - 192) 0, ctok := maskSet t.beats t.ctl.ctok (r - 192) 0 } }
  else t.pokeS r v

/-- The write of a 64-bit scalar pair: bits 31:0 to r, bits 63:32 to r + 1. -/
def Team.wd64 (t : Team) (r : Nat) (v : Dbl) : Team := (t.ws r (v.extractLsb' 0 32)).ws (r + 1) (v.extractLsb' 32 32)
/-- The writes of consecutive scalar registers. -/
def Team.wsList : Team → Nat → List Word → Team
  | t, _, [] => t
  | t, r, v :: vs => Team.wsList (t.ws r v) (r + 1) vs

/-! ## Masks of lanes -/

/-- Lanes of a team (R20). -/
def Team.lanes (t : Team) : Nat := 32 * t.beats
/-- exec(L) (R9). -/
def Team.exec (t : Team) (l : Nat) : Bool := (t.rs (224 + l / 32)).getLsbD (l % 32)
/-- cond(L) (R9). -/
def Team.cond (t : Team) (l : Nat) : Bool := (t.rs (192 + l / 32)).getLsbD (l % 32)
/-- The exec window. -/
def Team.execWindow (t : Team) : List Word := (List.range t.beats).map fun b => t.rs (224 + b)
/-- The cond window. -/
def Team.condWindow (t : Team) : List Word := (List.range t.beats).map fun b => t.rs (192 + b)
/-- The k registers from r (R118). -/
def Team.window (t : Team) (r : Nat) : List Word := (List.range t.beats).map fun b => t.rs (r + b)
/-- Every exec word is zero. -/
def Team.noExec (t : Team) : Bool := t.execWindow.all (· == 0)
/-- The GUARD field (R38). -/
def Team.guard (t : Team) : Nat := (t.mode.extractLsb' 8 2).toNat
/-- The SLOT field (R38). -/
def Team.slot (t : Team) : Nat := (t.mode.extractLsb' 0 4).toNat
/-- The RND field (R38). -/
def Team.rnd (t : Team) : Nat := (t.mode.extractLsb' 4 3).toNat
/-- The SAT field (R38). -/
def Team.sat (t : Team) : Bool := t.mode.getLsbD 7
/-- The ORDER field asks for an acquire (R38, R39). -/
def Team.orderAcq (t : Team) : Bool := t.mode.getLsbD 10
/-- The ORDER field asks for a release (R38, R39). -/
def Team.orderRel (t : Team) : Bool := t.mode.getLsbD 11
/-- Lane L is active (R9). -/
def Team.active (t : Team) (l : Nat) : Bool :=
  decide (l < t.lanes) && t.exec l &&
    (if t.guard = 1 then t.cond l else if t.guard = 2 then !t.cond l else true)
/-- The active lanes in ascending order (R9). -/
def Team.activeLanes (t : Team) : List Nat := (List.range t.lanes).filter t.active
/-- The mask of every lane of the team. -/
def Team.allLanes (t : Team) : List Word := List.replicate t.beats 0xFFFFFFFF
/-- The mask of a list of lanes. -/
def Team.lanesMask (t : Team) (ls : List Nat) : List Word := maskOf t.beats fun l => ls.contains l
/-- The team with the exec window set to a mask, word by word under the live mask (R116). -/
def Team.setExec (t : Team) (m : List Word) : Team := t.wsList 224 ((List.range t.beats).map fun b => maskWord m b)
/-- The team with the cond window set, poison cleared (R117). -/
def Team.setCond (t : Team) (m : List Word) : Team := t.wsList 192 ((List.range t.beats).map fun b => maskWord m b)

/-! ## Vector registers -/

/-- A zero lane. -/
def Lane.zero : Lane := { data := 0, tag := false, dead := false }
/-- Lane L of vector register r. -/
def Team.lane (t : Team) (r l : Nat) : Lane := (sget [] t.regs.v r).getD l Lane.zero
/-- The token a dead lane reads as: STALE, record 0 (R45). -/
def staleToken : Word := 0x0D000000
/-- What a read of a lane gives: its data, or the token that poisons the reader (R45, R95). -/
def Lane.read (x : Lane) : Except Word Word :=
  if x.dead then .error staleToken else if x.tag then .error x.data else .ok x.data
/-- A read of lane L of vector register r. -/
def Team.rv (t : Team) (r l : Nat) : Except Word Word := (t.lane r l).read
/-- The lane a result makes: data with the tag clear, or a token with the tag set (R10, R95). -/
def laneOf : Except Word Word → Lane
  | .ok w => { data := w, tag := false, dead := false }
  | .error k => { data := k, tag := true, dead := false }
/-- The team with the lanes of a vector register for which f gives a value written; other lanes keep data, tag and dead mark. -/
def Team.wv (t : Team) (r : Nat) (f : Nat → Option Lane) : Team :=
  { t with regs := { t.regs with
      v := sput [] t.regs.v r ((List.range t.lanes).map fun l => (f l).getD (t.lane r l)) } }
/-- The team with a vector register marked dead in its active lanes (R44). -/
def Team.kill (t : Team) (r : Nat) : Team :=
  t.wv r fun l => if t.active l then some { t.lane r l with dead := true } else none
/-- Last-use marks on registers, where the hint bit is set (R44). -/
def Team.lastUse (t : Team) (ms : List (Nat × Bool)) : Team := ms.foldl (fun t m => if m.2 then t.kill m.1 else t) t

/-! ## Full and empty (R47) -/

/-- A scalar register is empty. -/
def Team.sEmpty (t : Team) (r : Nat) : Bool := sget false t.regs.sEmpty r
/-- A vector register is empty. -/
def Team.vEmpty (t : Team) (r : Nat) : Bool := sget false t.regs.vEmpty r
/-- The team with a scalar register marked empty or full; s0 is never marked (R49). -/
def Team.markS (t : Team) (e : Bool) (r : Nat) : Team :=
  if r = 0 then t else { t with regs := { t.regs with sEmpty := sput false t.regs.sEmpty r e } }
/-- The team with a vector register marked empty or full. -/
def Team.markV (t : Team) (e : Bool) (r : Nat) : Team :=
  { t with regs := { t.regs with vEmpty := sput false t.regs.vEmpty r e } }
/-- The registers of a destination. -/
def Dest.list : Dest → List Nat
  | .none => []
  | .vec r n => (List.range n).map (r + ·)
  | .scal r n => (List.range n).map (r + ·)
/-- The team with a destination marked empty or full. A producer whose destination is s0 marks nothing (R49); of a pair s0:s1 only s0 is the
register that discards, and s1 is marked and written, as R115 says of SADD64: the model's choice for the other producers (log entry 91). -/
def Team.mark (t : Team) (e : Bool) (d : Dest) : Team :=
  match d with
  | .none => t
  | .vec _ _ => d.list.foldl (fun t r => t.markV e r) t
  | .scal _ _ => if d.list.head? = some 0 ∧ d.list.length = 1 then t else d.list.foldl (fun t r => t.markS e r) t

/-! ## The cond window written from lane values (R117) -/

/-- The lowest lane of word b that satisfies p. -/
def lowestIn (b : Nat) (p : Nat → Bool) : Option Nat := ((List.range 32).map (32 * b + ·)).find? p

/-- The cond window after an instruction that gives each lane for which f answers a cond bit, or a token where the lane's source is
poisoned (R117). -/
def Team.condLanes (t : Team) (f : Nat → Option (Except Word Bool)) : Team :=
  let old := t.condWindow
  let pois := maskOf t.beats fun l =>
    match f l with
    | some (.ok _) => false
    | some (.error _) => true
    | none => maskBit t.ctl.cpois l
  let newlyIn (b : Nat) : Option Nat := lowestIn b fun l => match f l with | some (.error _) => true | _ => false
  let tokOf (b : Nat) : Word :=
    if maskWord pois b = 0 then 0
    else match newlyIn b with
      | none => maskWord t.ctl.ctok b
      | some m =>
        let below := (lowestIn b fun l => decide (l < m) && maskBit t.ctl.cpois l && maskBit pois l).isSome
        if below then maskWord t.ctl.ctok b
        else match f m with
          | some (.error k) => k
          | _ => maskWord t.ctl.ctok b
  let bits := maskOf t.beats fun l =>
    match f l with
    | some (.ok c) => c
    | some (.error _) => false
    | none => maskBit old l
  let t1 := (List.range t.beats).foldl (fun t b => t.pokeS (192 + b) (maskWord bits b)) t
  { t1 with ctl := { t.ctl with cpois := pois, ctok := (List.range t.beats).map tokOf } }

/-! ## The program counter -/

/-- The PC after an instruction that does not transfer control: PC + 4, or the back edge of an active loop at E (R34, R130; log entry 17). -/
def Team.advance (t : Team) : Team :=
  let l := t.ctl.loop
  if l.active && t.pc == l.last then
    if 1 < l.lc.toNat then { t with pc := l.start, ctl := { t.ctl with loop := { l with lc := l.lc - 1, capture := false } } }
    else { t with pc := l.last + 4, ctl := { t.ctl with loop := { l with lc := 0, active := false, buffer := [] } } }
  else { t with pc := t.pc + 4 }

/-- The loop state when the PC moves to an address by a branch or a pop: a loop that is left is inactive, its count zero (R131; log entry 17). -/
def LoopState.leave (l : LoopState) (pc : Dbl) : LoopState :=
  if l.active && !(decide (l.start.toNat ≤ pc.toNat ∧ pc.toNat ≤ l.last.toNat)) then { l with lc := 0, active := false, buffer := [] } else l

/-- The PC after a transfer of control. -/
def Team.goto (t : Team) (pc : Dbl) : Team :=
  { t with pc := pc, ctl := { t.ctl with loop := t.ctl.loop.leave pc } }

/-- The address n words from a branch word (R36). -/
def branchTo {w : Nat} (pc : Dbl) (off : BitVec w) : Dbl := pc + (off.signExtend 64) * 4

/-! ## In-flight counters (R190) -/

/-- The counter of a path. -/
def Team.inflight (t : Team) (path : Nat) : Nat := (t.flight.filter fun f => f.path == path).length
/-- The flights of a path once those that returned at the head have lowered the counter. -/
def fallen : List Flight → List Flight
  | [] => []
  | f :: t => if f.returned then fallen t else f :: t
/-- The team after an operation has returned on a path: a counter falls only in issue order. -/
def Team.landed (t : Team) (op path : Nat) : Team :=
  let fs := t.flight.map fun f => if f.op == op && f.path == path then { f with returned := true } else f
  let mine := fallen (fs.filter fun f => f.path == path)
  let kept := fs.filter fun f => f.path != path || mine.any fun g => g.op == f.op
  { t with flight := kept }
/-- The team after an operation has returned on every path it used. -/
def Team.landedAll (t : Team) (op : Nat) : Team := (List.range 6).foldl (fun t p => t.landed op p) t
/-- The team with an operation counted on paths. -/
def Team.launchOn (t : Team) (op : Nat) (paths : List Nat) : Team :=
  { t with flight := t.flight ++ paths.map fun p => { op := op, path := p, returned := false } }

/-! ## The operand cache (R46) -/

/-- The operand cache of a quadrant after a write of a vector register: held in front with keep, else dropped. -/
def State.cacheOperand (s : State) (slot : Nat) (t : Team) (r : Nat) (keep : Bool) : State :=
  s.onCore t.core fun c =>
    let es := (sget [] c.opcache t.quad).filter fun e => e != (slot, r)
    { c with opcache := sput [] c.opcache t.quad (if keep then ((slot, r) :: es).take Config.operandCacheEntries else es) }
/-- The operand cache after registers are marked dead. -/
def State.dropOperands (s : State) (slot : Nat) (t : Team) (ms : List (Nat × Bool)) : State :=
  ms.foldl (fun s m => if m.2 then s.cacheOperand slot t m.1 false else s) s

/-! ## The divergence stack (R123 to R127) -/

/-- RPC when it is none (R123). -/
def rpcNone : Dbl := 1
/-- Bytes of a spilled entry (R126). -/
def spillSize (k : Nat) : Nat := 32 + 16 * ((k + 3) / 4)
/-- The code of an entry's kind (R126, R139). -/
def DivKind.code : DivKind → Nat
  | .join => 1
  | .path => 2
  | .call => 3
/-- The kind of a code. -/
def divKindOf (n : Nat) : DivKind := if n = 1 then .join else if n = 2 then .path else .call
/-- The bytes of an entry (R126). -/
def DivEntry.bytes (k : Nat) (e : DivEntry) : List Byte :=
  leBytes 8 e.pc.toNat ++ leBytes 8 e.rpc.toNat ++ leBytes 4 e.kind.code ++ leBytes 12 0 ++
    leBytes (spillSize k - 32) (leNat (((List.range k).map fun b => leBytes 4 (maskWord e.mask b).toNat).flatten))
/-- The entry that bytes at a key hold (R126). -/
def divEntryAt (m : Memory) (k key : Nat) : DivEntry :=
  { kind := divKindOf (m.nat (key + 16) 4), pc := dbl (m.nat key 8), rpc := dbl (m.nat (key + 8) 8),
    mask := (List.range k).map fun b => word (m.nat (key + 32 + 4 * b) 4) }
/-- Entries on the stack, spilled ones included. -/
def Team.depth (t : Team) : Nat := t.ctl.stack.length + t.ctl.spilled
/-- A push would exceed 16 entries plus the spill depth (R127). -/
def Team.stackFull (t : Team) (pushes : Nat) : Bool := decide (Config.hardwareStack + t.ctl.spillDepth < t.depth + pushes)
/-- The key of spilled entry n of a team (R126). -/
def Team.spillKey (t : Team) (n : Nat) : Nat := spadKey t.group (t.ctl.spillOff + n * spillSize t.beats)

/-- A push: with 16 entries in hardware the oldest is written to the spill area first (R126). -/
def State.push (s : State) (slot : Nat) (e : DivEntry) : State :=
  match s.team? slot with
  | none => s
  | some t =>
    if t.ctl.stack.length < Config.hardwareStack then
      s.setTeam slot { t with ctl := { t.ctl with stack := e :: t.ctl.stack } }
    else
      let oldest := t.ctl.stack.getLastD e
      let s1 := { s with mem := s.mem.setBytes (t.spillKey t.ctl.spilled) (oldest.bytes t.beats) }
      s1.setTeam slot { t with ctl := { t.ctl with stack := e :: t.ctl.stack.dropLast, spilled := t.ctl.spilled + 1 } }

/-- The team as it ends (R134): its stack and splits go with it. -/
def Team.ended (t : Team) : Team :=
  { t with status := .exited, pmcount := 0, request := none, fence := none,
           ctl := { t.ctl with stack := [], spilled := 0, loop := { t.ctl.loop with active := false, buffer := [] } } }

/-- The top entry of the stack; a spilled one where the hardware entries are exhausted (R126). -/
def State.top? (s : State) (t : Team) : Option DivEntry :=
  match t.ctl.stack with
  | e :: _ => some e
  | [] => if t.ctl.spilled = 0 then none else some (divEntryAt s.mem t.beats (t.spillKey (t.ctl.spilled - 1)))

/-- One entry removed and applied (R124): exec window, PC and RPC. -/
def Team.applyEntry (t : Team) (e : DivEntry) : Team :=
  let c := match t.ctl.stack with
    | _ :: r => { t.ctl with stack := r }
    | [] => { t.ctl with spilled := t.ctl.spilled - 1 }
  let t1 := { t with ctl := { c with rpc := e.rpc } }
  (t1.setExec e.mask).goto e.pc

/-- Pops while the exec window is empty and the entry is not a call (R124); with the stack empty and no lane left the team exits. -/
def State.popLoop : Nat → State → Team → Team
  | 0, _, t => t
  | n + 1, s, t =>
    match s.top? t with
    | none => if t.noExec then t.ended else t
    | some e =>
      let t1 := t.applyEntry e
      if t1.noExec && decide (e.kind ≠ .call) && decide (0 < t1.depth) then State.popLoop n s t1
      else if t1.noExec && t1.depth == 0 then t1.ended else t1

/-- A pop (R124). -/
def State.pop (s : State) (t : Team) : Team := State.popLoop (t.depth + 1) s t

/-! ## Traps (R378 to R380) -/

/-- The fields of a trap report (R379, R382), and the commands whose locks refused the access of a RANGE_LOCKED fault (R381). -/
structure Report where
  cause : Nat
  deferred : Bool
  earlier : Bool
  vaddr : Dbl
  recpc : Dbl
  token : Word
  tcode : Word
  flw : List Word
  blockers : List Nat := []
  deriving DecidableEq, Repr

/-- A precise fault of a code, with the lanes its fault-lane window names. -/
def Report.precise (cause : Nat) (flw : List Word) : Report :=
  { cause := cause, deferred := false, earlier := false, vaddr := 0, recpc := 0, token := 0, tcode := 0, flw := flw }
/-- A deferred fault that raises a token (R379). -/
def Report.raise (token : Word) (flw : List Word) : Report :=
  { cause := (token.extractLsb' 24 8).toNat, deferred := true, earlier := false, vaddr := 0, recpc := 0, token := token, tcode := 0,
    flw := flw }
/-- The CAUSE word (R379). -/
def Report.causeWord (r : Report) : Word :=
  word (r.cause % 256 + (if r.deferred then 256 else 0) + (if r.earlier then 512 else 0))

/-- A team takes a trap (R378): PC stays at the instruction, the report is written, the team stops, and its core and slot are appended
to the trap queue of its die. TRAP 0x0100 asks Beloft to bind the lazy function whose entry stands in s190:s191 (R390), a request that
belongs to the entry and not to the team (R75). -/
def State.trap (s : State) (slot : Nat) (r : Report) : State :=
  match s.team? slot with
  | none => s
  | some t =>
    let t1 := { t with
      status := .trapped
      service := if r.blockers = [] then none else some (.unlock r.blockers)
      report := { cause := r.causeWord, vaddr := r.vaddr, recpc := r.recpc, token := r.token, tcode := r.tcode, flw := r.flw } }
    (s.setTeam slot t1).onDie (dieOf t.core) fun d => { d with
      trapQueue := d.trapQueue ++ [slot]
      binds := if r.cause = 0x13 ∧ r.tcode = 0x0100 then d.binds ++ [(s.partOf t, t.rd64 190)] else d.binds }

/-- A precise ILLEGAL fault, naming every lane (R53). -/
def State.illegal (s : State) (slot : Nat) : State :=
  match s.team? slot with
  | none => s
  | some t => s.trap slot (Report.precise 0x10 t.allLanes)

/-- The return from a trap (R380): the team returns to its scheduler at the PC its window holds, or at one given; an acquire. -/
def State.resume (s : State) (slot : Nat) (pc : Option Dbl) : State :=
  match s.team? slot with
  | none => s
  | some t =>
    let s1 := s.setTeam slot { t with status := .running, service := none, pc := pc.getD t.pc }
    s1.onCore t.core fun c => { c with copies := [], recCache := [] }

/-! ## Numbers for operations -/

/-- An operation added at the end of the list of what has issued, and its number taken (log entry 2). -/
def State.addOp (s : State) (slot : Nat) (t : Team) (kind : OpKind) : State :=
  { s with
    nextId := s.nextId + 1
    ops := s.ops ++ [{ id := s.nextId, slot := slot, gid := t.group, part := s.partOf t, core := t.core, pc := t.pc,
                       snapshot := [], handed := false, sent := [], orphan := false, kind := kind }] }

/-! ## Teams that may be swapped out (R241, R274, R395) -/

/-- A change of the team that made a request, resident or saved while its partition is out: what is delivered after the restore is
written to the saved team (R396). -/
def State.onTeamOf (s : State) (part slot gid : Nat) (f : Team → Team) : State :=
  match s.team? slot with
  | some t => if t.group = gid then (if t.status = .exited then s else s.setTeam slot (f t)) else saved s
  | none => saved s
where
  /-- The same on the saved team of a partition that is out. -/
  saved (s : State) : State :=
    match (s.part part).swap with
    | none => s
    | some w =>
      match sget none w.teams slot with
      | none => s
      | some t =>
        if t.group = gid ∧ t.status ≠ .exited then
          s.onPart part fun p => { p with swap := some { w with teams := sput none w.teams slot (some (f t)) } }
        else s
/-- A group, resident or saved with its partition. -/
def State.groupOf (s : State) (part gid : Nat) : Option Group :=
  match s.group? gid with
  | some g => some g
  | none => (s.part part).swap.bind fun w => sget none w.groups gid

end Sys2Proof.Machine
end

