-- ==== Sys2Proof/Machine/Numbers.lean ====
section
/-! DEFINITION. The arithmetic of numbers: format definitions and the values of their codes (R79 to R84), encoding an exact value
(R85 to R88), the built-in formats (R90), exact sums and products (R161). -/

namespace Sys2Proof.Machine

/-! ## Definitions -/

/-- A format definition, field by field (R79). -/
structure Fmt where
  w : Nat
  m : Nat
  sign : Bool
  kind : Nat
  e : Nat
  bias : Int
  frac : Nat
  pack : Bool
  ovf : Bool
  sub : Nat
  inf : Nat
  nan : Nat
  drnd : Nat
  deriving DecidableEq, Repr

/-- The fields of a definition register (R79). -/
def fmtOf (d : Dbl) : Fmt :=
  { w := (d.extractLsb' 0 6).toNat, m := (d.extractLsb' 8 5).toNat, sign := d.getLsbD 13, kind := (d.extractLsb' 14 2).toNat,
    e := (d.extractLsb' 16 4).toNat, bias := (d.extractLsb' 20 12).toInt, frac := (d.extractLsb' 32 6).toNat,
    pack := d.getLsbD 40, ovf := d.getLsbD 41, sub := (d.extractLsb' 42 2).toNat, inf := (d.extractLsb' 44 2).toNat,
    nan := (d.extractLsb' 46 2).toNat, drnd := (d.extractLsb' 48 3).toNat }

/-- A definition is valid (R80). -/
def fmtValid (d : Dbl) : Bool :=
  let f := fmtOf d
  let b2n (b : Bool) : Nat := if b then 1 else 0
  decide (d.extractLsb' 51 13 = 0 ∧ d.extractLsb' 38 2 = 0 ∧ d.extractLsb' 6 2 = 0) &&
  decide (1 ≤ f.w ∧ f.w ≤ 32 ∧ f.drnd ≤ 5) &&
  match f.kind with
  | 0 => decide (b2n f.sign + f.e + f.m = f.w ∧ 1 ≤ f.e ∧ f.e ≤ 11 ∧ f.frac = 0 ∧ f.sub ≠ 3 ∧ f.inf ≠ 3 ∧
        (f.inf = 1 ↔ f.nan = 1) ∧ (f.inf = 1 → 1 ≤ f.m ∧ 2 ≤ f.e) ∧ (f.nan = 3 → f.sign = true) ∧
        (f.ovf = false ∧ f.inf = 0 → f.nan ≠ 0))
  | 1 => decide (f.sign = true ∧ f.e = 0 ∧ f.m = 0 ∧ f.bias = 0 ∧ f.frac = 0 ∧ f.sub = 0 ∧ f.inf = 0 ∧ f.nan = 0)
  | 2 => decide (f.sign = false ∧ f.e = 0 ∧ f.m = 0 ∧ f.bias = 0 ∧ f.frac = 0 ∧ f.sub = 0 ∧ f.inf = 0 ∧ f.nan = 0)
  | _ => decide (f.e = 0 ∧ f.m = 0 ∧ f.bias = 0 ∧ f.frac ≤ f.w ∧ f.sub = 0 ∧ f.inf = 0 ∧ f.nan = 0)

/-- The built-in definitions (R90). -/
def builtin (i : Nat) : Dbl :=
  match i with
  | 0 => 0x0000500007F83720
  | 1 => 0x0000500000F52A10
  | 2 => 0x0000500007F82710
  | 3 => 0x0000800000742308
  | 4 => 0x0000500000F52208
  | 5 => 0x0000020000122306
  | 6 => 0x0000020000332206
  | 7 => 0x0000020000122104
  | 8 => 0x00008A0007F80008
  | 9 => 0x0000020000006008
  | 10 => 0x0000020000008008
  | 11 => 0x0000020000006004
  | 12 => 0x0000000000006010
  | 13 => 0x0000000000008010
  | 14 => 0x0000000000006020
  | _ => 0x0000000000008020

/-- The built-in binary32 definition (R79). -/
def binary32 : Fmt := fmtOf (builtin 0)

/-- The definition register of a slot; a register never written holds binary32 (R79). -/
def Team.fdr (t : Team) (n : Nat) : Dbl := sget (builtin 0) t.fmt.fdr n
/-- The format of a slot. -/
def Team.fmtAt (t : Team) (n : Nat) : Fmt := fmtOf (t.fdr n)

/-- Sub-elements of a container (R92). -/
def Fmt.count (f : Fmt) : Nat := if f.w = 0 then 0 else (if f.pack then 64 else 32) / f.w

/-! ## Values -/

/-- An exact value: NaN, an infinity, or (-1)^neg m 2^e, where m = 0 is a signed zero. -/
inductive Val where
  | nan
  | inf (neg : Bool)
  | fin (neg : Bool) (m : Nat) (e : Int)
  deriving DecidableEq, Repr

/-- Two's complement of a w-bit number. -/
def signedOf (w n : Nat) : Int := if n % 2 ^ w < 2 ^ (w - 1) ∨ w = 0 then ((n % 2 ^ w : Nat) : Int) else ((n % 2 ^ w : Nat) : Int) - (2 ^ w : Nat)

/-- An integer times a power of two. -/
def Val.ofInt (i : Int) (e : Int) : Val := .fin (decide (i < 0)) i.natAbs e

/-- A kind other than float. -/
def Fmt.isInt (f : Fmt) : Bool := decide (f.kind ≠ 0)
/-- The W-bit integer of a code of an integer or fixed kind is two's complement. -/
def Fmt.isSigned (f : Fmt) : Bool := if f.kind = 1 then true else if f.kind = 2 then false else f.sign

/-- The value of a code (R81, R82, R84). -/
def decodeVal (f : Fmt) (code : Nat) : Val :=
  if f.isInt then
    let n := code % 2 ^ f.w
    let i : Int := if f.isSigned then signedOf f.w n else (n : Int)
    Val.ofInt i (-(f.frac : Int))
  else
    let s := f.sign && code.testBit (f.w - 1)
    let fr := code % 2 ^ f.m
    let x := (code >>> f.m) % 2 ^ f.e
    let ones := 2 ^ f.e - 1
    if f.nan = 1 ∧ x = ones then (if fr = 0 then .inf s else .nan)
    else if f.nan = 2 ∧ x = ones ∧ fr = 2 ^ f.m - 1 then .nan
    else if f.nan = 3 ∧ s = true ∧ x = 0 ∧ fr = 0 then .nan
    else if x = 0 ∧ f.sub = 1 then .fin s 0 0
    else if x = 0 ∧ f.sub = 0 then .fin s fr (1 - f.bias - f.m)
    else .fin s (2 ^ f.m + fr) ((x : Int) - f.bias - f.m)

/-- The highest exponent field that holds finite values (R83). -/
def Fmt.xmax (f : Fmt) : Nat := if f.inf = 1 ∨ (f.nan = 2 ∧ f.m = 0) then 2 ^ f.e - 2 else 2 ^ f.e - 1
/-- The magnitude code of the largest finite value (R83). -/
def Fmt.top (f : Fmt) : Nat := f.xmax * 2 ^ f.m + (if f.nan = 2 ∧ 1 ≤ f.m ∧ f.xmax = 2 ^ f.e - 1 then 2 ^ f.m - 2 else 2 ^ f.m - 1)

/-! ## Magnitudes -/

/-- A non-zero magnitude: the floor of its base-2 logarithm, and the floor of its product with 2^j with whether that is exact. -/
structure Mag where
  log : Int
  scale : Int → Nat × Bool

/-- m 2^k as a floor and whether it is exact. -/
def shiftFloor (m : Nat) (k : Int) : Nat × Bool :=
  if 0 ≤ k then (m <<< k.toNat, true) else (m >>> (-k).toNat, decide (m % 2 ^ (-k).toNat = 0))

/-- m 2^e. -/
def Mag.dyadic (m : Nat) (e : Int) : Mag := { log := (Nat.log2 m : Int) + e, scale := fun j => shiftFloor m (e + j) }

/-- (n / d) 2^e. -/
def Mag.quot (n d : Nat) (e : Int) : Mag :=
  let fl (k : Int) : Nat × Bool :=
    if 0 ≤ k then ((n <<< k.toNat) / d, decide ((n <<< k.toNat) % d = 0))
    else (n / (d <<< (-k).toNat), decide (n % (d <<< (-k).toNat) = 0))
  let g : Int := (Nat.log2 n : Int) - (Nat.log2 d : Int)
  { log := (if 1 ≤ (fl (-g)).1 then g else g - 1) + e, scale := fun j => fl (e + j) }

/-- The bits of the integer square root of n from bit i down, above the root r found so far. -/
def isqrtGo (n : Nat) : Nat → Nat → Nat
  | 0, r => r
  | i + 1, r => if (r + 2 ^ i) * (r + 2 ^ i) ≤ n then isqrtGo n i (r + 2 ^ i) else isqrtGo n i r
/-- The floor of the square root. -/
def isqrt (n : Nat) : Nat := isqrtGo n (Nat.log2 n / 2 + 1) 0

/-- The square root of m 2^e. -/
def Mag.sqrt (m : Nat) (e : Int) : Mag :=
  { log := ((Nat.log2 m : Int) + e) / 2
    scale := fun j =>
      let y := shiftFloor m (e + 2 * j)
      let r := isqrt y.1
      (r, y.2 && decide (r * r = y.1)) }

/-- The reciprocal square root of m 2^e. -/
def Mag.rsqrt (m : Nat) (e : Int) : Mag :=
  let l : Int := (Nat.log2 m : Int) + e
  { log := if m = 2 ^ Nat.log2 m then (-l) / 2 else -(l / 2) - 1
    scale := fun j =>
      let k : Int := 2 * j - e
      let q := if 0 ≤ k then 2 ^ k.toNat / m else 0
      let ex := if 0 ≤ k then decide (2 ^ k.toNat % m = 0) else false
      let r := isqrt q
      (r, ex && decide (r * r = q)) }

/-- A result before it is encoded: a special, a signed zero, or a sign and a magnitude. -/
inductive Exact where
  | nan
  | inf (neg : Bool)
  | zero (neg : Bool)
  | real (neg : Bool) (m : Mag)

/-- A value as a result. -/
def Val.exact : Val → Exact
  | .nan => .nan
  | .inf s => .inf s
  | .fin s m e => if m = 0 then .zero s else .real s (Mag.dyadic m e)

/-! ## Rounding and encoding -/

/-- What an encoding gives: the code and whether the overflow-on-convert flag is set. -/
structure Enc where
  code : Nat
  ovc : Bool
  deriving DecidableEq, Repr

/-- Whether a magnitude between i and i + 1 grid steps goes to i + 1 (R85): the sign, the fraction as 32 bits with whether more bits
follow, whether the lower neighbour is odd, the draw. -/
def roundsUp (rnd : Nat) (neg : Bool) (fr : Nat) (exact : Bool) (odd : Bool) (draw : Nat) : Bool :=
  if fr = 0 ∧ exact = true then false
  else match rnd with
    | 0 => if fr = 2 ^ 31 ∧ exact = true then odd else decide (2 ^ 31 ≤ fr)
    | 1 => false
    | 2 => !neg
    | 3 => neg
    | 4 => decide (2 ^ 31 ≤ fr)
    | _ =>
      if neg then
        let up := 2 ^ 32 - fr - (if exact then 0 else 1)
        !(decide (2 ^ 32 ≤ up + draw))
      else decide (2 ^ 32 ≤ fr + draw)

/-- A magnitude in steps of 2^q: the whole steps, the next 32 bits, and whether that is all of it. -/
def Mag.steps (x : Mag) (q : Int) : Nat × Nat × Bool :=
  if x.log + 40 < q then (0, 0, false)
  else
    let n := x.scale (32 - q)
    (n.1 / 2 ^ 32, n.1 % 2 ^ 32, n.2)

/-- The bit of a negative sign. -/
def Fmt.signBit (f : Fmt) (neg : Bool) : Nat := if neg && f.sign then 2 ^ (f.w - 1) else 0
/-- The code of zero with a sign; the smallest magnitude where the format has no zero (R85, R86). -/
def Fmt.zeroCode (f : Fmt) (neg : Bool) : Nat :=
  if f.sub = 2 then f.signBit neg else if f.nan = 3 then 0 else f.signBit neg
/-- The canonical NaN (R88). -/
def Fmt.nanCode (f : Fmt) : Nat :=
  if f.nan = 1 then (2 ^ f.e - 1) * 2 ^ f.m + 2 ^ (f.m - 1)
  else if f.nan = 2 then 2 ^ (f.e + f.m) - 1
  else 2 ^ (f.w - 1)
/-- The code of an infinity in a format with INF = 1 (R82). -/
def Fmt.infCode (f : Fmt) (neg : Bool) : Nat := f.signBit neg + (2 ^ f.e - 1) * 2 ^ f.m

/-- An overflow in a float format (R87). -/
def overflowCode (f : Fmt) (rnd : Nat) (sat neg : Bool) : Nat :=
  let largest := f.signBit neg + f.top
  if sat || f.ovf || f.inf == 2 then largest
  else if f.inf = 1 then
    match rnd with
    | 1 => largest
    | 2 => if neg then largest else f.infCode neg
    | 3 => if neg then f.infCode neg else largest
    | _ => f.infCode neg
  else f.nanCode

/-- A finite non-zero magnitude into a float format (R85 to R87). -/
def encodeFloat (f : Fmt) (rnd : Nat) (sat : Bool) (draw : Nat) (neg : Bool) (x : Mag) : Enc :=
  if neg && !f.sign then { code := 0, ovc := true }
  else
    let bottom : Int := if f.sub = 2 then -f.bias else 1 - f.bias
    -- the top binade: never below the bottom one, also where no exponent field above 0 holds finite values
    let topExp : Int := max ((f.xmax : Int) - f.bias) bottom
    if topExp + 1 < x.log then { code := overflowCode f rnd sat neg, ovc := true }
    else if f.sub = 2 ∧ x.log < bottom then
      -- below the smallest magnitude: it rounds to that magnitude or below it
      { code := f.signBit neg, ovc := false }
    else
      let ex := min (max x.log bottom) topExp
      let st := x.steps (ex - f.m)
      let field : Int := ex + f.bias
      -- the magnitude code of the grid point at or below x
      let base : Int := if f.sub = 2 then field * 2 ^ f.m + st.1 - 2 ^ f.m else (field - 1) * 2 ^ f.m + st.1
      let lo := base.toNat
      let c := if roundsUp rnd neg st.2.1 st.2.2 (decide (lo % 2 = 1)) draw then lo + 1 else lo
      if f.top < c then { code := overflowCode f rnd sat neg, ovc := true }
      else if f.sub = 1 ∧ c < 2 ^ f.m then { code := f.zeroCode neg, ovc := false }
      else if c = 0 ∧ f.sub ≠ 2 then { code := f.zeroCode neg, ovc := false }
      else { code := f.signBit neg + c, ovc := false }

/-- The least and greatest integers of an integer or fixed kind. -/
def Fmt.minInt (f : Fmt) : Int := if f.isSigned then -(2 ^ (f.w - 1) : Nat) else 0
/-- The greatest integer of an integer or fixed kind. -/
def Fmt.maxInt (f : Fmt) : Int := if f.isSigned then (2 ^ (f.w - 1) : Nat) - 1 else (2 ^ f.w : Nat) - 1
/-- The code of an integer modulo 2^W. -/
def Fmt.wrap (f : Fmt) (i : Int) : Nat := (i % (2 ^ f.w : Nat)).toNat

/-- An integer into an integer or fixed kind, saturated or wrapped (R86, R87). -/
def encodeInt (f : Fmt) (sat : Bool) (i : Int) : Enc :=
  if f.minInt ≤ i ∧ i ≤ f.maxInt then { code := f.wrap i, ovc := false }
  else if sat || f.ovf then { code := f.wrap (if i < 0 then f.minInt else f.maxInt), ovc := true }
  else { code := f.wrap i, ovc := true }

/-- A finite non-zero magnitude rounded to a multiple of 2^(-frac), as the integer of those steps (R85). -/
def roundInt (rnd : Nat) (draw : Nat) (neg : Bool) (x : Mag) (frac : Nat) : Int :=
  let st := x.steps (-(frac : Int))
  let n := if roundsUp rnd neg st.2.1 st.2.2 (decide (st.1 % 2 = 1)) draw then st.1 + 1 else st.1
  if neg then -(n : Int) else (n : Int)

/-- An exact value encoded into a format (R85 to R88) under an effective rounding, SAT and a draw. -/
def encodeVal (f : Fmt) (rnd : Nat) (sat : Bool) (draw : Nat) (x : Exact) : Enc :=
  if f.isInt then
    match x with
    | .nan => { code := 0, ovc := true }
    | .inf neg => { code := f.wrap (if neg then f.minInt else f.maxInt), ovc := true }
    | .zero _ => { code := 0, ovc := false }
    | .real neg m => encodeInt f sat (roundInt rnd draw neg m f.frac)
  else
    match x with
    | .nan => if f.nan = 0 then { code := 0, ovc := true } else { code := f.nanCode, ovc := false }
    | .inf neg =>
      if neg && !f.sign then { code := 0, ovc := true }
      else if f.inf = 1 then { code := f.infCode neg, ovc := false }
      else if f.inf = 2 ∨ sat = true ∨ f.ovf = true then { code := f.signBit neg + f.top, ovc := true }
      else { code := f.nanCode, ovc := true }
    | .zero neg => { code := f.zeroCode neg, ovc := false }
    | .real neg m => encodeFloat f rnd sat draw neg m

/-- A binary32 pattern of an exact value, every NaN 0x7FC0_0000 (R283). -/
def toF32 (rnd : Nat) (sat : Bool) (draw : Nat) (x : Exact) : Enc := encodeVal binary32 rnd sat draw x
/-- The value of a binary32 pattern. -/
def ofF32 (w : Word) : Val := decodeVal binary32 w.toNat

/-! ## Exact sums, products and order -/

/-- A finite value as an integer multiple of 2^e, for e at or below its own exponent. -/
def Val.intAt (v : Val) (e : Int) : Int :=
  match v with
  | .fin s m x => let n : Int := ((m <<< (x - e).toNat : Nat) : Int); if s then -n else n
  | _ => 0
/-- The exponent of a finite value. -/
def Val.expo (v : Val) : Int := match v with | .fin _ _ e => e | _ => 0
/-- NaN. -/
def Val.isNan (v : Val) : Bool := v == .nan
/-- An infinity of a sign. -/
def Val.isInf (v : Val) (neg : Bool) : Bool := v == .inf neg
/-- A zero of either sign. -/
def Val.isZero (v : Val) : Bool := match v with | .fin _ 0 _ => true | _ => false
/-- The sign. -/
def Val.neg (v : Val) : Bool := match v with | .nan => false | .inf s => s | .fin s _ _ => s
/-- The value with its sign reversed. -/
def Val.negate (v : Val) : Val := match v with | .nan => .nan | .inf s => .inf (!s) | .fin s m e => .fin (!s) m e
/-- The magnitude. -/
def Val.abs (v : Val) : Val := match v with | .nan => .nan | .inf _ => .inf false | .fin _ m e => .fin false m e

/-- The exact sum of a list of terms (R161); a zero sum of unlike or non-zero terms is -0 under RDN. -/
def sumVals (rdn : Bool) (vs : List Val) : Val :=
  if vs.any Val.isNan || (vs.any (·.isInf false) && vs.any (·.isInf true)) then .nan
  else if vs.any (·.isInf false) then .inf false
  else if vs.any (·.isInf true) then .inf true
  else
    let e := vs.foldl (fun e v => min e v.expo) ((vs.head?.map Val.expo).getD 0)
    let n := vs.foldl (fun a v => a + v.intAt e) (0 : Int)
    if n = 0 then
      if vs.all Val.isZero && vs.all (fun v => v.neg == true) && !vs.isEmpty then .fin true 0 0
      else if vs.all Val.isZero && vs.all (fun v => v.neg == false) then .fin false 0 0
      else .fin rdn 0 0
    else Val.ofInt n e

/-- The exact product (R161). -/
def mulVals (a b : Val) : Val :=
  match a, b with
  | .nan, _ => .nan
  | _, .nan => .nan
  | .inf s, .inf r => .inf (s != r)
  | .inf s, .fin r m _ => if m = 0 then .nan else .inf (s != r)
  | .fin s m _, .inf r => if m = 0 then .nan else .inf (s != r)
  | .fin s m e, .fin r n d => .fin (s != r) (m * n) (e + d)

/-- The exact quotient (R161). -/
def divVals (a b : Val) : Exact :=
  match a, b with
  | .nan, _ => .nan
  | _, .nan => .nan
  | .inf _, .inf _ => .nan
  | .inf s, .fin r _ _ => .inf (s != r)
  | .fin s _ _, .inf r => .zero (s != r)
  | .fin s m e, .fin r n d =>
    if n = 0 then (if m = 0 then .nan else .inf (s != r))
    else if m = 0 then .zero (s != r)
    else .real (s != r) (Mag.quot m n (e - d))

/-- a < b on values that are not NaN, zeros equal. -/
def Val.lt (a b : Val) : Bool :=
  match a, b with
  | .nan, _ => false
  | _, .nan => false
  | .inf s, .inf r => s && !r
  | .inf s, .fin _ _ _ => s
  | .fin _ _ _, .inf r => !r
  | .fin _ _ e, .fin _ _ d => decide (a.intAt (min e d) < b.intAt (min e d))
/-- a = b on values that are not NaN, zeros equal. -/
def Val.eq (a b : Val) : Bool :=
  match a, b with
  | .nan, _ => false
  | _, .nan => false
  | _, _ => !a.lt b && !b.lt a

/-- VMIN of two values: -0 below +0, NaN only where both are (R165). -/
def minVal (a b : Val) : Val :=
  if a.isNan then b else if b.isNan then a
  else if a.lt b then a else if b.lt a then b else if a.neg then a else b
/-- VMAX of two values (R165). -/
def maxVal (a b : Val) : Val :=
  if a.isNan then b else if b.isNan then a
  else if a.lt b then b else if b.lt a then a else if a.neg then b else a
/-- VMINM (R165). -/
def minMag (a b : Val) : Val :=
  if a.isNan then b else if b.isNan then a
  else if a.abs.lt b.abs then a else if b.abs.lt a.abs then b else minVal a b
/-- VMAXM (R165). -/
def maxMag (a b : Val) : Val :=
  if a.isNan then b else if b.isNan then a
  else if a.abs.lt b.abs then b else if b.abs.lt a.abs then a else maxVal a b

/-- x 2^k. -/
def Val.scale (v : Val) (k : Int) : Val := match v with | .fin s m e => .fin s m (e + k) | _ => v

/-- Addition of binary32 patterns under RNE, NaN 0x7FC0_0000 (R234, R283). -/
def addF32 (a b : Word) : Word := word (toF32 0 false 0 (sumVals false [ofF32 a, ofF32 b]).exact).code

end Sys2Proof.Machine
end

