-- ==== Sys2Proof/Machine/Operands.lean ====
section
/-! DEFINITION. What an instruction needs of its team before it executes: registers read and written, roles, field conditions that
depend on the team (R29, R37, R48, R53, R54), and the gate every word instruction passes when it issues. -/

namespace Sys2Proof.Machine

/-- n consecutive numbers from r. -/
def span (r n : Nat) : List Nat := (List.range n).map (r + ·)

/-- What an instruction needs (R48, R54): scalar and vector registers it reads and writes beside the exec window, the roles that may
issue it (0 GEN, 1 FEED, 2 MAT, 3 VEC; R29), whether it acts per lane and so reads the cond window under a guard, whether it acts even
when every exec word is zero, whether a field condition on the team's state fails, and whether it waits for its own registers alone and
not for the exec window (R136). -/
structure Need where
  sr : List Nat := []
  sw : List Nat := []
  vr : List Nat := []
  vw : List Nat := []
  roles : List Nat := [0, 1, 2, 3]
  lanes : Bool := false
  always : Bool := false
  bad : Bool := false
  own : Bool := false
  deriving DecidableEq, Repr

/-- The registers of the exec window. -/
def Team.execRegs (t : Team) : List Nat := span 224 t.beats
/-- The registers of the cond window. -/
def Team.condRegs (t : Team) : List Nat := span 192 t.beats
/-- A window of k registers reaches beyond s255 (R118, R120). -/
def beyond (t : Team) (r : SReg) : Bool := decide (256 < r.toNat + t.beats)
/-- The instruction stands at the last word of an active loop (R131). -/
def atLast (t : Team) : Bool := t.ctl.loop.active && t.pc == t.ctl.loop.last
/-- An address lies outside the body of the loop (R131). -/
def LoopState.outside (l : LoopState) (a : Dbl) : Bool := !(decide (l.start.toNat ≤ a.toNat ∧ a.toNat ≤ l.last.toNat))
/-- A target, or a reconvergence address where both count, lies outside the body of an active loop (R131, R210). -/
def loopBad (t : Team) (both : Bool) (tgt rcv : Dbl) : Bool :=
  t.ctl.loop.active && (t.ctl.loop.outside tgt || (both && t.ctl.loop.outside rcv))

/-- Registers of an operand interpreted in a slot: a pair under PACK = 1 (R93). -/
def Team.slotRegs (t : Team) (n r : Nat) : List Nat := span r (if (t.fmtAt n).pack then 2 else 1)
/-- An odd register names a pair (R93). -/
def Team.slotOdd (t : Team) (n r : Nat) : Bool := (t.fmtAt n).pack && r % 2 == 1
/-- Integer kind, signed or unsigned (R166). -/
def Fmt.isInteger (f : Fmt) : Bool := f.kind == 1 || f.kind == 2
/-- VCVT merges the old destination: more sub-elements in the destination (R171). -/
def Team.cvtMerges (t : Team) (fs : Nat) : Bool := decide ((t.fmtAt fs).count < (t.fmtAt t.slot).count)
/-- The part number of VCVT is out of range (R171). -/
def Team.cvtBad (t : Team) (fs p : Nat) : Bool :=
  let ns := (t.fmtAt fs).count
  let nd := (t.fmtAt t.slot).count
  decide (max ns nd < (p + 1) * min ns nd)

/-- A field of MXM (R278): AFMT 0, BFMT 4, ASLOT 8, BSLOT 12. -/
def Team.mx (t : Team) (lo : Nat) : Nat := (t.mxm.extractLsb' lo 4).toNat
/-- Element width of a matrix format code 1 to 6 (R278). -/
def mxWidth (code : Nat) : Nat := if code = 3 ∨ code = 4 then 6 else if code = 5 then 4 else 8
/-- An operand with code 0 is wider than 16 bits (R279). -/
def Team.mxInvalid (t : Team) : Bool :=
  (t.mx 0 == 0 && decide (16 < (t.fmtAt (t.mx 8)).w)) || (t.mx 4 == 0 && decide (16 < (t.fmtAt (t.mx 12)).w))
/-- Registers of the A block (R281): mx is in-data selection. -/
def Team.aCount (t : Team) (mx : Bool) : Nat :=
  if t.mx 0 = 0 then
    let f := t.fmtAt (t.mx 8)
    let n := max f.count 1
    (if f.pack then 2 else 1) * ((32 + n - 1) / n)
  else (if mx then 8 else mxWidth (t.mx 0)) + 1
/-- A block of pairs begins at an odd register (R281). -/
def Team.aOdd (t : Team) (va : Nat) : Bool := t.mx 0 == 0 && (t.fmtAt (t.mx 8)).pack && va % 2 == 1
/-- The A format in force (R287): code and slot, and the slot's definition for code 0. -/
def Team.aFormat (t : Team) : Word × Dbl :=
  (word (t.mx 0 + 16 * (if t.mx 0 = 0 then t.mx 8 else 0)), if t.mx 0 = 0 then t.fdr (t.mx 8) else 0)
/-- The A format of MMAW4: bfloat16, whatever MXM holds. -/
def w4Format : Word × Dbl := (0xFFFF, builtin 2)
/-- The latch holds this A block (R287). -/
def Team.latched (t : Team) (va : Nat) (f : Word × Dbl) : Bool :=
  match t.latch with
  | some l => l.va == va && l.fmt == f.1 && l.slotDef == f.2
  | none => false

/-- The registers an instruction reads and writes, the roles that may issue it, and the field conditions judged with the team's state
(R29, R37, R48, R54). An event issues on no team. -/
def needOf (t : Team) (mx : Bool) : Instr → Need
  | .sadd sd sa sb => { sr := [sa.toNat, sb.toNat], sw := [sd.toNat], always := true }
  | .ssub sd sa sb => { sr := [sa.toNat, sb.toNat], sw := [sd.toNat], always := true }
  | .smul sd sa sb => { sr := [sa.toNat, sb.toNat], sw := [sd.toNat], always := true }
  | .smulhi sd sa sb => { sr := [sa.toNat, sb.toNat], sw := [sd.toNat], always := true }
  | .smulhn sd sa sb => { sr := [sa.toNat, sb.toNat], sw := [sd.toNat], always := true }
  | .sdivi sd sa sb => { sr := [sa.toNat, sb.toNat], sw := [sd.toNat], always := true }
  | .sdivn sd sa sb => { sr := [sa.toNat, sb.toNat], sw := [sd.toNat], always := true }
  | .sremi sd sa sb => { sr := [sa.toNat, sb.toNat], sw := [sd.toNat], always := true }
  | .sremn sd sa sb => { sr := [sa.toNat, sb.toNat], sw := [sd.toNat], always := true }
  | .sand sd sa sb => { sr := [sa.toNat, sb.toNat], sw := [sd.toNat], always := true }
  | .sor sd sa sb => { sr := [sa.toNat, sb.toNat], sw := [sd.toNat], always := true }
  | .sxor sd sa sb => { sr := [sa.toNat, sb.toNat], sw := [sd.toNat], always := true }
  | .sshl sd sa sb => { sr := [sa.toNat, sb.toNat], sw := [sd.toNat], always := true }
  | .sshrn sd sa sb => { sr := [sa.toNat, sb.toNat], sw := [sd.toNat], always := true }
  | .sshri sd sa sb => { sr := [sa.toNat, sb.toNat], sw := [sd.toNat], always := true }
  | .smini sd sa sb => { sr := [sa.toNat, sb.toNat], sw := [sd.toNat], always := true }
  | .sminn sd sa sb => { sr := [sa.toNat, sb.toNat], sw := [sd.toNat], always := true }
  | .smaxi sd sa sb => { sr := [sa.toNat, sb.toNat], sw := [sd.toNat], always := true }
  | .smaxn sd sa sb => { sr := [sa.toNat, sb.toNat], sw := [sd.toNat], always := true }
  | .slti sd sa sb => { sr := [sa.toNat, sb.toNat], sw := [sd.toNat], always := true }
  | .sltn sd sa sb => { sr := [sa.toNat, sb.toNat], sw := [sd.toNat], always := true }
  | .seq sd sa sb => { sr := [sa.toNat, sb.toNat], sw := [sd.toNat], always := true }
  | .ssel sd sa sb => { sr := [sa.toNat, sb.toNat, sd.toNat], sw := [sd.toNat], always := true }
  | .saddi sd _ => { sr := [sd.toNat], sw := [sd.toNat], always := true }
  | .sli sd _ => { sw := [sd.toNat], always := true }
  | .slih sd _ => { sr := [sd.toNat], sw := [sd.toNat], always := true }
  | .sbitopPopc sd sa => { sr := [sa.toNat], sw := [sd.toNat], always := true }
  | .sbitopClz sd sa => { sr := [sa.toNat], sw := [sd.toNat], always := true }
  | .sbitopCtz sd sa => { sr := [sa.toNat], sw := [sd.toNat], always := true }
  | .sbitopBrev sd sa => { sr := [sa.toNat], sw := [sd.toNat], always := true }
  | .sbfx sd sa sb => { sr := [sa.toNat, sb.toNat], sw := [sd.toNat], always := true }
  | .sbfi sd sa sb => { sr := [sa.toNat, sb.toNat, sd.toNat], sw := [sd.toNat], always := true }
  | .sadd64 sd sa sb => { sr := span sa.toNat 2 ++ span sb.toNat 2, sw := span sd.toNat 2, always := true }
  | .mode _ _ => { always := true }
  | .modes _ sa => { sr := [sa.toNat], always := true }
  | .modeget sd => { sw := [sd.toNat], always := true }
  | .bra _ => { bad := atLast t, always := true }
  | .bany sa _ => { sr := span sa.toNat t.beats, bad := beyond t sa || atLast t, always := true }
  | .ball sa _ => { sr := span sa.toNat t.beats, bad := beyond t sa || atLast t, always := true }
  | .bnone sa _ => { sr := span sa.toNat t.beats, bad := beyond t sa || atLast t, always := true }
  | .bsz sa _ => { bad := atLast t, sr := [sa.toNat], always := true }
  | .bsnz sa _ => { bad := atLast t, sr := [sa.toNat], always := true }
  | .bdiv tgt rcv => { sr := t.condRegs, bad := loopBad t true (branchTo t.pc tgt) (branchTo t.pc rcv) || atLast t, always := true }
  | .bdivl tgt rcv => { sr := t.condRegs, bad := loopBad t true (branchTo t.pc tgt) (branchTo t.pc rcv) || atLast t, always := true }
  | .call _ => { bad := t.ctl.loop.active || atLast t, always := true }
  | .calls sa => { sr := span sa.toNat 2, bad := t.ctl.loop.active || atLast t, always := true }
  | .ret => { sr := if t.depth = 0 then [] else t.condRegs, bad := t.ctl.loop.active || atLast t, always := true }
  | .brs sa => { bad := atLast t, sr := span sa.toNat 2, always := true }
  | .loop sa _ => { sr := [sa.toNat], bad := t.ctl.loop.active || atLast t, always := true }
  | .mopNot sa sd => { sr := span sa.toNat t.beats, sw := span sd.toNat t.beats, bad := beyond t sa || beyond t sd, always := true }
  | .mopAnd sa sd => { sr := span sa.toNat t.beats ++ t.condRegs, sw := span sd.toNat t.beats, bad := beyond t sa || beyond t sd, always := true }
  | .mopOr sa sd => { sr := span sa.toNat t.beats ++ t.condRegs, sw := span sd.toNat t.beats, bad := beyond t sa || beyond t sd, always := true }
  | .mopAndn sa sd => { sr := span sa.toNat t.beats ++ t.condRegs, sw := span sd.toNat t.beats, bad := beyond t sa || beyond t sd, always := true }
  | .mopLoad sa => { sr := span sa.toNat t.beats, sw := t.execRegs, bad := beyond t sa, always := true }
  | .mopSave sd => { sw := span sd.toNat t.beats, bad := beyond t sd, always := true }
  | .mopPopc sa sd => { sr := span sa.toNat t.beats, sw := [sd.toNat], bad := beyond t sa, always := true }
  | .mopFirst sa sd => { sr := span sa.toNat t.beats, sw := [sd.toNat], bad := beyond t sa, always := true }
  | .msave sd => { sr := t.condRegs, sw := span sd.toNat (2 * t.beats), bad := decide (256 < sd.toNat + 2 * t.beats), always := true }
  | .mrest sa => { sr := span sa.toNat (2 * t.beats), sw := t.execRegs ++ t.condRegs, bad := decide (256 < sa.toNat + 2 * t.beats), always := true }
  | .kill => { sr := if t.depth = 0 then [] else t.condRegs, always := true }
  | .exit => { always := true }
  | .yield _ => { always := true }
  | .probe sd reg vec => { sw := [sd.toNat], bad := vec && decide (t.nvregs ≤ reg.toNat), always := true, own := true }
  | .ifence => { always := true }
  | .brk _ => { always := true }
  | .stkq sd _ => { sw := [sd.toNat], always := true }
  | .vmov vd va _ _ _ => { vr := [va.toNat], vw := [vd.toNat], roles := [0, 3], lanes := true }
  | .vmovs vd sb _ _ => { sr := [sb.toNat], vw := [vd.toNat], roles := [0, 3], lanes := true }
  | .vli vd _ => { vw := [vd.toNat], roles := [0, 3], lanes := true }
  | .vlih vd _ => { vr := [vd.toNat], vw := [vd.toNat], roles := [0, 3], lanes := true }
  | .vand vd va vb _ _ _ => { vr := [va.toNat, vb.toNat], vw := [vd.toNat], roles := [0, 3], lanes := true }
  | .vor vd va vb _ _ _ => { vr := [va.toNat, vb.toNat], vw := [vd.toNat], roles := [0, 3], lanes := true }
  | .vxor vd va vb _ _ _ => { vr := [va.toNat, vb.toNat], vw := [vd.toNat], roles := [0, 3], lanes := true }
  | .vandn vd va vb _ _ _ => { vr := [va.toNat, vb.toNat], vw := [vd.toNat], roles := [0, 3], lanes := true }
  | .vshl vd va vb _ _ _ => { vr := [va.toNat, vb.toNat], vw := [vd.toNat], roles := [0, 3], lanes := true }
  | .vshrn vd va vb _ _ _ => { vr := [va.toNat, vb.toNat], vw := [vd.toNat], roles := [0, 3], lanes := true }
  | .vshri vd va vb _ _ _ => { vr := [va.toNat, vb.toNat], vw := [vd.toNat], roles := [0, 3], lanes := true }
  | .vshli vd va _ _ => { vr := [va.toNat], vw := [vd.toNat], roles := [0, 3], lanes := true }
  | .vshrni vd va _ _ => { vr := [va.toNat], vw := [vd.toNat], roles := [0, 3], lanes := true }
  | .vshrii vd va _ _ => { vr := [va.toNat], vw := [vd.toNat], roles := [0, 3], lanes := true }
  | .vrot vd va vb _ _ _ => { vr := [va.toNat, vb.toNat], vw := [vd.toNat], roles := [0, 3], lanes := true }
  | .vbitopPopc vd va _ _ _ => { vr := [va.toNat], vw := [vd.toNat], roles := [0, 3], lanes := true }
  | .vbitopClz vd va _ _ _ => { vr := [va.toNat], vw := [vd.toNat], roles := [0, 3], lanes := true }
  | .vbitopCtz vd va _ _ _ => { vr := [va.toNat], vw := [vd.toNat], roles := [0, 3], lanes := true }
  | .vbitopBrev vd va _ _ _ => { vr := [va.toNat], vw := [vd.toNat], roles := [0, 3], lanes := true }
  | .vbfx vd va sb _ _ => { sr := [sb.toNat], vr := [va.toNat], vw := [vd.toNat], roles := [0, 3], lanes := true }
  | .vbfi vd va sb _ _ => { sr := [sb.toNat], vr := [va.toNat, vd.toNat], vw := [vd.toNat], roles := [0, 3], lanes := true }
  | .vprmb vd va vb _ _ _ => { vr := [va.toNat, vb.toNat], vw := [vd.toNat], roles := [0, 3], lanes := true }
  | .vsel vd va vb _ _ _ => { sr := t.condRegs, vr := [va.toNat, vb.toNat], vw := [vd.toNat], roles := [0, 3], lanes := true }
  | .vadda vd va vb _ _ _ => { vr := [va.toNat, vb.toNat], vw := [vd.toNat], roles := [0, 3], lanes := true }
  | .vmada vd va vb _ _ _ => { vr := [va.toNat, vb.toNat, vd.toNat], vw := [vd.toNat], roles := [0, 3], lanes := true }
  | .vadda64 vd va vb _ _ _ => { vr := span va.toNat 2 ++ [vb.toNat], vw := span vd.toNat 2, roles := [0, 3], lanes := true }
  | .vlane vd _ _ _ _ => { vw := [vd.toNat], roles := [0, 3], lanes := true }
  | .vshfl vd va vb _ _ _ => { sw := t.condRegs, vr := [va.toNat, vb.toNat], vw := [vd.toNat], roles := [0, 3], lanes := true }
  | .vshfliXor vd va _ _ => { sw := t.condRegs, vr := [va.toNat], vw := [vd.toNat], roles := [0, 3], lanes := true }
  | .vshfliUp vd va _ _ => { sw := t.condRegs, vr := [va.toNat], vw := [vd.toNat], roles := [0, 3], lanes := true }
  | .vshfliDown vd va _ _ => { sw := t.condRegs, vr := [va.toNat], vw := [vd.toNat], roles := [0, 3], lanes := true }
  | .vshfliRot vd va _ _ => { sw := t.condRegs, vr := [va.toNat], vw := [vd.toNat], roles := [0, 3], lanes := true }
  | .vbcast vd va sb _ _ => { sr := [sb.toNat], sw := t.condRegs, vr := [va.toNat], vw := [vd.toNat], roles := [0, 3], lanes := true }
  | .vtest _ va vb _ _ _ => { sw := t.condRegs, vr := [va.toNat, vb.toNat], roles := [0, 3], lanes := true }
  | .vpack vd va _ _ _ _ => { sw := t.condRegs, vr := [va.toNat, vd.toNat], vw := [vd.toNat], roles := [0, 3], lanes := true }
  | .vunpk vd va _ _ _ => { sw := t.condRegs, vr := [va.toNat], vw := [vd.toNat], roles := [0, 3], lanes := true }
  | .vtosIdx va sb _ _ => { sr := [sb.toNat], sw := [sb.toNat], vr := [va.toNat], roles := [0, 3], lanes := true }
  | .vtosFirst va sb _ _ => { sw := [sb.toNat], vr := [va.toNat], roles := [0, 3], lanes := true }
  | .vtosLast va sb _ _ => { sw := [sb.toNat], vr := [va.toNat], roles := [0, 3], lanes := true }
  | .vtosOr va sb _ _ => { sw := [sb.toNat], vr := [va.toNat], roles := [0, 3], lanes := true }
  | .vtosAnd va sb _ _ => { sw := [sb.toNat], vr := [va.toNat], roles := [0, 3], lanes := true }
  | .vtosAdd va sb _ _ => { sw := [sb.toNat], vr := [va.toNat], roles := [0, 3], lanes := true }
  | .vtosMaxn va sb _ _ => { sw := [sb.toNat], vr := [va.toNat], roles := [0, 3], lanes := true }
  | .vtosMinn va sb _ _ => { sw := [sb.toNat], vr := [va.toNat], roles := [0, 3], lanes := true }
  | .vadd vd va vb _ _ _ => { vr := t.slotRegs t.slot va.toNat ++ t.slotRegs t.slot vb.toNat, vw := t.slotRegs t.slot vd.toNat, bad := t.slotOdd t.slot vd.toNat || t.slotOdd t.slot va.toNat || t.slotOdd t.slot vb.toNat, roles := [0, 3], lanes := true }
  | .vsub vd va vb _ _ _ => { vr := t.slotRegs t.slot va.toNat ++ t.slotRegs t.slot vb.toNat, vw := t.slotRegs t.slot vd.toNat, bad := t.slotOdd t.slot vd.toNat || t.slotOdd t.slot va.toNat || t.slotOdd t.slot vb.toNat, roles := [0, 3], lanes := true }
  | .vmul vd va vb _ _ _ => { vr := t.slotRegs t.slot va.toNat ++ t.slotRegs t.slot vb.toNat, vw := t.slotRegs t.slot vd.toNat, bad := t.slotOdd t.slot vd.toNat || t.slotOdd t.slot va.toNat || t.slotOdd t.slot vb.toNat, roles := [0, 3], lanes := true }
  | .vfma vd va vb _ _ _ => { vr := t.slotRegs t.slot va.toNat ++ t.slotRegs t.slot vb.toNat ++ t.slotRegs t.slot vd.toNat, vw := t.slotRegs t.slot vd.toNat, bad := t.slotOdd t.slot vd.toNat || t.slotOdd t.slot va.toNat || t.slotOdd t.slot vb.toNat, roles := [0, 3], lanes := true }
  | .vfms vd va vb _ _ _ => { vr := t.slotRegs t.slot va.toNat ++ t.slotRegs t.slot vb.toNat ++ t.slotRegs t.slot vd.toNat, vw := t.slotRegs t.slot vd.toNat, bad := t.slotOdd t.slot vd.toNat || t.slotOdd t.slot va.toNat || t.slotOdd t.slot vb.toNat, roles := [0, 3], lanes := true }
  | .vfnma vd va vb _ _ _ => { vr := t.slotRegs t.slot va.toNat ++ t.slotRegs t.slot vb.toNat ++ t.slotRegs t.slot vd.toNat, vw := t.slotRegs t.slot vd.toNat, bad := t.slotOdd t.slot vd.toNat || t.slotOdd t.slot va.toNat || t.slotOdd t.slot vb.toNat, roles := [0, 3], lanes := true }
  | .vmin vd va vb _ _ _ => { vr := t.slotRegs t.slot va.toNat ++ t.slotRegs t.slot vb.toNat, vw := t.slotRegs t.slot vd.toNat, bad := t.slotOdd t.slot vd.toNat || t.slotOdd t.slot va.toNat || t.slotOdd t.slot vb.toNat, roles := [0, 3], lanes := true }
  | .vmax vd va vb _ _ _ => { vr := t.slotRegs t.slot va.toNat ++ t.slotRegs t.slot vb.toNat, vw := t.slotRegs t.slot vd.toNat, bad := t.slotOdd t.slot vd.toNat || t.slotOdd t.slot va.toNat || t.slotOdd t.slot vb.toNat, roles := [0, 3], lanes := true }
  | .vminm vd va vb _ _ _ => { vr := t.slotRegs t.slot va.toNat ++ t.slotRegs t.slot vb.toNat, vw := t.slotRegs t.slot vd.toNat, bad := t.slotOdd t.slot vd.toNat || t.slotOdd t.slot va.toNat || t.slotOdd t.slot vb.toNat, roles := [0, 3], lanes := true }
  | .vmaxm vd va vb _ _ _ => { vr := t.slotRegs t.slot va.toNat ++ t.slotRegs t.slot vb.toNat, vw := t.slotRegs t.slot vd.toNat, bad := t.slotOdd t.slot vd.toNat || t.slotOdd t.slot va.toNat || t.slotOdd t.slot vb.toNat, roles := [0, 3], lanes := true }
  | .vabs vd va _ _ _ => { vr := t.slotRegs t.slot va.toNat, vw := t.slotRegs t.slot vd.toNat, bad := t.slotOdd t.slot vd.toNat || t.slotOdd t.slot va.toNat, roles := [0, 3], lanes := true }
  | .vneg vd va _ _ _ => { vr := t.slotRegs t.slot va.toNat, vw := t.slotRegs t.slot vd.toNat, bad := t.slotOdd t.slot vd.toNat || t.slotOdd t.slot va.toNat, roles := [0, 3], lanes := true }
  | .vdiv vd va vb _ _ _ => { vr := t.slotRegs t.slot va.toNat ++ t.slotRegs t.slot vb.toNat, vw := t.slotRegs t.slot vd.toNat, bad := t.slotOdd t.slot vd.toNat || t.slotOdd t.slot va.toNat || t.slotOdd t.slot vb.toNat, roles := [0, 3], lanes := true }
  | .vsqrt vd va _ _ _ => { vr := t.slotRegs t.slot va.toNat, vw := t.slotRegs t.slot vd.toNat, bad := t.slotOdd t.slot vd.toNat || t.slotOdd t.slot va.toNat, roles := [0, 3], lanes := true }
  | .vrcp vd va _ _ _ => { vr := t.slotRegs t.slot va.toNat, vw := t.slotRegs t.slot vd.toNat, bad := t.slotOdd t.slot vd.toNat || t.slotOdd t.slot va.toNat, roles := [0, 3], lanes := true }
  | .vrsq vd va _ _ _ => { vr := t.slotRegs t.slot va.toNat, vw := t.slotRegs t.slot vd.toNat, bad := t.slotOdd t.slot vd.toNat || t.slotOdd t.slot va.toNat, roles := [0, 3], lanes := true }
  | .vexp2 vd va _ _ _ => { vr := t.slotRegs t.slot va.toNat, vw := t.slotRegs t.slot vd.toNat, bad := t.slotOdd t.slot vd.toNat || t.slotOdd t.slot va.toNat, roles := [0, 3], lanes := true }
  | .vlog2 vd va _ _ _ => { vr := t.slotRegs t.slot va.toNat, vw := t.slotRegs t.slot vd.toNat, bad := t.slotOdd t.slot vd.toNat || t.slotOdd t.slot va.toNat, roles := [0, 3], lanes := true }
  | .vsin vd va _ _ _ => { vr := t.slotRegs t.slot va.toNat, vw := t.slotRegs t.slot vd.toNat, bad := t.slotOdd t.slot vd.toNat || t.slotOdd t.slot va.toNat, roles := [0, 3], lanes := true }
  | .vcos vd va _ _ _ => { vr := t.slotRegs t.slot va.toNat, vw := t.slotRegs t.slot vd.toNat, bad := t.slotOdd t.slot vd.toNat || t.slotOdd t.slot va.toNat, roles := [0, 3], lanes := true }
  | .vtanh vd va _ _ _ => { vr := t.slotRegs t.slot va.toNat, vw := t.slotRegs t.slot vd.toNat, bad := t.slotOdd t.slot vd.toNat || t.slotOdd t.slot va.toNat, roles := [0, 3], lanes := true }
  | .vcmp _ va vb _ _ _ => { sw := t.condRegs, vr := t.slotRegs t.slot va.toNat ++ t.slotRegs t.slot vb.toNat, bad := t.slotOdd t.slot va.toNat || t.slotOdd t.slot vb.toNat, roles := [0, 3], lanes := true }
  | .vclass _ va _ _ _ => { sw := t.condRegs, vr := t.slotRegs t.slot va.toNat, bad := t.slotOdd t.slot va.toNat, roles := [0, 3], lanes := true }
  | .vcvt vd va fs p _ _ _ => { vr := t.slotRegs fs.toNat va.toNat ++ (if t.cvtMerges fs.toNat then t.slotRegs t.slot vd.toNat else []), vw := t.slotRegs t.slot vd.toNat, bad := t.slotOdd fs.toNat va.toNat || t.slotOdd t.slot vd.toNat || t.cvtBad fs.toNat p.toNat, roles := [0, 3], lanes := true }
  | .vrnd vd va _ _ _ => { vr := t.slotRegs t.slot va.toNat, vw := t.slotRegs t.slot vd.toNat, bad := t.slotOdd t.slot vd.toNat || t.slotOdd t.slot va.toNat, roles := [0, 3], lanes := true }
  | .vscalb vd va vb _ _ _ => { vr := t.slotRegs t.slot va.toNat ++ [vb.toNat], vw := t.slotRegs t.slot vd.toNat, bad := t.slotOdd t.slot vd.toNat || t.slotOdd t.slot va.toNat, roles := [0, 3], lanes := true }
  | .vmulhi vd va vb _ _ _ => { vr := t.slotRegs t.slot va.toNat ++ t.slotRegs t.slot vb.toNat, vw := t.slotRegs t.slot vd.toNat, bad := t.slotOdd t.slot vd.toNat || t.slotOdd t.slot va.toNat || t.slotOdd t.slot vb.toNat || !(t.fmtAt t.slot).isInteger, roles := [0, 3], lanes := true }
  | .vdot vd va vb _ _ _ => { vr := t.slotRegs t.slot va.toNat ++ t.slotRegs t.slot vb.toNat ++ [vd.toNat], vw := [vd.toNat], bad := t.slotOdd t.slot va.toNat || t.slotOdd t.slot vb.toNat, roles := [0, 3], lanes := true }
  | .vqnt vd va sb _ _ => { sr := [sb.toNat], sw := t.condRegs, vr := [va.toNat] ++ t.slotRegs t.slot vd.toNat, vw := t.slotRegs t.slot vd.toNat, bad := t.slotOdd t.slot vd.toNat, roles := [0, 3], lanes := true }
  | .vdqnt vd va sb _ _ => { sr := [sb.toNat], sw := t.condRegs, vr := t.slotRegs t.slot va.toNat, vw := [vd.toNat], bad := t.slotOdd t.slot va.toNat, roles := [0, 3], lanes := true }
  | .vredadd vd va _ _ _ => { vr := t.slotRegs t.slot va.toNat, vw := t.slotRegs t.slot vd.toNat, bad := t.slotOdd t.slot vd.toNat || t.slotOdd t.slot va.toNat, roles := [0, 3], lanes := true }
  | .vredmax vd va _ _ _ => { vr := t.slotRegs t.slot va.toNat, vw := t.slotRegs t.slot vd.toNat, bad := t.slotOdd t.slot vd.toNat || t.slotOdd t.slot va.toNat, roles := [0, 3], lanes := true }
  | .vredmin vd va _ _ _ => { vr := t.slotRegs t.slot va.toNat, vw := t.slotRegs t.slot vd.toNat, bad := t.slotOdd t.slot vd.toNat || t.slotOdd t.slot va.toNat, roles := [0, 3], lanes := true }
  | .vscanAdd vd va _ _ _ => { vr := t.slotRegs t.slot va.toNat, vw := t.slotRegs t.slot vd.toNat, bad := t.slotOdd t.slot vd.toNat || t.slotOdd t.slot va.toNat, roles := [0, 3], lanes := true }
  | .vscanAddx vd va _ _ _ => { vr := t.slotRegs t.slot va.toNat, vw := t.slotRegs t.slot vd.toNat, bad := t.slotOdd t.slot vd.toNat || t.slotOdd t.slot va.toNat, roles := [0, 3], lanes := true }
  | .vscanMax vd va _ _ _ => { vr := t.slotRegs t.slot va.toNat, vw := t.slotRegs t.slot vd.toNat, bad := t.slotOdd t.slot vd.toNat || t.slotOdd t.slot va.toNat, roles := [0, 3], lanes := true }
  | .vscanMin vd va _ _ _ => { vr := t.slotRegs t.slot va.toNat, vw := t.slotRegs t.slot vd.toNat, bad := t.slotOdd t.slot vd.toNat || t.slotOdd t.slot va.toNat, roles := [0, 3], lanes := true }
  | .vstat va _ _ _ => { vr := t.slotRegs t.slot va.toNat, bad := t.slotOdd t.slot va.toNat, roles := [0, 3], lanes := true }
  | .sfuResultWritten _ => { }
  | .fdef _ sa => { sr := span sa.toNat 2 }
  | .fdefi _ _ _ => { }
  | .fget sd _ => { sw := span sd.toNat 2 }
  | .stget sd _ => { sw := [sd.toNat] }
  | .stclr _ _ _ _ _ => { }
  | .stseed sa => { sr := span sa.toNat 2 }
  | .ld8 vd va sb _ _ => { sr := span sb.toNat 2, vr := [va.toNat], vw := span vd.toNat 1, roles := [0, 1, 3], lanes := true }
  | .ld16 vd va sb _ _ => { sr := span sb.toNat 2, vr := [va.toNat], vw := span vd.toNat 1, roles := [0, 1, 3], lanes := true }
  | .ld32 vd va sb _ _ => { sr := span sb.toNat 2, vr := [va.toNat], vw := span vd.toNat 1, roles := [0, 1, 3], lanes := true }
  | .ld64 vd va sb _ _ => { sr := span sb.toNat 2, vr := [va.toNat], vw := span vd.toNat 2, roles := [0, 1, 3], lanes := true }
  | .ld128 vd va sb _ _ => { sr := span sb.toNat 2, vr := [va.toNat], vw := span vd.toNat 4, roles := [0, 1, 3], lanes := true }
  | .lds8 vd va sb _ _ => { sr := span sb.toNat 2, vr := [va.toNat], vw := span vd.toNat 1, roles := [0, 1, 3], lanes := true }
  | .lds16 vd va sb _ _ => { sr := span sb.toNat 2, vr := [va.toNat], vw := span vd.toNat 1, roles := [0, 1, 3], lanes := true }
  | .lds32 vd va sb _ _ => { sr := span sb.toNat 2, vr := [va.toNat], vw := span vd.toNat 1, roles := [0, 1, 3], lanes := true }
  | .lds64 vd va sb _ _ => { sr := span sb.toNat 2, vr := [va.toNat], vw := span vd.toNat 2, roles := [0, 1, 3], lanes := true }
  | .lds128 vd va sb _ _ => { sr := span sb.toNat 2, vr := [va.toNat], vw := span vd.toNat 4, roles := [0, 1, 3], lanes := true }
  | .st8 vd va sb _ _ => { sr := span sb.toNat 2, vr := [va.toNat] ++ span vd.toNat 1, roles := [0, 1, 3], lanes := true }
  | .st16 vd va sb _ _ => { sr := span sb.toNat 2, vr := [va.toNat] ++ span vd.toNat 1, roles := [0, 1, 3], lanes := true }
  | .st32 vd va sb _ _ => { sr := span sb.toNat 2, vr := [va.toNat] ++ span vd.toNat 1, roles := [0, 1, 3], lanes := true }
  | .st64 vd va sb _ _ => { sr := span sb.toNat 2, vr := [va.toNat] ++ span vd.toNat 2, roles := [0, 1, 3], lanes := true }
  | .st128 vd va sb _ _ => { sr := span sb.toNat 2, vr := [va.toNat] ++ span vd.toNat 4, roles := [0, 1, 3], lanes := true }
  | .ldb vd va sb _ _ => { sr := [sb.toNat], vr := [va.toNat], vw := [vd.toNat], roles := [0, 1, 3], lanes := true }
  | .ldbs vd va sb _ _ => { sr := [sb.toNat], vr := [va.toNat], vw := [vd.toNat], roles := [0, 1, 3], lanes := true }
  | .stb vd va sb _ _ => { sr := [sb.toNat], vr := [va.toNat, vd.toNat], roles := [0, 1, 3], lanes := true }
  | .sld32 sd sa sb => { sr := span sa.toNat 2 ++ [sb.toNat], sw := [sd.toNat] }
  | .sld64 sd sa sb => { sr := span sa.toNat 2 ++ [sb.toNat], sw := span sd.toNat 2 }
  | .sst32 sd sa sb => { sr := span sa.toNat 2 ++ [sb.toNat, sd.toNat] }
  | .sst64 sd sa sb => { sr := span sa.toNat 2 ++ [sb.toNat] ++ span sd.toNat 2 }
  | .loadDataReturn _ _ => { }
  | .storePerformed _ _ _ => { }
  | .l1LineEviction _ _ => { }
  | .atomicApplied _ _ => { }
  | .chk va _ _ _ => { vr := [va.toNat], roles := [0, 1, 3], lanes := true }
  | .chkb vd off => { vr := [vd.toNat], roles := [0, 1, 3], always := true, bad := loopBad t false (branchTo t.pc off) t.pc }
  | .ptest va _ _ _ => { sw := t.condRegs, vr := [va.toNat], roles := [0, 1, 3], lanes := true }
  | .pclr vd _ _ _ => { vr := [vd.toNat], vw := [vd.toNat], roles := [0, 1, 3], lanes := true }
  | .waitp _ sa => { sr := [sa.toNat], roles := [0, 1, 3], always := true }
  | .prefL1 va sb _ _ => { sr := span sb.toNat 2, vr := [va.toNat], roles := [0, 1, 3], lanes := true }
  | .prefL2 va sb _ _ => { sr := span sb.toNat 2, vr := [va.toNat], roles := [0, 1, 3], lanes := true }
  | .cflushWb va sb _ _ => { sr := span sb.toNat 2, vr := [va.toNat], roles := [0, 1, 3], lanes := true }
  | .cflushInv va sb _ _ => { sr := span sb.toNat 2, vr := [va.toNat], roles := [0, 1, 3], lanes := true }
  | .aadd vd va vb _ _ => { vr := span va.toNat 2 ++ [vb.toNat], vw := if vd == va then [] else [vd.toNat], roles := [0, 1, 3], lanes := true }
  | .amin vd va vb _ _ => { vr := span va.toNat 2 ++ [vb.toNat], vw := if vd == va then [] else [vd.toNat], roles := [0, 1, 3], lanes := true }
  | .amax vd va vb _ _ => { vr := span va.toNat 2 ++ [vb.toNat], vw := if vd == va then [] else [vd.toNat], roles := [0, 1, 3], lanes := true }
  | .aand vd va vb _ _ => { vr := span va.toNat 2 ++ [vb.toNat], vw := if vd == va then [] else [vd.toNat], roles := [0, 1, 3], lanes := true }
  | .aor vd va vb _ _ => { vr := span va.toNat 2 ++ [vb.toNat], vw := if vd == va then [] else [vd.toNat], roles := [0, 1, 3], lanes := true }
  | .axor vd va vb _ _ => { vr := span va.toNat 2 ++ [vb.toNat], vw := if vd == va then [] else [vd.toNat], roles := [0, 1, 3], lanes := true }
  | .axch vd va vb _ _ => { vr := span va.toNat 2 ++ [vb.toNat], vw := if vd == va then [] else [vd.toNat], roles := [0, 1, 3], lanes := true }
  | .acas vd va vb _ _ => { vr := span va.toNat 2 ++ span vb.toNat 2, vw := if vd == va then [] else [vd.toNat], roles := [0, 1, 3], lanes := true }
  | .fenceAcq => { }
  | .fenceRel => { }
  | .fenceFull => { }
  | .bar sd sa sb => { sr := span sa.toNat 2 ++ [sb.toNat], sw := [sd.toNat] }
  | .semsig sa sb => { sr := span sa.toNat 2 ++ [sb.toNat] }
  | .semsigGen sg sa sb => { sr := span sa.toNat 2 ++ [sb.toNat, sg.toNat] }
  | .semwait sd sa sb => { sr := span sa.toNat 2 ++ [sb.toNat], sw := [sd.toNat] }
  | .rgarr sa sb => { sr := [sa.toNat, sb.toNat] }
  | .rgwait sd sa sb => { sr := [sa.toNat, sb.toNat], sw := [sd.toNat] }
  | .sigx sa sb => { sr := [sa.toNat, sb.toNat] }
  | .saopAdd sa sd => { sr := span sa.toNat 2 ++ [sd.toNat], sw := [sd.toNat] }
  | .saopMini sa sd => { sr := span sa.toNat 2 ++ [sd.toNat], sw := [sd.toNat] }
  | .saopMinn sa sd => { sr := span sa.toNat 2 ++ [sd.toNat], sw := [sd.toNat] }
  | .saopMaxi sa sd => { sr := span sa.toNat 2 ++ [sd.toNat], sw := [sd.toNat] }
  | .saopMaxn sa sd => { sr := span sa.toNat 2 ++ [sd.toNat], sw := [sd.toNat] }
  | .saopAnd sa sd => { sr := span sa.toNat 2 ++ [sd.toNat], sw := [sd.toNat] }
  | .saopOr sa sd => { sr := span sa.toNat 2 ++ [sd.toNat], sw := [sd.toNat] }
  | .saopXor sa sd => { sr := span sa.toNat 2 ++ [sd.toNat], sw := [sd.toNat] }
  | .saopXch sa sd => { sr := span sa.toNat 2 ++ [sd.toNat], sw := [sd.toNat] }
  | .saopCas sa sd => { sr := span sa.toNat 2 ++ span sd.toNat 2, sw := span sd.toNat 2 }
  | .xcopy sd sa sb => { sr := span sa.toNat 8 ++ [sb.toNat], sw := [sd.toNat], roles := [0, 1] }
  | .xexp sd sa sb => { sr := span sa.toNat 8 ++ [sb.toNat], sw := [sd.toNat], roles := [0, 1] }
  | .xfill sd sa sb => { sr := span sa.toNat 8 ++ [sb.toNat], sw := [sd.toNat], roles := [0, 1] }
  | .xgath sd sa sb => { sr := span sa.toNat 8 ++ [sb.toNat], sw := [sd.toNat], roles := [0, 1] }
  | .xtrn sd sa sb => { sr := span sa.toNat 8 ++ [sb.toNat], sw := [sd.toNat], roles := [0, 1] }
  | .layic sd sa sb => { sr := span sa.toNat 8 ++ [sb.toNat], sw := [sd.toNat], roles := [0, 1] }
  | .xcancel sd _ => { sw := [sd.toNat], roles := [0, 1] }
  | .engineCommandStart _ => { }
  | .copyCommandCompletion _ _ => { }
  | .mma _ va j _ _ _ => { sr := span (8 * j.toNat) 4, vr := if t.latched va.toNat (t.aFormat) then [] else span va.toNat (t.aCount mx), bad := t.mxInvalid || t.aOdd va.toNat || decide (t.nvregs < va.toNat + t.aCount mx), roles := [0, 2] }
  | .mmal sd sa sb => { sr := span sa.toNat 8 ++ [sb.toNat], sw := [sd.toNat], bad := t.mxInvalid, roles := [0, 2] }
  | .mmaw4 _ va j _ _ _ => { sr := span (8 * j.toNat) 6, vr := if t.latched va.toNat w4Format then [] else span va.toNat 16, bad := decide (t.nvregs < va.toNat + 16), roles := [0, 2] }
  | .mfmt _ => { roles := [0, 2] }
  | .acalloc sd sa => { sr := [sa.toNat], sw := [sd.toNat], roles := [0, 2] }
  | .acfree sa sb => { sr := [sa.toNat, sb.toNat], roles := [0, 2] }
  | .aczero sa sb => { sr := [sa.toNat, sb.toNat], roles := [0, 2] }
  | .acload sd sa sb => { sr := span sa.toNat 4 ++ [sb.toNat], sw := [sd.toNat], roles := [0, 2] }
  | .acread vd sb _ _ => { sr := [sb.toNat], vw := [vd.toNat], roles := [0, 3], lanes := true }
  | .acdrain sd sa sb => { sr := span sa.toNat 8 ++ [sb.toNat], sw := [sd.toNat], roles := [0, 2] }
  | .atload sd sa => { sr := span sa.toNat 3, sw := [sd.toNat], roles := [0, 2] }
  | .matrixCommandCompletion _ _ => { }
  | .gmask sd sa => { sr := span sa.toNat 8, sw := [sd.toNat], roles := [0, 3] }
  | .gadv sd sa => { sr := span sa.toNat 8, sw := [sd.toNat], roles := [0, 3] }
  | .sample sd sa sb => { sr := span sa.toNat 8 ++ span sb.toNat 2, sw := span sd.toNat 2, roles := [0, 3] }
  | .route sd sa => { sr := span sa.toNat 8, sw := [sd.toNat], roles := [0, 3] }
  | .emit sd sa => { sr := span sa.toNat 8, sw := [sd.toNat], roles := [0, 3] }
  | .jtrunc sd sa => { sr := span sa.toNat 8, sw := [sd.toNat], roles := [0, 3] }
  | .jreplay sd sa => { sr := span sa.toNat 8, sw := [sd.toNat], roles := [0, 3] }
  | .jstat sd sa => { sr := span sa.toNat 8, sw := span sd.toNat 2, roles := [0, 3] }
  | .grammarUnitCompletion _ => { }
  | .generationUnitCompletion _ => { }
  | .journalAckReceived _ => { }
  | .journalRecordReceived _ => { }
  | .heartbeatSend => { }
  | .heartbeatReceived => { }
  | .partnerLost => { }
  | .resynchronisationComplete => { }
  | .rsig sa sb => { sr := span sa.toNat 2 ++ [sb.toNat] }
  | .rsigGen sg sa sb => { sr := span sa.toNat 2 ++ [sb.toNat, sg.toNat] }
  | .coll sd sa sb => { sr := span sa.toNat 8 ++ [sb.toNat], sw := [sd.toNat], roles := [0, 1] }
  | .peerq sd sa sb => { sr := [sa.toNat, sb.toNat], sw := [sd.toNat] }
  | .routerAnswer _ => { }
  | .collCompletion _ _ _ _ => { }
  | .peerPacketArrival _ => { }
  | .fabricAckArrival _ _ _ => { }
  | .retransmitTimeout _ => { }
  | .flitArrival _ _ => { }
  | .linkLaneFailure _ _ => { }
  | .linkKeyLimit _ => { }
  | .trap _ => { always := true }
  | .pmask => { always := true }
  | .punmask => { always := true }
  | .pwreq sd sa => { sr := [sa.toNat], sw := [sd.toNat] }
  | .pwrel sa => { sr := [sa.toNat] }
  | .pwreqGrant _ => { }
  | .pwreqTimeout _ => { }
  | .powerPermitGrant _ => { }
  | .dieHotThreshold _ => { }
  | .dieCriticalThreshold _ => { }
  | .taskq sd sa sb => { sr := span sa.toNat 8 ++ [sb.toNat], sw := [sd.toNat] }
  | .launch sd sa => { sr := span sa.toNat 8, sw := [sd.toNat] }
  | .clkrd sd _ => { sw := span sd.toNat 2 }
  | .clkrdAnswer _ => { }
  | .srd sd _ => { sw := [sd.toNat], always := true }
  | .swr sa _ => { sr := [sa.toNat], always := true }
  | .illegalOpcode => { }
  | .reservedOpcodePark => { }
  | .divergencePop => { }
  | .teamPromotion _ => { }
  | .yieldExpiry _ => { }
  | .teamLeaveQuadrant _ => { }
  | .groupCommit _ => { }
  | .launchStart _ => { }
  | .groupPlacement _ _ _ _ => { }
  | .queueLaunch _ _ => { }
  | .queueDrain _ _ => { }
  | .queueWrite _ _ => { }
  | .queueWaitwake _ _ => { }
  | .queueNop _ _ => { }
  | .queueEntrySkipped _ _ => { }
  | .preemptionRequest _ _ => { }
  | .maskWatchdogExpiry _ => { }
  | .handlerWatchdogExpiry _ => { }
  | .partitionRestore _ => { }
  | .trapQueueTake _ => { }
  | .ctrlResume _ _ => { }
  | .ctrlKill _ => { }
  | .ctrlDetach _ => { }
  | .teamStateWindowWrite _ _ _ _ => { }
  | .pageServiceComplete _ _ _ => { }
  | .pageServiceRefusal _ _ => { }
  | .coreUncorrectableError _ => { }
  | .memoryUncorrectableError _ => { }
  | .powerUp => { }
  | .functionReady _ => { }
  | .bootImageLoad _ _ => { }
  | .attestationRequest _ => { }
  | .powerctlWrite _ => { }
  | .referenceTimeWrite _ => { }
  | .setVaultSplit _ _ => { }
  | .setShadowStorage _ _ => { }
  | .setPartitionColumns _ _ => { }
  | .setHbmShare _ _ => { }
  | .setDeterministicMode _ _ => { }
  | .setDebug _ _ => { }
  | .queueCreate _ _ _ => { }
  | .wakeBitsWrite _ _ _ => { }
  | .partnerAssign _ => { }
  | .castlingCandidateName _ => { }
  | .journalCapacitySet _ => { }
  | .deviceFence _ => { }
  | .linkKeyInstall _ _ _ => { }
  | .unreachableClear _ => { }
  | .collectiveAbort _ _ => { }
  | .pageTableRootSet _ _ => { }
  | .tlbInvalidation _ _ => { }
  | .collectiveLogBaseSet _ _ => { }
  | .tswBaseSet _ _ => { }
  | .restoreWrite _ _ => { }
  | .hostPreemptionRequest _ => { }
  | .launchCancel _ => { }
  | .codeObjectLoad _ => { }
  | .hostCxlMemAccess _ _ _ => { }
  | .statusPageUpdate _ => { }
  | .managementRegisterWrite _ => { }
  | .hotThresholdCleared _ => { }
  | .tlbInvalidationComplete _ _ => { }
  | .linkRetrainingComplete _ _ => { }

/-- What the gate finds (R48, R53, R198, R299). -/
inductive Gate where
  | illegal
  | role
  | failed (f : Failure)
  | drained (d : DrainMark)
  | wait
  | skip
  | go
  deriving DecidableEq, Repr

/-- The scalar registers an instruction waits for (R48): those it reads or writes, the exec window unless it waits for its own registers
alone, and the cond window under a guard. RET and KILL, which pop an entry of the stack, wait for the cond window too (R141). -/
def Need.scalars (n : Need) (t : Team) : List Nat :=
  n.sr ++ n.sw ++ (if n.own then [] else t.execRegs) ++ (if n.lanes && decide (t.guard ≠ 0) then t.condRegs else [])

/-- A failure left one of these registers empty (R198). -/
def Failure.hits (f : Failure) (ss vs : List Nat) : Bool := f.sregs.any ss.contains || f.vregs.any vs.contains

/-- The gate of a word instruction, in the order of R53, then the waits of R48 with the failures they raise. -/
def Team.gate (t : Team) (mx : Bool) (i : Instr) : Gate :=
  let n := needOf t mx i
  let ss := n.scalars t
  let vs := n.vr ++ n.vw
  if !i.wf || n.bad || vs.any (fun r => decide (t.nvregs ≤ r)) then .illegal
  else if !n.roles.contains t.role then .role
  else match t.drains.find? (fun d => ss.contains d.reg) with
    | some d => .drained d
    | none =>
      match t.failures.find? (fun f => f.hits ss vs) with
      | some f => .failed f
      | none =>
        if ss.any t.sEmpty || vs.any t.vEmpty then .wait
        else if t.noExec && !n.always then .skip
        else .go

/-- The report of a failure that came with returning data (R198): code, address, the failed instruction's PC and its record. -/
def Failure.report (t : Team) (f : Failure) : Report :=
  { cause := f.code.toNat, deferred := false, earlier := true, vaddr := f.vaddr, recpc := f.pc, token := f.token, tcode := 0,
    flw := t.lanesMask f.lanes }
/-- A store of the team failed at its home (R198). -/
def Team.storeFailed (t : Team) : Option Failure := t.failures.find? (·.store)
/-- The report of a drain fault (R299). -/
def DrainMark.report (t : Team) (d : DrainMark) : Report :=
  { Report.raise d.token t.allLanes with earlier := true, recpc := d.pc, vaddr := d.vaddr }

/-- The state after a drain fault is raised: its mark is cleared (R299). -/
def State.raiseDrain (s : State) (slot : Nat) (t : Team) (d : DrainMark) : State :=
  (s.setTeam slot { t with drains := t.drains.filter (· != d) }).trap slot (d.report t)

/-- In-data selection of the team's group (R279). -/
def State.mxsel (s : State) (t : Team) : Bool :=
  match s.group? t.group with
  | some g => g.mxsel
  | none => false

/-- A team can issue: it is running, not asleep, and not held by YIELD (R24, R135, R372). -/
def Team.canIssue (t : Team) : Bool := t.status == .running && t.request.isNone && !t.sched.yielding

/-- A word instruction issues on the current team: the gate decides whether its body runs. A team that cannot issue, or waits, stays as it
is (R48). With every exec word zero an instruction only takes its issue slot (R20, R47). -/
def issue (i : Instr) (s : State) (body : Nat → Team → Host.Outcome State Fault Refusal) : Host.Outcome State Fault Refusal :=
  match s.cur with
  | none => .fault .noTeam
  | some slot =>
    match s.team? slot with
    | none => .fault .noTeam
    | some t =>
      if !t.canIssue then .next s
      else match t.gate (s.mxsel t) i with
        | .illegal => .next (s.illegal slot)
        | .role => .next (s.trap slot (Report.precise 0x11 t.allLanes))
        | .failed f => .next (s.trap slot (f.report t))
        | .drained d => .next (s.raiseDrain slot t d)
        | .wait => .next s
        | .skip => .next (s.setTeam slot t.advance)
        | .go => body slot t

/-- The team's next state with the PC moved on. -/
def State.done (s : State) (slot : Nat) (t : Team) : Host.Outcome State Fault Refusal := .next (s.setTeam slot t.advance)

/-- A scalar instruction that writes one register (R111). -/
def scalarInstr (i : Instr) (s : State) (sd : Nat) (f : Team → Word) : Host.Outcome State Fault Refusal :=
  issue i s fun slot t => s.done slot (t.ws sd (f t))

/-- An instruction that writes one vector register lane by lane in its active lanes, after last-use marks (R44, R142, R147). -/
def laneInstr (i : Instr) (s : State) (vd : Nat) (keep : Bool) (marks : List (Nat × Bool)) (f : Team → Nat → Except Word Word) :
    Host.Outcome State Fault Refusal :=
  issue i s fun slot t =>
    let t1 := (t.lastUse marks).wv vd fun l => if t.active l then some (laneOf (f t l)) else none
    ((s.dropOperands slot t marks).cacheOperand slot t vd keep).done slot t1

/-- An instruction that writes the cond window lane by lane in its active lanes (R117, R151). -/
def condInstr (i : Instr) (s : State) (marks : List (Nat × Bool)) (f : Team → Nat → Except Word Bool) :
    Host.Outcome State Fault Refusal :=
  issue i s fun slot t =>
    let t1 := (t.lastUse marks).condLanes fun l => if t.active l then some (f t l) else none
    (s.dropOperands slot t marks).done slot t1

/-- A cross-lane move (R152): for each active lane, the result where it has a valid source, and its cond bit. A lane that nothing is written to,
of a destination that is also a source marked last-use, becomes dead: R44's mark, against R152's words that its dead mark stays, is the
model's choice (log entry 92). -/
def crossInstr (i : Instr) (s : State) (vd : Nat) (keep : Bool) (marks : List (Nat × Bool))
    (f : Team → Nat → Option (Except Word Word) × Bool) : Host.Outcome State Fault Refusal :=
  issue i s fun slot t =>
    let t1 := (t.lastUse marks).wv vd fun l => if t.active l then (f t l).1.map laneOf else none
    let t2 := t1.condLanes fun l =>
      if t.active l then
        match (f t l).1 with
        | some (.error k) => some (.error k)
        | _ => some (.ok (f t l).2)
      else none
    ((s.dropOperands slot t marks).cacheOperand slot t vd keep).done slot t2

end Sys2Proof.Machine
end

