-- ==== Sys2Proof/Machine/Philox.lean ====
section
/-! DEFINITION. Philox4x32-10 as published (R89): the draws of stochastic rounding and of SAMPLE. -/

namespace Sys2Proof.Machine

/-- The high and low words of a 32 by 32 bit product. -/
def mulHiLo (a b : Nat) : Nat × Nat := ((a * b) / 2 ^ 32, (a * b) % 2 ^ 32)

/-- Rounds of Philox4x32 on the counter words c0 to c3 with key k0, k1 (R89). -/
def philoxGo : Nat → Nat × Nat × Nat × Nat → Nat × Nat → Nat × Nat × Nat × Nat
  | 0, c, _ => c
  | n + 1, (c0, c1, c2, c3), (k0, k1) =>
    let p0 := mulHiLo 0xD2511F53 c0
    let p1 := mulHiLo 0xCD9E8D57 c2
    philoxGo n (p1.1 ^^^ c1 ^^^ k0, p1.2, p0.1 ^^^ c3 ^^^ k1, p0.2)
      ((k0 + 0x9E3779B9) % 2 ^ 32, (k1 + 0xBB67AE85) % 2 ^ 32)

/-- The four output words of Philox4x32-10 (R89). -/
def philox (key : Dbl) (c0 c1 c2 c3 : Nat) : List Nat :=
  let r := philoxGo 10 (c0 % 2 ^ 32, c1 % 2 ^ 32, c2 % 2 ^ 32, c3 % 2 ^ 32) (key.toNat % 2 ^ 32, key.toNat / 2 ^ 32)
  [r.1, r.2.1, r.2.2.1, r.2.2.2]

/-- The draw for sub-element q of lane L: counter c0 = L, c1 and c2 the halves of SRCNT, c3 = floor(q / 4), word q mod 4 (R89). -/
def srDraw (seed cnt : Dbl) (l q : Nat) : Nat :=
  (philox seed l (cnt.toNat % 2 ^ 32) (cnt.toNat / 2 ^ 32) (q / 4)).getD (q % 4) 0

end Sys2Proof.Machine
end

