-- ==== Sys2Proof/Machine/Flags.lean ====
section
/-! DEFINITION. The flag and statistics computations: OVC, NAN, NINF and PINF (R97, R98), amax (R98), the count of stochastic
instructions (R89), and the effective rounding (R85). -/

namespace Sys2Proof.Machine

/-- What one instruction adds to the statistics: the flags it sets (bit 0 PINF, 1 NINF, 2 NAN, 3 OVC) and the largest finite
magnitude it encoded, as a binary32 pattern (R97, R98). -/
structure Stat where
  flags : BitVec 4
  amax : Word
  deriving DecidableEq, Repr

/-- No change. -/
def Stat.none : Stat := { flags := 0, amax := 0 }
/-- The larger of two non-negative binary32 patterns. -/
def maxPattern (a b : Word) : Word := if a.toNat < b.toNat then b else a
/-- Both. -/
def Stat.join (a b : Stat) : Stat := { flags := a.flags ||| b.flags, amax := maxPattern a.amax b.amax }
/-- All of a list. -/
def Stat.all (l : List Stat) : Stat := l.foldl Stat.join Stat.none

/-- The PINF flag. -/
def flagPinf : BitVec 4 := 1
/-- The NINF flag. -/
def flagNinf : BitVec 4 := 2
/-- The NAN flag. -/
def flagNan : BitVec 4 := 4
/-- The OVC flag. -/
def flagOvc : BitVec 4 := 8

/-- A magnitude converted to FP32 under RUP; beyond FP32's range it counts as +infinity (R98). -/
def magPattern (v : Val) : Word := word (toF32 2 false 0 v.abs.exact).code

/-- The statistics of a result encoded into a slot (R98). -/
def statOf (f : Fmt) (e : Enc) : Stat :=
  let o : BitVec 4 := if e.ovc then flagOvc else 0
  match decodeVal f e.code with
  | .nan => { flags := o ||| flagNan, amax := 0 }
  | .inf s => { flags := o ||| (if s then flagNinf else flagPinf), amax := 0 }
  | v => { flags := o, amax := magPattern v }

/-- The flags of a result that is not encoded into a slot (R175, R179). -/
def statFlags (f : Fmt) (e : Enc) : Stat := { flags := (statOf f e).flags, amax := 0 }

/-- A NaN source sets NAN (R98). -/
def statSrc (v : Val) : Stat := if v.isNan then { flags := flagNan, amax := 0 } else Stat.none

/-- The team's statistics after an instruction: the flags are sticky, amax of the slot rises (R97, R98). -/
def Team.addStat (t : Team) (slot : Nat) (x : Stat) : Team :=
  { t with fmt := { t.fmt with
      flags := t.fmt.flags ||| x.flags
      amax := sput 0 t.fmt.amax slot (maxPattern (sget 0 t.fmt.amax slot) x.amax) } }

/-- The effective rounding: RND, or the DRND of the slot that fixes the instruction's rounding (R85). -/
def Team.rounding (t : Team) (slot : Nat) : Nat := if t.rnd = 6 then (t.fmtAt slot).drnd else t.rnd

/-- SRCNT after an instruction of opcodes 0x60 to 0x82 whose rounding slot is given: it rises by one under SR (R89). -/
def Team.countSr (t : Team) (slot : Nat) : Team :=
  if t.rounding slot = 5 then { t with fmt := { t.fmt with srcnt := t.fmt.srcnt + 1 } } else t

/-- The draw of an instruction for sub-element q of position L, from the seed and count read at issue (R89). -/
def Team.draw (t : Team) (l q : Nat) : Nat := srDraw t.fmt.seed t.fmt.srcnt l q

end Sys2Proof.Machine
end

