-- ==== Sys2Proof/Machine/Translate.lean ====
section
/-! DEFINITION. Address windows (R182 to R185), the page walk and its leaves (R386, R387), range-lock tests (R192, R261), fault
records (R384, R385). -/

namespace Sys2Proof.Machine

/-! ## Fault codes (R95) -/

/-- NOT_PRESENT. -/
def codeNotPresent : Nat := 0x01
/-- PROTECTION. -/
def codeProtection : Nat := 0x02
/-- OUT_OF_BOUNDS. -/
def codeOutOfBounds : Nat := 0x03
/-- RANGE_LOCKED. -/
def codeRangeLocked : Nat := 0x04
/-- UNCORRECTABLE. -/
def codeUncorrectable : Nat := 0x05
/-- PEER_UNREACHABLE. -/
def codePeerUnreachable : Nat := 0x06
/-- MISALIGNED. -/
def codeMisaligned : Nat := 0x07
/-- DECODE. -/
def codeDecode : Nat := 0x08
/-- EMULATION_FAILED. -/
def codeEmulationFailed : Nat := 0x0E

/-! ## Windows -/

/-- Base of the scratchpad window (R182). -/
def spadBase : Nat := 0xFFFFFFFFFFF00000
/-- Base of the vault-absolute window (R182). -/
def vaultBase : Nat := 0xFFFFFF0000000000

/-- The window of an address (R182): scratchpad offset, vault number and offset, translated, or none. -/
inductive Window where
  | spad (off : Nat)
  | vault (v off : Nat)
  | translated
  | none
  deriving DecidableEq, Repr

/-- The window of an address (R182). -/
def windowOf (va : Nat) : Window :=
  if spadBase ≤ va then .spad (va - spadBase)
  else if vaultBase ≤ va ∧ va < vaultBase + 64 * 2 ^ 26 then .vault ((va - vaultBase) / 2 ^ 26) ((va - vaultBase) % 2 ^ 26)
  else if va < 2 ^ 48 then .translated
  else .none

/-- What an access asks of a leaf (R386). -/
inductive Perm where
  | read | write | atomic | fetch
  deriving DecidableEq, Repr

/-- Where a page walk ends (R386): a fault code with the path of the address (R191), or a leaf with the size of its page. -/
inductive Walk where
  | fail (code path : Nat)
  | leaf (entry : Dbl) (size : Nat)
  deriving DecidableEq, Repr

/-- The reserved bits of a leaf are zero, its target is defined, and FRAME is zero below the page size (R386). -/
def leafOk (d : Dbl) (size : Nat) : Bool :=
  let tgt := (d.extractLsb' 2 2).toNat
  decide (d.extractLsb' 59 5 = 0 ∧ d.extractLsb' 8 8 = 0 ∧ tgt ≠ 3 ∧ (tgt ≠ 2 → d.extractLsb' 48 11 = 0) ∧
    ((d.extractLsb' 16 32).toNat * 2 ^ 16) % size = 0)

/-- The path code of a leaf's target (R190). -/
def leafPath (d : Dbl) : Nat := let t := (d.extractLsb' 2 2).toNat; if t = 0 then 2 else if t = 1 then 3 else 4

/-- A function of READY is up (R406). -/
def State.functionUp (s : State) (bit : Nat) : Bool := s.board.ready.getLsbD bit
/-- The HBM stack that holds a device physical address reports ready (R406). -/
def State.stackUp (s : State) (p : Nat) : Bool :=
  (List.range 12).all s.functionUp || s.functionUp (Config.stackOf p % 12)
/-- The HBM stacks of every byte of a range of device memory report ready (R406). -/
def State.stacksUp (s : State) (key n : Nat) : Bool := (List.range n).all fun i => s.stackUp (key + i)
/-- Every byte of a range of device memory lies in a partition's share of HBM (R31). -/
def State.inShare (s : State) (part key n : Nat) : Bool :=
  decide ((s.part part).hbmBase ≤ key ∧ key + n ≤ (s.part part).hbmBase + (s.part part).hbmShare)

/-- The bits below the index of a level (R386), where n more levels follow it. -/
def levelShift (n : Nat) : Nat := if n = 0 then 16 else 12 + 9 * n
/-- The address of the entry for an address in a table, where n more levels follow (R386). -/
def entryAt (va n table : Nat) : Nat := table + 8 * (va / 2 ^ levelShift n % (if n = 0 then 32 else 512))
/-- What keeps the walker from an entry (R31, R406; log entry 85): it lies outside the partition's share, or in a stack that is not ready. -/
def State.entryFault (s : State) (part entry : Nat) : Option Nat :=
  if !s.inShare part entry 8 then some codeProtection else if s.stackUp entry then none else some codeUncorrectable
/-- What an entry says (R386): how the walk ends, or the next table. An entry that is not present and is a leaf in everything else gives its
target's path (R191, R421; log entry 16). -/
def entryStep (n : Nat) (d : Dbl) : Except Walk Nat :=
  let size := 2 ^ levelShift n
  if !d.getLsbD 0 then .error (.fail codeNotPresent (if d.getLsbD 1 && n != 3 && leafOk d size then leafPath d else 15))
  else if d.getLsbD 1 then .error (if n ≠ 3 ∧ leafOk d size = true then .leaf d size else .fail codeProtection 15)
  else if n = 0 ∨ d.extractLsb' 2 6 ≠ 0 ∨ d.extractLsb' 48 16 ≠ 0 then .error (.fail codeProtection 15)
  else .ok ((d.extractLsb' 8 56).toNat * 2 ^ 8)
/-- The walk from a table (R386): fuel counts the levels left. -/
def walkFrom (bad : Nat → Option Nat) (m : Memory) (va : Nat) : Nat → Nat → Walk
  | 0, _ => .fail codeProtection 15
  | n + 1, table =>
    match bad (entryAt va n table) with
    | some c => .fail c 15
    | none => match entryStep n (dbl (m.nat (entryAt va n table) 8)) with
      | .error w => w
      | .ok next => walkFrom bad m va n next
/-- Every walk from a table in which each entry is what memory holds or one that it held before (R387). -/
def walksFrom (bad : Nat → Option Nat) (held : Nat → List Dbl) (m : Memory) (va : Nat) : Nat → Nat → List Walk
  | 0, _ => []
  | n + 1, table =>
    match bad (entryAt va n table) with
    | some c => [.fail c 15]
    | none => ((dbl (m.nat (entryAt va n table) 8) :: held (entryAt va n table)).map fun d => match entryStep n d with
      | .error w => [w]
      | .ok next => walksFrom bad held m va n next).flatten
/-- The address of a partition's root table. -/
def State.rootOf (s : State) (part : Nat) : Nat := (s.part part).root.toNat % 2 ^ 48
/-- The walk of an address through the tables in memory (R386). -/
def State.walkNow (s : State) (part va : Nat) : Walk := walkFrom (s.entryFault part) s.mem va 4 (s.rootOf part)

/-- A leaf used before covers an address. -/
def TlbEntry.covers (e : TlbEntry) (va : Nat) : Bool := decide (e.base ≤ va ∧ va < e.base + e.size)

/-- The address of the entry at which a walk ends (R386). -/
def walkEnd (m : Memory) (va : Nat) : Nat → Nat → Nat
  | 0, table => table
  | n + 1, table =>
    match entryStep n (dbl (m.nat (entryAt va n table) 8)) with
    | .error _ => entryAt va n table
    | .ok next => walkEnd m va n next

/-- How walks of an address may have ended since the last completed invalidation, other than they do now (R387): at leaves that an access
used, and by every entry that the tables held. -/
def State.oldLeaves (s : State) (part va : Nat) (now : Walk) : List Walk :=
  let p := s.part part
  let used := (p.tlb.filter fun e => e.covers va).map fun e => Walk.leaf e.leaf e.size
  let held (entry : Nat) : List Dbl := (p.stale.filter fun e => e.1 == entry).map (·.2)
  (used ++ walksFrom (s.entryFault part) held s.mem va 4 (s.rootOf part)).filter (· != now)

/-- The walk an access uses: the tables' leaf, or an older one, chosen for the access and the page as a whole; the choice is a free value
(R387, log entry 3). -/
def State.walk (s : State) (part va salt : Nat) : Walk :=
  let now := s.walkNow part va
  match s.oldLeaves part va now with
  | [] => now
  | old =>
    let page := match now with | .leaf _ sz => va / sz * sz | .fail _ _ => va / 2 ^ 16 * 2 ^ 16
    (now :: old).getD (Config.leafChoice (s.freeCount * 2 ^ 160 + salt * 2 ^ 64 + page) % (old.length + 1)) now

/-- The permission a leaf must carry (R386). -/
def leafAllows (d : Dbl) : Perm → Bool
  | .read => d.getLsbD 4
  | .write => d.getLsbD 5
  | .atomic => d.getLsbD 5 && d.getLsbD 6
  | .fetch => d.getLsbD 7


/-- The key of an address under a leaf (R386). -/
def leafKey (d : Dbl) (size va : Nat) : Nat :=
  let p := (d.extractLsb' 16 32).toNat * 2 ^ 16 + va % size
  let t := (d.extractLsb' 2 2).toNat
  if t = 0 then p else if t = 1 then hostKey p else peerKey (d.extractLsb' 48 11).toNat p

/-- A physical address lies in one of some ranges. -/
def inRanges (rs : List (Nat × Nat)) (p : Nat) : Bool := rs.any fun r => decide (r.1 ≤ p ∧ p < r.1 + r.2)
/-- The boundary of a partition at a leaf's byte (R31, R403, R408): device memory of its own share, host memory in a window that the host
programmed, a peer that is not this device (R337). -/
def State.leafInside (s : State) (part : Nat) (d : Dbl) (size va : Nat) : Bool :=
  let k := leafKey d size va
  match leafPath d with
  | 2 => s.inShare part k 1
  | 3 => inRanges s.board.hostWindows (k - 2 ^ 48)
  | _ => decide ((d.extractLsb' 48 11).toNat ≠ s.fabric.devid)

/-- A range of HBM meets the share of a partition other than `part`, or the host's own (R31, R403): 8 names no partition, 9 the host. -/
def State.hbmTaken (s : State) (part base size : Nat) : Bool :=
  let meets (b n : Nat) : Bool := decide (0 < size ∧ 0 < n ∧ base < b + n ∧ b < base + size)
  (part != 9 && meets s.board.hostShare.1 s.board.hostShare.2) || (List.range 8).any fun q => q != part && meets (s.part q).hbmBase (s.part q).hbmShare
/-- What a resolved address gives: the key of its byte and its path; or a fault code and the path code of the detail word (R191). -/
abbrev Resolved := Except (Nat × Nat) (Nat × Nat)

/-- The key of an address for a group of a partition: window and bound (check 2 of R191), then translation (check 4). The size of the
access matters for the bound, which holds for every byte of it (R184), and for alignment (check 3), which stands between; size 0 asks for
one byte and no alignment. Device memory of a stack that does not report ready fails as UNCORRECTABLE (R406, log entry 67). -/
def State.resolve (s : State) (part gid : Nat) (perm : Perm) (size va salt : Nat) : Resolved :=
  match windowOf va with
  | .none => .error (codeProtection, 15)
  | .spad off =>
    let bytes := match s.groupOf part gid with
      | some g => g.scratchBytes
      | none => 0
    if perm = .fetch then .error (codeProtection, 0)
    else if bytes < off + max size 1 then .error (codeProtection, 0)
    else if size ≠ 0 ∧ va % size ≠ 0 then .error (codeMisaligned, 0)
    else .ok (spadKey gid off, 0)
  | .vault v off =>
    if perm = .fetch then .error (codeProtection, 1)
    else if !(s.part part).columns.getLsbD v || decide (sget 0 s.vaultSplit v * Config.vaultStep ≤ off) then .error (codeProtection, 1)
    else if size ≠ 0 ∧ va % size ≠ 0 then .error (codeMisaligned, 1)
    else .ok (vaultKey v off, 1)
  | .translated =>
    let w := s.walk part va salt
    if size ≠ 0 ∧ va % size ≠ 0 then
      .error (codeMisaligned, match w with | .leaf d _ => leafPath d | .fail _ p => p)
    else match w with
      | .fail c p => .error (c, p)
      | .leaf d sz =>
        if !s.leafInside part d sz va || !leafAllows d perm then .error (codeProtection, leafPath d)
        else if leafPath d = 2 ∧ s.stackUp (leafKey d sz va) = false then .error (codeUncorrectable, 2)
        else .ok (leafKey d sz va, leafPath d)

/-- The leaf an access used, remembered until the next completed invalidation (R387). -/
def State.noteLeaf (s : State) (part va salt : Nat) : State :=
  match windowOf va with
  | .translated =>
    match s.walk part va salt with
    | .leaf d sz =>
      let e : TlbEntry := { base := va / sz * sz, size := sz, leaf := d }
      if (s.part part).tlb.contains e then s else s.onPart part fun p => { p with tlb := e :: p.tlb }
    | .fail _ _ => s
  | _ => s

/-- The leaves of some addresses remembered, and the counter of free choices advanced (log entry 3). -/
def State.noteLeaves (s : State) (part : Nat) (vas : List (Nat × Nat)) : State :=
  let s1 := vas.foldl (fun s v => s.noteLeaf part v.1 v.2) s
  { s1 with freeCount := s.freeCount + 1 }

/-! ## Range locks -/

/-- A byte range from an address on, modulo 2^64, as locks compare it (R261, R264): its parts below the scratchpad window, in the window, by
group, and beyond 2^64. -/
def rangeParts (gid va n : Nat) : List (Nat × Nat) :=
  [(va, min n (spadBase - va)), (2 ^ 65 + gid * 2 ^ 20 + (max va spadBase - spadBase), min (va + n) (2 ^ 64) - max va spadBase),
    (0, va + n - 2 ^ 64)].filter fun r => decide (0 < r.2)
/-- Two lists of parts share a byte. -/
def partsMeet (xs ys : List (Nat × Nat)) : Bool := xs.any fun x => ys.any fun y => decide (x.1 < y.1 + y.2 ∧ y.1 < x.1 + x.2)

/-- A lock on bytes [va, va + size) rounded outward to 32-byte sectors (R261). -/
def lockOf (write : Bool) (gid va size : Nat) : Lock :=
  { write := write, gid := gid, key := va / 32 * 32, size := if size = 0 then 0 else (va + size + 31) / 32 * 32 - va / 32 * 32 }

/-- A lock shares a byte with a range that a group reaches. -/
def Lock.meets (l : Lock) (gid va n : Nat) : Bool := partsMeet (rangeParts l.gid l.key l.size) (rangeParts gid va n)
/-- A lock covers a byte outside the scratchpad. -/
def Lock.outside (l : Lock) : Bool := (rangeParts l.gid l.key l.size).any fun r => decide (r.1 < 2 ^ 65)

/-- Two locks conflict: they share a byte and one is a write lock (R245). -/
def Lock.conflicts (a b : Lock) : Bool := (a.write || b.write) && a.meets b.gid b.key b.size

/-- A lock of a partition refuses an access by a team to [va, va + n): a write lock that meets it, or any lock for a store (R192). -/
def refuses (part gid va n : Nat) (store : Bool) (l : Nat × Nat × Lock) : Bool :=
  l.1 == part && (store || l.2.2.write) && l.2.2.meets gid va n
/-- An access by a team meets a lock that refuses it (R192). -/
def State.locked (s : State) (part gid va n : Nat) (store : Bool) : Bool := s.locks.any (refuses part gid va n store)
/-- The commands whose locks refuse an access. -/
def State.lockers (s : State) (part gid va n : Nat) (store : Bool) : List Nat :=
  ((s.locks.filter (refuses part gid va n store)).map (·.2.1)).eraseDups

/-! ## Writes at the home -/

/-- Words a byte range touches, by word number. -/
def wordsOf (key n : Nat) : List Nat := if n = 0 then [] else (List.range ((key + n - 1) / 4 - key / 4 + 1)).map (key / 4 + ·)

/-- Cores but one lose ownership of words (R218). -/
def State.disown (s : State) (keep : Option Nat) (words : List Nat) : State :=
  { s with cores := s.cores.map fun c => if some c.1 = keep then c else (c.1, { c.2 with owned := words.foldl sdel c.2.owned }) }

/-- The entries of 8 bytes that n bytes of device memory from a key touch and that have V = 1: a walk may have used them. -/
def State.leavesAt (s : State) (key n : Nat) : List (Nat × Dbl) :=
  if n = 0 ∨ keyPath key ≠ 2 then []
  else ((List.range ((key + n - 1) / 8 - key / 8 + 1)).map fun i => (key / 8 + i) * 8).filterMap fun a =>
    let d := dbl (s.mem.nat a 8)
    if d.getLsbD 0 then some (a, d) else none
/-- The entries that a write of n bytes at a key may change, remembered until the next completed invalidation (R387) by every partition that
has tables. -/
def State.keepLeaves (s : State) (key n : Nat) : State :=
  match s.leavesAt key n with
  | [] => s
  | ls => { s with parts := s.parts.map fun e =>
      if e.2.root = 0 then e else (e.1, { e.2 with stale := ls.filter (fun l => !e.2.stale.contains l) ++ e.2.stale }) }

/-- The leaves that writes at some keys may change (R387). -/
def State.keepLeavesOf (s : State) (keys : List Nat) : State := keys.foldl (fun s k => s.keepLeaves k 1) s

/-- Bytes registered at their homes by a party that owns no word (R217, R218): no core owns the words afterwards. -/
def State.homeWrite (s : State) (key : Nat) (bs : List Byte) : State :=
  let s1 := (s.keepLeaves key bs.length).disown none (wordsOf key bs.length)
  { s1 with mem := s1.mem.setBytes key bs }

/-- A mark of a sector cleared by a write of all its bytes (R193). -/
def State.unmark (s : State) (key n : Nat) : State :=
  { s with marks := s.marks.filter fun e => !(decide (key ≤ 32 * e.1 ∧ 32 * e.1 + 32 ≤ key + n)) }

/-! ## Fault records (R384, R385) -/

/-- A fault record as an engine or a team makes it. -/
structure FaultRecord where
  code : Nat
  rflags : Nat
  lane : Nat
  detail : Nat
  pc : Dbl
  va : Dbl
  deriving DecidableEq, Repr

/-- The 32 bytes of a record (R384). -/
def FaultRecord.bytes (r : FaultRecord) : List Byte :=
  leBytes 1 r.code ++ leBytes 1 r.rflags ++ leBytes 2 0 ++ leBytes 4 r.lane ++ leBytes 4 r.detail ++ leBytes 4 0 ++
    leBytes 8 r.pc.toNat ++ leBytes 8 r.va.toNat

/-- The detail word of a team's access (R191). -/
def detailWord (bufIndex path : Nat) (write spec : Bool) (size : Nat) : Nat :=
  bufIndex % 2 ^ 12 * 2 ^ 20 + path % 16 * 2 ^ 16 + (if write then 2 ^ 9 else 0) + (if spec then 2 ^ 8 else 0) + size % 256

/-- Sectors marked uncorrectable (R193) by sector number. -/
def State.marked (s : State) (key : Nat) : Bool := sget false s.marks (key / 32)

/-- A record written at the entry FRCUR of a team names (R385): the new state, the index and the next FRCUR; index 0 where the ring has
no free entry or the entry cannot be written (R384). A cursor that names no entry 1 to 2^FRLOG2 - 1 finds none free (R45; log entry 68). -/
def State.writeRecord (s : State) (part : Nat) (t : Team) (r : FaultRecord) : State × Nat × Nat :=
  let va := (t.frBase.toNat + 32 * t.frcur) % 2 ^ 64
  let lost := (s.onPart part fun p => { p with frlost := p.frlost + 1 }, 0, t.frcur)
  match s.walk part va t.frcur with
  | .leaf d sz =>
    let key := leafKey d sz va
    if t.frcur = 0 ∨ 2 ^ t.frLog2 ≤ t.frcur then (s, 0, t.frcur)
    else if !(windowOf va == .translated) || leafPath d != 2 || !s.leafInside part d sz va || !s.stackUp key || !leafAllows d .write ||
      s.marked key then lost
    else if s.mem.byte key ≠ 0 then (s, 0, t.frcur)
    else ({ s with freeCount := s.freeCount + 1 }.homeWrite key r.bytes, t.frcur, if t.frcur + 1 = 2 ^ t.frLog2 then 1 else t.frcur + 1)
  | .fail _ _ => if t.frcur = 0 ∨ 2 ^ t.frLog2 ≤ t.frcur then (s, 0, t.frcur) else lost
/-- A record allocated in the ring of a slot's team: the new state and the index (R385). -/
def State.allocRecord (s : State) (slot : Nat) (r : FaultRecord) : State × Nat :=
  match s.team? slot with
  | none => (s, 0)
  | some t =>
    let w := s.writeRecord (s.partOf t) t r
    (w.1.setTeam slot { t with frcur := w.2.2 }, w.2.1)

/-- Records allocated one after another, in the order given (R191). -/
def State.allocRecords : State → Nat → List FaultRecord → State × List Nat
  | s, _, [] => (s, [])
  | s, slot, r :: rs =>
    let a := s.allocRecord slot r
    let b := State.allocRecords a.1 slot rs
    (b.1, a.2 :: b.2)

/-! ## Fetch (R34, R122, R132, R137, R386) -/

/-- The number of a word in the body of the team's active loop. -/
def Team.loopWord (t : Team) : Option Nat :=
  let l := t.ctl.loop
  if l.active && !l.outside t.pc then some ((t.pc.toNat - l.start.toNat) / 4) else none

/-- The word at PC that the loop buffer holds for the team (R132). -/
def Team.buffered (t : Team) : Option Word := t.loopWord.bind fun n => sget none t.ctl.loop.buffer n

/-- The team with the word at PC captured while the first pass of its loop runs (R132). -/
def Team.capture (t : Team) (w : Word) : Team :=
  match t.loopWord with
  | some n => if t.ctl.loop.capture then
      { t with ctl := { t.ctl with loop := { t.ctl.loop with buffer := sput none t.ctl.loop.buffer n (some w) } } } else t
  | none => t

/-- The number of the free choice a fetch makes in the walk (log entry 3). -/
def fetchSalt : Nat := 4096

/-- The word at an address for a team: the key of its bytes and the word; or the code of the fault (R122). A word the core's instruction cache
holds is used where `held` allows it, else the word that memory holds (R137, R263, log entry 14). -/
def State.wordAtPc (s : State) (t : Team) (pc : Nat) (held : Bool) : Except Nat (Nat × Word) :=
  match s.resolve (s.partOf t) t.group .fetch 0 pc fetchSalt with
  | .error e => .error e.1
  | .ok (key, _) =>
    match (if held then ((s.core t.core).icache.find? fun e => e.1 == key / 4).map (·.2) else none), s.marked key with
    | some w, _ => .ok (key, w)
    | none, true => .error codeUncorrectable
    | none, false =>
      .ok (key, if keyPath key = 4 then word (leNat ((List.range 4).map fun i => Config.peerByte (s.freeCount * 2 ^ 64 + key + i)))
        else word (s.mem.nat key 4))
/-- A word held by a core's instruction cache (R137), which has Config.icacheWords words: the word cached first goes (R17; log entry 70). -/
def CoreState.cacheWord (c : CoreState) (n : Nat) (w : Word) : CoreState :=
  let rest := c.icache.filter fun e => e.1 != n
  { c with icache := ((n, w) :: rest).take Config.icacheWords }
/-- A fetched word: the state in which it was fetched, with the leaf noted (R387) and the word held by the core's instruction cache
(R137) and the loop buffer; or the code of the fault (R122). -/
def State.fetch (s : State) (slot : Nat) (t : Team) (held : Bool) : State × Except Nat Word :=
  match t.buffered with
  | some w => (s, .ok w)
  | none =>
    match s.wordAtPc t t.pc.toNat held with
    | .error e => (s, .error e)
    | .ok (key, w) =>
      let s1 := (s.noteLeaves (s.partOf t) [(t.pc.toNat, fetchSalt)]).onCore t.core fun c => c.cacheWord (key / 4) w
      (s1.setTeam slot (t.capture w), .ok w)
/-- The loop buffer after the first pass of a loop (R132): the words of the body that the pass did not execute are captured too, as far as
they can be fetched, so that no later store changes what the team executes. -/
def State.fillLoop (s : State) (slot : Nat) (before : Team) (held : Bool) : State :=
  match s.team? slot with
  | none => s
  | some t =>
    let l := t.ctl.loop
    if before.ctl.loop.capture && l.active && !l.capture && !l.buffer.isEmpty then
      let b := (List.range ((l.last.toNat - l.start.toNat) / 4 + 1)).foldl (fun (b : Sparse (Option Word)) n =>
        if (sget none b n).isSome then b
        else match s.wordAtPc t (l.start.toNat + 4 * n) held with
          | .ok (_, w) => sput none b n (some w)
          | .error _ => b) l.buffer
      s.setTeam slot { t with ctl := { t.ctl with loop := { l with buffer := b } } }
    else s

/-! ## Tokens -/

/-- A poison token (R95). -/
def tokenOf (code index : Nat) : Word := word (code % 256 * 2 ^ 24 + index % 2 ^ 24)

end Sys2Proof.Machine
end

