-- ==== Sys2Proof/Machine/Access.lean ====
section
/-! DEFINITION. The memory model's operations (R217 to R224): which operation holds back which, what a read returns, registration of
stores at homes, and the checks on a team's accesses (R191). -/

namespace Sys2Proof.Machine

/-! ## Classes of operations -/

/-- The keys a store, a load or an atomic touches. -/
def OpKind.keys : OpKind → List Nat
  | .load o => (o.accs.map (·.keys)).flatten ++ (match o.buf with
      | some b => (b.2.2.map fun e => e.keys ++ e.scale).flatten
      | none => [])
  | .store o => (o.units.map fun u => u.bytes.map (·.1)).flatten ++ (match o.pend with
      | some p => (p.elems.map fun e => e.keys ++ e.scale).flatten
      | none => [])
  | .atom o => o.lanes.map (·.key)
  | .signal (.sem k _ _ _) => [k, k + 4]
  | _ => []

/-- The memory requests that an operation makes, one for each 128-byte line of this device's memory, in the order of the lowest lane that
touches it (R189). -/
def OpKind.requests (x : OpKind) : List Nat :=
  let own (l : Nat) : Bool := keyPath (128 * l) != 0 && keyPath (128 * l) != 4
  match x with
  | .load _ | .store _ | .atom _ => ((x.keys.map (· / 128)).filter own).eraseDups
  | .touch lines _ _ _ => lines.filter own
  | _ => []
/-- The requests of an operation that have not returned (R189). -/
def Op.requests (o : Op) : Nat := o.kind.requests.length - o.returned
/-- The requests that an operation may have outstanding, those issued before it on its core counted (R17, R189). -/
def State.slotsFor (s : State) (o : Op) : Nat :=
  Config.coreRequests - ((s.ops.filter fun p => p.core == o.core && decide (p.id < o.id)).map Op.requests).sum
/-- An operation whose requests do not all fit makes as many as there are slots (R189); they return, and slots are free again. -/
def State.takeSlots (s : State) (o : Op) : Option State :=
  if o.requests ≤ s.slotsFor o then none else some (s.setOp { o with returned := o.returned + s.slotsFor o })

/-- An acquire that is not performed (R221). -/
def Op.acquires (o : Op) : Bool :=
  match o.kind with
  | .load l => l.acquire
  | .atom a => a.acquire
  | _ => false

/-- A release that is not performed (R222). -/
def Op.releases (o : Op) : Bool :=
  match o.kind with
  | .store st => st.release
  | .atom a => a.release
  | .signal _ => true
  | .command c => !c.released
  | _ => false

/-- Every unit of a store is on its way to a peer. -/
def StoreOp.allSent (o : StoreOp) : Bool := o.pend.isNone && o.units.all fun u => u.sent.isSome

/-- An earlier access that a later release of the team waits for at the core (R222): stores sent to peers are counted by the router instead.
Of engine commands only the reads of MMA and MMAW4 are accesses of the team (R230, R288, R290). -/
def Op.counts (o : Op) : Bool :=
  match o.kind with
  | .load _ => true
  | .store st => st.release || !st.allSent
  | .atom _ => true
  | .signal _ => true
  | .command c => decide (c.cmd = .mma ∨ c.cmd = .mmaw4)
  | _ => false

/-- Two operations touch a common word (R220). -/
def Op.sharesWord (p o : Op) : Bool :=
  let ws := o.kind.keys.map (· / 4)
  p.kind.keys.any fun k => ws.contains (k / 4)

/-- A store on its way to a peer, which keeps the order of its line (R341). -/
def Op.inFlight (o : Op) : Bool := match o.kind with | .store st => st.allSent | _ => false

/-- An earlier operation p of the same team keeps o from being performed (R220 to R224). -/
def Op.blocks (p o : Op) : Bool :=
  decide (p.slot = o.slot ∧ p.gid = o.gid ∧ p.id < o.id) &&
    (p.acquires || (o.releases && (p.counts || p.releases)) || (o.acquires && p.releases) || (p.sharesWord o && !p.inFlight))

/-- Nothing of its team holds an operation back. -/
def State.free (s : State) (o : Op) : Bool := !(s.ops.any fun p => p.blocks o)
/-- A release that the router holds until its acknowledgements have come (R222, R343); one with nothing to wait for is not handed to it. -/
def Op.held (o : Op) : Bool :=
  o.handed && o.releases && !o.snapshot.isEmpty && (match o.kind with | .command _ => false | _ => true)
/-- A release that waits for nothing but acknowledgements and the releases before it, a command's among them, unless the command still makes
reads of its team (R222, R230, R245): a later release may be handed over behind it. -/
def Op.queued (o : Op) : Bool :=
  o.handed && o.releases && !o.snapshot.isEmpty && !o.acquires && (match o.kind with | .command _ => !o.counts | _ => true)
/-- A release may be handed over (R222, R343): none of its team's earlier operations holds it back but releases that wait for
acknowledgements, behind which it stands. -/
def State.handable (s : State) (o : Op) : Bool := !(s.ops.any fun p => p.blocks o && !p.queued)
/-- The counts that the last release before an operation waits for. -/
def State.heldBefore (s : State) (o : Op) : List (Nat × Nat) := (s.ops.filter fun p => p.blocks o && p.queued).foldl (fun _ p => p.snapshot) []

/-- The router's counts a release waits for have been acknowledged (R222, R342). -/
def State.acked (s : State) (o : Op) : Bool :=
  o.snapshot.all fun d => decide (d.2 ≤ sget 0 (s.part o.part).acked d.1)

/-- The counts of stores sent and not acknowledged, per destination: the snapshot a release takes (R342). -/
def State.snapshot (s : State) (part : Nat) : List (Nat × Nat) :=
  (s.part part).sent.filter fun d => decide (sget 0 (s.part part).acked d.1 < d.2)

/-- A team that must see its own release performed before it goes on (R222, R230): while earlier accesses of its own are outstanding it stays;
then it stays until the acknowledgements of everything the router had counted when the last of them was performed have come. -/
def State.awaitRelease (s : State) (slot : Nat) (t : Team) : Option State :=
  let part := s.partOf t
  let snap := t.fence.getD (s.snapshot part)
  if s.ops.any fun o => o.slot == slot && o.gid == t.group && o.counts then some s
  else if snap.any fun d => decide (sget 0 (s.part part).acked d.1 < d.2) then some (s.setTeam slot { t with fence := some snap })
  else none

/-- The router holds 256 releases of a partition (R343). -/
def State.routerFull (s : State) (part : Nat) : Bool :=
  decide (Config.handedReleases ≤ (s.ops.filter fun o => o.part == part && o.held).length)

/-- An earlier acquire or release of the team is not performed: an acquire it makes now waits (R221, R223). -/
def State.acquireHeld (s : State) (slot gid : Nat) : Bool :=
  s.ops.any fun o => o.slot == slot && o.gid == gid && (o.acquires || o.releases)
/-- An atomic of the team has not been applied (R235). -/
def State.atomPending (s : State) (slot : Nat) : Bool :=
  s.ops.any fun o => o.slot == slot && !o.orphan && (match o.kind with | .atom _ => true | _ => false)

/-- A memory instruction, 0xA0 to 0xCF, while an atomic of the team is outstanding is held; after one that failed it raises the
failure (R235). Otherwise it goes on. -/
def memInstr (i : Instr) (s : State) (body : Nat → Team → Host.Outcome State Fault Refusal) : Host.Outcome State Fault Refusal :=
  issue i s fun slot t =>
    match t.failures.find? (·.atomic) with
    | some f => .next (s.trap slot (f.report t))
    | none => if s.atomPending slot then .next s else body slot t
/-- A store or an atomic: as a release it raises a failed store of its team (R198) and waits while the router is full (R343). -/
def storeInstr (i : Instr) (s : State) (body : Nat → Team → Host.Outcome State Fault Refusal) : Host.Outcome State Fault Refusal :=
  memInstr i s fun slot t =>
    if !t.orderRel then body slot t
    else match t.storeFailed with
      | some f => .next (s.trap slot (f.report t))
      | none => if s.routerFull (s.partOf t) then .next s else body slot t

/-! ## Groups that run speculatively (R249, R250) -/

/-- The record of a waiting group: its launch's, or its children's (R374). -/
def Launch.recordOf (l : Launch) (w : Waiting) : LaunchRec :=
  match w.child with
  | none => l.record
  | some id => ((l.children.find? fun c => c.op == id).map (·.record)).getD l.record
/-- The ply of a group of a record (R249, R361). -/
def LaunchRec.ply (r : LaunchRec) (index : Nat) : Dbl := r.plybase + BitVec.ofNat 64 index * r.plystep
/-- A group of a partition that waits for placement in a launch that has started has a ply below n (R249, R251; log entry 77). -/
def State.lowerWaits (s : State) (part n : Nat) : Bool :=
  s.launches.any fun e => match e.2 with
    | some l => l.part == part && l.started && !l.complete && l.waiting.any fun w => decide (((l.recordOf w).ply w.index).toNat < n)
    | none => false
/-- A group of some table, of a partition and not committed, has a ply below n. -/
def lowerIn (part n : Nat) (gs : Sparse (Option Group)) : Bool :=
  gs.any fun e => match e.2 with
    | some x => x.part == part && !x.leaving && decide (x.ply.toNat < n)
    | none => false
/-- A group that a partition swap has saved has a ply below n (R249, R395). -/
def State.lowerSaved (s : State) (part n : Nat) : Bool :=
  match (s.part part).swap with
  | some w => lowerIn part n w.groups
  | none => false
/-- A group is oldest: no uncommitted group of its partition, on a core, waiting for one or saved with the partition, has a lower ply
(R249). -/
def State.oldest (s : State) (gid : Nat) : Bool :=
  match s.group? gid with
  | none => true
  | some g => !lowerIn g.part g.ply.toNat s.groups && !s.lowerWaits g.part g.ply.toNat && !s.lowerSaved g.part g.ply.toNat

/-- A group runs speculatively: its partition is in deterministic mode and it is not oldest (R250); one that was dropped does not run. -/
def State.speculative (s : State) (gid : Nat) : Bool :=
  match s.group? gid with
  | some g => (s.part g.part).det && !g.leaving && !s.oldest gid
  | none => false

/-- The keys a group's speculation covers: device memory and vault words, not host, peer or scratchpad (R250, R252). -/
def specKey (k : Nat) : Bool := keyPath k == 2 || keyPath k == 1

/-- The sectors a group's speculative state takes (R250, R252): those it marked and those it holds bytes of. -/
def SpecState.sectorList (x : SpecState) : List Nat := ((x.marks.map fun (e : Nat × Bool) => e.1) ++ (x.held.map fun (e : Nat × Option Byte) => e.1 / 32)).eraseDups
/-- The sectors of a group's speculative state, those that its accesses under way will add among them (R252). -/
def State.groupSectors (s : State) (gid : Nat) (g : Group) : List Nat :=
  (g.spec.sectorList ++ ((s.ops.filter fun o => o.gid == gid && !o.orphan).map fun o => match o.kind with
    | .load _ | .store _ => (o.kind.keys.filter specKey).map (· / 32)
    | _ => []).flatten).eraseDups
/-- The sectors of speculative state that the groups of a core hold (R252). -/
def State.specSectors (s : State) (core : Nat) : Nat :=
  (s.groups.map fun e => match e.2 with
    | some g => if g.core = core then (s.groupSectors e.1 g).length else 0
    | none => 0).sum

/-! ## Reads -/

/-- A byte with the bits of the stores of a team that are not registered yet, in program order, below operation id (R199, R218). -/
def State.forward (s : State) (slot gid id k : Nat) (b : Byte) : Byte :=
  s.ops.foldl (fun b o =>
    if o.slot = slot ∧ o.gid = gid ∧ o.id < id then
      match o.kind with
      | .store st => st.units.foldl (fun (b : Byte) (u : StoreUnit) => u.bytes.foldl (fun (b : Byte) (e : Nat × Byte × Byte) => if e.1 = k then (b &&& ~~~e.2.1) ||| (e.2.2 &&& e.2.1) else b) b) b
      | _ => b
    else b) b

/-- A byte as a group's own committed or held state shows it: its held store, else the latest registered value (R218, R250). -/
def State.homeByte (s : State) (gid k : Nat) : Byte :=
  match s.group? gid with
  | some g =>
    match sget none g.spec.held k with
    | some b => b
    | none => s.mem.byte k
  | none => s.mem.byte k

/-- A byte as a load of a team reads it: from a not-owned copy in the core's L1 where the load may use one (R219), else from the home,
then with the team's own stores (R199). -/
def State.loadByte (s : State) (slot gid core id : Nat) (copies : Bool) (k : Nat) : Byte :=
  let home := s.homeByte gid k
  let b :=
    if copies then
      match sget none (s.core core).copies (k / 4) with
      | some w => BitVec.ofNat 8 (w.toNat / 2 ^ (8 * (k % 4)))
      | none => home
    else home
  s.forward slot gid id k b

/-- A core may hold a not-owned copy of a word that this device's memory holds (R187, R219): words of the scratchpad have none. -/
def CoreState.mayCopy (c : CoreState) (w : Nat) : Bool :=
  decide (keyPath (4 * w) ≠ 0 ∧ keyPath (4 * w) ≠ 4) && !sget false c.owned w
/-- A copy of a word taken from its home. -/
def State.copyOf (s : State) (w : Nat) : Option Word := some (word (s.mem.nat (4 * w) 4))
/-- A line leaves an L1 (R218). -/
def CoreState.dropLine (c : CoreState) (line : Nat) : CoreState :=
  { c with copies := c.copies.filter (fun e => e.1 / 32 != line), owned := c.owned.filter (fun e => e.1 / 32 != line),
           streaming := sdel c.streaming line }
/-- The lines of some words as an access leaves them (R202): streaming where its buffer record asks for it, else as any other. -/
def CoreState.stream (c : CoreState) (cpol : Nat) (words : List Nat) : CoreState :=
  let lines := ((words.filter fun w => keyPath (4 * w) != 0).map (· / 32)).eraseDups
  { c with streaming := lines.foldl (fun (m : Sparse Bool) l => sput false m l (cpol == 1)) c.streaming }
/-- The sectors that a core's L1 holds (R187). -/
def CoreState.l1Sectors (c : CoreState) : Nat := ((c.copies.map fun (e : Nat × Option Word) => e.1 / 8) ++ (c.owned.map fun (e : Nat × Bool) => e.1 / 8)).eraseDups.length
/-- A core's L1 holds more than its 640 KiB (R17). -/
def CoreState.l1Over (c : CoreState) : Bool :=
  decide (Config.l1Sectors < c.copies.length + c.owned.length) && decide (Config.l1Sectors < c.l1Sectors)
/-- The lines that a full L1 may drop: those that came as streaming ones first (R202). -/
def CoreState.victims (c : CoreState) : List Nat :=
  let lines := ((c.copies.map fun (e : Nat × Option Word) => e.1 / 32) ++ (c.owned.map fun (e : Nat × Bool) => e.1 / 32)).eraseDups
  match lines.filter fun l => sget false c.streaming l with
  | [] => lines
  | ls => ls
/-- Lines leave a core's L1 until it holds no more than 640 KiB (R17, R187), streaming ones first (R202); which of those is a free value (log
entry 3); fuel counts the words. -/
def CoreState.trimL1 (salt : Nat) : Nat → CoreState → CoreState
  | 0, c => c
  | n + 1, c =>
    if c.l1Over then
      let lines := c.victims
      CoreState.trimL1 salt n (c.dropLine (lines.getD (Config.evicted (salt * 2 ^ 64 + n) % max lines.length 1) 0))
    else c
/-- A core changed, with its L1 no larger than it is (R17). -/
def State.onL1 (s : State) (core : Nat) (f : CoreState → CoreState) : State :=
  s.onCore core fun c => let x := f c; x.trimL1 s.freeCount (x.copies.length + x.owned.length)
/-- The L1 after words were read at their homes (R187, R219): their copies are as new as the read; with allocation the rest of their
32-byte sectors is filled where no copy stood; without it the words' copies go. A marked sector gives no copy (R193). -/
def State.fillCopies (s : State) (core : Nat) (words : List Nat) (alloc : Bool) : State :=
  s.onL1 core fun c =>
    let c1 := words.foldl (fun (c : CoreState) w =>
      if !c.mayCopy w || s.marked (4 * w) then c
      else if alloc then { c with copies := sput none c.copies w (s.copyOf w) }
      else { c with copies := sdel c.copies w }) c
    if alloc then
      ((words.map (· / 8)).eraseDups.map fun x => (List.range 8).map (8 * x + ·)).flatten.foldl (fun (c : CoreState) w =>
        if !c.mayCopy w || s.marked (4 * w) || (sget none c.copies w).isSome then c else { c with copies := sput none c.copies w (s.copyOf w) }) c1
    else c1

/-- The words whose four bytes a peer returned, with their values. -/
def peerWords (got : List (Nat × Byte)) : List (Nat × Word) :=
  ((got.map (·.1 / 4)).eraseDups).filterMap fun w =>
    let bs := (List.range 4).filterMap fun i => (got.find? fun g => g.1 == 4 * w + i).map (·.2)
    if bs.length = 4 then some (w, word (leNat bs)) else none
/-- The L1 after a peer's answer (R339): the words it returned whole are not-owned copies, or none is allocated. -/
def State.fillPeer (s : State) (core : Nat) (got : List (Nat × Byte)) (alloc : Bool) : State :=
  if got.isEmpty then s
  else s.onL1 core fun c => { c with copies := if alloc then (peerWords got).foldl (fun m w => sput none m w.1 (some w.2)) c.copies
    else (got.map (·.1 / 4)).eraseDups.foldl sdel c.copies }
/-- The L1 copies of the words that a store wrote at a peer, with its bytes (R339); other bytes of a word without a copy are not known. -/
def CoreState.updateCopies (c : CoreState) (bs : List (Nat × Byte × Byte)) : CoreState :=
  { c with copies := bs.foldl (fun m b => match sget none m (b.1 / 4) with
      | some w =>
        let sh := 8 * (b.1 % 4)
        let mask : Word := word b.2.1.toNat <<< sh
        sput none m (b.1 / 4) (some ((w &&& ~~~mask) ||| (word b.2.2.toNat <<< sh &&& mask)))
      | none => m) c.copies }
/-- A core's copies of words go, and what its record cache holds of them (R206, R219). -/
def CoreState.dropWords (c : CoreState) (ws : List Nat) : CoreState :=
  { c with copies := ws.foldl sdel c.copies, recCache := c.recCache.filter fun e => !ws.contains (e.1 / 4) }

/-- An acquire by a team of a core self-invalidates the not-owned words of its L1 and its record-cache entries (R206, R219, R221). -/
def State.acquire (s : State) (core : Nat) : State := s.onCore core fun c => { c with copies := [], recCache := [] }

/-- Sectors marked as read by a speculative group (R250). -/
def State.markRead (s : State) (gid : Nat) (keys : List Nat) : State :=
  if s.speculative gid then
    s.onGroup gid fun g => { g with spec := { g.spec with
      marks := keys.foldl (fun m k => if specKey k then sput false m (k / 32) true else m) g.spec.marks } }
  else s

/-! ## Registration -/

/-- A store unit registered at its home: the registering core owns the word, every other core loses it, and its own copy is replaced
(R218). A mark falls when one store covers the whole sector, which the store's other units decide (R193). -/
def State.registerUnit (s : State) (core : Nat) (u : StoreUnit) : State :=
  let words := (u.bytes.map (·.1 / 4)).eraseDups
  let s1 := { s.keepLeavesOf (u.bytes.map (·.1)) with mem := u.bytes.foldl (fun (m : Memory) (e : Nat × Byte × Byte) => m.maskByte e.1 e.2.1 e.2.2) s.mem }
  let s2 := s1.disown (some core) words
  s2.onL1 core fun c => words.foldl (fun c w =>
    if keyPath (4 * w) = 0 ∨ keyPath (4 * w) = 4 then c
    else { c with owned := sput false c.owned w true, copies := sdel c.copies w }) { c with
      recCache := c.recCache.filter fun e => !words.contains (e.1 / 4) }

/-- A store unit of a speculative group kept in the group's held stores (R250). -/
def State.holdUnit (s : State) (gid : Nat) (u : StoreUnit) : State :=
  s.onGroup gid fun g => { g with spec := { g.spec with
    held := u.bytes.foldl (fun h e =>
      let old := (sget none h e.1).getD (s.mem.byte e.1)
      sput none h e.1 (some ((old &&& ~~~e.2.1) ||| (e.2.2 &&& e.2.1)))) g.spec.held } }

/-- The operation is gone and its in-flight counts fall on its paths (R190); those of a failed instruction stay (R198). -/
def State.finishOp (s : State) (o : Op) : State :=
  (s.dropOp o.id).onTeamOf o.part o.slot o.gid fun t => if t.failures.any fun f => f.op == o.id then t else t.landedAll o.id

/-- An operation's result written to its team, where the team is still the one that issued it (R49). -/
def State.onIssuer (s : State) (o : Op) (f : Team → Team) : State := if o.orphan then s else s.onTeamOf o.part o.slot o.gid f

/-! ## The checks of a team's accesses (R191) -/

/-- What the checks give for one lane: a token from check 1, a code with its path from a later check, or the keys. -/
inductive Checked where
  | token (k : Word)
  | fails (code path : Nat)
  | ok (keys : List Nat) (path : Nat)
  deriving DecidableEq, Repr

/-- Checks 2 to 5 on an access of size bytes at an address (R191). -/
def State.checkAt (s : State) (part gid : Nat) (perm : Perm) (size va salt : Nat) : Checked :=
  match s.resolve part gid perm size va salt with
  | .error e => .fails e.1 e.2
  | .ok k =>
    if s.locked part gid va size (decide (perm ≠ .read)) then .fails codeRangeLocked k.2
    else .ok ((List.range size).map (k.1 + ·)) k.2

/-- One lane's checked access: lane, address, outcome. -/
structure LaneCheck where
  lane : Nat
  va : Nat
  res : Checked
  deriving DecidableEq, Repr

/-- A lane failed a check from 2 onward. -/
def LaneCheck.failed (c : LaneCheck) : Bool := match c.res with | .fails _ _ => true | _ => false
/-- The paths of the lanes that access memory, each once (R190). -/
def pathsOf (cs : List LaneCheck) : List Nat :=
  (List.range 6).filter fun p => cs.any fun c => match c.res with | .ok _ q => q == p | _ => false

/-- A counter of a path would rise above 1,024 (R190). -/
def Team.counterFull (t : Team) (paths : List Nat) : Bool := paths.any fun p => decide (Config.maxInFlight ≤ t.inflight p)

/-- The records of failing lanes in ascending lane order (R191). -/
def recordsOf (t : Team) (cs : List LaneCheck) (bufIndex : Nat) (write spec : Bool) (size : Nat) : List FaultRecord :=
  cs.filterMap fun c => match c.res with
    | .fails code path => some { code := code, rflags := 0, lane := c.lane, detail := detailWord bufIndex path write spec size,
                                 pc := t.pc, va := BitVec.ofNat 64 c.va }
    | _ => none

/-- A precise fault of an access (R195): a record for each failing lane, the report of the lowest, the lanes that failed. -/
def State.accessFault (s : State) (slot : Nat) (t : Team) (cs : List LaneCheck) (bufIndex : Nat) (write spec : Bool) (size : Nat) : State :=
  let bad := cs.filter LaneCheck.failed
  let s1 := (s.allocRecords slot (recordsOf t bad bufIndex write spec size)).1
  match bad with
  | [] => s1
  | c :: _ =>
    let code := match c.res with | .fails k _ => k | _ => 0
    s1.trap slot { Report.precise code (t.lanesMask (bad.map (·.lane))) with
      vaddr := BitVec.ofNat 64 c.va
      blockers := if code = codeRangeLocked then s.lockers (s.partOf t) t.group c.va size write else [] }

/-- A precise fault of an access made once for the team (R201): one record with LANE 0 and RFLAGS bit 1, every lane named. -/
def State.teamFault (s : State) (slot : Nat) (t : Team) (code path va bufIndex : Nat) (write : Bool) (size : Nat) : State :=
  let r : FaultRecord := { code := code, rflags := 2, lane := 0, detail := detailWord bufIndex path write false size, pc := t.pc,
                           va := BitVec.ofNat 64 va }
  (s.allocRecord slot r).1.trap slot { Report.precise code t.allLanes with
    vaddr := BitVec.ofNat 64 va
    blockers := if code = codeRangeLocked then s.lockers (s.partOf t) t.group va size write else [] }

/-- The lanes of a vector access with their addresses and checks (R191, R194). -/
def State.checkLanes (s : State) (t : Team) (perm : Perm) (size : Nat) (addr : Nat → Except Word Nat) : List LaneCheck :=
  t.activeLanes.map fun l =>
    match addr l with
    | .error k => { lane := l, va := 0, res := .token k }
    | .ok va => { lane := l, va := va, res := s.checkAt (s.partOf t) t.group perm size va l }

/-- The address of lane L of a vector load or store: base plus the sign-extended offset (R194). -/
def laneAddr (t : Team) (base : Nat) (va l : Nat) : Except Word Nat :=
  (t.rv va l).map fun o => (t.rd64 base + o.signExtend 64).toNat

/-- The leaves that checked lanes used are remembered (R387). -/
def State.noteLanes (s : State) (t : Team) (cs : List LaneCheck) : State :=
  s.noteLeaves (s.partOf t) ((cs.filter fun c => match c.res with | .token _ => false | _ => true).map fun c => (c.va, c.lane))

end Sys2Proof.Machine
end

