-- ==== Sys2Proof/Machine/Fabric.lean ====
section
/-! DEFINITION. The fabric router as the issuing device sees it: ports and routes (R355, R356, R359), packets and the counts of those that a
release waits for (R340 to R344). -/

namespace Sys2Proof.Machine

/-! ## Ports -/

/-- A port. -/
def Fabric.port (f : Fabric) (p : Nat) : Port := sget Port.reset f.ports p
/-- The fabric with a port changed. -/
def Fabric.onPort (f : Fabric) (p : Nat) (g : Port → Port) : Fabric := { f with ports := sput Port.reset f.ports p (g (f.port p)) }
/-- The fabric changed. -/
def State.onFabric (s : State) (f : Fabric → Fabric) : State := { s with fabric := f s.fabric }
/-- The port that a device uses to no neighbour in direct mode is down (R356). -/
def Fabric.portUp (f : Fabric) (p : Nat) : Bool :=
  (f.port p).up && (decide (34 ≤ p) || !f.direct || f.neighbours.any fun n => n.1 == p)
/-- A port is up and its link has a key under which it may send (R358). -/
def Fabric.carries (f : Fabric) (p : Nat) : Bool := f.portUp p && !(f.port p).stopped

/-! ## Routes in direct mode (R356) -/

/-- The route to a destination in the routing table. -/
def Fabric.route? (f : Fabric) (d : Nat) : Option Route := f.routes.find? fun r => r.dest == d
/-- Usable non-minimal routes of a destination: those whose first port carries traffic. -/
def Fabric.usable (f : Fabric) (r : Route) : List (Nat × Nat) := (r.nonMin.take 8).filter fun x => f.carries x.2
/-- The usable ways to a destination, by number and first port: 0 the minimal route, n the n-th non-minimal one. -/
def Fabric.directWays (f : Fabric) (d : Nat) : List (Nat × Nat) :=
  match f.route? d with
  | none => []
  | some r => ((0, r.port) :: ((r.nonMin.take 8).zip (List.range 8)).map fun x => (x.2 + 1, x.1.2)).filter fun w => f.carries w.2
/-- The way whose first port has the shortest queue; queue lengths are free values (log entry 3). -/
def shortestWay (salt : Nat) (ws : List (Nat × Nat)) : Option (Nat × Nat) :=
  ws.foldl (fun (best : Option (Nat × Nat)) w => match best with
    | none => some w
    | some b => if Config.portQueue (salt * 64 + w.2) < Config.portQueue (salt * 64 + b.2) then some w else some b) none
/-- The way of a packet's first transmission: the minimal route unless its output queue is more than half full or its port carries nothing;
then the usable non-minimal one whose first port has the shortest queue (R356). -/
def Fabric.directWay (f : Fabric) (d salt : Nat) : Nat :=
  match f.directWays d with
  | (0, p) :: rest => if Config.portBusy (salt * 64 + p) then ((shortestWay salt rest).map (·.1)).getD 0 else 0
  | ws => ((shortestWay salt ws).map (·.1)).getD 0

/-! ## Stations in UALink mode (R344, R355) -/

/-- The station through which a packet leaves; the configuration image that names none has one of all topology ports. Which station leads to
the destination is the switches' matter and a free value (log entry 3). -/
def Fabric.station (f : Fabric) (salt : Nat) : List Nat :=
  match f.stations with
  | [] => List.range 34
  | l => l.getD (Config.stationFor salt % l.length) []
/-- The working ports of the station of a port, in ascending order. -/
def Fabric.workingWith (f : Fabric) (p : Nat) : List Nat :=
  let st := (f.stations.find? fun x => x.contains p).getD (List.range 34)
  (List.range 34).filter fun q => st.contains q && f.carries q

/-- The way of a packet's first transmission: in UALink mode a working port of the station (R344, R356). -/
def Fabric.firstWay (f : Fabric) (d salt : Nat) : Nat :=
  if f.direct then f.directWay d salt
  else
    let ports := (f.station salt).filter f.carries
    ports.getD (Config.stationFor (salt * 64 + 1) % max ports.length 1) 0
/-- The way of a packet's next transmission (R344): in direct mode one that it has not taken, the minimal route where it has taken all; in
UALink mode the next working port of its station (log entry 78). -/
def Fabric.nextWay (f : Fabric) (pk : Packet) : Nat :=
  if f.direct then (((f.directWays pk.dest).filter fun w => !pk.ways.contains w.1).map (·.1)).headD 0
  else
    let last := pk.ways.headD 0
    let ports := f.workingWith last
    (ports.find? fun p => decide (last < p)).getD (ports.headD last)
/-- The port by which a way to a destination leaves. -/
def Fabric.wayPort (f : Fabric) (d w : Nat) : Nat :=
  if !f.direct then w
  else match f.route? d with
    | none => 0
    | some r => if w = 0 then r.port else ((r.nonMin[w - 1]?).map (·.2)).getD r.port
/-- The working lanes of the link that a port belongs to: one port, or in UALink mode a bonded station of up to four (R359). -/
def Fabric.linkLanes (f : Fabric) (p : Nat) : Nat :=
  if f.direct || decide (34 ≤ p) then (f.port p).lanes
  else match f.stations.find? fun x => x.contains p with
    | some st => (((st.take 4).filter f.portUp).map fun q => (f.port q).lanes).sum
    | none => (f.port p).lanes
/-- The intermediate device of a way in direct mode, where it is not the minimal one (R356, R357). -/
def Fabric.wayMid (f : Fabric) (d w : Nat) : Option Nat :=
  if f.direct && decide (0 < w) then ((f.route? d).bind fun r => r.nonMin[w - 1]?).map (·.1) else none
/-- A peer can be reached: it is this device, or is not declared unreachable and a port leads to it (R347). -/
def Fabric.reachable (f : Fabric) (d : Nat) : Bool :=
  if d = f.devid then true
  else if f.unreachable.contains d then false
  else if f.direct then !(f.directWays d).isEmpty
  else decide (d < 1024) && (List.range 34).any f.carries

/-! ## Flits (R355, R357 to R359) -/

/-- The bytes of a flit in front of its payload (R357). -/
def flitBytes (x : Flit) (flags : Nat) : List Byte :=
  [x.type, BitVec.ofNat 8 flags] ++ leBytes 2 x.dst.toNat ++ leBytes 2 x.src.toNat ++ leBytes 2 x.mid.toNat ++ [x.part, x.len] ++
    leBytes 2 x.zero.toNat ++ leBytes 4 x.seq.toNat
/-- A flit's bytes on n working lanes: byte b on lane b mod n, at position b / n (R359). -/
def onLanes (n : Nat) (bs : List Byte) : List (List Byte) :=
  (List.range n).map fun l => (bs.zip (List.range bs.length)).filterMap fun b => if b.2 % n = l then some b.1 else none
/-- Encrypted bytes: free values (R358; log entry 12). -/
def sealedBytes (salt n : Nat) : List Byte := (List.range n).map fun i => Config.sealedByte (salt + i)
/-- The bytes of a flit on a link: a topology port in UALink mode uses UALink's own flit, whose layout and length this specification leaves to
UALink (R355; log entry 90); another port uses the device's, header, encrypted payload and tag (R357, R358). -/
def Fabric.flitOn (f : Fabric) (port salt : Nat) (x : Flit) : List Byte :=
  if f.direct || decide (34 ≤ port) then flitBytes x (x.flags.toNat / 2 * 2 + (f.port port).inUse % 2) ++ sealedBytes salt 240
  else sealedBytes salt ((Config.openWord salt).toNat % 1024)
/-- A flit leaves by a port: its bytes on the link's working lanes, under the link's counter and the key in use (R358, R359). -/
def State.putFlit (s : State) (port : Nat) (x : Flit) : State :=
  let f := s.fabric
  let out : WireFlit := { port := port, counter := (f.port port).flits, lanes := onLanes (f.linkLanes port) (f.flitOn port s.freeCount x) }
  { s with
    freeCount := s.freeCount + 1024
    fabric := { f.onPort port fun q => { q with flits := q.flits + 1 } with wire := f.wire ++ [out] } }
/-- Flits leave by a port, in order, where it carries any. -/
def State.putFlits (s : State) (port : Nat) (xs : List Flit) : State :=
  if s.fabric.carries port then xs.foldl (fun (t : State) x => t.putFlit port x) s else s
/-- What this device sends in flits: TYPE, destination and, where the specification states them, partition, number and payload lengths
(R341, R357). -/
structure Sending where
  type : Nat
  dst : Nat
  part : Option Nat
  seq : Option Word
  lens : List (Option Nat)
  deriving DecidableEq, Repr
/-- The flits of what this device sends by a way (R357): its first hop, the last flit marked. What the specification does not state of a field
is a free value within the field's range (log entry 90). -/
def State.flitsOf (s : State) (x : Sending) (mid : Option Nat) : List Flit :=
  (x.lens.zip (List.range x.lens.length)).map fun l =>
    let free (k : Nat) : Nat := (Config.openWord (s.freeCount + 8 * l.2 + k)).toNat
    { type := BitVec.ofNat 8 x.type
      flags := BitVec.ofNat 8 ((if mid.isSome then 2 else 0) + (if l.2 + 1 = x.lens.length then 8 else 0))
      dst := BitVec.ofNat 16 (x.dst % 2 ^ 11), src := BitVec.ofNat 16 (s.fabric.devid % 2 ^ 11)
      mid := BitVec.ofNat 16 ((mid.getD (free 1)) % 2 ^ 11), part := BitVec.ofNat 8 ((x.part.getD (free 2)) % 8)
      len := BitVec.ofNat 8 ((l.1.getD (free 3)) % 225), zero := 0, seq := x.seq.getD (Config.openWord (s.freeCount + 8 * l.2 + 4))
      payload := [], tagOk := true }
/-- The payload lengths of n bytes cut into flits (R357). -/
def flitLens (n : Nat) : List (Option Nat) := (List.range ((n + 223) / 224)).map fun i => some (min 224 (n - 224 * i))
/-- The flits of what this device sends to another leave by a way (R356). -/
def State.transmit (s : State) (way : Nat) (x : Sending) : State :=
  { s with freeCount := s.freeCount + 8 * x.lens.length }.putFlits (s.fabric.wayPort x.dst way) (s.flitsOf x (s.fabric.wayMid x.dst way))
/-- The flits of an answer, an acknowledgement or collective traffic leave by a first transmission's way (R356). -/
def State.transmitNew (s : State) (x : Sending) : State :=
  { s with freeCount := s.freeCount + 1 }.transmit (s.fabric.firstWay x.dst s.freeCount) x
/-- The flits of journal traffic leave by a journal port (R32, R355): J0 is port 34, J1 port 35. -/
def State.transmitJournal (s : State) (x : Sending) : State :=
  { s with freeCount := s.freeCount + 8 * x.lens.length }.putFlits (34 + s.journal.port % 2) (s.flitsOf x none)

/-! ## Packets (R340 to R344) -/

/-- The device and the 128-byte line of a peer key. -/
def peerOf (key : Nat) : Nat × Nat := ((key - 2 ^ 60) / 2 ^ 48, (key - 2 ^ 60) % 2 ^ 48 / 128)
/-- The destinations and lines of the peer keys among some, in the order of the lowest lane that holds each (R340). -/
def peerLines (keys : List Nat) : List (Nat × Nat) := ((keys.filter fun k => keyPath k == 4).map peerOf).eraseDups
/-- The 32-byte sectors of a line that some keys lie in (R340). -/
def sectorMask (line : Nat × Nat) (keys : List Nat) : BitVec 4 :=
  BitVec.ofNat 4 (((List.range 4).map fun x =>
    if keys.any fun k => keyPath k == 4 && peerOf k == line && (k - 2 ^ 60) % 128 / 32 == x then 2 ^ x else 0).sum)
/-- What a packet of an operation is: destination and line, contents, whether SENT counts it (R342). -/
structure Outgoing where
  line : Nat × Nat
  body : PacketBody
  counted : Bool
  deriving DecidableEq, Repr
/-- The flits of a packet: two for a compare-and-swap or exchange of more than 16 lanes (R340). -/
def PacketBody.flits : PacketBody → Nat
  | .atomic fn lanes => if (fn = .cas ∨ fn = .xch) ∧ 16 < lanes.length then 2 else 1
  | _ => 1
/-- What a packet is as flits: a request with its partition and number (R340, R341, R357). -/
def Packet.sending (pk : Packet) : Sending :=
  { type := 1, dst := pk.dest, part := some pk.part, seq := some pk.seq, lens := List.replicate pk.body.flits none }
/-- A packet is not answered: a counted one is not acknowledged, another's operation is outstanding (R342, R344). -/
def State.unanswered (s : State) (pk : Packet) : Bool :=
  match pk.count with
  | some n => decide (sget 0 (s.part pk.part).acked pk.dest < n)
  | none => (s.op? pk.op).isSome
/-- A packet sent (R341, R342): it takes the next sequence number of its partition and destination, counted from 0 (log entry 78), and
raises SENT where it is counted. The count is answered. -/
def State.sendPacket (s : State) (op part : Nat) (x : Outgoing) : State × Option (Nat × Nat) :=
  let d := x.line.1
  let slot := part * 2 ^ 11 + d
  let seq := sget 0 s.fabric.sentSeq slot
  let count := if x.counted then some (sget 0 (s.part part).sent d + 1) else none
  let way := s.fabric.firstWay d s.freeCount
  let pk : Packet := { op := op, part := part, dest := d, line := x.line.2, seq := word seq, count := count, body := x.body, ways := [way] }
  let s1 : State := State.transmit { s with
    freeCount := s.freeCount + 1
    fabric := { s.fabric with
      sentSeq := sput 0 s.fabric.sentSeq slot ((seq + 1) % 2 ^ 32)
      packets := s.fabric.packets.filter s.unanswered ++ [pk] } } way pk.sending
  match count with
  | some n => (s1.onPart part fun p => { p with sent := sput 0 p.sent d n }, some (d, n))
  | none => (s1, none)
/-- Packets sent one after another: the numbers of those that SENT counts. -/
def State.sendPackets : State → Nat → Nat → List Outgoing → State × List (Nat × Nat)
  | s, _, _, [] => (s, [])
  | s, op, part, x :: xs =>
    let r := s.sendPacket op part x
    let q := State.sendPackets r.1 op part xs
    (q.1, r.2.toList ++ q.2)
/-- An operation's packets have left. -/
def State.packetsOut (s : State) (o : Op) : Bool := s.fabric.packets.any fun pk => pk.op == o.id
/-- Packets that the destination has not acknowledged. -/
def State.unacked (s : State) (part : Nat) (ps : List (Nat × Nat)) : Bool :=
  ps.any fun p => decide (sget 0 (s.part part).acked p.1 < p.2)
/-- A destination has been declared unreachable (R344). -/
def State.cut (s : State) (dests : List Nat) : Bool := dests.any s.fabric.unreachable.contains

/-- The packets of a load or a prefetch: for each line the sectors it needs (R214, R340). -/
def loadPackets (keys : List Nat) : List Outgoing :=
  (peerLines keys).map fun l => { line := l, body := .load (sectorMask l keys), counted := false }
/-- The packets of an atomic: for each line its lanes in ascending order (R340, R342). -/
def atomPackets (a : AtomOp) : List Outgoing :=
  (peerLines (a.lanes.map (·.key))).map fun l => {
    line := l
    body := .atomic a.fn ((a.lanes.filter fun x => keyPath x.key == 4 && peerOf x.key == l).map fun x => ((x.key - 2 ^ 60) % 128, x.b, x.c))
    counted := decide (a.dest = .none) }
/-- The packets of a store's units: for each line the written bytes (R340, R342). -/
def storePackets (us : List StoreUnit) : List Outgoing :=
  let bs := (us.map (·.bytes)).flatten
  (peerLines (bs.map (·.1))).map fun l => {
    line := l
    body := .store ((bs.filter fun b => peerOf b.1 == l).map fun b => ((b.1 - 2 ^ 60) % 128, b.2))
    counted := true }
/-- The packets of what asks a peer and waits for its answer: a load, the scales that an STB reads, a returning atomic, a prefetch, a SEMWAIT or
BAR (R338, R341). -/
def Op.questions (o : Op) : List Outgoing :=
  match o.kind with
  | .load _ => loadPackets o.kind.keys
  | .store { pend := some p, .. } => loadPackets (p.elems.map (·.scale)).flatten
  | .atom a => if a.dest = .none then [] else atomPackets a
  | .touch lines false _ l1 => if l1 then loadPackets ((lines.map fun l => (List.range 4).map fun x => 128 * l + 32 * x).flatten)
      else (peerLines (lines.map (128 * ·))).map fun l => { line := l, body := .prefetch, counted := false }
  | .ask (.wake _ key _ bar n) => (peerLines [key]).map fun l => { line := l, body := .wait ((key - 2 ^ 60) % 128) bar n, counted := false }
  | _ => []
/-- An operation that asks a peer and has not sent its packets. -/
def State.mustAsk (s : State) (o : Op) : Bool := o.questions.any (fun x => !o.lost.contains x.line.1) && !s.packetsOut o
/-- The destinations of some packets that are declared unreachable: packets to them fail at once (R344). -/
def State.cutOf (s : State) (out : List Outgoing) : List Nat := ((out.map (·.line.1)).eraseDups).filter fun d => s.cut [d]
/-- The packets of an operation that asks a peer sent, once nothing of its team holds it back (R220, R341). -/
def State.sendQuestions (s : State) (o : Op) : State :=
  let r := s.sendPackets o.id o.part (o.questions.filter fun x => !s.cut [x.line.1])
  r.1.setOp { o with lost := o.lost ++ s.cutOf o.questions }
/-- The request of a team asleep on a peer's word is withdrawn at the word's home (R241): the packet of the request names it. -/
def State.withdrawAt (s : State) (o : Op) : State :=
  match o.kind with
  | .ask (.wake _ _ _ _ _) => (s.sendPackets o.id o.part ((s.fabric.packets.filter fun pk => pk.op == o.id).map fun pk =>
      { line := (pk.dest, pk.line), body := .withdraw pk.seq, counted := false })).1
  | _ => s

end Sys2Proof.Machine
end

