-- ==== Sys2Proof/Machine/Groups.lean ====
section
/-! DEFINITION. The life of groups and launches as other operations share it: what a discard, a kill and an exit drop (R391, R397,
R134), when a pre-emption request is taken (R393), the status of a launch (R366), status words of commands (R245, R259). -/

namespace Sys2Proof.Machine

/-! ## Results -/

/-- An operation's result lands on its team (R49); a discarded issuer's result lands nowhere. -/
def State.deliver (s : State) (o : Op) (f : Team → Team) : State := if o.orphan then s else s.onTeamOf o.part o.slot o.gid f

/-- Tiles that ACFREE unmapped return to the pool once every command they wait for is over (R293). -/
def State.reclaim (s : State) (core : Nat) : State :=
  s.onCore core fun c =>
    let fs := c.freeing.map fun f => { f with after := f.after.filter fun id => (s.op? id).isSome }
    { c with freeing := fs.filter fun f => !f.after.isEmpty,
             tileUsed := (fs.filter fun f => f.after.isEmpty).foldl (fun u f => sput false u f.tile false) c.tileUsed }
/-- A group's scratchpad and tiles return to the core, and the group is gone (R293, R371). -/
def State.freeGroup (s : State) (gid : Nat) (g : Group) : State :=
  let lo := spadKey gid 0
  let s1 := { s with mem := s.mem.filter fun e => !(decide (lo ≤ e.1 ∧ e.1 < lo + 2 ^ 20)), groups := sput none s.groups gid none }
  s1.onCore g.core fun c => { c with tileUsed := g.tileMap.foldl (fun u e => sput false u (e.2 - 1) false) c.tileUsed }
/-- A command of a unit or an engine; TASKQ and LAUNCH go to the command processor, which uses nothing of a group (R371, R373). -/
def Op.engine (o : Op) : Bool := match o.kind with | .command c => decide (c.cmd ≠ .taskq ∧ c.cmd ≠ .launch) | _ => false
/-- Engine commands of a group are outstanding. -/
def State.lingers (s : State) (gid : Nat) : Bool := s.ops.any fun o => o.gid == gid && o.engine
/-- A dropped group that is saved with its partition goes from what is saved, with its tiles (R371, R395). -/
def State.freeSaved (s : State) (part gid : Nat) (g : Group) : State :=
  let lo := spadKey gid 0
  let s1 := { s with mem := s.mem.filter fun e => !(decide (lo ≤ e.1 ∧ e.1 < lo + 2 ^ 20)) }
  let trim (c : Nat × CoreState) : Nat × CoreState :=
    if c.1 = g.core then (c.1, { c.2 with tileUsed := g.tileMap.foldl (fun u e => sput false u (e.2 - 1) false) c.2.tileUsed }) else c
  s1.onPart part fun p => { p with
    swap := p.swap.map fun w => { w with groups := sput none w.groups gid none, cores := w.cores.map trim } }
/-- A group that was dropped returns its reservation and its tiles once its engine commands have completed (R274, R371). -/
def State.leave (s : State) (part gid : Nat) : State :=
  match s.group? gid with
  | some g => if g.leaving && !s.lingers gid then (s.freeGroup gid g).reclaim g.core else s
  | none =>
    match (s.part part).swap.bind fun w => sget none w.groups gid with
    | some g => if g.leaving && !s.lingers gid then s.freeSaved part gid g else s
    | none => s

/-- The operation is over: its in-flight counts fall (R190), it is gone. -/
def State.retire (s : State) (o : Op) : State := ((s.deliver o fun t => t.landedAll o.id).dropOp o.id).leave o.part o.gid

/-! ## Power permits (R399, R401) -/

/-- A die's capacity DCAP (R402). -/
def State.dcap (s : State) (die : Nat) : Nat := (s.board.powerctl.extractLsb' (12 + 10 * die) 10).toNat
/-- The floor kept for command permits: ceil(DCAP / 8) (R399). -/
def State.floorUnits (s : State) (die : Nat) : Nat := (s.dcap die + 7) / 8
/-- Units of a die that nothing holds: none after DCAP was lowered until the holdings have fallen below it (R402). -/
def State.unheld (s : State) (die : Nat) : Nat := s.dcap die - ((s.die die).floorHeld + (s.die die).aboveHeld)
/-- Free units of the floor. -/
def State.floorFree (s : State) (die : Nat) : Nat := min (s.unheld die) (s.floorUnits die - (s.die die).floorHeld)
/-- Free units above the floor. -/
def State.aboveFree (s : State) (die : Nat) : Nat := min (s.unheld die) (s.dcap die - s.floorUnits die - (s.die die).aboveHeld)

/-- The units of a command's permit go back to their source (R399): those of a team that has ended to the die, and those of a team that is
swapped out too, which then asks for them again at its restore (R401). -/
def State.returnPermit (s : State) (o : Op) (c : CommandOp) : State :=
  let back (s : State) : State := s.onDie (dieOf o.core) fun d => { d with aboveHeld := d.aboveHeld - c.need }
  match c.permit with
  | none => s
  | some .floor => s.onDie (dieOf o.core) fun d => { d with floorHeld := d.floorHeld - c.need }
  | some .above => back s
  | some .team =>
    if o.orphan then back s
    else match s.team? o.slot with
      | some t => if t.group = o.gid then s.setTeam o.slot { t with power := t.power + c.need } else away (back s)
      | none => away (back s)
where
  /-- The units added to what the saved team held. -/
  away (s : State) : State := s.onTeamOf o.part o.slot o.gid fun t => { t with power := t.power + c.need }

/-! ## Status words of commands -/

/-- The locks of a command are released (R261). -/
def State.unlock (s : State) (id : Nat) : State := { s with locks := s.locks.filter fun l => l.2.1 != id }

/-- A command ends: its locks are released, its permit returns, its status word (a pair for SAMPLE and JSTAT) fills sd, which is the
issuing team's acquire, and its in-flight count falls (R245, R259). -/
def State.endCommand (s : State) (o : Op) (c : CommandOp) (status : List Word) : State :=
  let s1 := (s.unlock o.id).returnPermit o c
  let s2 := s1.deliver o fun t =>
    let t1 := t.wsList c.sd status
    t1.mark false (.scal c.sd c.sdCount)
  (s2.acquire o.core).retire o

/-! ## Waiters of synchronisation words (R237, R239) -/

/-- The registered word at a key. -/
def State.wordAt (s : State) (key : Nat) : Word := word (s.mem.nat key 4)
/-- An answer goes back to a device that asked for it, in a response flit (R338, R357). -/
def State.answerTo (s : State) (src part : Nat) (seq : Word) (a : PeerAnswer) : State :=
  (s.tell (.peerAnswer src part seq a)).transmitNew { type := 2, dst := src, part := none, seq := none, lens := [none] }
/-- A waiter wakes with a value for sd: the team goes on past its instruction, and the wake is its acquire; a peer's is answered (R338). -/
def State.wake (s : State) (w : SemWaiter) (v : Word) : State :=
  let s1 := { s with semWaiters := s.semWaiters.filter (· != w) }
  match w.remote with
  | some r => s1.answerTo r.1 r.2.1 r.2.2 (.woken v)
  | none =>
  let s2 := s1.onTeamOf w.part w.slot w.gid fun t => { t.ws w.sd v with request := none }.advance
  match s2.team? w.slot with
  | some t => if t.group = w.gid then s2.acquire t.core else s2
  | none => s2
/-- Grants of SEMWAIT on a word, oldest first; fuel counts the waiters (R239). -/
def State.grantGo (key : Nat) : Nat → State → State
  | 0, s => s
  | n + 1, s =>
    match s.semWaiters.find? fun w => w.key == key && w.units.isSome with
    | none => s
    | some w =>
      let count := s.wordAt key
      let c := w.units.getD 0
      if count.ult c then s
      else State.grantGo key n ((if c = 0 then s else s.homeWrite key (leBytes 4 (count - c).toNat)).wake w (count - c))
/-- The home grants what COUNT allows. -/
def State.grantAt (s : State) (key : Nat) : State := State.grantGo key s.semWaiters.length s
/-- Every word that teams wait on is granted what its COUNT allows (R239). -/
def State.grants (s : State) : State := ((s.semWaiters.map (·.key)).eraseDups).foldl State.grantAt s

/-! ## Launch status (R366) -/

/-- A status word: STATE and INFO. -/
def statusWord (st info : Nat) : Word := word (st % 256 * 2 ^ 24 + min info 0xFFFFFF)

/-- The status of a launch that has ended (R366). -/
def Launch.status (l : Launch) : Word :=
  if l.cancelled then statusWord 0x66 l.begun
  else if l.killed ≠ 0 then statusWord 0x65 l.killed
  else statusWord 0 l.ended

/-- The group number under which the command processor resolves addresses: no group has it, so the scratchpad is not reached. -/
def State.noGroup (s : State) : Nat := s.nextId
/-- The keys of n bytes that the command processor reads or writes by a partition's addresses: device or host memory (R361, R365, R366). -/
def State.cpKeys (s : State) (part : Nat) (perm : Perm) (va n : Nat) : Except (Nat × Nat × Nat) (List Nat) :=
  (List.range n).mapM fun i =>
    let a := (va + i) % 2 ^ 64
    match s.resolve part s.noGroup perm 0 a (a / 32) with
    | .error e => .error (e.1, e.2, a)
    | .ok k =>
      if k.2 = 0 ∨ k.2 = 4 then .error (codeProtection, k.2, a)
      else if perm = .read ∧ s.marked k.1 = true then .error (codeUncorrectable, k.2, a)
      else .ok k.1
/-- The path of an address of a partition, 15 where it has none (R191). -/
def State.pathAt (s : State) (part va : Nat) : Nat :=
  match s.resolve part s.noGroup .read 0 va 0 with
  | .ok k => k.2
  | .error e => e.2
/-- The command processor writes bytes by a partition's address, as a release, and words that teams wait on are granted (R239); bytes it cannot
write stay as they are. -/
def State.cpWrite (s : State) (part va : Nat) (bs : List Byte) : State :=
  match s.cpKeys part .write va bs.length with
  | .ok ks => ((ks.zip bs).foldl (fun (s : State) w => s.homeWrite w.1 [w.2]) { s with freeCount := s.freeCount + 1 }).grants
  | .error _ => s
/-- A launch's status goes where the launch says: a word in memory, written as a release, once the partition is restored where it is
swapped out (R377), or the register of LAUNCH (R366). -/
def State.postStatus (s : State) (part : Nat) (d : StatusDest) (w : Word) : State :=
  match d with
  | .none => s
  | .memory a =>
    match (s.part part).swap with
    | some x => s.onPart part fun p => { p with swap := some { x with due := x.due ++ [(a, w)] } }
    | none => s.cpWrite part a.toNat (leBytes 4 w.toNat)
  | .command id =>
    match s.op? id with
    | some o =>
      match o.kind with
      | .command c => s.endCommand o c [w]
      | _ => s
    | none => s

/-- Every group of the launch has ended, its children included (R366, R374). -/
def Launch.over (l : Launch) : Bool :=
  l.started && (l.waiting.isEmpty || l.cancelled) && l.resident.isEmpty

/-- A launch whose groups have all ended completes: its status is posted once (R366). -/
def State.checkLaunch (s : State) (lid : Nat) : State :=
  match s.launch? lid with
  | none => s
  | some l =>
    if l.over && !l.complete then
      (s.setLaunch lid { l with complete := true, waiting := [] }).postStatus l.part l.dest l.status
    else s

/-- One group of a set of TASKQ children has ended; the last one fills the TASKQ's status (R374). -/
def State.childEnded (s : State) (lid : Nat) (child : Option Nat) (killed : Bool) : State :=
  match child with
  | none => s
  | some id =>
    let s1 := s.onLaunch lid fun l => { l with children := l.children.map fun c =>
      if c.op = id then { c with ended := c.ended + 1, killed := c.killed + (if killed then 1 else 0) } else c }
    match s1.launch? lid with
    | none => s1
    | some l =>
      match l.children.find? (fun c => c.op == id) with
      | none => s1
      | some c =>
        if c.added ≤ c.ended then
          match s1.op? id with
          | some o =>
            match o.kind with
            | .command k =>
              s1.endCommand o k [if l.cancelled then statusWord 0x66 c.added else if c.killed = 0 then statusWord 0 c.added else statusWord 0x65 c.killed]
            | _ => s1
          | none => s1
        else s1

/-! ## What a group holds -/

/-- The slots of a group's teams. -/
def State.slotsOf (s : State) (gid : Nat) : List Nat :=
  s.teams.filterMap fun e => match e.2 with
    | some t => if t.group = gid then some e.1 else none
    | none => none

/-- A command that its unit runs to the end though its group is gone (R335, R353, R373). -/
def Command.runsOn : Command → Bool
  | .gmask | .gadv | .sample | .route | .emit | .jtrunc | .jreplay | .jstat | .coll | .taskq | .launch => true
  | _ => false
/-- A command of a copy or layout engine (R255). -/
def Command.copies : Command → Bool
  | .xcopy | .xexp | .xfill | .xgath | .xtrn | .layic => true
  | _ => false

/-- What becomes of an operation when its group goes: releases at the router and stores sent to peers are performed (R216, R254),
commands accepted for generation, collectives and tasks run on (R335, R353, R373), running copies stop as by XCANCEL (R274); a TASKQ or
LAUNCH that has not been submitted, a command that a speculative group keeps waiting (R252), and every other operation, is dropped (R373). -/
def orphaned (gid : Nat) (spec : Bool) (o : Op) : Option Op :=
  if o.gid ≠ gid ∨ o.orphan = true then some o
  else if o.held then some { o with orphan := true }
  else match o.kind with
    | .store st =>
      let kept := st.units.filter fun u => u.sent.isSome
      if kept.isEmpty || st.release then none else some { o with orphan := true, kind := .store { st with units := kept } }
    | .command c =>
      if c.cmd.runsOn && (c.started || (o.engine && !spec)) then some { o with orphan := true }
      else if c.cmd.copies && c.started then some { o with orphan := true, kind := .command { c with cancel := o.id :: c.cancel } }
      else none
    | _ => none

/-- The permits of a group's dropped commands return (R399), its requests at words of peers are withdrawn (R241). -/
def State.dropCommands (s : State) (gid : Nat) : State :=
  let spec := s.speculative gid
  let gone := s.ops.filter fun o => (orphaned gid spec o).isNone
  let s1 := gone.foldl (fun s o => match o.kind with
    | .command c => (s.unlock o.id).returnPermit o c
    | _ => s.withdrawAt o) s
  { s1 with ops := s1.ops.filterMap (orphaned gid spec) }

/-- A team leaves its quadrant: its slot, its operand-cache entries, its trap-queue entry, and its power reservation go (R46, R401). -/
def State.removeTeam (s : State) (slot : Nat) (t : Team) : State :=
  let s1 := { s with teams := sput none s.teams slot none }
  let s2 := s1.onCore t.core fun c =>
    { c with opcache := sput [] c.opcache t.quad ((sget [] c.opcache t.quad).filter fun e => e.1 != slot) }
  s2.onDie (dieOf t.core) fun d =>
    { d with trapQueue := d.trapQueue.filter (· != slot), aboveHeld := d.aboveHeld - t.power }

/-- The teams of a group leave at once. -/
def State.removeTeams (s : State) (gid : Nat) : State :=
  (s.slotsOf gid).foldl (fun s slot => match s.team? slot with
    | some t => s.removeTeam slot t
    | none => s) s

/-- A group's requests at synchronisation words are withdrawn, and a waiter behind one of them may now be the oldest (R239, R241). -/
def State.withdraw (s : State) (gid : Nat) : State :=
  let s1 := { s with semWaiters := s.semWaiters.filter fun w => w.gid != gid || w.remote.isSome }
  if s.semWaiters.any fun w => w.gid == gid && w.remote.isNone then s1.grants else s1
/-- A group gives back all it holds (R371, R293). -/
def State.releaseGroup (s : State) (gid : Nat) (g : Group) : State := (s.withdraw gid).freeGroup gid g

/-- A dropped group as it stays while engine commands of it run: it has no teams, no request, no speculative state (R274, R371). -/
def Group.dropped (g : Group) : Group :=
  { g with leaving := true, request := none, waiters := [], spec := { marks := [], held := [], sectors := [], deferred := [] } }
/-- A group's state is dropped (R391): operations, sleeping requests, teams, scratchpad, tiles. -/
def State.dropGroup (s : State) (gid : Nat) : State :=
  match s.group? gid with
  | none => s
  | some g =>
    let s1 := (((s.dropCommands gid).removeTeams gid).withdraw gid).onLaunch g.launch fun l =>
      { l with resident := l.resident.filter (· != gid) }
    if s1.lingers gid then s1.setGroup gid g.dropped else (s1.freeGroup gid g).reclaim g.core

/-- A group is discarded (R391): its state is dropped and it is re-queued ahead of its launch's unplaced groups. -/
def State.discard (s : State) (gid reruns : Nat) : State :=
  match s.group? gid with
  | none => s
  | some g => if g.leaving then s else (s.dropGroup gid).onLaunch g.launch fun l =>
      { l with waiting := { child := g.child, index := g.index, reruns := reruns, again := true } :: l.waiting }

/-- A group is killed (R397): its state is dropped, it is not re-queued, its launch counts it. -/
def State.killGroup (s : State) (gid : Nat) : State :=
  match s.group? gid with
  | none => s
  | some g =>
    if g.leaving then s else
    let s1 := (s.dropGroup gid).onLaunch g.launch fun l => { l with ended := l.ended + 1, killed := l.killed + 1 }
    let s2 := (s1.onPart g.part fun p => { p with kills := p.kills + 1 }).tell (.killed g.part gid)
    (s2.childEnded g.launch g.child true).checkLaunch g.launch

/-- A group exits (R134): its resources return, its launch counts it. -/
def State.exitGroup (s : State) (gid : Nat) : State :=
  match s.group? gid with
  | none => s
  | some g =>
    let s1 := (s.releaseGroup gid g).onLaunch g.launch fun l =>
      { l with resident := l.resident.filter (· != gid), ended := l.ended + 1 }
    (s1.childEnded g.launch g.child false).checkLaunch g.launch

/-! ## Pre-emption requests (R391 to R393) -/

/-- A group is masked: some team of it has PMCOUNT above zero (R392). -/
def State.masked (s : State) (gid : Nat) : Bool :=
  (s.slotsOf gid).any fun slot => match s.team? slot with
    | some t => decide (0 < t.pmcount)
    | none => false

/-- Some team of a group is in handler (R393). -/
def State.handling (s : State) (gid : Nat) : Bool :=
  (s.slotsOf gid).any fun slot => match s.team? slot with
    | some t => t.status == .inHandler
    | none => false

/-- Every team of a group has executed EXIT: none is left to stop, and the group's exit satisfies a request (R419; log entry 18). -/
def State.allEnded (s : State) (gid : Nat) : Bool :=
  (s.slotsOf gid).all fun slot => match s.team? slot with
    | some t => t.status == .exited
    | none => true

/-- The handler watchdog of a request has started: the request waits for handlers and for nothing else (R393). -/
def PreRequest.forHandlers (r : PreRequest) : Bool := r.handlerDog || r.handlerPast
/-- A pending request is decided (R393): taken at once for an idempotent group, or once the group is unmasked and no team of it is in
handler; a masked group defers it under the 2 ms watchdog; unmasked with a handler running, the handler watchdog starts, and the request is
taken when no team is in handler any more. A watchdog that has expired does not start again. -/
def State.settle (s : State) (gid : Nat) : State :=
  match s.group? gid with
  | none => s
  | some g =>
    match g.request with
    | none => s
    | some r =>
      if s.allEnded gid then s.setGroup gid { g with request := none }
      else if g.idem then s.discard gid g.reruns
      else if r.forHandlers then (if s.handling gid then s else s.discard gid g.reruns)
      else if s.masked gid then s.setGroup gid { g with request := some { r with maskDog := !r.maskPast } }
      else if s.handling gid then s.setGroup gid { g with request := some { r with handlerDog := true } }
      else s.discard gid g.reruns

/-- A team's next state, where the team may have ended: a request its group deferred is decided (R392, R393). -/
def State.doneEnding (s : State) (slot : Nat) (t : Team) : Host.Outcome State Fault Refusal :=
  let s1 := s.setTeam slot t
  .next (if t.status = .exited then s1.settle t.group else s1)

end Sys2Proof.Machine
end

