-- ==== Sys2Proof/Machine/Scalar.lean ====
section
/-! DEFINITION. Scalar instructions, opcodes 0x01 to 0x1E (R109 to R115). -/

namespace Sys2Proof.Machine

/-! ## Word operations that the scalar and the lane instructions share -/

/-- Left shift; 0 for 32 and more. -/
def shiftLeft (a : Word) (n : Nat) : Word := if 32 ≤ n then 0 else a <<< n
/-- Logical right shift; 0 for 32 and more. -/
def shiftRight (a : Word) (n : Nat) : Word := if 32 ≤ n then 0 else a >>> n
/-- Arithmetic right shift; all sign bits for 32 and more. -/
def shiftArith (a : Word) (n : Nat) : Word := if 32 ≤ n then (if a.msb then 0xFFFFFFFF else 0) else a.sshiftRight n
/-- SDIVI (R112). -/
def divSigned (a b : Word) : Word :=
  if b = 0 then 0xFFFFFFFF else BitVec.ofInt 32 (a.toInt.tdiv b.toInt)
/-- SREMI (R112). -/
def remSigned (a b : Word) : Word := if b = 0 then a else BitVec.ofInt 32 (a.toInt.tmod b.toInt)
/-- SDIVN (R112). -/
def divUnsigned (a b : Word) : Word := if b = 0 then 0xFFFFFFFF else word (a.toNat / b.toNat)
/-- SREMN (R112). -/
def remUnsigned (a b : Word) : Word := if b = 0 then a else word (a.toNat % b.toNat)
/-- The number of set bits. -/
def popcount (a : Word) : Nat := ((List.range 32).filter fun i => a.getLsbD i).length
/-- Trailing zeros; 32 for zero. -/
def trailingZeros (a : Word) : Nat := ((List.range 32).find? fun i => a.getLsbD i).getD 32
/-- Leading zeros; 32 for zero. -/
def leadingZeros (a : Word) : Nat := ((List.range 32).find? fun i => a.getLsbD (31 - i)).getD 32
/-- The bits in reverse order. -/
def bitReverse (a : Word) : Word := word (((List.range 32).map fun i => if a.getLsbD i then 2 ^ (31 - i) else 0).sum)
/-- Position and effective width of a control word (R114). -/
def fieldOf (c : Word) : Nat × Nat :=
  let p := (c.extractLsb' 0 5).toNat
  (p, min (min (c.extractLsb' 8 6).toNat 32) (32 - p))
/-- SBFX on a word with a control word (R114). -/
def fieldExtract (a c : Word) : Word :=
  let p := (fieldOf c).1
  let w := (fieldOf c).2
  let x := (a.toNat / 2 ^ p) % 2 ^ w
  if w = 0 then 0
  else if c.getLsbD 16 && x.testBit (w - 1) then word (x + (2 ^ 32 - 2 ^ w)) else word x
/-- SBFI: bits of a inserted into d under a control word (R114). -/
def fieldInsert (d a c : Word) : Word :=
  let p := (fieldOf c).1
  let w := (fieldOf c).2
  let m : Word := word ((2 ^ w - 1) * 2 ^ p)
  (d &&& ~~~m) ||| (shiftLeft a p &&& m)

/-! ## The instructions -/

/-- SADD: sa + sb (R111). -/
def execSadd (sd sa sb : SReg) (s : State) : Host.Outcome State Fault Refusal :=
  scalarInstr (.sadd sd sa sb) s sd.toNat fun t => let a := t.rs sa.toNat; let b := t.rs sb.toNat; a + b
/-- SSUB: sa - sb (R111). -/
def execSsub (sd sa sb : SReg) (s : State) : Host.Outcome State Fault Refusal :=
  scalarInstr (.ssub sd sa sb) s sd.toNat fun t => let a := t.rs sa.toNat; let b := t.rs sb.toNat; a - b
/-- SMUL: bits 31:0 of the product (R111). -/
def execSmul (sd sa sb : SReg) (s : State) : Host.Outcome State Fault Refusal :=
  scalarInstr (.smul sd sa sb) s sd.toNat fun t => let a := t.rs sa.toNat; let b := t.rs sb.toNat; a * b
/-- SMULHI: bits 63:32 of the signed product (R111). -/
def execSmulhi (sd sa sb : SReg) (s : State) : Host.Outcome State Fault Refusal :=
  scalarInstr (.smulhi sd sa sb) s sd.toNat fun t => let a := t.rs sa.toNat; let b := t.rs sb.toNat; ((a.signExtend 64 * b.signExtend 64).extractLsb' 32 32)
/-- SMULHN: bits 63:32 of the unsigned product (R111). -/
def execSmulhn (sd sa sb : SReg) (s : State) : Host.Outcome State Fault Refusal :=
  scalarInstr (.smulhn sd sa sb) s sd.toNat fun t => let a := t.rs sa.toNat; let b := t.rs sb.toNat; ((a.zeroExtend 64 * b.zeroExtend 64).extractLsb' 32 32)
/-- SDIVI (R112) (R111). -/
def execSdivi (sd sa sb : SReg) (s : State) : Host.Outcome State Fault Refusal :=
  scalarInstr (.sdivi sd sa sb) s sd.toNat fun t => let a := t.rs sa.toNat; let b := t.rs sb.toNat; divSigned a b
/-- SDIVN (R112) (R111). -/
def execSdivn (sd sa sb : SReg) (s : State) : Host.Outcome State Fault Refusal :=
  scalarInstr (.sdivn sd sa sb) s sd.toNat fun t => let a := t.rs sa.toNat; let b := t.rs sb.toNat; divUnsigned a b
/-- SREMI (R112) (R111). -/
def execSremi (sd sa sb : SReg) (s : State) : Host.Outcome State Fault Refusal :=
  scalarInstr (.sremi sd sa sb) s sd.toNat fun t => let a := t.rs sa.toNat; let b := t.rs sb.toNat; remSigned a b
/-- SREMN (R112) (R111). -/
def execSremn (sd sa sb : SReg) (s : State) : Host.Outcome State Fault Refusal :=
  scalarInstr (.sremn sd sa sb) s sd.toNat fun t => let a := t.rs sa.toNat; let b := t.rs sb.toNat; remUnsigned a b
/-- SAND (R111). -/
def execSand (sd sa sb : SReg) (s : State) : Host.Outcome State Fault Refusal :=
  scalarInstr (.sand sd sa sb) s sd.toNat fun t => let a := t.rs sa.toNat; let b := t.rs sb.toNat; a &&& b
/-- SOR (R111). -/
def execSor (sd sa sb : SReg) (s : State) : Host.Outcome State Fault Refusal :=
  scalarInstr (.sor sd sa sb) s sd.toNat fun t => let a := t.rs sa.toNat; let b := t.rs sb.toNat; a ||| b
/-- SXOR (R111). -/
def execSxor (sd sa sb : SReg) (s : State) : Host.Outcome State Fault Refusal :=
  scalarInstr (.sxor sd sa sb) s sd.toNat fun t => let a := t.rs sa.toNat; let b := t.rs sb.toNat; a ^^^ b
/-- SSHL: 0 for shifts of 32 and more (R111). -/
def execSshl (sd sa sb : SReg) (s : State) : Host.Outcome State Fault Refusal :=
  scalarInstr (.sshl sd sa sb) s sd.toNat fun t => let a := t.rs sa.toNat; let b := t.rs sb.toNat; shiftLeft a b.toNat
/-- SSHRN: 0 for shifts of 32 and more (R111). -/
def execSshrn (sd sa sb : SReg) (s : State) : Host.Outcome State Fault Refusal :=
  scalarInstr (.sshrn sd sa sb) s sd.toNat fun t => let a := t.rs sa.toNat; let b := t.rs sb.toNat; shiftRight a b.toNat
/-- SSHRI: all sign bits for shifts of 32 and more (R111). -/
def execSshri (sd sa sb : SReg) (s : State) : Host.Outcome State Fault Refusal :=
  scalarInstr (.sshri sd sa sb) s sd.toNat fun t => let a := t.rs sa.toNat; let b := t.rs sb.toNat; shiftArith a b.toNat
/-- SMINI: signed minimum (R111). -/
def execSmini (sd sa sb : SReg) (s : State) : Host.Outcome State Fault Refusal :=
  scalarInstr (.smini sd sa sb) s sd.toNat fun t => let a := t.rs sa.toNat; let b := t.rs sb.toNat; if a.slt b then a else b
/-- SMINN: unsigned minimum (R111). -/
def execSminn (sd sa sb : SReg) (s : State) : Host.Outcome State Fault Refusal :=
  scalarInstr (.sminn sd sa sb) s sd.toNat fun t => let a := t.rs sa.toNat; let b := t.rs sb.toNat; if a.ult b then a else b
/-- SMAXI: signed maximum (R111). -/
def execSmaxi (sd sa sb : SReg) (s : State) : Host.Outcome State Fault Refusal :=
  scalarInstr (.smaxi sd sa sb) s sd.toNat fun t => let a := t.rs sa.toNat; let b := t.rs sb.toNat; if a.slt b then b else a
/-- SMAXN: unsigned maximum (R111). -/
def execSmaxn (sd sa sb : SReg) (s : State) : Host.Outcome State Fault Refusal :=
  scalarInstr (.smaxn sd sa sb) s sd.toNat fun t => let a := t.rs sa.toNat; let b := t.rs sb.toNat; if a.ult b then b else a
/-- SLTI: 1 where sa < sb as signed (R111). -/
def execSlti (sd sa sb : SReg) (s : State) : Host.Outcome State Fault Refusal :=
  scalarInstr (.slti sd sa sb) s sd.toNat fun t => let a := t.rs sa.toNat; let b := t.rs sb.toNat; if a.slt b then 1 else 0
/-- SLTN: 1 where sa < sb as unsigned (R111). -/
def execSltn (sd sa sb : SReg) (s : State) : Host.Outcome State Fault Refusal :=
  scalarInstr (.sltn sd sa sb) s sd.toNat fun t => let a := t.rs sa.toNat; let b := t.rs sb.toNat; if a.ult b then 1 else 0
/-- SEQ: 1 where sa = sb (R111). -/
def execSeq (sd sa sb : SReg) (s : State) : Host.Outcome State Fault Refusal :=
  scalarInstr (.seq sd sa sb) s sd.toNat fun t => let a := t.rs sa.toNat; let b := t.rs sb.toNat; if a = b then 1 else 0
/-- SSEL: sa where the old sd is not zero, else sb (R111). -/
def execSsel (sd sa sb : SReg) (s : State) : Host.Outcome State Fault Refusal :=
  scalarInstr (.ssel sd sa sb) s sd.toNat fun t => if t.rs sd.toNat = 0 then t.rs sb.toNat else t.rs sa.toNat
/-- SADDI: sd plus the sign-extended immediate (R113). -/
def execSaddi (sd : SReg) (imm : BitVec 16) (s : State) : Host.Outcome State Fault Refusal :=
  scalarInstr (.saddi sd imm) s sd.toNat fun t => t.rs sd.toNat + imm.signExtend 32
/-- SLI: the sign-extended immediate (R113). -/
def execSli (sd : SReg) (imm : BitVec 16) (s : State) : Host.Outcome State Fault Refusal :=
  scalarInstr (.sli sd imm) s sd.toNat fun _ => imm.signExtend 32
/-- SLIH: the immediate above bits 15:0 of sd (R113). -/
def execSlih (sd : SReg) (imm : BitVec 16) (s : State) : Host.Outcome State Fault Refusal :=
  scalarInstr (.slih sd imm) s sd.toNat fun t => imm ++ (t.rs sd.toNat).extractLsb' 0 16
/-- SBITOP.popc (R114). -/
def execSbitopPopc (sd sa : SReg) (s : State) : Host.Outcome State Fault Refusal :=
  scalarInstr (.sbitopPopc sd sa) s sd.toNat fun t => word (popcount (t.rs sa.toNat))
/-- SBITOP.clz (R114). -/
def execSbitopClz (sd sa : SReg) (s : State) : Host.Outcome State Fault Refusal :=
  scalarInstr (.sbitopClz sd sa) s sd.toNat fun t => word (leadingZeros (t.rs sa.toNat))
/-- SBITOP.ctz (R114). -/
def execSbitopCtz (sd sa : SReg) (s : State) : Host.Outcome State Fault Refusal :=
  scalarInstr (.sbitopCtz sd sa) s sd.toNat fun t => word (trailingZeros (t.rs sa.toNat))
/-- SBITOP.brev (R114). -/
def execSbitopBrev (sd sa : SReg) (s : State) : Host.Outcome State Fault Refusal :=
  scalarInstr (.sbitopBrev sd sa) s sd.toNat fun t => bitReverse (t.rs sa.toNat)
/-- SBFX (R114). -/
def execSbfx (sd sa sb : SReg) (s : State) : Host.Outcome State Fault Refusal :=
  scalarInstr (.sbfx sd sa sb) s sd.toNat fun t => fieldExtract (t.rs sa.toNat) (t.rs sb.toNat)
/-- SBFI (R114). -/
def execSbfi (sd sa sb : SReg) (s : State) : Host.Outcome State Fault Refusal :=
  scalarInstr (.sbfi sd sa sb) s sd.toNat fun t => fieldInsert (t.rs sd.toNat) (t.rs sa.toNat) (t.rs sb.toNat)
/-- SADD64 on even pairs (R115). -/
def execSadd64 (sd sa sb : SReg) (s : State) : Host.Outcome State Fault Refusal :=
  issue (.sadd64 sd sa sb) s fun slot t => s.done slot (t.wd64 sd.toNat (t.rd64 sa.toNat + t.rd64 sb.toNat))

end Sys2Proof.Machine
end

