-- ==== Sys2Proof/Machine/Control.lean ====
section
/-! DEFINITION. Control instructions, opcodes 0x20 to 0x39 (R41 to R43, R116 to R139), and the pop before an issue (R124). -/

namespace Sys2Proof.Machine

/-! ## The mode register -/

/-- The mode register with the enabled fields replaced (R41): EN bit 0 SLOT, 1 RND, 2 SAT, 3 GUARD, 4 ORDER. -/
def setMode (mode : Half) (en : BitVec 5) (imm : Half) : Half :=
  let m : Half := (if en.getLsbD 0 then 0x000F else 0) ||| (if en.getLsbD 1 then 0x0070 else 0) ||| (if en.getLsbD 2 then 0x0080 else 0) |||
    (if en.getLsbD 3 then 0x0300 else 0) ||| (if en.getLsbD 4 then 0x0C00 else 0)
  (mode &&& ~~~m) ||| (imm &&& m)

/-- MODE (R41). -/
def execMode (en : BitVec 5) (imm : BitVec 12) (s : State) : Host.Outcome State Fault Refusal :=
  issue (.mode en imm) s fun slot t => s.done slot { t with mode := setMode t.mode en (imm.zeroExtend 16) }

/-- MODES (R42): the value checks of MODE on bits 15:0 of sa. -/
def execModes (en : BitVec 5) (sa : SReg) (s : State) : Host.Outcome State Fault Refusal :=
  issue (.modes en sa) s fun slot t =>
    let v := t.rs sa.toNat
    if v.extractLsb' 12 4 ≠ 0 ∨ modeOk en (v.extractLsb' 0 12) = false then .next (s.illegal slot)
    else s.done slot { t with mode := setMode t.mode en (v.extractLsb' 0 16) }

/-- MODEGET (R43). -/
def execModeget (sd : SReg) (s : State) : Host.Outcome State Fault Refusal :=
  scalarInstr (.modeget sd) s sd.toNat fun t => t.mode.zeroExtend 32

/-! ## Branches -/

/-- Cond words among some registers, by word number, ascending (R121). -/
def Team.condWordsIn (t : Team) (rs : List Nat) : List Nat := (List.range t.beats).filter fun b => rs.contains (192 + b)
/-- Lanes of cond word b that are examined and poisoned: exec and poison bit set (R121). -/
def Team.poisonedLanes (t : Team) (b : Nat) : List Nat :=
  ((List.range 32).map (32 * b + ·)).filter fun l => t.exec l && maskBit t.ctl.cpois l
/-- The deferred fault of a branch that reads cond registers with a poison bit set in a lane whose exec bit is 1 (R121). -/
def Team.condFault (t : Team) (rs : List Nat) : Option Report :=
  match (t.condWordsIn rs).filter fun b => !(t.poisonedLanes b).isEmpty with
  | [] => none
  | b :: bs => some (Report.raise (maskWord t.ctl.ctok b) (t.lanesMask (((b :: bs).map t.poisonedLanes).flatten)))

/-- A uniform branch (R120): poison carried by the cond registers it reads is raised first (R121). -/
def branchInstr (i : Instr) (s : State) (reads : Team → List Nat) (off : BitVec 16) (taken : Team → Bool) :
    Host.Outcome State Fault Refusal :=
  issue i s fun slot t =>
    match t.condFault (reads t) with
    | some r => .next (s.trap slot r)
    | none => if taken t then .next (s.setTeam slot (t.goto (branchTo t.pc off))) else s.done slot t

/-- BRA (R120). -/
def execBra (off : BitVec 24) (s : State) : Host.Outcome State Fault Refusal :=
  issue (.bra off) s fun slot t => .next (s.setTeam slot (t.goto (branchTo t.pc off)))
/-- Lanes with exec = 1 and their bit set in a window. -/
def Team.anyIn (t : Team) (r : Nat) : Bool := ((t.execWindow.zip (t.window r)).any fun p => p.1 &&& p.2 != 0)
/-- Every lane with exec = 1 has its bit set in a window. -/
def Team.allIn (t : Team) (r : Nat) : Bool := ((t.execWindow.zip (t.window r)).all fun p => p.1 &&& ~~~p.2 == 0)
/-- BANY (R120). -/
def execBany (sa : SReg) (off : BitVec 16) (s : State) : Host.Outcome State Fault Refusal :=
  branchInstr (.bany sa off) s (fun t => span sa.toNat t.beats) off fun t => t.anyIn sa.toNat
/-- BALL (R120): taken when no exec bit is set. -/
def execBall (sa : SReg) (off : BitVec 16) (s : State) : Host.Outcome State Fault Refusal :=
  branchInstr (.ball sa off) s (fun t => span sa.toNat t.beats) off fun t => t.allIn sa.toNat
/-- BNONE (R120). -/
def execBnone (sa : SReg) (off : BitVec 16) (s : State) : Host.Outcome State Fault Refusal :=
  branchInstr (.bnone sa off) s (fun t => span sa.toNat t.beats) off fun t => !t.anyIn sa.toNat
/-- BSZ (R120). -/
def execBsz (sa : SReg) (off : BitVec 16) (s : State) : Host.Outcome State Fault Refusal :=
  branchInstr (.bsz sa off) s (fun _ => [sa.toNat]) off fun t => t.rs sa.toNat == 0
/-- BSNZ (R120). -/
def execBsnz (sa : SReg) (off : BitVec 16) (s : State) : Host.Outcome State Fault Refusal :=
  branchInstr (.bsnz sa off) s (fun _ => [sa.toNat]) off fun t => t.rs sa.toNat != 0

/-- Words of two masks combined. -/
def zipMask (f : Word → Word → Word) (a b : List Word) : List Word := (a.zip b).map fun p => f p.1 p.2
/-- No bit of a mask is set. -/
def maskEmpty (m : List Word) : Bool := m.all (· == 0)

/-- The team after a push is accounted to RPC. -/
def State.setRpc (s : State) (slot : Nat) (r : Dbl) : State := s.onTeam slot fun t => { t with ctl := { t.ctl with rpc := r } }

/-- The overflow of the divergence stack (R127). -/
def State.overflow (s : State) (slot : Nat) (t : Team) : State := s.trap slot (Report.precise 0x12 t.allLanes)

/-- A divergent branch (R125): `first` says that the taken lanes run first. -/
def divergeInstr (i : Instr) (s : State) (first : Bool) (tgt rcv : BitVec 12) : Host.Outcome State Fault Refusal :=
  issue i s fun slot t =>
    match t.condFault t.condRegs with
    | some r => .next (s.trap slot r)
    | none =>
      let tA := branchTo t.pc tgt
      let rA := branchTo t.pc rcv
      let fA := t.pc + 4
      let a := t.execWindow
      let tk := zipMask (· &&& ·) a t.condWindow
      let nt := zipMask (fun x c => x &&& ~~~c) a t.condWindow
      if maskEmpty tk then s.done slot t
      else if maskEmpty nt then .next (s.setTeam slot (t.goto tA))
      else
        let one := if first then (tA, tk) else (fA, nt)
        let two := if first then (fA, nt) else (tA, tk)
        let joins := decide (t.ctl.rpc ≠ rA)
        let paths := decide (two.1 ≠ rA)
        if t.stackFull ((if joins then 1 else 0) + (if paths then 1 else 0)) then .next (s.overflow slot t)
        else
          let s1 := if joins then (s.push slot { kind := .join, pc := rA, mask := a, rpc := t.ctl.rpc }).setRpc slot rA else s
          let s2 := if paths then s1.push slot { kind := .path, pc := two.1, mask := two.2, rpc := rA } else s1
          .next (s2.onTeam slot fun u => (u.setExec one.2).goto one.1)

/-- BDIV (R125). -/
def execBdiv (tgt rcv : BitVec 12) (s : State) : Host.Outcome State Fault Refusal := divergeInstr (.bdiv tgt rcv) s true tgt rcv
/-- BDIVL: the fall-through lanes run first (R125). -/
def execBdivl (tgt rcv : BitVec 12) (s : State) : Host.Outcome State Fault Refusal := divergeInstr (.bdivl tgt rcv) s false tgt rcv

/-- A call (R129): the return address, the exec window and RPC are pushed, RPC is none. -/
def State.call (s : State) (slot : Nat) (t : Team) (target : Dbl) : State :=
  if t.stackFull 1 then s.overflow slot t
  else
    ((s.push slot { kind := .call, pc := t.pc + 4, mask := t.execWindow, rpc := t.ctl.rpc }).setRpc slot rpcNone).onTeam slot
      fun u => u.goto target

/-- CALL (R129). -/
def execCall (off : BitVec 24) (s : State) : Host.Outcome State Fault Refusal :=
  issue (.call off) s fun slot t => .next (s.call slot t (branchTo t.pc off))
/-- A target that is not word-aligned: a precise MISALIGNED fault at the branch (R122). -/
def State.targetFault (s : State) (slot : Nat) (t : Team) (a : Dbl) : State :=
  s.trap slot { Report.precise 0x07 t.allLanes with vaddr := a }
/-- CALLS (R122, R129). -/
def execCalls (sa : SReg) (s : State) : Host.Outcome State Fault Refusal :=
  issue (.calls sa) s fun slot t =>
    let a := t.rd64 sa.toNat
    if a.extractLsb' 0 2 ≠ 0 then .next (s.targetFault slot t a) else .next (s.call slot t a)
/-- BRS (R122). -/
def execBrs (sa : SReg) (s : State) : Host.Outcome State Fault Refusal :=
  issue (.brs sa) s fun slot t =>
    let a := t.rd64 sa.toNat
    if a.extractLsb' 0 2 ≠ 0 then .next (s.targetFault slot t a) else .next (s.setTeam slot (t.goto a))
/-- RET (R129): pops a call entry, or takes ILLEGAL. -/
def execRet (s : State) : Host.Outcome State Fault Refusal :=
  issue .ret s fun slot t =>
    match s.top? t with
    | some e => if e.kind = .call then s.doneEnding slot (s.pop t) else .next (s.illegal slot)
    | none => .next (s.illegal slot)
/-- Words of a loop's body. -/
def LoopState.words (l : LoopState) : Nat := (l.last.toNat + 4 - l.start.toNat) / 4
/-- A body of n words fits into the loop buffer of the team's quadrant beside the bodies other teams hold there (R132). -/
def State.loopFits (s : State) (slot : Nat) (t : Team) (n : Nat) : Bool :=
  let used := s.teams.map fun (e : Nat × Option Team) => match e.2 with
    | some u => if e.1 ≠ slot ∧ u.core = t.core ∧ u.quad = t.quad ∧ u.ctl.loop.active = true ∧
        (u.ctl.loop.capture = true ∨ u.ctl.loop.buffer ≠ []) then u.ctl.loop.words else 0
    | none => 0
  decide (n + used.sum ≤ Config.loopBufferWords)
/-- LOOP (R130). -/
def execLoop (sa : SReg) (off : BitVec 16) (s : State) : Host.Outcome State Fault Refusal :=
  issue (.loop sa off) s fun slot t =>
    let last := branchTo t.pc off
    let n := t.rs sa.toNat
    if n = 0 then .next (s.setTeam slot (t.goto (last + 4)))
    else
      let l : LoopState := { lc := n, start := t.pc + 4, last := last, active := true, capture := false, buffer := [] }
      .next (s.setTeam slot { t with
        pc := t.pc + 4, ctl := { t.ctl with loop := { l with capture := s.loopFits slot t l.words } } })

/-! ## Masks -/

/-- A MOP that writes a window (R118). -/
def mopInstr (i : Instr) (s : State) (sd : Nat) (f : Team → List Word) : Host.Outcome State Fault Refusal :=
  issue i s fun slot t => s.done slot (t.wsList sd (f t))

/-- MOP.not (R118). -/
def execMopNot (sa sd : SReg) (s : State) : Host.Outcome State Fault Refusal :=
  mopInstr (.mopNot sa sd) s sd.toNat fun t => (t.window sa.toNat).map (~~~·)
/-- MOP.and (R118). -/
def execMopAnd (sa sd : SReg) (s : State) : Host.Outcome State Fault Refusal :=
  mopInstr (.mopAnd sa sd) s sd.toNat fun t => zipMask (· &&& ·) (t.window sa.toNat) t.condWindow
/-- MOP.or (R118). -/
def execMopOr (sa sd : SReg) (s : State) : Host.Outcome State Fault Refusal :=
  mopInstr (.mopOr sa sd) s sd.toNat fun t => zipMask (· ||| ·) (t.window sa.toNat) t.condWindow
/-- MOP.andn (R118). -/
def execMopAndn (sa sd : SReg) (s : State) : Host.Outcome State Fault Refusal :=
  mopInstr (.mopAndn sa sd) s sd.toNat fun t => zipMask (fun x c => x &&& ~~~c) (t.window sa.toNat) t.condWindow
/-- MOP.load: the exec window from a window, under the live mask (R116, R118). -/
def execMopLoad (sa : SReg) (s : State) : Host.Outcome State Fault Refusal :=
  issue (.mopLoad sa) s fun slot t => s.done slot (t.setExec (t.window sa.toNat))
/-- MOP.save (R118). -/
def execMopSave (sd : SReg) (s : State) : Host.Outcome State Fault Refusal :=
  mopInstr (.mopSave sd) s sd.toNat fun t => t.execWindow
/-- MOP.popc (R118). -/
def execMopPopc (sa sd : SReg) (s : State) : Host.Outcome State Fault Refusal :=
  scalarInstr (.mopPopc sa sd) s sd.toNat fun t => word ((t.window sa.toNat).map popcount).sum
/-- MOP.first (R118). -/
def execMopFirst (sa sd : SReg) (s : State) : Host.Outcome State Fault Refusal :=
  scalarInstr (.mopFirst sa sd) s sd.toNat fun t =>
    match (List.range t.lanes).find? (maskBit (t.window sa.toNat)) with
    | some l => word l
    | none => 0xFFFFFFFF
/-- MSAVE (R119). -/
def execMsave (sd : SReg) (s : State) : Host.Outcome State Fault Refusal :=
  mopInstr (.msave sd) s sd.toNat fun t => t.execWindow ++ t.condWindow
/-- MREST (R119). -/
def execMrest (sa : SReg) (s : State) : Host.Outcome State Fault Refusal :=
  issue (.mrest sa) s fun slot t =>
    s.done slot ((t.setExec (t.window sa.toNat)).setCond (t.window (sa.toNat + t.beats)))

/-! ## Team control -/

/-- The pop before an issue while PC = RPC (R124); it waits while a register of the exec or cond window is empty (R141). -/
def execDivergencePop (s : State) : Host.Outcome State Fault Refusal :=
  match s.cur with
  | none => .fault .noTeam
  | some slot =>
    match s.team? slot with
    | none => .fault .noTeam
    | some t =>
      if !t.canIssue || decide (t.pc ≠ t.ctl.rpc) || (t.execRegs ++ t.condRegs).any t.sEmpty then .next s
      else s.doneEnding slot (s.pop t)

/-- KILL (R133): the lanes whose exec bit is 1 die; then a pop, or the end of the team. -/
def execKill (s : State) : Host.Outcome State Fault Refusal :=
  issue .kill s fun slot t =>
    let live := zipMask (fun l e => l &&& ~~~e) t.ctl.live t.execWindow
    let t1 := { t with ctl := { t.ctl with live := live } }
    let t2 := t1.setExec (t.execWindow.map fun _ => 0)
    s.doneEnding slot (if t2.depth = 0 then t2.ended else s.pop t2)

/-- An operation whose completion its team's exit waits for (R134). -/
def OpKind.stays : OpKind → Bool
  | .sfu _ | .ask _ => false
  | _ => true
/-- A team has memory accesses, engine commands or releases that are not performed (R134). -/
def State.working (s : State) (slot gid : Nat) : Bool :=
  s.ops.any fun o => o.slot == slot && o.gid == gid && !o.orphan && o.kind.stays
/-- EXIT (R134): raises a failure that came with returning data (R198) or a drain fault (R299) that no instruction met, also one that comes
while it waits for the team's accesses and commands (R344); once they are performed the team ends (log entry 19). -/
def execExit (s : State) : Host.Outcome State Fault Refusal :=
  issue .exit s fun slot t =>
    match t.failures with
    | f :: _ => .next (s.trap slot (f.report t))
    | [] =>
      match t.drains with
      | d :: _ => .next (s.raiseDrain slot t d)
      | [] => if s.working slot t.group then .next s else s.doneEnding slot t.ended

/-- The age of a team that is younger than every team of the machine. -/
def State.youngest (s : State) : Nat :=
  s.teams.foldl (fun n e => match e.2 with | some t => max n (t.sched.age + 1) | none => n) 0

/-- YIELD (R135): youngest of its class, promotion cleared, not ready for imm16 cycles (log entry 13). -/
def execYield (imm : BitVec 16) (s : State) : Host.Outcome State Fault Refusal :=
  issue (.yield imm) s fun slot t =>
    s.done slot { t with sched := { age := s.youngest, promoted := false, yielding := decide (imm ≠ 0) } }

/-- PROBE (R136): 1 where the register is full. -/
def execProbe (sd : SReg) (reg : BitVec 8) (vec : Bool) (s : State) : Host.Outcome State Fault Refusal :=
  scalarInstr (.probe sd reg vec) s sd.toNat fun t =>
    if (if vec then t.vEmpty reg.toNat else t.sEmpty reg.toNat) then 0 else 1

/-- A command of a copy or layout engine that a team issued and that has not written its status (R137). -/
def State.copying (s : State) (slot gid : Nat) : Bool :=
  s.ops.any fun o => o.slot == slot && o.gid == gid && (match o.kind with | .command c => c.cmd.copies | _ => false)

/-- IFENCE (R137): waits for the team's copy and layout commands, then a full fence, then the instruction cache of the core and the
team's loop buffer are dropped. -/
def execIfence (s : State) : Host.Outcome State Fault Refusal :=
  issue .ifence s fun slot t =>
    if s.copying slot t.group then .next s
    else match t.storeFailed with
      | some f => .next (s.trap slot (f.report t))
      | none =>
        match s.awaitRelease slot t with
        | some w => .next w
        | none =>
          if s.acquireHeld slot t.group then .next s else
          let s1 := (s.acquire t.core).onCore t.core fun c => { c with icache := [] }
          s1.done slot { t with fence := none, ctl := { t.ctl with loop := { t.ctl.loop with capture := false, buffer := [] } } }

/-- BRK (R138): parks the team where debug is enabled, else only takes its slot. -/
def execBrk (imm : BitVec 16) (s : State) : Host.Outcome State Fault Refusal :=
  issue (.brk imm) s fun slot t =>
    if (s.part (s.partOf t)).debug then
      let s1 := s.trap slot { Report.precise 0x14 t.execWindow with tcode := imm.zeroExtend 32 }
      .next s1
    else s.done slot t

/-- STKQ (R139). -/
def execStkq (sd : SReg) (sel : BitVec 8) (s : State) : Host.Outcome State Fault Refusal :=
  scalarInstr (.stkq sd sel) s sd.toNat fun t =>
    match sel.toNat with
    | 0 => word t.depth
    | 1 => word t.ctl.stack.length
    | 2 => t.ctl.rpc.extractLsb' 0 32
    | 3 => t.ctl.rpc.extractLsb' 32 32
    | 4 => match s.top? t with
      | some e => word e.kind.code
      | none => 0
    | 5 => if t.ctl.loop.active then t.ctl.loop.lc else 0
    | 6 => if t.ctl.loop.active then 1 else 0
    | n => maskWord (t.ctl.live.take t.beats) (n - 0x20)

end Sys2Proof.Machine
end

