-- ==== Sys2Proof/Machine/LaneData.lean ====
section
/-! DEFINITION. Lane data, bit and cross-lane instructions, opcodes 0x40 to 0x5E (R142 to R159). -/

namespace Sys2Proof.Machine

/-- Rotation to the left by n mod 32 (R147). -/
def rotateLeft (a : Word) (n : Nat) : Word := a.rotateLeft (n % 32)

/-- Byte i of a word. -/
def byteOf (a : Word) (i : Nat) : Nat := (a.toNat / 2 ^ (8 * i)) % 256

/-- The byte permute of VPRMB (R148). -/
def permuteBytes (a sel : Word) : Word :=
  word (((List.range 4).map fun i =>
    let c := byteOf sel i
    let src := byteOf a (c % 4)
    let b := if c.testBit 7 then 0 else if c.testBit 6 then (if src.testBit 7 then 255 else 0) else src
    b * 2 ^ (8 * i)).sum)

/-! ## Lane-local instructions (R147) -/

/-- VMOV: a copy, tag included (R147). -/
def execVmov (vd va : VReg) (la lb keep : Bool) (s : State) : Host.Outcome State Fault Refusal :=
  laneInstr (.vmov vd va la lb keep) s vd.toNat keep [(va.toNat, la)] fun t l => do
    let a ← t.rv va.toNat l
    pure (a)
/-- VMOVS: a scalar in every active lane, tag clear (R147). -/
def execVmovs (vd : VReg) (sb : SReg) (la keep : Bool) (s : State) : Host.Outcome State Fault Refusal :=
  laneInstr (.vmovs vd sb la keep) s vd.toNat keep [] fun t _ => pure (t.rs sb.toNat)
/-- VLI: the sign-extended immediate (R147). -/
def execVli (vd : VReg) (imm : BitVec 16) (s : State) : Host.Outcome State Fault Refusal :=
  laneInstr (.vli vd imm) s vd.toNat false [] fun _ _ => pure (imm.signExtend 32)
/-- VLIH: the immediate above bits 15:0 of vd (R147). -/
def execVlih (vd : VReg) (imm : BitVec 16) (s : State) : Host.Outcome State Fault Refusal :=
  laneInstr (.vlih vd imm) s vd.toNat false [] fun t l => do
    let d ← t.rv vd.toNat l
    pure (imm ++ d.extractLsb' 0 16)
/-- VAND (R147). -/
def execVand (vd va vb : VReg) (la lb keep : Bool) (s : State) : Host.Outcome State Fault Refusal :=
  laneInstr (.vand vd va vb la lb keep) s vd.toNat keep [(va.toNat, la), (vb.toNat, lb)] fun t l => do
    let a ← t.rv va.toNat l
    let b ← t.rv vb.toNat l
    pure (a &&& b)
/-- VOR (R147). -/
def execVor (vd va vb : VReg) (la lb keep : Bool) (s : State) : Host.Outcome State Fault Refusal :=
  laneInstr (.vor vd va vb la lb keep) s vd.toNat keep [(va.toNat, la), (vb.toNat, lb)] fun t l => do
    let a ← t.rv va.toNat l
    let b ← t.rv vb.toNat l
    pure (a ||| b)
/-- VXOR (R147). -/
def execVxor (vd va vb : VReg) (la lb keep : Bool) (s : State) : Host.Outcome State Fault Refusal :=
  laneInstr (.vxor vd va vb la lb keep) s vd.toNat keep [(va.toNat, la), (vb.toNat, lb)] fun t l => do
    let a ← t.rv va.toNat l
    let b ← t.rv vb.toNat l
    pure (a ^^^ b)
/-- VANDN (R147). -/
def execVandn (vd va vb : VReg) (la lb keep : Bool) (s : State) : Host.Outcome State Fault Refusal :=
  laneInstr (.vandn vd va vb la lb keep) s vd.toNat keep [(va.toNat, la), (vb.toNat, lb)] fun t l => do
    let a ← t.rv va.toNat l
    let b ← t.rv vb.toNat l
    pure (a &&& ~~~b)
/-- VSHL: 0 for shifts of 32 and more (R147). -/
def execVshl (vd va vb : VReg) (la lb keep : Bool) (s : State) : Host.Outcome State Fault Refusal :=
  laneInstr (.vshl vd va vb la lb keep) s vd.toNat keep [(va.toNat, la), (vb.toNat, lb)] fun t l => do
    let a ← t.rv va.toNat l
    let b ← t.rv vb.toNat l
    pure (shiftLeft a b.toNat)
/-- VSHRN: 0 for shifts of 32 and more (R147). -/
def execVshrn (vd va vb : VReg) (la lb keep : Bool) (s : State) : Host.Outcome State Fault Refusal :=
  laneInstr (.vshrn vd va vb la lb keep) s vd.toNat keep [(va.toNat, la), (vb.toNat, lb)] fun t l => do
    let a ← t.rv va.toNat l
    let b ← t.rv vb.toNat l
    pure (shiftRight a b.toNat)
/-- VSHRI: all sign bits for shifts of 32 and more (R147). -/
def execVshri (vd va vb : VReg) (la lb keep : Bool) (s : State) : Host.Outcome State Fault Refusal :=
  laneInstr (.vshri vd va vb la lb keep) s vd.toNat keep [(va.toNat, la), (vb.toNat, lb)] fun t l => do
    let a ← t.rv va.toNat l
    let b ← t.rv vb.toNat l
    pure (shiftArith a b.toNat)
/-- VSHLI (R147). -/
def execVshli (vd va : VReg) (la : Bool) (n : BitVec 5) (s : State) : Host.Outcome State Fault Refusal :=
  laneInstr (.vshli vd va la n) s vd.toNat false [(va.toNat, la)] fun t l => do
    let a ← t.rv va.toNat l
    pure (shiftLeft a n.toNat)
/-- VSHRNI (R147). -/
def execVshrni (vd va : VReg) (la : Bool) (n : BitVec 5) (s : State) : Host.Outcome State Fault Refusal :=
  laneInstr (.vshrni vd va la n) s vd.toNat false [(va.toNat, la)] fun t l => do
    let a ← t.rv va.toNat l
    pure (shiftRight a n.toNat)
/-- VSHRII (R147). -/
def execVshrii (vd va : VReg) (la : Bool) (n : BitVec 5) (s : State) : Host.Outcome State Fault Refusal :=
  laneInstr (.vshrii vd va la n) s vd.toNat false [(va.toNat, la)] fun t l => do
    let a ← t.rv va.toNat l
    pure (shiftArith a n.toNat)
/-- VROT: left by vb mod 32 (R147). -/
def execVrot (vd va vb : VReg) (la lb keep : Bool) (s : State) : Host.Outcome State Fault Refusal :=
  laneInstr (.vrot vd va vb la lb keep) s vd.toNat keep [(va.toNat, la), (vb.toNat, lb)] fun t l => do
    let a ← t.rv va.toNat l
    let b ← t.rv vb.toNat l
    pure (rotateLeft a b.toNat)
/-- VBITOP.popc (R147). -/
def execVbitopPopc (vd va : VReg) (la lb keep : Bool) (s : State) : Host.Outcome State Fault Refusal :=
  laneInstr (.vbitopPopc vd va la lb keep) s vd.toNat keep [(va.toNat, la)] fun t l => do
    let a ← t.rv va.toNat l
    pure (word (popcount a))
/-- VBITOP.clz (R147). -/
def execVbitopClz (vd va : VReg) (la lb keep : Bool) (s : State) : Host.Outcome State Fault Refusal :=
  laneInstr (.vbitopClz vd va la lb keep) s vd.toNat keep [(va.toNat, la)] fun t l => do
    let a ← t.rv va.toNat l
    pure (word (leadingZeros a))
/-- VBITOP.ctz (R147). -/
def execVbitopCtz (vd va : VReg) (la lb keep : Bool) (s : State) : Host.Outcome State Fault Refusal :=
  laneInstr (.vbitopCtz vd va la lb keep) s vd.toNat keep [(va.toNat, la)] fun t l => do
    let a ← t.rv va.toNat l
    pure (word (trailingZeros a))
/-- VBITOP.brev (R147). -/
def execVbitopBrev (vd va : VReg) (la lb keep : Bool) (s : State) : Host.Outcome State Fault Refusal :=
  laneInstr (.vbitopBrev vd va la lb keep) s vd.toNat keep [(va.toNat, la)] fun t l => do
    let a ← t.rv va.toNat l
    pure (bitReverse a)
/-- VBFX: SBFX on each lane with a scalar control word (R114, R147). -/
def execVbfx (vd va : VReg) (sb : SReg) (la keep : Bool) (s : State) : Host.Outcome State Fault Refusal :=
  laneInstr (.vbfx vd va sb la keep) s vd.toNat keep [(va.toNat, la)] fun t l => do
    let a ← t.rv va.toNat l
    pure (fieldExtract a (t.rs sb.toNat))
/-- VBFI: SBFI on each lane, merging vd (R114, R147). -/
def execVbfi (vd va : VReg) (sb : SReg) (la keep : Bool) (s : State) : Host.Outcome State Fault Refusal :=
  laneInstr (.vbfi vd va sb la keep) s vd.toNat keep [(va.toNat, la)] fun t l => do
    let a ← t.rv va.toNat l
    let d ← t.rv vd.toNat l
    pure (fieldInsert d a (t.rs sb.toNat))
/-- VPRMB: byte permute (R148) (R147). -/
def execVprmb (vd va vb : VReg) (la lb keep : Bool) (s : State) : Host.Outcome State Fault Refusal :=
  laneInstr (.vprmb vd va vb la lb keep) s vd.toNat keep [(va.toNat, la), (vb.toNat, lb)] fun t l => do
    let a ← t.rv va.toNat l
    let b ← t.rv vb.toNat l
    pure (permuteBytes a b)
/-- VSEL: va where the cond bit is set, else vb; a poisoned cond bit poisons the lane last (R144, R149). -/
def execVsel (vd va vb : VReg) (la lb keep : Bool) (s : State) : Host.Outcome State Fault Refusal :=
  laneInstr (.vsel vd va vb la lb keep) s vd.toNat keep [(va.toNat, la), (vb.toNat, lb)] fun t l => do
    let x ← if t.cond l then t.rv va.toNat l else t.rv vb.toNat l
    if maskBit t.ctl.cpois l then .error (maskWord t.ctl.ctok (l / 32)) else pure x
/-- VADDA (R147). -/
def execVadda (vd va vb : VReg) (la lb keep : Bool) (s : State) : Host.Outcome State Fault Refusal :=
  laneInstr (.vadda vd va vb la lb keep) s vd.toNat keep [(va.toNat, la), (vb.toNat, lb)] fun t l => do
    let a ← t.rv va.toNat l
    let b ← t.rv vb.toNat l
    pure (a + b)
/-- VMADA: the low word of the product plus vd (R147). -/
def execVmada (vd va vb : VReg) (la lb keep : Bool) (s : State) : Host.Outcome State Fault Refusal :=
  laneInstr (.vmada vd va vb la lb keep) s vd.toNat keep [(va.toNat, la), (vb.toNat, lb)] fun t l => do
    let a ← t.rv va.toNat l
    let b ← t.rv vb.toNat l
    let d ← t.rv vd.toNat l
    pure (a * b + d)
/-- VADDA64: a pair plus a sign-extended word; a poisoned result puts its token into both registers (R147). -/
def execVadda64 (vd va vb : VReg) (la lb keep : Bool) (s : State) : Host.Outcome State Fault Refusal :=
  issue (.vadda64 vd va vb la lb keep) s fun slot t =>
    let f (l : Nat) : Except Word Dbl := do
      let lo ← t.rv va.toNat l
      let hi ← t.rv (va.toNat + 1) l
      let b ← t.rv vb.toNat l
      pure ((hi ++ lo) + b.signExtend 64)
    let part (lo : Nat) (l : Nat) : Option Lane := if t.active l then some (laneOf ((f l).map fun d => d.extractLsb' lo 32)) else none
    let marks := [(va.toNat, la), (va.toNat + 1, la), (vb.toNat, lb)]
    let t1 := ((t.lastUse marks).wv vd.toNat (part 0)).wv (vd.toNat + 1) (part 32)
    let s1 := ((s.dropOperands slot t marks).cacheOperand slot t vd.toNat keep).cacheOperand slot t (vd.toNat + 1) keep
    s1.done slot t1
/-- VLANE: L, L mod 32 or floor(L / 32) (R150). -/
def execVlane (vd : VReg) (sel : BitVec 7) (la lb keep : Bool) (s : State) : Host.Outcome State Fault Refusal :=
  laneInstr (.vlane vd sel la lb keep) s vd.toNat keep [] fun _ l =>
    pure (word (if sel = 0 then l else if sel = 1 then l % 32 else l / 32))

/-! ## VTEST -/

/-- The comparison of a VTEST code (R151). -/
def testCode (code : Nat) (a b : Word) : Bool :=
  match code with
  | 0 => a &&& b != 0
  | 1 => a &&& b == 0
  | 2 => a == b
  | 3 => a != b
  | 4 => a.slt b
  | 5 => a.ult b
  | 6 => a.sle b
  | _ => a.ule b
/-- VTEST (R151). -/
def execVtest (code : BitVec 7) (va vb : VReg) (la lb keep : Bool) (s : State) : Host.Outcome State Fault Refusal :=
  condInstr (.vtest code va vb la lb keep) s [(va.toNat, la), (vb.toNat, lb)] fun t l => do
    let a ← t.rv va.toNat l
    let b ← t.rv vb.toNat l
    pure (testCode code.toNat a b)

/-! ## Cross-lane moves (R152) -/

/-- What a lane receives from one source lane: its value where the source is valid, and the cond bit. -/
def fromLane (t : Team) (va : Nat) (src : Option Nat) : Option (Except Word Word) × Bool :=
  match src with
  | some x => if t.active x then (some (t.rv va x), true) else (none, false)
  | none => (none, false)
/-- VSHFL: a gather by a per-lane index (R153). -/
def execVshfl (vd va vb : VReg) (la lb keep : Bool) (s : State) : Host.Outcome State Fault Refusal :=
  crossInstr (.vshfl vd va vb la lb keep) s vd.toNat keep [(va.toNat, la), (vb.toNat, lb)] fun t l =>
    match t.rv vb.toNat l with
    | .error k => (some (.error k), false)
    | .ok x => fromLane t va.toNat (some x.toNat)
/-- VSHFLI.xor (R154). -/
def execVshfliXor (vd va : VReg) (la : Bool) (c : BitVec 6) (s : State) : Host.Outcome State Fault Refusal :=
  crossInstr (.vshfliXor vd va la c) s vd.toNat false [(va.toNat, la)] fun t l => fromLane t va.toNat (some (l ^^^ c.toNat))
/-- VSHFLI.up (R154): no lane below 0. -/
def execVshfliUp (vd va : VReg) (la : Bool) (c : BitVec 6) (s : State) : Host.Outcome State Fault Refusal :=
  crossInstr (.vshfliUp vd va la c) s vd.toNat false [(va.toNat, la)] fun t l =>
    fromLane t va.toNat (if c.toNat ≤ l then some (l - c.toNat) else none)
/-- VSHFLI.down (R154). -/
def execVshfliDown (vd va : VReg) (la : Bool) (c : BitVec 6) (s : State) : Host.Outcome State Fault Refusal :=
  crossInstr (.vshfliDown vd va la c) s vd.toNat false [(va.toNat, la)] fun t l => fromLane t va.toNat (some (l + c.toNat))
/-- VSHFLI.rot: within the beat (R154). -/
def execVshfliRot (vd va : VReg) (la : Bool) (c : BitVec 6) (s : State) : Host.Outcome State Fault Refusal :=
  crossInstr (.vshfliRot vd va la c) s vd.toNat false [(va.toNat, la)] fun t l =>
    fromLane t va.toNat (some (32 * (l / 32) + (l % 32 + c.toNat) % 32))
/-- VBCAST: one lane to every active lane (R155). -/
def execVbcast (vd va : VReg) (sb : SReg) (la keep : Bool) (s : State) : Host.Outcome State Fault Refusal :=
  crossInstr (.vbcast vd va sb la keep) s vd.toNat keep [(va.toNat, la)] fun t _ => fromLane t va.toNat (some (t.rs sb.toNat).toNat)

/-- The container of lane j packed from n sub-elements of w bits (R156, R178): those that f gives, merged with the bits of the old
container where it gives none. -/
def packLanes (n w : Nat) (f : Nat → Option (Except Word Nat)) (old : Except Word Nat) : Option (Except Word Nat) × Bool :=
  let qs := List.range n
  let all := qs.all fun q => (f q).isSome
  if qs.all fun q => (f q).isNone then (none, false)
  else
    let parts : Except Word (List Nat) := qs.mapM fun q => (f q).getD (.ok 0)
    let keepOld : Except Word Nat := if all then .ok 0 else old
    let r : Except Word Nat := do
      let ps ← parts
      let o ← keepOld
      pure (((qs.zip ps).map fun p => ((if (f p.1).isSome then p.2 else o / 2 ^ (p.1 * w)) % 2 ^ w) * 2 ^ (p.1 * w)).sum)
    (some r, all)
/-- VPACK (R156). -/
def execVpack (vd va : VReg) (w : BitVec 7) (la lb keep : Bool) (s : State) : Host.Outcome State Fault Refusal :=
  crossInstr (.vpack vd va w la lb keep) s vd.toNat keep [(va.toNat, la)] fun t j =>
    let n := 32 / w.toNat
    let r := packLanes n w.toNat
      (fun q => if t.active (j * n + q) then some ((t.rv va.toNat (j * n + q)).map BitVec.toNat) else none)
      ((t.rv vd.toNat j).map BitVec.toNat)
    (r.1.map fun x => x.map word, r.2)
/-- A w-bit field sign-extended to a word. -/
def signField (w n : Nat) : Word := BitVec.ofInt 32 (signedOf w n)
/-- VUNPK (R157). -/
def execVunpk (vd va : VReg) (la sx : Bool) (w : BitVec 6) (s : State) : Host.Outcome State Fault Refusal :=
  crossInstr (.vunpk vd va la sx w) s vd.toNat false [(va.toNat, la)] fun t l =>
    let n := 32 / w.toNat
    let r := fromLane t va.toNat (some (l / n))
    (r.1.map fun x => x.map fun a =>
      let f := a.toNat / 2 ^ (l % n * w.toNat) % 2 ^ w.toNat
      if sx then signField w.toNat f else word f, r.2)

/-! ## VTOS (R158, R159) -/

/-- A VTOS: the contributing lanes and what their values give sb, where some lane contributes or the mode has a value without one. A
poisoned contributor is raised as a deferred fault with no effect (R159). -/
def vtosInstr (i : Instr) (s : State) (va : VReg) (sb : SReg) (la : Bool) (lanes : Team → List Nat) (f : List Word → Option Word) :
    Host.Outcome State Fault Refusal :=
  issue i s fun slot t =>
    let ls := lanes t
    let bad := ls.filterMap fun l => match t.rv va.toNat l with
      | .error k => some (l, k)
      | .ok _ => none
    match bad with
    | b :: _ => .next (s.trap slot (Report.raise b.2 (t.lanesMask (bad.map (·.1)))))
    | [] =>
      let t1 := t.lastUse [(va.toNat, la)]
      let t2 := match f (ls.map fun l => (t.lane va.toNat l).data) with
        | some w => t1.ws sb.toNat w
        | none => t1
      (s.dropOperands slot t [(va.toNat, la)]).done slot t2

/-- VTOS.idx: the lane that sb names (R158). -/
def execVtosIdx (va : VReg) (sb : SReg) (la keep : Bool) (s : State) : Host.Outcome State Fault Refusal :=
  vtosInstr (.vtosIdx va sb la keep) s va sb la (fun t => let x := (t.rs sb.toNat).toNat; if t.active x then [x] else []) List.head?
/-- VTOS.first: the lowest active lane (R158). -/
def execVtosFirst (va : VReg) (sb : SReg) (la keep : Bool) (s : State) : Host.Outcome State Fault Refusal :=
  vtosInstr (.vtosFirst va sb la keep) s va sb la (fun t => t.activeLanes.take 1) List.head?
/-- VTOS.last: the highest active lane (R158). -/
def execVtosLast (va : VReg) (sb : SReg) (la keep : Bool) (s : State) : Host.Outcome State Fault Refusal :=
  vtosInstr (.vtosLast va sb la keep) s va sb la (fun t => t.activeLanes.getLast?.toList) List.head?
/-- VTOS.or (R158). -/
def execVtosOr (va : VReg) (sb : SReg) (la keep : Bool) (s : State) : Host.Outcome State Fault Refusal :=
  vtosInstr (.vtosOr va sb la keep) s va sb la (fun t => t.activeLanes) fun ws => some (ws.foldl (· ||| ·) 0)
/-- VTOS.and (R158). -/
def execVtosAnd (va : VReg) (sb : SReg) (la keep : Bool) (s : State) : Host.Outcome State Fault Refusal :=
  vtosInstr (.vtosAnd va sb la keep) s va sb la (fun t => t.activeLanes) fun ws => some (ws.foldl (· &&& ·) 0xFFFFFFFF)
/-- VTOS.add (R158). -/
def execVtosAdd (va : VReg) (sb : SReg) (la keep : Bool) (s : State) : Host.Outcome State Fault Refusal :=
  vtosInstr (.vtosAdd va sb la keep) s va sb la (fun t => t.activeLanes) fun ws => some (ws.foldl (· + ·) 0)
/-- VTOS.maxn (R158). -/
def execVtosMaxn (va : VReg) (sb : SReg) (la keep : Bool) (s : State) : Host.Outcome State Fault Refusal :=
  vtosInstr (.vtosMaxn va sb la keep) s va sb la (fun t => t.activeLanes) fun ws => some (ws.foldl (fun a b => if a.ult b then b else a) 0)
/-- VTOS.minn (R158). -/
def execVtosMinn (va : VReg) (sb : SReg) (la keep : Bool) (s : State) : Host.Outcome State Fault Refusal :=
  vtosInstr (.vtosMinn va sb la keep) s va sb la (fun t => t.activeLanes) fun ws => some (ws.foldl (fun a b => if b.ult a then b else a) 0xFFFFFFFF)

end Sys2Proof.Machine
end

