-- ==== Sys2Proof/Machine/Special.lean ====
section
/-! DEFINITION. Roots, exponentials, logarithms and circular functions as exact values to be encoded once (R168, R169). A value that
is no fraction is given by enclosures in integers of 2^(-p), refined until the digits asked for are settled. -/

namespace Sys2Proof.Machine

/-- An enclosure: the value lies within e of c, in steps of 2^(-p). -/
structure Encl where
  c : Int
  e : Nat
  deriving DecidableEq, Repr

/-- c / 2^n rounded down, with the error that adds. -/
def Encl.shift (x : Encl) (n : Nat) : Encl := { c := x.c / (2 ^ n : Nat), e := x.e / 2 ^ n + 2 }

/-- Terms of a power series in fixed point: each term is the last times y, over the divisor of its index, shifted by p; the sum takes
the sign of the index. -/
def seriesGo (p : Nat) (y : Int) (div : Nat → Nat) : Nat → Nat → Int → Int → Int
  | 0, _, _, acc => acc
  | n + 1, k, term, acc =>
    let t := term * y / (2 ^ p : Nat) / (div k : Int)
    if t = 0 ∨ t = -1 then acc else seriesGo p y div n (k + 1) t (acc + t)

/-- e^y for 0 ≤ |y| ≤ 1. -/
def expSeries (p : Nat) (y : Encl) : Encl :=
  { c := seriesGo p y.c (fun k => k + 1) (p + 8) 0 (2 ^ p : Nat) (2 ^ p : Nat), e := 3 * y.e + 8 * p + 64 }

/-- The sum z + z^3/3 + z^5/5 + ... (sign s = 1) or its alternating form (s = -1), for |z| ≤ 1/2. -/
def atanGo (p : Nat) (z2 : Int) (s : Int) : Nat → Nat → Int → Int → Int
  | 0, _, _, acc => acc
  | n + 1, k, pow, acc =>
    let pw := s * (pow * z2 / (2 ^ p : Nat))
    if pw = 0 ∨ pw = -1 then acc else atanGo p z2 s n (k + 1) pw (acc + pw / ((2 * k + 3 : Nat) : Int))

/-- atanh z (s = 1) or atan z (s = -1), |z| ≤ 1/2. -/
def atanSeries (p : Nat) (s : Int) (z : Encl) : Encl :=
  let z2 := z.c * z.c / (2 ^ p : Nat)
  { c := atanGo p z2 s (p + 8) 0 z.c z.c, e := 2 * z.e + 8 * p + 64 }

/-- A fraction a / b in steps of 2^(-p). -/
def fracEncl (p : Nat) (a b : Nat) : Encl := { c := ((a <<< p) / b : Nat), e := 1 }

/-- ln 2 = 2 atanh(1/3). -/
def ln2 (p : Nat) : Encl := let a := atanSeries p 1 (fracEncl p 1 3); { c := 2 * a.c, e := 2 * a.e }
/-- pi = 16 atan(1/5) - 4 atan(1/239). -/
def piEncl (p : Nat) : Encl :=
  let a := atanSeries p (-1) (fracEncl p 1 5)
  let b := atanSeries p (-1) (fracEncl p 1 239)
  { c := 16 * a.c - 4 * b.c, e := 16 * a.e + 4 * b.e }

/-- The product of enclosures whose values are at most 2^b in magnitude. -/
def Encl.mul (p : Nat) (b : Nat) (x y : Encl) : Encl :=
  { c := x.c * y.c / (2 ^ p : Nat), e := (x.e + y.e) * 2 ^ b + 2 + x.e * y.e / 2 ^ p }

/-- An enclosure by precision, for a positive value. -/
abbrev Refine := Nat → Encl

/-- The floor of the value times 2^j, at the first precision that settles it. -/
def refineFloor (f : Refine) (j : Int) : Nat → Nat → Nat
  | 0, p => (shiftFloor (f p).c.toNat (j - p)).1
  | n + 1, p =>
    let x := f p
    let lo := (shiftFloor (x.c - x.e).toNat (j - p)).1
    let hi := (shiftFloor (x.c + x.e).toNat (j - p)).1
    if lo = hi then lo else refineFloor f j n (2 * p)

/-- The floor of the base-2 logarithm of the value, at the first precision that settles it. -/
def refineLog (f : Refine) : Nat → Nat → Int
  | 0, p => (Nat.log2 (f p).c.toNat : Int) - p
  | n + 1, p =>
    let x := f p
    let lo := (x.c - x.e).toNat
    let hi := (x.c + x.e).toNat
    if 0 < lo ∧ Nat.log2 lo = Nat.log2 hi then (Nat.log2 lo : Int) - p else refineLog f n (2 * p)

/-- The magnitude of a value that no fraction equals, from its enclosures; p0 is the first precision. -/
def Mag.refined (f : Refine) (p0 : Nat) : Mag :=
  { log := refineLog f 14 p0, scale := fun j => (refineFloor f j 14 (max p0 (j.toNat + 32)), false) }

/-- The floor of a finite value. -/
def floorOf (neg : Bool) (m : Nat) (e : Int) : Int :=
  let x := shiftFloor m e
  if neg then (if x.2 then -(x.1 : Int) else -(x.1 : Int) - 1) else x.1
/-- A finite value is an integer. -/
def isWhole (m : Nat) (e : Int) : Bool := (shiftFloor m e).2

/-- 2^a (R168): exact for an integer. -/
def exp2Exact (neg : Bool) (m : Nat) (e : Int) : Exact :=
  let n := floorOf neg m e
  if isWhole m e then .real false (Mag.dyadic 1 n)
  else
    let g : Refine := fun p =>
      -- the fraction a - n in steps of 2^(-p), then e^(f ln 2)
      let sc := shiftFloor m (e + p)
      let fl : Int := (if neg then -(sc.1 : Int) else (sc.1 : Int)) - n * (2 ^ p : Nat)
      let y := Encl.mul p 0 { c := fl, e := 1 } (ln2 p)
      expSeries p y
    let base := Mag.refined g 96
    .real false { log := n, scale := fun j => if j + n < 0 then (0, false) else base.scale (j + n) }

/-- log2 of a positive value m 2^e (R168): exact for a power of two. -/
def log2Exact (m : Nat) (e : Int) : Exact :=
  let l := Nat.log2 m
  let k : Int := (l : Int) + e
  if m = 2 ^ l then (if k = 0 then .zero false else .real (decide (k < 0)) (Mag.dyadic k.natAbs 0))
  else
    let g : Refine := fun p =>
      -- m / 2^l lies in (1, 2); its logarithm is 2 atanh((m - 2^l) / (m + 2^l)) / ln 2
      let a := atanSeries p 1 (fracEncl p (m - 2 ^ l) (m + 2 ^ l))
      let d := ln2 p
      let q : Encl := { c := 2 * a.c * (2 ^ p : Nat) / d.c, e := 8 * a.e + 8 * d.e + 8 }
      let v : Int := k * (2 ^ p : Nat) + q.c
      { c := v.natAbs, e := q.e }
    .real (decide (k < 0)) (Mag.refined g 96)

/-- sin y for 0 ≤ y < 1. -/
def sinSeries (p : Nat) (y : Encl) : Encl :=
  let y2 := -(y.c * y.c / (2 ^ p : Nat))
  { c := seriesGo p y2 (fun k => (2 * k + 2) * (2 * k + 3)) (p + 8) 0 y.c y.c, e := 2 * y.e + 8 * p + 64 }
/-- cos y for 0 ≤ y < 1. -/
def cosSeries (p : Nat) (y : Encl) : Encl :=
  let y2 := -(y.c * y.c / (2 ^ p : Nat))
  { c := seriesGo p y2 (fun k => (2 * k + 1) * (2 * k + 2)) (p + 8) 0 (2 ^ p : Nat) (2 ^ p : Nat), e := 2 * y.e + 8 * p + 64 }

/-- sin(pi m 2^e) for 0 < m 2^e ≤ 1/2. -/
def sinQuarter (m : Nat) (e : Int) : Exact :=
  -- 1/2 exactly gives 1; 1/6 is no dyadic fraction, so every other value is no fraction
  let d : Int := (Nat.log2 m : Int) + e
  if m = 2 ^ Nat.log2 m ∧ d = -1 then .real false (Mag.dyadic 1 0)
  else
    let den : Nat := (-e).toNat
    let g : Refine := fun p =>
      let num : Nat := (shiftFloor m e).1 * 2 ^ den + m % 2 ^ den
      -- the angle, or its complement to 1/2 where it exceeds 1/4
      if 4 * num ≤ 2 ^ den then sinSeries p (Encl.mul p 2 (fracEncl p num (2 ^ den)) (piEncl p))
      else cosSeries p (Encl.mul p 2 (fracEncl p (2 ^ den - 2 * num) (2 ^ (den + 1))) (piEncl p))
    .real false (Mag.refined g (96 + (-d).toNat))

/-- The result with its sign reversed. -/
def Exact.negate : Exact → Exact
  | .nan => .nan
  | .inf s => .inf (!s)
  | .zero s => .zero (!s)
  | .real s m => .real (!s) m

/-- sin(pi a) of a finite value (R168, R169): a zero with the sign of a where a is an integer. -/
def sinPi (neg : Bool) (m : Nat) (e : Int) : Exact :=
  if isWhole m e then .zero neg
  else
    -- a mod 2 as num / 2^den
    let den := (-e).toNat
    let num := m % 2 ^ (den + 1)
    let upper := decide (2 ^ den < num)
    let r := if upper then num - 2 ^ den else num
    let q := if 2 ^ den < 2 * r then 2 ^ den - r else r
    let v := sinQuarter q (-(den : Int))
    if neg != upper then v.negate else v

/-- cos(pi a) of a finite value (R168, R169): +0 at odd multiples of 1/2. -/
def cosPi (m : Nat) (e : Int) : Exact :=
  if isWhole m e then
    .real (decide ((shiftFloor m e).1 % 2 = 1)) (Mag.dyadic 1 0)
  else
    let den := (-e).toNat
    -- |a| mod 2, reflected to [0, 1]; then 1/2 - |a| gives the sine
    let num := m % 2 ^ (den + 1)
    let r := if 2 ^ den < num then 2 ^ (den + 1) - num else num
    if 2 * r = 2 ^ den then .zero false
    else if 2 * r < 2 ^ den then sinQuarter (2 ^ den - 2 * r) (-((den + 1 : Nat) : Int))
    else (sinQuarter (2 * r - 2 ^ den) (-((den + 1 : Nat) : Int))).negate

/-- Repeated squaring of an enclosure of a value in [0, 1]. -/
def squareGo (p : Nat) : Nat → Encl → Encl
  | 0, x => x
  | n + 1, x => squareGo p n (Encl.mul p 0 x x)

/-- e^(-y) for y = m 2^e ≥ 0, in steps of 2^(-p). -/
def expNeg (p : Nat) (m : Nat) (e : Int) : Encl :=
  let d : Int := (Nat.log2 m : Int) + e
  let s := (d + 2).toNat
  let y : Encl := { c := -((shiftFloor m (e + p - s)).1 : Int), e := 1 }
  squareGo p s (expSeries p y)

/-- tanh of a finite non-zero magnitude (R168). From 4,096 up it lies closer to 1 than any step that can be asked for. -/
def tanhMag (m : Nat) (e : Int) : Mag :=
  let d : Int := (Nat.log2 m : Int) + e
  if 12 ≤ d then { log := -1, scale := fun j => ((shiftFloor 1 j).1 - (if 0 ≤ j then 1 else 0), false) }
  else
    let g : Refine := fun p =>
      let t := expNeg p m (e + 1)
      { c := ((2 ^ p : Nat) - t.c) * (2 ^ p : Nat) / ((2 ^ p : Nat) + t.c), e := 4 * t.e + 8 }
    Mag.refined g (96 + 3 * (-d).toNat)

/-! ## The functions with their special operands (R169) -/

/-- Square root. -/
def sqrtVal : Val → Exact
  | .nan => .nan
  | .inf s => if s then .nan else .inf false
  | .fin s m e => if m = 0 then .zero s else if s then .nan else .real false (Mag.sqrt m e)
/-- Reciprocal. -/
def rcpVal : Val → Exact
  | .nan => .nan
  | .inf s => .zero s
  | .fin s m e => if m = 0 then .inf s else .real s (Mag.quot 1 m (-e))
/-- Reciprocal square root. -/
def rsqVal : Val → Exact
  | .nan => .nan
  | .inf s => if s then .nan else .zero false
  | .fin s m e => if m = 0 then .inf s else if s then .nan else .real false (Mag.rsqrt m e)
/-- 2^a. -/
def exp2Val : Val → Exact
  | .nan => .nan
  | .inf s => if s then .zero false else .inf false
  | .fin s m e => if m = 0 then .real false (Mag.dyadic 1 0) else exp2Exact s m e
/-- log2 a. -/
def log2Val : Val → Exact
  | .nan => .nan
  | .inf s => if s then .nan else .inf false
  | .fin s m e => if m = 0 then .inf true else if s then .nan else log2Exact m e
/-- sin(pi a). -/
def sinVal : Val → Exact
  | .nan => .nan
  | .inf _ => .nan
  | .fin s m e => if m = 0 then .zero s else sinPi s m e
/-- cos(pi a). -/
def cosVal : Val → Exact
  | .nan => .nan
  | .inf _ => .nan
  | .fin _ m e => if m = 0 then .real false (Mag.dyadic 1 0) else cosPi m e
/-- tanh a. -/
def tanhVal : Val → Exact
  | .nan => .nan
  | .inf s => .real s (Mag.dyadic 1 0)
  | .fin s m e => if m = 0 then .zero s else .real s (tanhMag m e)

/-- e^(-m 2^e) as a magnitude, to be rounded to binary32; 1 at zero. From 256 up it lies below every step of binary32. -/
def expVal (m : Nat) (e : Int) : Mag :=
  let d : Int := (Nat.log2 m : Int) + e
  if m = 0 then Mag.dyadic 1 0
  else if 8 ≤ d then { log := -400, scale := fun _ => (0, false) }
  else
    Mag.refined (fun p => expNeg p m e) (96 + (2 ^ (d + 2).toNat : Nat) * 2)

end Sys2Proof.Machine
end

