-- ==== Sys2Proof/Machine/FormatArith.lean ====
section
/-! DEFINITION. Format arithmetic and special functions, opcodes 0x60 to 0x82 (R160 to R181), and the completion of a special
function (R170). -/

namespace Sys2Proof.Machine

/-! ## Containers of a slot (R92, R93, R96) -/

/-- The container of lane l: one register, or a pair under PACK; the token of the first poisoned register (R92, R96). -/
def Team.readIn (t : Team) (f : Fmt) (r l : Nat) : Except Word Nat :=
  if f.pack then do
    let lo ← t.rv r l
    let hi ← t.rv (r + 1) l
    pure (lo.toNat + hi.toNat * 2 ^ 32)
  else (t.rv r l).map BitVec.toNat
/-- The code of sub-element q of a container (R92). -/
def Fmt.part (f : Fmt) (c q : Nat) : Nat := c / 2 ^ (q * f.w) % 2 ^ f.w
/-- The value of sub-element q of a container. -/
def Fmt.element (f : Fmt) (c q : Nat) : Val := decodeVal f (f.part c q)
/-- The container that holds the codes of its sub-elements, zero above them (R92). -/
def Fmt.container (f : Fmt) (codes : List Nat) : Nat :=
  ((List.range f.count).map fun q => codes.getD q 0 % 2 ^ f.w * 2 ^ (q * f.w)).sum
/-- The registers of an operand of a slot after the lanes for which g answers are written; a token goes to both of a pair (R96). -/
def slotWrites (f : Fmt) (r : Nat) (g : Nat → Option (Except Word Nat)) : List (Nat × (Nat → Option Lane)) :=
  let part (lo l : Nat) : Option Lane := (g l).map fun x => laneOf (x.map fun c => word (c / 2 ^ lo))
  if f.pack then [(r, part 0), (r + 1, part 32)] else [(r, part 0)]
/-- Several vector registers written lane by lane. -/
def Team.wvAll (t : Team) (ws : List (Nat × (Nat → Option Lane))) : Team := ws.foldl (fun t w => t.wv w.1 w.2) t
/-- The hint of an operand of a slot on each of its registers (R44, R93). -/
def Team.slotMarks (t : Team) (n r : Nat) (b : Bool) : List (Nat × Bool) := (t.slotRegs n r).map fun x => (x, b)

/-! ## Element-wise results -/

/-- What one lane receives: a token, or the codes of its sub-elements and what they add to the statistics. -/
abbrev LaneCodes := Except Word (List Nat × Stat)

/-- An exact value encoded into a slot under the effective rounding, SAT and the draw of R160; with the statistics of R98. -/
def Team.enc (t : Team) (n l q : Nat) (x : Exact) : Nat × Stat :=
  let f := t.fmtAt n
  let r := t.rounding n
  let e := encodeVal f r t.sat (if r = 5 then t.draw l q else 0) x
  (e.code, statOf f e)
/-- An exact value encoded into binary32 under the effective rounding of the slot, with its flags alone (R175, R179). -/
def Team.enc32 (t : Team) (l q : Nat) (x : Exact) : Nat × Stat :=
  let r := t.rounding t.slot
  let e := toF32 r t.sat (if r = 5 then t.draw l q else 0) x
  (e.code, statFlags binary32 e)
/-- RDN is the effective rounding of the slot: an exact zero sum is -0 (R161). -/
def Team.down (t : Team) : Bool := t.rounding t.slot == 3
/-- The codes of a lane from the sub-elements of its sources, sources in order (R160, R162). -/
def Team.elementwise (t : Team) (srcs : List Nat) (l : Nat) (op : Nat → List Val → Nat × Stat) : LaneCodes := do
  let f := t.fmtAt t.slot
  let cs ← srcs.mapM fun r => t.readIn f r l
  let rs := (List.range f.count).map fun q =>
    let vs := cs.map fun c => f.element c q
    let e := op q vs
    (e.1, (Stat.all (vs.map statSrc)).join e.2)
  pure (rs.map (·.1), Stat.all (rs.map (·.2)))
/-- The container of a lane's codes. -/
def LaneCodes.lane (f : Fmt) (x : LaneCodes) : Except Word Nat := x.map fun r => f.container r.1
/-- The statistics of a lane. -/
def LaneCodes.stat (x : LaneCodes) : Stat := match x with | .ok r => r.2 | .error _ => Stat.none
/-- The statistics of the active lanes. -/
def Team.laneStats (t : Team) (g : Nat → LaneCodes) : Stat := Stat.all (t.activeLanes.map fun l => (g l).stat)

/-- A format instruction that writes vd in the slot, lane by lane: last-use marks, the registers, the statistics, the count (R160). -/
def slotInstr (i : Instr) (s : State) (vd : Nat) (keep : Bool) (marks : Team → List (Nat × Bool)) (g : Team → Nat → LaneCodes) :
    Host.Outcome State Fault Refusal :=
  issue i s fun slot t =>
    let f := t.fmtAt t.slot
    let ws := slotWrites f vd fun l => if t.active l then some (LaneCodes.lane f (g t l)) else none
    let t1 := (((t.lastUse (marks t)).wvAll ws).addStat t.slot (t.laneStats (g t))).countSr t.slot
    let s1 := (t.slotRegs t.slot vd).foldl (fun s r => s.cacheOperand slot t r keep) (s.dropOperands slot t (marks t))
    s1.done slot t1

/-- The same through the special-function path: vd is empty until the operation completes (R170); the result is that of the operands,
definition, seed and count read at issue (R99). -/
def sfuInstr (i : Instr) (s : State) (vd : Nat) (keep : Bool) (marks : Team → List (Nat × Bool)) (g : Team → Nat → LaneCodes) :
    Host.Outcome State Fault Refusal :=
  issue i s fun slot t =>
    let f := t.fmtAt t.slot
    let ws := slotWrites f vd fun l => if t.active l then some (LaneCodes.lane f (g t l)) else none
    let x := t.laneStats (g t)
    let o : SfuOp := { vd := ws.map fun w => (w.1, (List.range t.lanes).map w.2), slot := t.slot, amax := x.amax, flags := x.flags }
    let t1 := ((t.lastUse (marks t)).mark true (.vec vd ws.length)).countSr t.slot
    let s1 := (t.slotRegs t.slot vd).foldl (fun s r => s.cacheOperand slot t r keep) (s.dropOperands slot t (marks t))
    (s1.addOp slot t (.sfu o)).done slot t1

/-- A lane of a one-operand instruction: each sub-element's exact result encoded into the slot. -/
def Team.map1 (t : Team) (va l : Nat) (op : Val → Exact) : LaneCodes :=
  t.elementwise [va] l fun q vs => t.enc t.slot l q (op (vs.getD 0 .nan))
/-- A lane of a two-operand instruction. -/
def Team.map2 (t : Team) (va vb l : Nat) (op : Val → Val → Exact) : LaneCodes :=
  t.elementwise [va, vb] l fun q vs => t.enc t.slot l q (op (vs.getD 0 .nan) (vs.getD 1 .nan))
/-- A lane of a fused multiply and add: the third operand is vd (R164). -/
def Team.map3 (t : Team) (va vb vd l : Nat) (op : Val → Val → Val → Exact) : LaneCodes :=
  t.elementwise [va, vb, vd] l fun q vs => t.enc t.slot l q (op (vs.getD 0 .nan) (vs.getD 1 .nan) (vs.getD 2 .nan))
/-- Hints of the two sources of an element-wise instruction. -/
def hints2 (va vb : VReg) (la lb : Bool) (t : Team) : List (Nat × Bool) :=
  t.slotMarks t.slot va.toNat la ++ t.slotMarks t.slot vb.toNat lb
/-- Hint of one source. -/
def hints1 (va : VReg) (la : Bool) (t : Team) : List (Nat × Bool) := t.slotMarks t.slot va.toNat la

/-! ## The instructions -/

/-- VADD: a + b (R164). -/
def execVadd (vd va vb : VReg) (la lb keep : Bool) (s : State) : Host.Outcome State Fault Refusal :=
  slotInstr (.vadd vd va vb la lb keep) s vd.toNat keep (hints2 va vb la lb) fun t l => t.map2 va.toNat vb.toNat l fun a b => (sumVals t.down [a, b]).exact
/-- VSUB: a - b (R164). -/
def execVsub (vd va vb : VReg) (la lb keep : Bool) (s : State) : Host.Outcome State Fault Refusal :=
  slotInstr (.vsub vd va vb la lb keep) s vd.toNat keep (hints2 va vb la lb) fun t l => t.map2 va.toNat vb.toNat l fun a b => (sumVals t.down [a, b.negate]).exact
/-- VMUL: a b (R164). -/
def execVmul (vd va vb : VReg) (la lb keep : Bool) (s : State) : Host.Outcome State Fault Refusal :=
  slotInstr (.vmul vd va vb la lb keep) s vd.toNat keep (hints2 va vb la lb) fun t l => t.map2 va.toNat vb.toNat l fun a b => (mulVals a b).exact
/-- VFMA: a b + d, rounded once (R164). -/
def execVfma (vd va vb : VReg) (la lb keep : Bool) (s : State) : Host.Outcome State Fault Refusal :=
  slotInstr (.vfma vd va vb la lb keep) s vd.toNat keep (hints2 va vb la lb) fun t l =>
    t.map3 va.toNat vb.toNat vd.toNat l fun a b d => (sumVals t.down [mulVals a b, d]).exact
/-- VFMS: a b - d (R164). -/
def execVfms (vd va vb : VReg) (la lb keep : Bool) (s : State) : Host.Outcome State Fault Refusal :=
  slotInstr (.vfms vd va vb la lb keep) s vd.toNat keep (hints2 va vb la lb) fun t l =>
    t.map3 va.toNat vb.toNat vd.toNat l fun a b d => (sumVals t.down [mulVals a b, d.negate]).exact
/-- VFNMA: d - a b (R164). -/
def execVfnma (vd va vb : VReg) (la lb keep : Bool) (s : State) : Host.Outcome State Fault Refusal :=
  slotInstr (.vfnma vd va vb la lb keep) s vd.toNat keep (hints2 va vb la lb) fun t l =>
    t.map3 va.toNat vb.toNat vd.toNat l fun a b d => (sumVals t.down [d, (mulVals a b).negate]).exact
/-- VMIN (R165). -/
def execVmin (vd va vb : VReg) (la lb keep : Bool) (s : State) : Host.Outcome State Fault Refusal :=
  slotInstr (.vmin vd va vb la lb keep) s vd.toNat keep (hints2 va vb la lb) fun t l => t.map2 va.toNat vb.toNat l fun a b => (minVal a b).exact
/-- VMAX (R165). -/
def execVmax (vd va vb : VReg) (la lb keep : Bool) (s : State) : Host.Outcome State Fault Refusal :=
  slotInstr (.vmax vd va vb la lb keep) s vd.toNat keep (hints2 va vb la lb) fun t l => t.map2 va.toNat vb.toNat l fun a b => (maxVal a b).exact
/-- VMINM (R165). -/
def execVminm (vd va vb : VReg) (la lb keep : Bool) (s : State) : Host.Outcome State Fault Refusal :=
  slotInstr (.vminm vd va vb la lb keep) s vd.toNat keep (hints2 va vb la lb) fun t l => t.map2 va.toNat vb.toNat l fun a b => (minMag a b).exact
/-- VMAXM (R165). -/
def execVmaxm (vd va vb : VReg) (la lb keep : Bool) (s : State) : Host.Outcome State Fault Refusal :=
  slotInstr (.vmaxm vd va vb la lb keep) s vd.toNat keep (hints2 va vb la lb) fun t l => t.map2 va.toNat vb.toNat l fun a b => (maxMag a b).exact
/-- VABS (R164). -/
def execVabs (vd va : VReg) (la lb keep : Bool) (s : State) : Host.Outcome State Fault Refusal :=
  slotInstr (.vabs vd va la lb keep) s vd.toNat keep (hints1 va la) fun t l => t.map1 va.toNat l fun a => a.abs.exact
/-- VNEG (R164). -/
def execVneg (vd va : VReg) (la lb keep : Bool) (s : State) : Host.Outcome State Fault Refusal :=
  slotInstr (.vneg vd va la lb keep) s vd.toNat keep (hints1 va la) fun t l => t.map1 va.toNat l fun a => a.negate.exact

/-- A value rounded to an integer under a rounding, a zero keeping the sign (R167). -/
def roundWhole (rnd draw : Nat) (v : Val) : Val :=
  match v with
  | .fin s m e =>
    if m = 0 then v
    else .fin s (roundInt rnd draw s (Mag.dyadic m e) 0).natAbs 0
  | v => v
/-- VRND (R167). -/
def execVrnd (vd va : VReg) (la lb keep : Bool) (s : State) : Host.Outcome State Fault Refusal :=
  slotInstr (.vrnd vd va la lb keep) s vd.toNat keep (hints1 va la) fun t l =>
    let r := t.rounding t.slot
    t.elementwise [va.toNat] l fun q vs =>
      t.enc t.slot l q (roundWhole r (if r = 5 then t.draw l q else 0) (vs.getD 0 .nan)).exact
/-- The power of VSCALB. From 8,192 up, in either direction, every format overflows or underflows alike and every wrapped integer is 0,
so the power is cut there. -/
def scalePower (k : Word) : Int := max (-8192) (min 8192 k.toInt)
/-- VSCALB: a 2^k with k the integer in vb's lane (R167). -/
def execVscalb (vd va vb : VReg) (la lb keep : Bool) (s : State) : Host.Outcome State Fault Refusal :=
  slotInstr (.vscalb vd va vb la lb keep) s vd.toNat keep (fun t => hints1 va la t ++ [(vb.toNat, lb)]) fun t l => do
    let _ ← t.readIn (t.fmtAt t.slot) va.toNat l
    let k ← t.rv vb.toNat l
    t.map1 va.toNat l fun a => (a.scale (scalePower k)).exact
/-- VMULHI: bits [W, 2W) of the exact product of two integers (R166). -/
def execVmulhi (vd va vb : VReg) (la lb keep : Bool) (s : State) : Host.Outcome State Fault Refusal :=
  slotInstr (.vmulhi vd va vb la lb keep) s vd.toNat keep (hints2 va vb la lb) fun t l => do
    let f := t.fmtAt t.slot
    let a ← t.readIn f va.toNat l
    let b ← t.readIn f vb.toNat l
    let rs := (List.range f.count).map fun q =>
      let code := f.wrap (((f.element a q).intAt 0 * (f.element b q).intAt 0) / (2 ^ f.w : Nat))
      (code, statOf f { code := code, ovc := false })
    pure (rs.map (·.1), Stat.all (rs.map (·.2)))

/-! ## Division, roots and special functions (R168 to R170) -/

/-- VDIV: a / b (R168). -/
def execVdiv (vd va vb : VReg) (la lb keep : Bool) (s : State) : Host.Outcome State Fault Refusal :=
  sfuInstr (.vdiv vd va vb la lb keep) s vd.toNat keep (hints2 va vb la lb) fun t l => t.map2 va.toNat vb.toNat l divVals
/-- VSQRT (R168, R169). -/
def execVsqrt (vd va : VReg) (la lb keep : Bool) (s : State) : Host.Outcome State Fault Refusal :=
  sfuInstr (.vsqrt vd va la lb keep) s vd.toNat keep (hints1 va la) fun t l => t.map1 va.toNat l sqrtVal
/-- VRCP (R168, R169). -/
def execVrcp (vd va : VReg) (la lb keep : Bool) (s : State) : Host.Outcome State Fault Refusal :=
  sfuInstr (.vrcp vd va la lb keep) s vd.toNat keep (hints1 va la) fun t l => t.map1 va.toNat l rcpVal
/-- VRSQ (R168, R169). -/
def execVrsq (vd va : VReg) (la lb keep : Bool) (s : State) : Host.Outcome State Fault Refusal :=
  sfuInstr (.vrsq vd va la lb keep) s vd.toNat keep (hints1 va la) fun t l => t.map1 va.toNat l rsqVal
/-- VEXP2 (R168, R169). -/
def execVexp2 (vd va : VReg) (la lb keep : Bool) (s : State) : Host.Outcome State Fault Refusal :=
  sfuInstr (.vexp2 vd va la lb keep) s vd.toNat keep (hints1 va la) fun t l => t.map1 va.toNat l exp2Val
/-- VLOG2 (R168, R169). -/
def execVlog2 (vd va : VReg) (la lb keep : Bool) (s : State) : Host.Outcome State Fault Refusal :=
  sfuInstr (.vlog2 vd va la lb keep) s vd.toNat keep (hints1 va la) fun t l => t.map1 va.toNat l log2Val
/-- VSIN (R168, R169). -/
def execVsin (vd va : VReg) (la lb keep : Bool) (s : State) : Host.Outcome State Fault Refusal :=
  sfuInstr (.vsin vd va la lb keep) s vd.toNat keep (hints1 va la) fun t l => t.map1 va.toNat l sinVal
/-- VCOS (R168, R169). -/
def execVcos (vd va : VReg) (la lb keep : Bool) (s : State) : Host.Outcome State Fault Refusal :=
  sfuInstr (.vcos vd va la lb keep) s vd.toNat keep (hints1 va la) fun t l => t.map1 va.toNat l cosVal
/-- VTANH (R168, R169). -/
def execVtanh (vd va : VReg) (la lb keep : Bool) (s : State) : Host.Outcome State Fault Refusal :=
  sfuInstr (.vtanh vd va la lb keep) s vd.toNat keep (hints1 va la) fun t l => t.map1 va.toNat l tanhVal

/-- A special-function result is written (R49, R170): the instructions of a quadrant leave the path in issue order; vd fills, the
statistics update lands. -/
def State.sfuWritten (s : State) (id : Nat) : State :=
  match s.op? id with
  | none => s
  | some o =>
    match o.kind with
    | .sfu f =>
      let quadOf (slot : Nat) : Option Nat := (s.team? slot).map (·.quad)
      let behind := s.ops.any fun p => decide (p.id < o.id ∧ p.core = o.core ∧ quadOf p.slot = quadOf o.slot) &&
        (match p.kind with | .sfu _ => true | _ => false)
      if behind then s
      else (s.dropOp id).onIssuer o fun t =>
        let t1 := f.vd.foldl (fun (t : Team) (w : Nat × List (Option Lane)) =>
          (t.wv w.1 fun l => w.2.getD l none).markV false w.1) t
        t1.addStat f.slot { flags := f.flags, amax := f.amax }
    | _ => s
/-- SFU_RESULT_WRITTEN (R49, R170). -/
def execSfuResultWritten (op : Nat) (s : State) : Host.Outcome State Fault Refusal := .next (s.sfuWritten op)

/-! ## Conversion (R171) -/

/-- One lane of VCVT. -/
def Team.convert (t : Team) (vd va fs p l : Nat) : LaneCodes := do
  let fS := t.fmtAt fs
  let fD := t.fmtAt t.slot
  let a ← t.readIn fS va l
  let old ← if t.cvtMerges fs then t.readIn fD vd l else pure 0
  let ns := fS.count
  let nd := fD.count
  let rs := (List.range nd).map fun q =>
    if ns ≤ nd then
      if p * ns ≤ q ∧ q < p * ns + ns then
        let v := fS.element a (q - p * ns)
        let e := t.enc t.slot l q v.exact
        (e.1, (statSrc v).join e.2)
      else (fD.part old q, Stat.none)
    else
      let v := fS.element a (p * nd + q)
      let e := t.enc t.slot l q v.exact
      (e.1, (statSrc v).join e.2)
  pure (rs.map (·.1), Stat.all (rs.map (·.2)))
/-- VCVT (R171). -/
def execVcvt (vd va : VReg) (fs : BitVec 4) (p : BitVec 3) (la lb keep : Bool) (s : State) : Host.Outcome State Fault Refusal :=
  slotInstr (.vcvt vd va fs p la lb keep) s vd.toNat keep (fun t => t.slotMarks fs.toNat va.toNat la) fun t l =>
    t.convert vd.toNat va.toNat fs.toNat p.toNat l

/-! ## Compare and classify (R172, R173) -/

/-- A format instruction that writes the cond window, lane by lane: the cond bit and whether a NaN was read (R98, R160). -/
def slotCond (i : Instr) (s : State) (marks : Team → List (Nat × Bool)) (g : Team → Nat → Except Word (Bool × Stat)) :
    Host.Outcome State Fault Refusal :=
  issue i s fun slot t =>
    let x := Stat.all (t.activeLanes.map fun l => match g t l with | .ok r => r.2 | .error _ => Stat.none)
    let t1 := (t.lastUse (marks t)).condLanes fun l => if t.active l then some ((g t l).map (·.1)) else none
    (s.dropOperands slot t (marks t)).done slot ((t1.addStat t.slot x).countSr t.slot)

/-- A predicate of VCMP (R172). -/
def comparePred (code : Nat) (a b : Val) : Bool :=
  match code % 8 with
  | 0 => a.eq b
  | 1 => !a.eq b
  | 2 => a.lt b
  | 3 => a.lt b || a.eq b
  | 4 => b.lt a
  | 5 => b.lt a || a.eq b
  | 6 => !a.isNan && !b.isNan
  | _ => a.isNan || b.isNan
/-- VCMP (R172). -/
def execVcmp (code : BitVec 7) (va vb : VReg) (la lb keep : Bool) (s : State) : Host.Outcome State Fault Refusal :=
  slotCond (.vcmp code va vb la lb keep) s (hints2 va vb la lb) fun t l => do
    let f := t.fmtAt t.slot
    let a ← t.readIn f va.toNat l
    let b ← t.readIn f vb.toNat l
    let qs := List.range f.count
    let p (q : Nat) : Bool := comparePred code.toNat (f.element a q) (f.element b q)
    let x := Stat.all (qs.map fun q => (statSrc (f.element a q)).join (statSrc (f.element b q)))
    pure (if code.getLsbD 3 then qs.any p else qs.all p, x)
/-- The class of a code (R173). -/
def classOf (f : Fmt) (code : Nat) : Nat :=
  match decodeVal f code with
  | .nan => 0
  | .inf _ => 1
  | .fin s m _ =>
    if m = 0 then 4
    else if !f.isInt && f.sub == 0 && (code >>> f.m) % 2 ^ f.e == 0 then (if s then 3 else 5)
    else if s then 2 else 6
/-- VCLASS (R173). -/
def execVclass (cmask : BitVec 7) (va : VReg) (la lb keep : Bool) (s : State) : Host.Outcome State Fault Refusal :=
  slotCond (.vclass cmask va la lb keep) s (hints1 va la) fun t l => do
    let f := t.fmtAt t.slot
    let a ← t.readIn f va.toNat l
    let qs := List.range f.count
    pure (qs.any fun q => cmask.getLsbD (classOf f (f.part a q)), Stat.all (qs.map fun q => statSrc (f.element a q)))

/-! ## Dot products (R174, R175) -/

/-- The pairwise tree of R174: one level after another, node (t, i) by op t i. -/
def pairUp {α : Type} (op : Nat → α → α → α) : Nat → List α → List α
  | i, a :: b :: r => op i a b :: pairUp op (i + 1) r
  | _, r => r
/-- The levels of the tree from level t. -/
def treeGo {α : Type} (op : Nat → Nat → α → α → α) : Nat → Nat → List α → List α
  | 0, _, xs => xs
  | n + 1, t, xs => if xs.length ≤ 1 then xs else treeGo op n (t + 1) (pairUp (op t) 0 xs)
/-- The result of the tree over a list (R174). -/
def tree {α : Type} (op : Nat → Nat → α → α → α) (xs : List α) : Option α := (treeGo op xs.length 0 xs).head?

/-- The fused dot product of a lane in a float or fixed slot: products and nodes rounded to binary32 under RNE, the addend under the
effective rounding (R175). -/
def Team.dotFloat (t : Team) (l : Nat) (as bs : List Val) (d : Val) : Nat × Stat :=
  let r32 (x : Exact) : Val × Stat :=
    let e := toF32 0 false 0 x
    (decodeVal binary32 e.code, { flags := if e.ovc then flagOvc else 0, amax := 0 })
  let ps := (as.zip bs).map fun p => r32 (mulVals p.1 p.2).exact
  let s := (tree (fun _ _ (x y : Val × Stat) => let z := r32 (sumVals false [x.1, y.1]).exact; (z.1, (x.2.join y.2).join z.2)) ps).getD
    (.fin false 0 0, Stat.none)
  let e := t.enc32 l 0 (sumVals t.down [s.1, d]).exact
  (e.1, (s.2.join e.2).join (Stat.all ((d :: as ++ bs).map statSrc)))
/-- The dot product of a lane in an integer slot (R175). -/
def Team.dotInt (t : Team) (as bs : List Val) (d : Word) : Nat × Stat :=
  let x : Int := ((as.zip bs).map fun p => p.1.intAt 0 * p.2.intAt 0).sum + d.toInt
  let e := encodeInt { fmtOf (builtin 14) with ovf := false } t.sat x
  (e.code, { flags := if e.ovc then flagOvc else 0, amax := 0 })
/-- VDOT (R175). -/
def execVdot (vd va vb : VReg) (la lb keep : Bool) (s : State) : Host.Outcome State Fault Refusal :=
  issue (.vdot vd va vb la lb keep) s fun slot t =>
    let f := t.fmtAt t.slot
    let g (l : Nat) : Except Word (Nat × Stat) := do
      let a ← t.readIn f va.toNat l
      let b ← t.readIn f vb.toNat l
      let d ← t.rv vd.toNat l
      let as := (List.range f.count).map (f.element a)
      let bs := (List.range f.count).map (f.element b)
      pure (if f.isInteger then t.dotInt as bs d else t.dotFloat l as bs (ofF32 d))
    let marks := hints2 va vb la lb t
    let x := Stat.all (t.activeLanes.map fun l => match g l with | .ok r => r.2 | .error _ => Stat.none)
    let t1 := (t.lastUse marks).wv vd.toNat fun l => if t.active l then some (laneOf ((g l).map fun r => word r.1)) else none
    ((s.dropOperands slot t marks).cacheOperand slot t vd.toNat keep).done slot ((t1.addStat t.slot x).countSr t.slot)

/-! ## Reductions and scans (R176, R177) -/

/-- The elements of R176: lane, sub-element, value or token. -/
def Team.elements (t : Team) (va : Nat) : List (Nat × Nat × Except Word Val) :=
  let f := t.fmtAt t.slot
  (t.activeLanes.map fun l => (List.range f.count).map fun q => (l, q, (t.readIn f va l).map fun c => f.element c q)).flatten
/-- The token of the first poisoned element. -/
def firstToken (es : List (Nat × Nat × Except Word Val)) : Option Word :=
  es.findSome? fun e => match e.2.2 with | .error k => some k | .ok _ => none
/-- The value of an element that is not poisoned. -/
def elementVal (e : Nat × Nat × Except Word Val) : Val := match e.2.2 with | .ok v => v | .error _ => .nan
/-- A reduction (R176): the values and the sticky flags of the nodes go through the tree or along the list; the result goes to every
sub-element of every active lane. -/
def reduceInstr (i : Instr) (s : State) (vd va : VReg) (la keep : Bool) (node : Team → Nat → Nat → Val × Stat → Val × Stat → Val × Stat) :
    Host.Outcome State Fault Refusal :=
  issue i s fun slot t =>
    let f := t.fmtAt t.slot
    let es := t.elements va.toNat
    let y : LaneCodes := match firstToken es with
      | some k => .error k
      | none =>
        let r := (tree (node t) (es.map fun e => (elementVal e, Stat.none))).getD (.nan, Stat.none)
        let e := encodeVal f 0 false 0 r.1.exact
        .ok (List.replicate f.count e.code, ((statOf f e).join r.2).join (Stat.all (es.map fun e => statSrc (elementVal e))))
    let x := if es.isEmpty then Stat.none else y.stat
    let marks := hints1 va la t
    let ws := slotWrites f vd.toNat fun l => if t.active l then some (LaneCodes.lane f y) else none
    let t1 := (((t.lastUse marks).wvAll ws).addStat t.slot x).countSr t.slot
    let s1 := (t.slotRegs t.slot vd.toNat).foldl (fun s r => s.cacheOperand slot t r keep) (s.dropOperands slot t marks)
    s1.done slot t1
/-- The sum of two values encoded into the slot, drawing for a lane and sub-element, as a value with the overflow flag alone. -/
def Team.addNode (t : Team) (l q : Nat) (a b : Val) : Val × Stat :=
  let e := t.enc t.slot l q (sumVals t.down [a, b]).exact
  (decodeVal (t.fmtAt t.slot) e.1, { flags := e.2.flags &&& flagOvc, amax := 0 })
/-- VREDADD: the tree of R174, each node encoded into the slot (R176). -/
def execVredadd (vd va : VReg) (la lb keep : Bool) (s : State) : Host.Outcome State Fault Refusal :=
  reduceInstr (.vredadd vd va la lb keep) s vd va la keep fun t lv i a b =>
    let r := t.addNode i lv a.1 b.1
    (r.1, (a.2.join b.2).join r.2)
/-- VREDMAX (R176). -/
def execVredmax (vd va : VReg) (la lb keep : Bool) (s : State) : Host.Outcome State Fault Refusal :=
  reduceInstr (.vredmax vd va la lb keep) s vd va la keep fun _ _ _ a b => (maxVal a.1 b.1, Stat.none)
/-- VREDMIN (R176). -/
def execVredmin (vd va : VReg) (la lb keep : Bool) (s : State) : Host.Outcome State Fault Refusal :=
  reduceInstr (.vredmin vd va la lb keep) s vd va la keep fun _ _ _ a b => (minVal a.1 b.1, Stat.none)

/-- The running value of a scan: the values so far with the token of the first poisoned element, before and after each element, and the
overflow flags (R177). -/
def scanGo (step : Nat → Nat → Val → Val → Val × Stat) :
    Except Word (Option Val) → Stat → List (Nat × Nat × Except Word Val) →
      List (Nat × Nat × Except Word (Option Val) × Except Word (Option Val)) × Stat
  | _, x, [] => ([], x)
  | acc, x, (l, q, v) :: es =>
    let nx : Except Word (Option Val) × Stat := match acc, v with
      | .error k, _ => (.error k, x)
      | .ok _, .error k => (.error k, x)
      | .ok none, .ok b => (.ok (some b), x)
      | .ok (some a), .ok b => let r := step l q a b; (.ok (some r.1), x.join r.2)
    let rest := scanGo step nx.1 nx.2 es
    ((l, q, acc, nx.1) :: rest.1, rest.2)
/-- A scan (R177): inclusive forms put the value after each element, the exclusive one the value before it, a zero at first; a lane one
of whose results is poisoned is poisoned whole. -/
def scanInstr (i : Instr) (s : State) (vd va : VReg) (la keep before : Bool) (step : Team → Nat → Nat → Val → Val → Val × Stat) :
    Host.Outcome State Fault Refusal :=
  issue i s fun slot t =>
    let f := t.fmtAt t.slot
    let es := t.elements va.toNat
    let sc := scanGo (step t) (.ok none) Stat.none es
    let outs : List (Nat × Except Word (Nat × Stat)) := sc.1.map fun r =>
      let v := if before then r.2.2.1 else r.2.2.2
      (r.1, v.map fun o =>
        let e := encodeVal f 0 false 0 (o.getD (.fin false 0 0)).exact
        (e.code, statOf f e))
    let g (l : Nat) : LaneCodes := do
      let rs ← ((outs.filter fun r => r.1 == l).map (·.2)).mapM id
      pure (rs.map (·.1), Stat.all (rs.map (·.2)))
    let x := ((t.laneStats g).join sc.2).join (Stat.all (es.map fun e => match e.2.2 with | .ok v => statSrc v | .error _ => Stat.none))
    let marks := hints1 va la t
    let ws := slotWrites f vd.toNat fun l => if t.active l then some (LaneCodes.lane f (g l)) else none
    let t1 := (((t.lastUse marks).wvAll ws).addStat t.slot x).countSr t.slot
    let s1 := (t.slotRegs t.slot vd.toNat).foldl (fun s r => s.cacheOperand slot t r keep) (s.dropOperands slot t marks)
    s1.done slot t1
/-- VSCAN.add (R177). -/
def execVscanAdd (vd va : VReg) (la lb keep : Bool) (s : State) : Host.Outcome State Fault Refusal :=
  scanInstr (.vscanAdd vd va la lb keep) s vd va la keep false fun t l q a b => t.addNode l q a b
/-- VSCAN.addx (R177). -/
def execVscanAddx (vd va : VReg) (la lb keep : Bool) (s : State) : Host.Outcome State Fault Refusal :=
  scanInstr (.vscanAddx vd va la lb keep) s vd va la keep true fun t l q a b => t.addNode l q a b
/-- VSCAN.max (R177). -/
def execVscanMax (vd va : VReg) (la lb keep : Bool) (s : State) : Host.Outcome State Fault Refusal :=
  scanInstr (.vscanMax vd va la lb keep) s vd va la keep false fun _ _ _ a b => (maxVal a b, Stat.none)
/-- VSCAN.min (R177). -/
def execVscanMin (vd va : VReg) (la lb keep : Bool) (s : State) : Host.Outcome State Fault Refusal :=
  scanInstr (.vscanMin vd va la lb keep) s vd va la keep false fun _ _ _ a b => (minVal a b, Stat.none)

/-! ## Quantise, dequantise, statistics (R178 to R180) -/

/-- VQNT: scaled binary32 lane values packed into the slot (R178). -/
def execVqnt (vd va : VReg) (sb : SReg) (la keep : Bool) (s : State) : Host.Outcome State Fault Refusal :=
  issue (.vqnt vd va sb la keep) s fun slot t =>
    let f := t.fmtAt t.slot
    let n := f.count
    let k := ofF32 (t.rs sb.toNat)
    let src (j q : Nat) : Option (Except Word (Nat × Stat)) :=
      if t.active (j * n + q) then
        some ((t.rv va.toNat (j * n + q)).map fun w =>
          let e := t.enc t.slot j q (mulVals (ofF32 w) k).exact
          (e.1, ((statSrc (ofF32 w)).join (statSrc k)).join e.2))
      else none
    let pk (j : Nat) : Option (Except Word Nat) × Bool :=
      packLanes n f.w (fun q => (src j q).map fun x => x.map (·.1)) (t.readIn f vd.toNat j)
    let stat (j : Nat) : Stat := match (pk j).1 with
      | some (.ok _) => Stat.all ((List.range n).map fun q => match src j q with | some (.ok r) => r.2 | _ => Stat.none)
      | _ => Stat.none
    let marks := [(va.toNat, la)]
    let t1 := (t.lastUse marks).wvAll (slotWrites f vd.toNat fun j => if t.active j then (pk j).1 else none)
    let t2 := t1.condLanes fun j => if t.active j then
        some (match (pk j).1 with | some (.error e) => .error e | _ => .ok (pk j).2) else none
    let t3 := (t2.addStat t.slot (Stat.all (t.activeLanes.map stat))).countSr t.slot
    let s1 := (t.slotRegs t.slot vd.toNat).foldl (fun s r => s.cacheOperand slot t r keep) (s.dropOperands slot t marks)
    s1.done slot t3
/-- VDQNT: sub-elements scaled to binary32 lane values (R179). -/
def execVdqnt (vd va : VReg) (sb : SReg) (la keep : Bool) (s : State) : Host.Outcome State Fault Refusal :=
  issue (.vdqnt vd va sb la keep) s fun slot t =>
    let f := t.fmtAt t.slot
    let n := f.count
    let k := ofF32 (t.rs sb.toNat)
    let r (l : Nat) : Option (Except Word (Nat × Stat)) :=
      if t.active (l / n) then
        some ((t.readIn f va.toNat (l / n)).map fun c =>
          let v := f.element c (l % n)
          let e := t.enc32 l 0 (mulVals v k).exact
          (e.1, (statSrc v).join e.2))
      else none
    let x := Stat.all (t.activeLanes.map fun l => match r l with | some (.ok y) => y.2 | _ => Stat.none)
    let marks := hints1 va la t
    let t1 := (t.lastUse marks).wv vd.toNat fun l => if t.active l then (r l).map fun y => laneOf (y.map fun p => word p.1) else none
    let t2 := t1.condLanes fun l => if t.active l then
        some (match r l with | some (.error e) => .error e | some (.ok _) => .ok true | none => .ok false) else none
    ((s.dropOperands slot t marks).cacheOperand slot t vd.toNat keep).done slot ((t2.addStat t.slot x).countSr t.slot)
/-- VSTAT (R180). -/
def execVstat (va : VReg) (la lb keep : Bool) (s : State) : Host.Outcome State Fault Refusal :=
  issue (.vstat va la lb keep) s fun slot t =>
    let x := Stat.all ((t.elements va.toNat).map fun e => match e.2.2 with
      | .ok v => (match v with
        | .nan => { flags := flagNan, amax := 0 }
        | .inf s => { flags := if s then flagNinf else flagPinf, amax := 0 }
        | v => { flags := 0, amax := magPattern v })
      | .error _ => Stat.none)
    let marks := t.slotMarks t.slot va.toNat la
    (s.dropOperands slot t marks).done slot (((t.lastUse marks).addStat t.slot x).countSr t.slot)

end Sys2Proof.Machine
end

