-- ==== Sys2Proof/Machine/Homes.lean ====
section
/-! DEFINITION. What happens at the homes of words: atomics (R234), synchronisation words and their waiters (R237 to R241), stores
registered, held or sent to peers (R218, R250, R341, R342), commits and the conflicts they find (R249 to R252), failures that come back
with data (R198). -/

namespace Sys2Proof.Machine

/-! ## Words -/

/-- A group's committing write of some bytes discards the younger groups that have marked their sectors (R251). -/
def State.conflicts (s : State) (gid : Nat) (keys : List Nat) : State :=
  match s.group? gid with
  | none => s
  | some g =>
    if (s.part g.part).det then
      let hit := s.groups.filterMap fun e => match e.2 with
        | some x =>
          if x.part = g.part ∧ g.ply.toNat < x.ply.toNat ∧ (keys.any fun k => sget false x.spec.marks (k / 32)) = true then some e.1
          else none
        | none => none
      hit.foldl (fun s h => match s.group? h with
        | some x => s.discard h x.reruns
        | none => s) s
    else s

/-! ## Atomics (R234) -/

/-- The binary32 minimum or maximum of two patterns, re-encoded (R165). -/
def pickF32 (f : Val → Val → Val) (a b : Word) : Word := word (toF32 0 false 0 (f (ofF32 a) (ofF32 b)).exact).code
/-- The new value of a word (R234). -/
def atomNew (fn : AtomFn) (m b c : Word) : Word :=
  match fn with
  | .addI => m + b
  | .addF => addF32 m b
  | .minI => if b.slt m then b else m
  | .minN => if b.ult m then b else m
  | .minF => pickF32 minVal m b
  | .maxI => if m.slt b then b else m
  | .maxN => if m.ult b then b else m
  | .maxF => pickF32 maxVal m b
  | .and => m &&& b
  | .or => m ||| b
  | .xor => m ^^^ b
  | .xch => b
  | .cas => if m = b then c else m
/-- A core's copy of a word goes, and what its record cache holds of it (R206, R219). -/
def State.dropCopy (s : State) (core key : Nat) : State := s.onCore core fun c => c.dropWords [key / 4]
/-- An atomic applied at the home of a word (R224): the state and the old value. -/
def State.atomicAt (s : State) (core : Nat) (fn : AtomFn) (key : Nat) (b c : Word) : State × Word :=
  let m := s.wordAt key
  ((s.homeWrite key (leBytes 4 (atomNew fn m b c).toNat)).dropCopy core key, m)

/-! ## Synchronisation words (R237 to R240) -/

/-- SEMSIG at the home (R238): dropped and counted as an orphan of a partition where a generation is given and differs. -/
def State.signalAt (s : State) (part key : Nat) (gen : Option Word) (n : Word) : State :=
  if gen.isSome && gen != some (s.wordAt (key + 4)) then s.onPart part fun p => { p with orphans := p.orphans + 1 }
  else (s.homeWrite key (leBytes 4 (min ((s.wordAt key).toNat + n.toNat) 0xFFFFFFFF))).grantAt key
/-- A BAR arrival at the home (R240): the state and, where the arrival completes the barrier, the new generation. -/
def State.arriveAt (s : State) (key : Nat) (parties : Nat) : State × Option Word :=
  let count := (s.wordAt key).toNat
  if parties ≤ count + 1 then
    let gen := s.wordAt (key + 4) + 1
    let s1 := s.homeWrite key (leBytes 4 0 ++ leBytes 4 gen.toNat)
    ((s1.semWaiters.filter fun w => w.key == key && w.units.isNone).foldl (fun s w => s.wake w gen) s1, some gen)
  else (s.homeWrite key (leBytes 4 (count + 1)), none)

/-! ## Deterministic mode (R249 to R252) -/

/-- Held bytes of a group registered by its core (R249). -/
def State.registerHeld (s : State) (core : Nat) (held : Sparse (Option Byte)) : State :=
  held.foldl (fun s e => match e.2 with
    | some b => s.registerUnit core { lane := 0, va := 0, bytes := [(e.1, 0xFF, b)], sent := none }
    | none => s) s
/-- A deferred atomic or signal applied at commit (R249, R252). -/
def State.applyDeferred (s : State) (part core : Nat) (d : Deferred) : State :=
  match d with
  | .atom fn key b c => (s.atomicAt core fn key b c).1
  | .peers op fn lanes =>
    let a : AtomOp := { fn := fn, dest := .none, cas2 := false, acquire := false, release := false, once := false,
                        lanes := lanes.map fun x => { lane := 0, va := 0, key := x.1, b := x.2.1, c := x.2.2 } }
    let drop (c : CoreState) : CoreState := c.dropWords (lanes.map (·.1 / 4))
    (s.sendPackets op part ((atomPackets a).filter fun x => !s.cut [x.line.1])).1.onCore core drop
  | .signal key gen n => (s.signalAt part key gen n).dropCopy core key
/-- The keys of a deferred effect. -/
def Deferred.keys : Deferred → List Nat
  | .atom _ key _ _ => [key]
  | .peers _ _ _ => []
  | .signal key _ _ => [key, key + 4]
/-- A group's held stores register and its deferred effects are applied, in program order; younger groups that read what it wrote are
discarded (R249, R251). -/
def State.commit (s : State) (gid : Nat) : State :=
  match s.group? gid with
  | none => s
  | some g =>
    let s1 := s.registerHeld g.core g.spec.held
    let s2 := { s1 with marks := s1.marks.filter fun e => !g.spec.sectors.contains e.1 }
    let s3 := g.spec.deferred.foldl (fun s d => s.applyDeferred g.part g.core d) s2
    let s4 := s3.onGroup gid fun x => { x with spec := { marks := [], held := [], sectors := [], deferred := [] } }
    (s4.conflicts gid ((g.spec.held.map (·.1)) ++ (g.spec.deferred.map Deferred.keys).flatten)).grants
/-- A group that has become oldest runs as in ordinary mode (R249): what it held is committed before its next effect on memory. -/
def State.settleSpec (s : State) (gid : Nat) : State :=
  match s.group? gid with
  | none => s
  | some g => if !s.speculative gid && (!g.spec.held.isEmpty || !g.spec.deferred.isEmpty) then s.commit gid else s
/-- Sectors that a group would add to the speculative state of its core, accesses under way counted, keep it waiting until it is oldest
(R252). -/
def State.specFull (s : State) (gid core : Nat) (keys : List Nat) : Bool :=
  let held := match s.group? gid with | some g => s.groupSectors gid g | none => []
  let new := ((keys.filter specKey).map (· / 32)).eraseDups.filter fun x => !held.contains x
  s.speculative gid && !new.isEmpty && decide (Config.speculativeSectors < s.specSectors core + new.length)
/-- What an engine of a group reads, as the state t after it shows, would take its core's speculative state beyond its bound: it waits until
the group is oldest (R250, R252). -/
def State.specOver (s : State) (gid core : Nat) (t : State) : Bool :=
  s.speculative gid && decide (Config.speculativeSectors < t.specSectors core ∧ s.specSectors core < t.specSectors core)

/-! ## Stores to peers (R340 to R342) -/

/-- The first key of a unit. -/
def StoreUnit.key (u : StoreUnit) : Nat := match u.bytes with | e :: _ => e.1 | [] => 0
/-- A unit goes to a peer. -/
def StoreUnit.peer (u : StoreUnit) : Bool := keyPath u.key == 4
/-- The peer units of a store sent: one packet for each line, in the order of the lowest lane it holds (R340); a unit to a destination
that is declared unreachable is not sent, it fails (R344). -/
def State.sendStore (s : State) (o : Op) (st : StoreOp) : State :=
  let news (u : StoreUnit) : Bool := u.peer && u.sent.isNone && !s.cut [(peerOf u.key).1]
  let out := storePackets (st.units.filter news)
  let r := s.sendPackets o.id o.part out
  let us := st.units.map fun u =>
    if news u then { u with sent := ((out.zip r.2).find? fun p => p.1.line == peerOf u.key).map (·.2) } else u
  r.1.setOp { o with kind := .store { st with units := us } }
/-- The packets of a no-return atomic or of a signal sent (R342), but those to a destination that is declared unreachable, which fail (R344). -/
def State.sendCounted (s : State) (o : Op) (out : List Outgoing) : State :=
  let r := s.sendPackets o.id o.part (out.filter fun x => !s.cut [x.line.1])
  r.1.setOp { o with sent := r.2, lost := o.lost ++ s.cutOf out }

/-! ## Releases (R222) -/

/-- A release with nothing of its team before it but releases that the router holds takes the counts of the router it must wait for, at least
those of the release it stands behind (R222, R342). Where there are any, the router must have room for one release more (R343); a command
waits for them itself (R245). -/
def State.hand (s : State) (o : Op) : State × Op :=
  let now := s.snapshot o.part
  let snap := if now.isEmpty then s.heldBefore o else now
  let command := match o.kind with | .command _ => true | _ => false
  if o.releases && !o.handed && s.handable o && (command || snap.isEmpty || !s.routerFull o.part) then
    let o1 := { o with handed := true, snapshot := snap }
    (s.setOp o1, o1)
  else (s, o)
/-- Nothing holds an operation back: neither its team's earlier operations nor, for a release, the counts it waits for. -/
def State.ready (s : State) (o : Op) : Bool := s.free o && (!o.releases || (o.handed && s.acked o))

/-- The packets of an operation that asks a peer leave once nothing holds it back; a returning atomic of a speculative group waits until it
is oldest (R252). -/
def State.askPeers (s : State) (id : Nat) : State :=
  match s.op? id with
  | none => s
  | some o =>
    let waits := match o.kind with | .atom _ => s.speculative o.gid | _ => false
    if s.mustAsk o && s.ready o && !waits then s.sendQuestions o else s

/-! ## Stores performed -/

/-- A store unit performed: registered, which in a deterministic partition commits it, or held by a speculative group (R218, R250). What
a peer holds is not kept here; the copies of its words in the issuing core's L1 are brought up to date (R339; log entry 79). -/
def State.performUnit (s : State) (o : Op) (u : StoreUnit) : State :=
  if u.peer then s.onCore o.core fun c => c.updateCopies u.bytes
  else
    let cpol := match o.kind with | .store st => st.cpol | _ => 0
    let s1 := (s.settleSpec o.gid).onCore o.core fun c => c.stream cpol (u.bytes.map (·.1 / 4))
    if s1.speculative o.gid && u.bytes.all fun e => specKey e.1 then s1.holdUnit o.gid u
    else (s1.registerUnit o.core u).conflicts o.gid (u.bytes.map (·.1))
/-- Sectors that a store wrote in full lose their mark, at commit where the group is speculative (R193). -/
def State.clearSectors (s : State) (o : Op) (sectors : List Nat) : State :=
  if s.speculative o.gid then s.onGroup o.gid fun g => { g with spec := { g.spec with sectors := g.spec.sectors ++ sectors } }
  else { s with marks := s.marks.filter fun e => !sectors.contains e.1 }
/-- The sectors of a unit. -/
def StoreUnit.sectors (u : StoreUnit) : List Nat := (u.bytes.map (·.1 / 32)).eraseDups
/-- Unit n of a store is performed; with the last one the store returns (R190). -/
def State.unitDone (s : State) (o : Op) (st : StoreOp) (n : Nat) : State :=
  match st.units[n]? with
  | none => s
  | some u =>
    let rest := st.units.eraseIdx n
    let full := u.sectors.filter fun x => st.sectors.contains x && !(rest.any fun v => v.sectors.contains x)
    let s1 := (s.performUnit o u).clearSectors o full
    (if rest.isEmpty then s1.finishOp o else s1.setOp { o with kind := .store { st with units := rest } }).grants
/-- The request of a store's unit has been made: those before it leave a slot (R17, R189). -/
def State.unitRequested (s : State) (o : Op) (u : StoreUnit) : Bool :=
  keyPath u.key == 0 || decide ((o.kind.requests.findIdx fun l => l == u.key / 128) < s.slotsFor o)
/-- A unit may be performed: a peer's when the peer has acknowledged it, another when nothing holds the store back and its request is made; a
speculative group's store to host memory waits until it is oldest (R252). -/
def State.unitReady (s : State) (o : Op) (u : StoreUnit) : Bool :=
  if u.peer then (match u.sent with | some p => !s.unacked o.part [p] | none => false)
  else s.ready o && !(s.speculative o.gid && keyPath u.key == 3) && s.unitRequested o u
/-- Every unit of a store that may be performed and satisfies p is performed; fuel counts the units. -/
def State.performAll (p : StoreUnit → Bool) (id : Nat) : Nat → State → State
  | 0, s => s
  | n + 1, s =>
    match s.op? id with
    | some o =>
      match o.kind with
      | .store st =>
        match st.units.findIdx? fun u => p u && s.unitReady o u with
        | some i => State.performAll p id n (s.unitDone o st i)
        | none => s
      | _ => s
    | none => s
/-- The stores of some operations performed where they may be, in program order (R218). -/
def State.registerWhere (s : State) (which : Op → Bool) (p : StoreUnit → Bool) : State :=
  (s.ops.filter which).foldl (fun s o => match o.kind with
    | .store st => State.performAll p o.id st.units.length s
    | _ => s) s

/-! ## Failures that come back (R198) -/

/-- The scalar and vector registers of a destination. -/
def Dest.sregs : Dest → List Nat
  | .scal r n => (List.range n).map (r + ·)
  | _ => []
/-- The vector registers of a destination. -/
def Dest.vregs : Dest → List Nat
  | .vec r n => (List.range n).map (r + ·)
  | _ => []
/-- What a failure says (R198): its code, whether the peer refused it (R338), the lanes with the lowest one's address, whether the
access was made once for the team, and the rest of the detail word. -/
structure LateFault where
  code : Byte
  refused : Bool
  lanes : List Nat
  va : Dbl
  once : Bool
  detail : Nat
  deriving DecidableEq, Repr

/-- The record of a late failure in the issuing team's ring, and its index. -/
def State.lateRecord (s : State) (o : Op) (f : LateFault) (lane : Nat) (va : Dbl) : State × Nat :=
  s.allocRecord o.slot { code := f.code.toNat, rflags := if f.once then 2 else 0, lane := if f.once then 0 else lane,
                         detail := f.detail + (if f.refused then 2 ^ 10 else 0), pc := o.pc, va := va }
/-- An operation's failure with returning data (R198) is kept to be raised, once for each instruction; that of an access made once for the
team names every lane (R201). -/
def State.pushFailure (s : State) (o : Op) (d : Dest) (store atomic : Bool) (f : LateFault) : State :=
  match s.team? o.slot with
  | none => s
  | some t =>
    if o.orphan || decide (t.group ≠ o.gid) || t.failures.any fun x => x.op == o.id then s
    else
      let r := s.lateRecord o f (f.lanes.headD 0) f.va
      r.1.onTeam o.slot fun t => { t with failures := t.failures ++ [
        { op := o.id, pc := o.pc, code := f.code, vaddr := f.va, token := tokenOf f.code.toNat r.2,
          lanes := if f.once then List.range t.lanes else f.lanes,
          sregs := d.sregs.filter (· != 0), vregs := d.vregs, paths := (t.flight.filter fun x => x.op == o.id).map (·.path),
          store := store, atomic := atomic }] }
/-- An operation fails whole: its destination stays empty and its count does not fall (R198). -/
def State.failOp (s : State) (o : Op) (d : Dest) (store atomic : Bool) (f : LateFault) : State :=
  (s.pushFailure o d store atomic f).dropOp o.id
/-- Unit n of a store fails: the instruction is marked failed, its other units go on (R198). -/
def State.failUnit (s : State) (o : Op) (st : StoreOp) (n : Nat) (f : LateFault) : State :=
  let s1 := s.pushFailure o .none true false f
  let rest := st.units.eraseIdx n
  if rest.isEmpty then s1.dropOp o.id else s1.setOp { o with kind := .store { st with units := rest } }

end Sys2Proof.Machine
end

