-- ==== Sys2Proof/Machine/Memory.lean ====
section
/-! DEFINITION. Memory access instructions, opcodes 0xA0 to 0xBC (R182 to R216), with the return of loads (R47), the performance of
stores (R218) and the eviction of lines (R218). -/

namespace Sys2Proof.Machine

/-! ## Scratchpad banks (R188) -/

/-- The words of the scratchpad that a lane touches with `size` bytes from an offset; 1 and 2 bytes count as the word that holds them. -/
def spadWords (size off : Nat) : List Nat := (List.range (max size 4 / 4)).map (off / 4 + ·)
/-- The passes that some words take together: as many as the busiest bank has distinct words. -/
def bankPasses (ws : List Nat) : Nat :=
  ((List.range Config.spadBanks).map fun b => (ws.eraseDups.filter fun w => w % Config.spadBanks == b).length).foldl max 0
/-- The scratchpad passes of an instruction whose lanes touch `size` bytes each at their offsets (R188, R411): lanes are served in groups of
128 / size, across beats, one after the other. Only its latency depends on them (log entry 13). -/
def spadPasses (size : Nat) (lanes : List (Nat × Nat)) : Nat :=
  let n := 128 / max size 4
  let groups := lanes.foldl (fun m p => max m (p.1 / n + 1)) 0
  ((List.range groups).map fun g => bankPasses (((lanes.filter fun p => p.1 / n == g).map fun p => spadWords size p.2).flatten)).sum

/-! ## Issue of a load -/

/-- The result of a body that changed the state before the team moves on. -/
def State.moveOn (s : State) (slot : Nat) (f : Team → Team) : Host.Outcome State Fault Refusal :=
  .next (s.onTeam slot fun t => (f t).advance)
/-- Registers that an access of some bytes covers (R194). -/
def regsOf (size : Nat) : Nat := if size ≤ 4 then 1 else size / 4
/-- The accesses of checked lanes: keys, the token of check 1, or the token of a record allocated for a later failure (R196). -/
def accessesOf : List LaneCheck → List Nat → List Access
  | [], _ => []
  | c :: cs, idx =>
    match c.res with
    | .token k => { lane := c.lane, va := BitVec.ofNat 64 c.va, keys := [], token := some k } :: accessesOf cs idx
    | .fails code _ =>
      { lane := c.lane, va := BitVec.ofNat 64 c.va, keys := [], token := some (tokenOf code (idx.headD 0)) } :: accessesOf cs idx.tail
    | .ok keys _ => { lane := c.lane, va := BitVec.ofNat 64 c.va, keys := keys, token := none } :: accessesOf cs idx
/-- A load is under way: its destination is empty, it counts on its paths, and its peer lanes' packets leave (R47, R190, R340). -/
def State.startLoad (s : State) (slot : Nat) (t : Team) (l : LoadOp) (paths : List Nat) (marks : List (Nat × Bool)) :
    Host.Outcome State Fault Refusal :=
  (((s.dropOperands slot t marks).addOp slot t (.load l)).askPeers s.nextId).moveOn slot fun u =>
    ((u.lastUse marks).mark true l.dest).launchOn s.nextId paths
/-- A vector load, plain (R195) or speculative (R196). -/
def vectorLoad (i : Instr) (s : State) (spec : Bool) (size : Nat) (vd va : VReg) (sb : SReg) (la keep : Bool) :
    Host.Outcome State Fault Refusal :=
  memInstr i s fun slot t =>
    let cs := s.checkLanes t .read size (laneAddr t sb.toNat va.toNat)
    let paths := pathsOf cs
    let keys := (cs.map fun c => match c.res with | .ok ks _ => ks | _ => []).flatten
    if t.counterFull paths || s.specFull t.group t.core keys then .next s
    else
      let s1 := s.noteLanes t cs
      if !spec && cs.any LaneCheck.failed then .next (s1.accessFault slot t cs 0 false false size)
      else
        let r := s1.allocRecords slot (recordsOf t cs 0 false spec size)
        r.1.startLoad slot t
          { dest := .vec vd.toNat (regsOf size), size := size, accs := accessesOf cs r.2, buf := none, spec := spec,
            keep := keep, acquire := t.orderAcq, once := false, detail := detailWord 0 0 false spec size } paths [(va.toNat, la)]

/-- LD8 (R195). -/
def execLd8 (vd va : VReg) (sb : SReg) (la keep : Bool) (s : State) : Host.Outcome State Fault Refusal :=
  vectorLoad (.ld8 vd va sb la keep) s false 1 vd va sb la keep
/-- LDS8 (R196). -/
def execLds8 (vd va : VReg) (sb : SReg) (la keep : Bool) (s : State) : Host.Outcome State Fault Refusal :=
  vectorLoad (.lds8 vd va sb la keep) s true 1 vd va sb la keep
/-- LD16 (R195). -/
def execLd16 (vd va : VReg) (sb : SReg) (la keep : Bool) (s : State) : Host.Outcome State Fault Refusal :=
  vectorLoad (.ld16 vd va sb la keep) s false 2 vd va sb la keep
/-- LDS16 (R196). -/
def execLds16 (vd va : VReg) (sb : SReg) (la keep : Bool) (s : State) : Host.Outcome State Fault Refusal :=
  vectorLoad (.lds16 vd va sb la keep) s true 2 vd va sb la keep
/-- LD32 (R195). -/
def execLd32 (vd va : VReg) (sb : SReg) (la keep : Bool) (s : State) : Host.Outcome State Fault Refusal :=
  vectorLoad (.ld32 vd va sb la keep) s false 4 vd va sb la keep
/-- LDS32 (R196). -/
def execLds32 (vd va : VReg) (sb : SReg) (la keep : Bool) (s : State) : Host.Outcome State Fault Refusal :=
  vectorLoad (.lds32 vd va sb la keep) s true 4 vd va sb la keep
/-- LD64 (R195). -/
def execLd64 (vd va : VReg) (sb : SReg) (la keep : Bool) (s : State) : Host.Outcome State Fault Refusal :=
  vectorLoad (.ld64 vd va sb la keep) s false 8 vd va sb la keep
/-- LDS64 (R196). -/
def execLds64 (vd va : VReg) (sb : SReg) (la keep : Bool) (s : State) : Host.Outcome State Fault Refusal :=
  vectorLoad (.lds64 vd va sb la keep) s true 8 vd va sb la keep
/-- LD128 (R195). -/
def execLd128 (vd va : VReg) (sb : SReg) (la keep : Bool) (s : State) : Host.Outcome State Fault Refusal :=
  vectorLoad (.ld128 vd va sb la keep) s false 16 vd va sb la keep
/-- LDS128 (R196). -/
def execLds128 (vd va : VReg) (sb : SReg) (la keep : Bool) (s : State) : Host.Outcome State Fault Refusal :=
  vectorLoad (.lds128 vd va sb la keep) s true 16 vd va sb la keep

/-! ## Issue of a store -/

/-- The bits of a byte replaced under a mask, beside what is written already. -/
def mergeBits (old : Byte × Byte) (mask v : Byte) : Byte × Byte := (old.1 ||| mask, (old.2 &&& ~~~mask) ||| (v &&& mask))
/-- A byte write added to the bytes of a unit; a later lane's bits prevail (R197). -/
def mergeByte (bs : List (Nat × Byte × Byte)) (k : Nat) (mask v : Byte) : List (Nat × Byte × Byte) :=
  if bs.any fun e => e.1 == k then bs.map fun e => if e.1 = k then (k, mergeBits e.2 mask v) else e
  else bs ++ [(k, mask, v &&& mask)]
/-- One byte that a lane writes. -/
structure ByteWrite where
  lane : Nat
  va : Dbl
  key : Nat
  mask : Byte
  val : Byte
  deriving DecidableEq, Repr
/-- A byte write added to a unit, which has the lane and the address of the lowest lane that writes in it. -/
def StoreUnit.add (u : StoreUnit) (w : ByteWrite) : StoreUnit :=
  { u with lane := min u.lane w.lane, va := if w.lane < u.lane then w.va else u.va, bytes := mergeByte u.bytes w.key w.mask w.val }
/-- A byte write added to the units, one for each word (R217). -/
def addWrite (us : List StoreUnit) (w : ByteWrite) : List StoreUnit :=
  if us.any fun u => u.key / 4 == w.key / 4 then us.map fun u => if u.key / 4 = w.key / 4 then u.add w else u
  else us ++ [{ lane := w.lane, va := w.va, bytes := [(w.key, w.mask, w.val &&& w.mask)], sent := none }]
/-- A unit put behind those of lanes up to its own. -/
def placeUnit (u : StoreUnit) : List StoreUnit → List StoreUnit
  | [] => [u]
  | v :: vs => if u.lane < v.lane then u :: v :: vs else v :: placeUnit u vs
/-- The units of byte writes in the order of the lowest lane of each (R340). -/
def unitsOf (ws : List ByteWrite) : List StoreUnit := (ws.foldl addWrite []).foldl (fun us u => placeUnit u us) []
/-- The sectors whose 32 bytes are all written whole (R193). -/
def fullSectors (us : List StoreUnit) : List Nat :=
  let whole := ((us.map (·.bytes)).flatten.filter fun e => e.2.1 == 0xFF).map (·.1)
  ((whole.map (· / 32)).eraseDups).filter fun x => (List.range 32).all fun i => whole.contains (32 * x + i)
/-- Releases at once to the router and sends peer units where nothing holds the operation back (R222, R341). -/
def State.startStore (s : State) (id : Nat) : State :=
  match s.op? id with
  | none => s
  | some o =>
    let r := s.hand o
    match r.2.kind with
    | .store st =>
      if (st.units.any fun u => u.peer && u.sent.isNone) && r.1.ready r.2 && !r.1.speculative o.gid then r.1.sendStore r.2 st else r.1
    | _ => r.1
/-- A store is under way; one that writes nothing is over at once. -/
def State.issueStore (s : State) (slot : Nat) (t : Team) (ws : List ByteWrite) (once : Bool) (detail : Nat) (paths : List Nat)
    (marks : List (Nat × Bool)) (cpol : Nat := 0) : Host.Outcome State Fault Refusal :=
  let us := unitsOf ws
  let s0 := s.dropOperands slot t marks
  if us.isEmpty then s0.moveOn slot fun u => u.lastUse marks
  else
    let s1 := s0.addOp slot t (.store { units := us, sectors := fullSectors us, release := t.orderRel, once := once, detail := detail, cpol := cpol })
    (s1.startStore s.nextId).moveOn slot fun u => (u.lastUse marks).launchOn s.nextId paths
/-- The bytes of some words. -/
def wordBytes (ws : List Word) : List Byte := (ws.map fun w => leBytes 4 w.toNat).flatten
/-- The first token among a lane's data registers. -/
def dataToken (t : Team) (vd n l : Nat) : Option Word :=
  (List.range n).findSome? fun i => match t.rv (vd + i) l with | .error k => some k | .ok _ => none
/-- The deferred fault of lanes whose address or data is poisoned (R197). -/
def State.poisonFault (s : State) (slot : Nat) (t : Team) (bad : List (Nat × Dbl × Word)) : State :=
  match bad with
  | [] => s
  | b :: _ => s.trap slot { Report.raise b.2.2 (t.lanesMask (bad.map (·.1))) with vaddr := b.2.1 }
/-- The lanes of a store whose address or data is poisoned: lane, address, token. -/
def poisonedLanes (t : Team) (cs : List LaneCheck) (vd n : Nat) : List (Nat × Dbl × Word) :=
  cs.filterMap fun c => match c.res with
    | .token k => some (c.lane, 0, k)
    | _ => (dataToken t vd n c.lane).map fun k => (c.lane, BitVec.ofNat 64 c.va, k)
/-- A vector store (R197). -/
def vectorStore (i : Instr) (s : State) (size : Nat) (vd va : VReg) (sb : SReg) (la : Bool) : Host.Outcome State Fault Refusal :=
  storeInstr i s fun slot t =>
    let cs := s.checkLanes t .write size (laneAddr t sb.toNat va.toNat)
    let paths := pathsOf cs
    let keys := (cs.map fun c => match c.res with | .ok ks _ => ks | _ => []).flatten
    if t.counterFull paths || s.specFull t.group t.core keys then .next s
    else
      let s1 := s.noteLanes t cs
      let bad := poisonedLanes t cs vd.toNat (regsOf size)
      if cs.any LaneCheck.failed then .next (s1.accessFault slot t cs 0 true false size)
      else if !bad.isEmpty then .next (s1.poisonFault slot t bad)
      else
        let ws := (cs.map fun c => match c.res with
          | .ok ks _ =>
            let bs := (wordBytes ((List.range (regsOf size)).map fun j => (t.lane (vd.toNat + j) c.lane).data)).take size
            (ks.zip bs).map fun p =>
              ({ lane := c.lane, va := BitVec.ofNat 64 c.va, key := p.1, mask := 0xFF, val := p.2 } : ByteWrite)
          | _ => []).flatten
        s1.issueStore slot t ws false (detailWord 0 0 true false size) paths [(va.toNat, la)]

/-- ST8 (R197). -/
def execSt8 (vd va : VReg) (sb : SReg) (la keep : Bool) (s : State) : Host.Outcome State Fault Refusal :=
  vectorStore (.st8 vd va sb la keep) s 1 vd va sb la
/-- ST16 (R197). -/
def execSt16 (vd va : VReg) (sb : SReg) (la keep : Bool) (s : State) : Host.Outcome State Fault Refusal :=
  vectorStore (.st16 vd va sb la keep) s 2 vd va sb la
/-- ST32 (R197). -/
def execSt32 (vd va : VReg) (sb : SReg) (la keep : Bool) (s : State) : Host.Outcome State Fault Refusal :=
  vectorStore (.st32 vd va sb la keep) s 4 vd va sb la
/-- ST64 (R197). -/
def execSt64 (vd va : VReg) (sb : SReg) (la keep : Bool) (s : State) : Host.Outcome State Fault Refusal :=
  vectorStore (.st64 vd va sb la keep) s 8 vd va sb la
/-- ST128 (R197). -/
def execSt128 (vd va : VReg) (sb : SReg) (la keep : Bool) (s : State) : Host.Outcome State Fault Refusal :=
  vectorStore (.st128 vd va sb la keep) s 16 vd va sb la

/-! ## Scalar accesses (R201) -/

/-- The address of a scalar access. -/
def scalarAddr (t : Team) (sa sb : SReg) : Nat := (t.rd64 sa.toNat + (t.rs sb.toNat).signExtend 64).toNat
/-- A scalar load: made once for the team (R201). -/
def scalarLoad (i : Instr) (s : State) (size : Nat) (sd sa sb : SReg) : Host.Outcome State Fault Refusal :=
  memInstr i s fun slot t =>
    let va := scalarAddr t sa sb
    let s1 := s.noteLeaves (s.partOf t) [(va, 0)]
    match s.checkAt (s.partOf t) t.group .read size va 0 with
    | .fails code path => .next (s1.teamFault slot t code path va 0 false size)
    | .token _ => .next s
    | .ok keys path =>
      if t.counterFull [path] || s.specFull t.group t.core keys then .next s
      else s1.startLoad slot t
        { dest := .scal sd.toNat (regsOf size), size := size, accs := [{ lane := 0, va := BitVec.ofNat 64 va, keys := keys, token := none }],
          buf := none, spec := false, keep := false, acquire := t.orderAcq, once := true, detail := detailWord 0 0 false false size } [path] []
/-- A scalar store. -/
def scalarStore (i : Instr) (s : State) (size : Nat) (sd sa sb : SReg) : Host.Outcome State Fault Refusal :=
  storeInstr i s fun slot t =>
    let va := scalarAddr t sa sb
    let s1 := s.noteLeaves (s.partOf t) [(va, 0)]
    match s.checkAt (s.partOf t) t.group .write size va 0 with
    | .fails code path => .next (s1.teamFault slot t code path va 0 true size)
    | .token _ => .next s
    | .ok keys path =>
      if t.counterFull [path] || s.specFull t.group t.core keys then .next s
      else
        let bs := wordBytes ((List.range (regsOf size)).map fun j => t.rs (sd.toNat + j))
        let ws := (keys.zip bs).map fun p =>
          ({ lane := 0, va := BitVec.ofNat 64 va, key := p.1, mask := 0xFF, val := p.2 } : ByteWrite)
        s1.issueStore slot t ws true (detailWord 0 0 true false size) [path] []
/-- SLD32 (R201). -/
def execSld32 (sd sa sb : SReg) (s : State) : Host.Outcome State Fault Refusal := scalarLoad (.sld32 sd sa sb) s 4 sd sa sb
/-- SLD64 (R201). -/
def execSld64 (sd sa sb : SReg) (s : State) : Host.Outcome State Fault Refusal := scalarLoad (.sld64 sd sa sb) s 8 sd sa sb
/-- SST32 (R201). -/
def execSst32 (sd sa sb : SReg) (s : State) : Host.Outcome State Fault Refusal := scalarStore (.sst32 sd sa sb) s 4 sd sa sb
/-- SST64 (R201). -/
def execSst64 (sd sa sb : SReg) (s : State) : Host.Outcome State Fault Refusal := scalarStore (.sst64 sd sa sb) s 8 sd sa sb

/-! ## Buffer records (R202, R203) -/

/-- A field of a number: n bits from bit lo. -/
def bitsOf (x lo n : Nat) : Nat := x / 2 ^ lo % 2 ^ n
/-- The record that 320 bits hold (R202). -/
def recordOf (x : Nat) : BufRec :=
  { base := dbl (bitsOf x 0 64), len := bitsOf x 64 48, sx := x.testBit 113, ew := bitsOf x 114 6, fslot := bitsOf x 120 4,
    enc := bitsOf x 124 4, cpol := bitsOf x 130 2, bpol := bitsOf x 132 2, ilv := bitsOf x 134 2, nc := bitsOf x 136 24,
    stride := bitsOf x 160 32, sptr := dbl (bitsOf x 192 64), round := bitsOf x 271 3, smode := bitsOf x 274 2,
    sgrp := bitsOf x 276 4, tstride := bitsOf x 280 24, zp := signedOf 16 (bitsOf x 304 16) }
/-- A record is valid under the team's definitions (R203). -/
def recordValid (t : Team) (x : Nat) : Bool :=
  let r := recordOf x
  let f := t.fmtAt r.fslot
  decide (bitsOf x 112 1 = 0 ∧ bitsOf x 128 2 = 0 ∧ bitsOf x 256 15 = 0 ∧ r.cpol ≠ 3 ∧ r.bpol ≠ 3 ∧ r.round ≠ 5 ∧ r.round ≠ 7 ∧
    r.sgrp < 12 ∧ 1 ≤ r.nc) &&
  match r.enc with
  | 0 => decide ((r.ew = 8 ∨ r.ew = 16 ∨ r.ew = 32) ∧ r.smode = 0 ∧ r.zp = 0)
  | 1 => decide (1 ≤ r.ew ∧ r.ew ≤ 32 ∧ r.smode = 0 ∧ r.zp = 0)
  | 2 => decide (r.ew = f.w) && (decide (r.zp = 0) || f.isInt)
  | 3 => decide (r.ew = f.w ∧ r.smode = 0 ∧ r.zp = 0 ∧ r.ilv = 0)
  | _ => false
/-- The position of an element index (R203). -/
def BufRec.position (b : BufRec) (i : Nat) : Nat :=
  let r := i / b.nc
  let c := i % b.nc
  match b.ilv with
  | 0 => i
  | 1 => r * b.stride + c
  | 2 => c * b.stride + r
  | _ => (r / 32 * b.tstride + c / 32) * 1024 + r % 32 * 32 + c % 32
/-- A position lies in bounds (R203). -/
def BufRec.inside (b : BufRec) (p : Nat) : Bool := decide (p * b.ew + b.ew ≤ 8 * b.len)
/-- The position an element is read from or written to: none where the bounds policy reads or writes nothing, an error where it is a
failed check (R203). -/
def BufRec.place (b : BufRec) (store : Bool) (p : Nat) : Except Unit (Option Nat) :=
  if b.inside p then .ok (some p)
  else if b.bpol = 0 then .error ()
  else if b.bpol = 2 ∧ store = false ∧ b.ew ≤ 8 * b.len then .ok (some (8 * b.len / b.ew - 1))
  else .ok none
/-- The address of the first byte of a position. -/
def BufRec.addr (b : BufRec) (p : Nat) : Nat := (b.base.toNat + p * b.ew / 8) % 2 ^ 64
/-- The bytes a position touches. -/
def BufRec.span (b : BufRec) (p : Nat) : Nat := (p * b.ew % 8 + b.ew + 7) / 8
/-- Address and size of a position's scale (R203). -/
def BufRec.scaleAt (b : BufRec) (p : Nat) : Nat × Nat :=
  let g := p / 2 ^ (b.sgrp + 5)
  match b.smode with
  | 0 => (0, 0)
  | 1 => ((b.sptr.toNat + g) % 2 ^ 64, 1)
  | 2 => ((b.sptr.toNat + 4 * g) % 2 ^ 64, 4)
  | _ => (b.sptr.toNat, 4)

/-- What reading the record of an instruction gives (R206). -/
inductive RecordRead where
  | absent
  | fails (code path : Nat)
  | bits (x : Nat)
  deriving DecidableEq, Repr
/-- The address of record n of a team's table (R361). -/
def Team.recordAddr (t : Team) (n : Nat) : Nat := (t.brtab.toNat / 2 ^ 13 * 2 ^ 13 + 40 * n) % 2 ^ 64
/-- A team's record reads may use the record cache, which holds no scratchpad word and no word as a speculative group reads it (R217,
R250). -/
def State.recordCached (s : State) (t : Team) (key : Nat) : Option Byte :=
  if keyPath key = 0 || s.speculative t.group then none else sget none (s.core t.core).recCache key
/-- A byte of a record, from the record cache or from its home (R206), with the team's own stores that are not registered (R199, R218); a
peer's byte is open (log entry 3). -/
def State.recordByte (s : State) (slot : Nat) (t : Team) (key : Nat) : Byte :=
  s.forward slot t.group s.nextId key (match s.recordCached t key with
    | some b => b
    | none => if keyPath key = 4 then Config.peerByte (s.freeCount * 2 ^ 64 + key) else s.homeByte t.group key)
/-- The record's bytes with the key each lies at, or the failure of the first byte that cannot be read. A range lock does not keep the record
from being read: R206 names what does, and RANGE_LOCKED is not among it (log entry 86). -/
def State.recordKeys (s : State) (t : Team) (va : Nat) : Except (Nat × Nat) (List Nat) :=
  (List.range 40).mapM fun j =>
    match s.resolve (s.partOf t) t.group .read 0 ((va + j) % 2 ^ 64) 64 with
    | .error e => .error e
    | .ok k =>
      if s.marked k.1 && (s.recordCached t k.1).isNone then .error (codeUncorrectable, k.2) else .ok k.1
/-- The record an index names (R206). -/
def State.readRecord (s : State) (slot : Nat) (t : Team) (n : Nat) : RecordRead :=
  if t.brtab.toNat % 2 ^ 13 ≤ n then .absent
  else match s.recordKeys t (t.recordAddr n) with
    | .error e => .fails e.1 e.2
    | .ok ks => .bits (leNat (ks.map (s.recordByte slot t)))
/-- Other teams' stores on the team's core to some words register before it reads them, and a group that has become oldest commits what it
held (R218, R249). -/
def State.registerOthers (s : State) (slot : Nat) (t : Team) (keys : List Nat) : State :=
  let words := keys.map (· / 4)
  (s.registerWhere (fun p => p.core == t.core && (p.slot != slot || p.gid != t.group)) fun u => words.contains (u.key / 4)).settleSpec t.group
/-- A team is where it was: what others' stores committed has not discarded its group (R251). -/
def State.present (s : State) (slot : Nat) (t : Team) : Bool := match s.team? slot with | some u => u.group == t.group | none => false
/-- The keys of the record an index names, where they can be told. -/
def State.recordPlace (s : State) (t : Team) (n : Nat) : List Nat :=
  if t.brtab.toNat % 2 ^ 13 ≤ n then [] else match s.recordKeys t (t.recordAddr n) with
    | .ok ks => ks
    | .error _ => []
/-- The record cache after a record was read at its home (R206): bytes of the scratchpad and what a speculative group reads are not cached
(R217, R250), the team's own unregistered stores neither. The sectors it lay in are marked as read by a speculative group. -/
def State.cacheRecord (s : State) (t : Team) (n : Nat) : State :=
  match s.recordKeys t (t.recordAddr n) with
  | .error _ => s
  | .ok ks =>
    let own (k : Nat) : Byte := match s.recordCached t k with
      | some b => b
      | none => if keyPath k = 4 then Config.peerByte (s.freeCount * 2 ^ 64 + k) else s.homeByte t.group k
    let s1 := if s.speculative t.group then s else s.onCore t.core fun c =>
      { c with recCache := (ks.filter fun k => keyPath k != 0).foldl (fun m k => sput none m k (some (own k))) c.recCache }
    ((s1.noteLeaves (s.partOf t) [(t.recordAddr n, 64)])).markRead t.group ks

/-- A lane of a buffer access: the token of check 1 or the failure of a later one, with the lane's elements and paths. -/
structure BufLane where
  check : LaneCheck
  elems : List Elem
  paths : List Nat
  deriving DecidableEq, Repr
/-- Rank of a byte's failure in the order of R191: 2 windows and bounds, 4 translation, 5 locks (R207). -/
def checkRank (va code : Nat) : Nat := if code = codeRangeLocked then 5 else if va < 2 ^ 48 then 4 else 2
/-- The failure of the check that comes first, at its lowest address (R207): rank, address, code, path. -/
def worstByte (bs : List (Nat × Checked)) : Option (Nat × Nat × Nat × Nat) :=
  bs.foldl (fun w b => match b.2 with
    | .fails code path =>
      let x := (checkRank b.1 code, b.1, code, path)
      match w with
      | none => some x
      | some y => if x.1 < y.1 ∨ (x.1 = y.1 ∧ x.2.1 < y.2.1) then some x else some y
    | _ => w) none
/-- The checks of the n bytes from an address (R207). -/
def State.checkBytes (s : State) (t : Team) (perm : Perm) (va n salt : Nat) : List (Nat × Checked) :=
  (List.range n).map fun j => let a := (va + j) % 2 ^ 64; (a, s.checkAt (s.partOf t) t.group perm 1 a salt)
/-- The keys of bytes that passed. -/
def keysOf (bs : List (Nat × Checked)) : List Nat := (bs.map fun b => match b.2 with | .ok ks _ => ks | _ => []).flatten
/-- The paths of bytes that passed. -/
def bytePaths (bs : List (Nat × Checked)) : List Nat := bs.filterMap fun b => match b.2 with | .ok _ p => some p | _ => none
/-- One lane of a buffer access (R203, R207). -/
def State.bufLane (s : State) (t : Team) (b : BufRec) (store : Bool) (va l : Nat) : BufLane :=
  match t.rv va l with
  | .error k => { check := { lane := l, va := 0, res := .token k }, elems := [], paths := [] }
  | .ok w =>
    let n := if b.enc = 3 then (t.fmtAt b.fslot).count else 1
    let ps := (List.range n).map fun q => b.position (w.toNat * n + q)
    let perm := if store then Perm.write else Perm.read
    match ps.filter (fun p => match b.place store p with | .error _ => true | .ok _ => false) with
    | p :: _ =>
      let path := match s.checkAt (s.partOf t) t.group perm 1 (b.addr p) l with | .fails _ x => x | .ok _ x => x | .token _ => 15
      { check := { lane := l, va := b.addr p, res := .fails codeOutOfBounds path }, elems := [], paths := [] }
    | [] =>
      let rows := (List.range n).map fun q =>
        match b.place store (ps.getD q 0) with
        | .ok (some p) =>
          let sc := b.scaleAt p
          (q, some p, s.checkBytes t perm (b.addr p) (b.span p) l, s.checkBytes t .read sc.1 sc.2 l)
        | _ => (q, none, [], [])
      let all := (rows.map fun r => r.2.2.1 ++ r.2.2.2).flatten
      let elems := rows.map fun r => match r.2.1 with
        | some p => ({ lane := l, q := r.1, va := BitVec.ofNat 64 (b.addr p), keys := keysOf r.2.2.1, bit := p * b.ew % 8,
                       scale := keysOf r.2.2.2, scaleVa := BitVec.ofNat 64 (b.scaleAt p).1 } : Elem)
        | none => { lane := l, q := r.1, va := 0, keys := [], bit := 0, scale := [] }
      match worstByte all with
      | some x => { check := { lane := l, va := x.2.1, res := .fails x.2.2.1 x.2.2.2 }, elems := [], paths := [] }
      | none =>
        { check := { lane := l, va := match elems.find? (fun e => !e.keys.isEmpty) with | some e => e.va.toNat | none => 0,
                     res := .ok [] 0 }, elems := elems, paths := (bytePaths all).eraseDups }
/-- The lanes of an access to a record that the table does not hold (R206): address and width are open (log entry 3). -/
def State.absentLanes (s : State) (t : Team) (va : Nat) : List BufLane :=
  t.activeLanes.map fun l => match t.rv va l with
    | .error k => { check := { lane := l, va := 0, res := .token k }, elems := [], paths := [] }
    | .ok _ => { check := { lane := l, va := (Config.openAddress s.freeCount).toNat, res := .fails codeOutOfBounds 15 },
                 elems := [], paths := [] }
/-- The team has an acquire that is not performed: a read it would make at issue waits (R221). -/
def State.acquiring (s : State) (slot gid : Nat) : Bool := s.ops.any fun o => o.slot == slot && o.gid == gid && o.acquires
/-- A buffer access from the reading of its record, which waits for the team's earlier acquires (R221) and, in a speculative group, for room
for the sectors it marks (R252), to its checked lanes (R206, R207). -/
def bufInstr (i : Instr) (s0 : State) (write : Bool) (vd va : VReg) (sb : SReg)
    (body : State → Nat → Team → Option BufRec → List BufLane → Host.Outcome State Fault Refusal) : Host.Outcome State Fault Refusal :=
  (if write then storeInstr else memInstr) i s0 fun slot t =>
    let n := (t.rs sb.toNat).toNat
    let s := s0.registerOthers slot t (s0.recordPlace t n)
    if s0.acquiring slot t.group || s0.specFull t.group t.core (s0.recordPlace t n) then .next s0
    else if !s.present slot t then .next s
    else match s.readRecord slot t n with
    | .absent => body { s with freeCount := s.freeCount + 1 } slot t none (s.absentLanes t va.toNat)
    | .fails code path => .next (s.teamFault slot t code path (t.recordAddr n) n false 40)
    | .bits x =>
      let b := recordOf x
      let s1 := s.cacheRecord t n
      let pair := decide (b.enc = 3) && (t.fmtAt b.fslot).pack
      if !recordValid t x || (pair && (vd.toNat % 2 == 1 || decide (t.nvregs ≤ vd.toNat + 1))) then .next (s.illegal slot)
      else match (if pair then t.failures.find? (fun f => f.hits [] [vd.toNat + 1]) else none) with
        | some f => .next (s.trap slot (f.report t))
        | none =>
          if pair && t.vEmpty (vd.toNat + 1) then .next s0
          else
            let ls := t.activeLanes.map (s.bufLane t b write va.toNat)
            let s2 := s1.noteLeaves (s.partOf t) ((ls.filter fun x => match x.check.res with | .token _ => false | _ => true).map
              fun x => (x.check.va, x.check.lane))
            body s2 slot t (some b) ls
/-- The detail width of a buffer access: the element width, open for a record that is not read. -/
def State.bufWidth (s : State) (b : Option BufRec) : Nat :=
  match b with
  | some r => r.ew
  | none => Config.openWidth s.freeCount
/-- The keys of a buffer access's lanes. -/
def bufKeys (ls : List BufLane) : List Nat := (ls.map fun x => (x.elems.map fun e => e.keys ++ e.scale).flatten).flatten
/-- LDB and LDBS (R207). -/
def bufLoad (i : Instr) (s : State) (spec : Bool) (vd va : VReg) (sb : SReg) (la keep : Bool) : Host.Outcome State Fault Refusal :=
  bufInstr i s false vd va sb fun s1 slot t b ls =>
    let cs := ls.map (·.check)
    let paths := (ls.map (·.paths)).flatten.eraseDups
    let n := (t.rs sb.toNat).toNat
    let w := s1.bufWidth b
    if t.counterFull paths || s.specFull t.group t.core (bufKeys ls) then .next s
    else if !spec && cs.any LaneCheck.failed then .next (s1.accessFault slot t cs n false false w)
    else
      let r := s1.allocRecords slot (recordsOf t cs n false spec w)
      let buf := b.map fun x => (x, t.fdr x.fslot, (ls.map (·.elems)).flatten)
      let pair := match b with
        | some x => decide (x.enc = 3) && (t.fmtAt x.fslot).pack
        | none => false
      r.1.startLoad slot t
        { dest := .vec vd.toNat (if pair then 2 else 1), size := 0, accs := accessesOf cs r.2, buf := buf, spec := spec,
          keep := keep, acquire := t.orderAcq, once := false, detail := detailWord n 0 false spec w } paths [(va.toNat, la)]
/-- LDB (R207). -/
def execLdb (vd va : VReg) (sb : SReg) (la keep : Bool) (s : State) : Host.Outcome State Fault Refusal :=
  bufLoad (.ldb vd va sb la keep) s false vd va sb la keep
/-- LDBS (R207). -/
def execLdbs (vd va : VReg) (sb : SReg) (la keep : Bool) (s : State) : Host.Outcome State Fault Refusal :=
  bufLoad (.ldbs vd va sb la keep) s true vd va sb la keep

/-! ## Conversions of LDB and STB (R204, R205) -/

/-- A scale: E8M0 (NaN at 0xFF) or FP32. -/
def BufRec.scaleVal (b : BufRec) (bs : List Byte) : Val :=
  if b.smode = 1 then (if leNat bs = 255 then .nan else .fin false 1 ((leNat bs : Int) - 127)) else ofF32 (word (leNat bs))
/-- The zero point as a value: ZP 2^(-FRAC). -/
def BufRec.zero (b : BufRec) (f : Fmt) : Val := Val.ofInt b.zp (-(f.frac : Int))
/-- The code of an element in its bytes. -/
def elemCode (ew bit : Nat) (bs : List Byte) : Nat := leNat bs / 2 ^ bit % 2 ^ ew
/-- The word that a load delivers for one element (R204); an element read from no position gives zero (R203). -/
def BufRec.deliverElem (b : BufRec) (f : Fmt) (read : Nat → Byte) (e : Elem) : Word :=
  if e.keys.isEmpty then 0
  else
    let code := elemCode b.ew e.bit (e.keys.map read)
    if b.enc ≠ 2 then (if b.sx then signField b.ew code else word code)
    else
      let v := decodeVal f code
      if f.isInteger && decide (b.smode = 0) then BitVec.ofInt 32 (v.intAt 0 - b.zp)
      else
        let v1 := if b.zp = 0 then v else sumVals false [v, (b.zero f).negate]
        let v2 := if b.smode = 0 then v1 else mulVals v1 (b.scaleVal (e.scale.map read))
        word (toF32 0 false 0 v2.exact).code
/-- The words of a lane: one, or the container of DENSE (R204). -/
def BufRec.deliverLane (b : BufRec) (f : Fmt) (read : Nat → Byte) (es : List Elem) : List Word :=
  if b.enc = 3 then
    let c := f.container (es.map fun e => if e.keys.isEmpty then 0 else elemCode b.ew e.bit (e.keys.map read))
    [word c, word (c / 2 ^ 32)]
  else match es with
    | e :: _ => [b.deliverElem f read e]
    | [] => [0]
/-- x / s + z as an exact value. -/
def quotPlus (x s z : Val) : Exact :=
  if z.isZero then divVals x s
  else match s with
    | .fin _ 0 _ => divVals x s
    | .fin _ _ _ => divVals (sumVals false [x, mulVals z s]) s
    | _ => match divVals x s with
      | .zero _ => z.exact
      | e => e
/-- Exponent of the largest finite magnitude of a format: emax of R205. -/
def Fmt.emax (f : Fmt) : Int :=
  if f.isInt then (Nat.log2 f.maxInt.toNat : Int) - f.frac
  else match decodeVal f f.top with
    | .fin _ m e => (Nat.log2 m : Int) + e
    | _ => 0
/-- The scale chosen for some values (R91). -/
def chooseScale (emax : Int) (vs : List Val) : Nat :=
  if vs.any fun v => v.isNan || v.isInf false || v.isInf true then 255
  else if vs.all Val.isZero then 0
  else
    let m := vs.foldl (fun a v => if a.lt v.abs then v.abs else a) (.fin false 0 0)
    match m with
    | .fin _ n e => (max 0 (min 254 ((Nat.log2 n : Int) + e - emax + 127))).toNat
    | _ => 0
/-- What a FORMAT store writes for x under a scale value, with the overflow it meets (R205). -/
def BufRec.formatEnc (b : BufRec) (f : Fmt) (x : Val) (scale : Val) : Enc :=
  if b.smode = 1 then
    match scale with
    | .nan => encodeVal f 0 true 0 (.zero false)
    | s => encodeVal f 0 true 0 (quotPlus x s (b.zero f))
  else
    let r := if b.round = 6 then (if f.drnd = 5 then 0 else f.drnd) else b.round
    encodeVal f r false 0 (if b.smode = 0 then (sumVals (r == 3) (if b.zp = 0 then [x] else [x, b.zero f])).exact
      else quotPlus x scale (b.zero f))
/-- What a lane stores, as a value (R205). -/
def BufRec.storeVal (b : BufRec) (f : Fmt) (w : Word) : Val :=
  if f.isInteger && decide (b.smode = 0) then Val.ofInt w.toInt 0 else ofF32 w
/-- The byte writes of a code at an element. -/
def codeWrites (ew : Nat) (e : Elem) (code : Nat) : List ByteWrite :=
  (List.range e.keys.length).map fun j =>
    { lane := e.lane, va := e.va, key := e.keys.getD j 0,
      mask := BitVec.ofNat 8 ((2 ^ ew - 1) * 2 ^ e.bit / 2 ^ (8 * j)), val := BitVec.ofNat 8 (code * 2 ^ e.bit / 2 ^ (8 * j)) }
/-- The elements with the scale bytes of one group. -/
def sameScale (es : List Elem) (k : List Nat) : List Elem := es.filter fun e => e.scale == k
/-- What a store writes for one of its elements, with the overflow it meets: `es` are all the elements it writes, `xOf` their values,
`raw` their containers' bits (R205). Under SMODE 1 the values of all the elements enter the scale, also of one that a later lane writes over
(log entry 87). -/
def BufRec.elemEnc (b : BufRec) (f : Fmt) (read : Nat → Byte) (xOf : Elem → Val) (raw : Elem → Nat) (es : List Elem) (e : Elem) : Enc :=
  if b.enc = 3 then { code := raw e / 2 ^ (e.q * b.ew) % 2 ^ b.ew, ovc := false }
  else if b.enc ≠ 2 then { code := raw e % 2 ^ b.ew, ovc := false }
  else b.formatEnc f (xOf e)
    (if b.smode = 0 then .fin false 1 0
     else if b.smode = 1 then
       (let z := chooseScale f.emax ((sameScale es e.scale).map xOf); if z = 255 then .nan else .fin false 1 ((z : Int) - 127))
     else b.scaleVal (e.scale.map read))
/-- The byte writes of a store's elements (R205): the scale bytes that SMODE 1 chooses, each as a write of the first lane that has an element in
its group (R198, R340), then the elements in the order given. -/
def BufRec.writesBy (b : BufRec) (f : Fmt) (read : Nat → Byte) (xOf : Elem → Val) (raw : Elem → Nat) (es : List Elem) : List ByteWrite :=
  let live := es.filter fun e => !e.keys.isEmpty
  let scales := if b.smode = 1 then
      ((live.map (·.scale)).eraseDups.map fun k =>
        let es := sameScale live k
        let lane := (es.map (·.lane)).foldl min (((es.map (·.lane)).headD 0))
        k.map fun x => ({ lane := lane, va := (es.head?.map (·.scaleVa)).getD 0, key := x, mask := 0xFF,
                          val := BitVec.ofNat 8 (chooseScale f.emax (es.map xOf)) } : ByteWrite)).flatten
    else []
  scales ++ (live.map fun e => codeWrites b.ew e (b.elemEnc f read xOf raw live e).code).flatten
/-- The byte writes of an STB (R205) whose lanes hold some data. -/
def BufRec.writes (b : BufRec) (f : Fmt) (read : Nat → Byte) (data : Nat → Nat) (es : List Elem) : List ByteWrite :=
  b.writesBy f read (fun e => b.storeVal f (word (data e.lane))) (fun e => data e.lane) es
/-- The byte writes of a pending STB, once its scales can be read. -/
def PendStore.writes (p : PendStore) (read : Nat → Byte) : List ByteWrite :=
  p.buf.writes (fmtOf p.fd) read (fun l => ((p.data.find? fun x => x.1 == l).map (·.2)).getD 0) p.elems
/-- The elements of an STB with the keys of the scales that the stage reads from memory: those of SMODE 2 and 3 (R205). -/
def PendStore.scales (p : PendStore) : List (Elem × Nat) :=
  if p.buf.smode = 2 ∨ p.buf.smode = 3 then (p.elems.map fun e => e.scale.map fun k => (e, k)).flatten else []
/-- STB (R197, R205, R207). A scale that the stage reads is read at issue, other teams' stores to it on the core registered first (R218); where
one lies at a peer, its packets leave and the store goes on with their answer (R340). -/
def execStb (vd va : VReg) (sb : SReg) (la keep : Bool) (s : State) : Host.Outcome State Fault Refusal :=
  bufInstr (.stb vd va sb la keep) s true vd va sb fun s1 slot t b ls =>
    let cs := ls.map (·.check)
    let paths := (ls.map (·.paths)).flatten.eraseDups
    let n := (t.rs sb.toNat).toNat
    let w := s1.bufWidth b
    let pair := match b with
      | some x => decide (x.enc = 3) && (t.fmtAt x.fslot).pack
      | none => false
    let bad := poisonedLanes t cs vd.toNat (if pair then 2 else 1)
    if t.counterFull paths || s.specFull t.group t.core (bufKeys ls) then .next s
    else if cs.any LaneCheck.failed then .next (s1.accessFault slot t cs n true false w)
    else if !bad.isEmpty then .next (s1.poisonFault slot t bad)
    else
      let data (l : Nat) : Nat := (t.lane vd.toNat l).data.toNat + (if pair then (t.lane (vd.toNat + 1) l).data.toNat * 2 ^ 32 else 0)
      let marks := [(va.toNat, la)]
      let detail := detailWord n 0 true false w
      match b with
      | none => s1.moveOn slot fun u => u.lastUse marks
      | some x =>
        let p : PendStore := { buf := x, fd := t.fdr x.fslot, elems := (ls.map (·.elems)).flatten, data := ls.map fun y => (y.check.lane, data y.check.lane) }
        let pending : State := ((s1.dropOperands slot t marks).addOp slot t
          (.store { units := [], sectors := [], release := t.orderRel, once := false, detail := detail, pend := some p, cpol := x.cpol }))
        if p.scales.any fun k => keyPath k.2 == 4 then
          (pending.askPeers s1.nextId).moveOn slot fun u => (u.lastUse marks).launchOn s1.nextId paths
        else
          let scales := p.scales.map (·.2)
          let sr := s1.registerOthers slot t scales
          if !sr.present slot t then .next sr
          else match p.scales.find? fun k => sr.marked k.2 with
            | some k =>
              -- the stage could not read a scale: the instruction is marked failed (R198)
              let s2 := (((sr.dropOperands slot t marks).addOp slot t
                (.store { units := [], sectors := [], release := false, once := false, detail := detail }))).onTeam slot fun u =>
                  ((u.lastUse marks).launchOn sr.nextId paths).advance
              match s2.op? sr.nextId with
              | some o => .next (s2.failOp o .none true false
                  { code := 0x05, refused := false, lanes := [k.1.lane], va := k.1.va, once := false, detail := detail + keyPath k.2 * 2 ^ 16 })
              | none => .next s2
            | none => (sr.markRead t.group scales).issueStore slot t
                (p.writes fun k => sr.loadByte slot t.group t.core sr.nextId false k) false detail paths marks x.cpol

/-! ## The return of a load -/

/-- The elements of a lane of a load. -/
def LoadOp.elemsOf (l : LoadOp) (lane : Nat) : List Elem :=
  match l.buf with
  | some b => b.2.2.filter fun e => e.lane == lane
  | none => []
/-- The keys a lane reads, in order. -/
def LoadOp.keysOf (l : LoadOp) (a : Access) : List Nat :=
  if a.token.isSome then [] else a.keys ++ ((l.elemsOf a.lane).map fun e => e.keys ++ e.scale).flatten
/-- The words a lane receives. -/
def LoadOp.words (l : LoadOp) (a : Access) (read : Nat → Byte) : List Word :=
  match l.buf with
  | some b => b.1.deliverLane (fmtOf b.2.1) read (l.elemsOf a.lane)
  | none =>
    let x := leNat (a.keys.map read)
    (List.range (regsOf l.size)).map fun i => word (x / 2 ^ (32 * i))
/-- A load's results written and its destination filled (R47, R49). -/
def Team.fill (t : Team) (d : Dest) (rs : List (Nat × Except Word (List Word))) : Team :=
  match d with
  | .none => t
  | .vec r n =>
    let t1 := (List.range n).foldl (fun (t : Team) i => t.wv (r + i) fun l =>
      (rs.find? fun x => x.1 == l).map fun x => laneOf (x.2.map fun ws => ws.getD i 0)) t
    t1.mark false d
  | .scal r n =>
    let ws := match rs with
      | (_, .ok ws) :: _ => ws
      | _ => []
    (t.wsList r ((List.range n).map fun i => ws.getD i 0)).mark false d
/-- The operand cache after an operation's vector results were written (R46): held with keep, dropped without it. -/
def State.cacheResult (s : State) (o : Op) (d : Dest) (keep : Bool) : State :=
  match s.team? o.slot with
  | some t => if o.orphan || decide (t.group ≠ o.gid) then s else d.vregs.foldl (fun s r => s.cacheOperand o.slot t r keep) s
  | none => s
/-- A failure of returning data concerns a byte (R198, R338): of the line whose request failed, at an unreachable or refusing peer, or for
UNCORRECTABLE at the host too. -/
def failHits (f : ReturnFail) (k : Nat) : Bool :=
  f.line == k / 128 && (keyPath k == 4 || (f.code == 0x05 && keyPath k == 3))
/-- A code that may come with returning data (R198). -/
def failOk (f : ReturnFail) : Bool := f.code == 0x05 || f.code == 0x06
/-- The unreachable code, which a declared destination gives every packet (R344). -/
def cutFail : ReturnFail := { code := 0x06, refused := false }
/-- Why a byte that an operation asked for does not come with its data (R193, R198, R338, R344): code, whether the peer refused it, path. -/
def State.byteFailure (s : State) (o : Op) (fails : List ReturnFail) (k : Nat) : Option (Byte × Bool × Nat) :=
  if keyPath k = 4 ∧ o.lost.contains (peerOf k).1 = true then some (0x06, false, 4)
  else match fails.find? fun f => failOk f && failHits f k with
    | some f => some (f.code, f.refused, keyPath k)
    | none => if s.marked k then some (0x05, false, keyPath k) else none
/-- The peer bytes among those an operation asked for that its peers must return. -/
def State.awaited (s : State) (o : Op) (fails : List ReturnFail) (ks : List (Nat × Nat)) : List (Nat × Nat) :=
  ks.filter fun x => keyPath x.2 == 4 && (s.byteFailure o fails x.2).isNone
/-- A return fits what an operation asked for: a byte for each that its peers must return, failures of its own requests only. -/
def State.returnFits (s : State) (o : Op) (ret : LoadReturn) (ks : List (Nat × Nat)) : Bool :=
  decide (ret.peer.length = (s.awaited o ret.fails ks).length) && ret.fails.all fun f => failOk f && ks.any fun x => failHits f x.2
/-- A byte that an operation reads: what a peer returned, or what its core or the home holds (R199, R218, R219). -/
def State.returnedByte (s : State) (o : Op) (got : List (Nat × Nat × Byte)) (copies : Bool) (lane k : Nat) : Byte :=
  let copied := copies && (sget none (s.core o.core).copies (k / 4)).isSome
  if keyPath k = 4 && !copied then
    s.forward o.slot o.gid o.id k (((got.find? fun x => x.1 == lane && x.2.1 == k).map (·.2.2)).getD 0)
  else s.loadByte o.slot o.gid o.core o.id copies k
/-- The bytes that peers returned, with lane and key (R338). -/
def peerBytes (ks : List (Nat × Nat)) (bs : List Byte) : List (Nat × Nat × Byte) := (ks.zip bs).map fun p => (p.1.1, p.1.2, p.2)
/-- Stores of other teams of an operation's core to some words register before it reads them (R218). -/
def State.registerFor (s : State) (o : Op) (keys : List Nat) : State :=
  let words := keys.map (· / 4)
  (s.registerWhere (fun p => p.core == o.core && (p.slot != o.slot || p.gid != o.gid)) fun u => words.contains (u.key / 4)).settleSpec o.gid

/-- The lanes and bytes that a load reads. -/
def LoadOp.reads (l : LoadOp) : List (Nat × Nat) := (l.accs.map fun a => (l.keysOf a).map fun k => (a.lane, k)).flatten
/-- The cache policy of a load (R202). -/
def LoadOp.cpol (l : LoadOp) : Nat := match l.buf with | some b => b.1.cpol | none => 0
/-- The data of a load return (R47, R195, R196, R198). A relaxed load may use the not-owned copies of its core's L1, a peer's too (R219,
R339); what the homes and the peers gave fills copies unless the record's policy forbids it, in lines that are streaming ones where it says so
(R202). A lane fails where a byte of its own does. -/
def State.loadData (s : State) (o : Op) (l : LoadOp) (ret : LoadReturn) : State :=
  let all := l.reads
  let words := (all.map (·.2 / 4)).eraseDups
  let s1 := s.registerFor o (all.map (·.2))
  if (s1.op? o.id).isNone then s1
  else
    let copies := ret.useCopies && !l.acquire && !s1.speculative o.gid
    let copied (k : Nat) : Bool := copies && keyPath k != 0 && (sget none (s1.core o.core).copies (k / 4)).isSome
    let codeOf (a : Access) : Option (Byte × Bool × Nat) :=
      (l.keysOf a).findSome? fun k => if copied k then none else s1.byteFailure o ret.fails k
    let bad := l.accs.filterMap fun a => (codeOf a).map fun c => (a, c)
    let got := peerBytes (s.awaited o ret.fails all) ret.peer
    match l.spec, bad with
    | false, (a, c) :: _ =>
      s1.failOp o l.dest false false
        { code := c.1, refused := c.2.1, lanes := bad.map (·.1.lane), va := a.va, once := l.once, detail := l.detail + c.2.2 * 2 ^ 16 }
    | _, _ =>
      let r := s1.allocRecords o.slot (bad.map fun x =>
        { code := x.2.1.toNat, rflags := 0, lane := x.1.lane, detail := l.detail + x.2.2.2 * 2 ^ 16 + (if x.2.2.1 then 2 ^ 10 else 0),
          pc := o.pc, va := x.1.va })
      let toks := (bad.zip r.2).map fun x => (x.1.1.lane, tokenOf x.1.2.1.toNat x.2)
      let rs := l.accs.map fun a => (a.lane, match a.token with
        | some k => Except.error k
        | none => match toks.find? fun x => x.1 == a.lane with
          | some x => .error x.2
          | none => .ok (l.words a (s1.returnedByte o got copies a.lane)))
      let s2 := ((r.1.finishOp o).onIssuer o fun t => t.fill l.dest rs).cacheResult o l.dest l.keep
      let alloc := decide (l.cpol ≠ 2)
      let stream (c : CoreState) : CoreState := if alloc then c.stream l.cpol words else c
      let s3 := (((s2.onCore o.core stream).fillCopies o.core (words.filter fun w => !copied (4 * w)) alloc).fillPeer o.core
        ((got.filter fun x => !copied x.2.1).map (·.2)) alloc).markRead o.gid (all.map (·.2))
      if l.acquire then s3.acquire o.core else s3
/-- The scales that a pending STB reads have come (R205): its writes are known, or the instruction is marked failed (R198). -/
def State.scaleData (s : State) (o : Op) (st : StoreOp) (p : PendStore) (ret : LoadReturn) : State :=
  let all := p.scales.map fun x => (x.1.lane, x.2)
  let s1 := s.registerFor o (all.map (·.2))
  if (s1.op? o.id).isNone then s1
  else
    let bad := p.scales.filterMap fun x => (s1.byteFailure o ret.fails x.2).map fun c => (x.1, c)
    match bad with
    | (e, c) :: _ => s1.failOp o .none true false
        { code := c.1, refused := c.2.1, lanes := (bad.map (·.1.lane)).eraseDups, va := e.va, once := false, detail := st.detail + c.2.2 * 2 ^ 16 }
    | [] =>
      let got := peerBytes (s.awaited o ret.fails all) ret.peer
      let lane (k : Nat) : Nat := ((all.find? fun x => x.2 == k).map (·.1)).getD 0
      let us := unitsOf (p.writes fun k => s1.returnedByte o got false (lane k) k)
      ((s1.markRead o.gid (all.map (·.2))).setOp { o with
        kind := .store { st with units := us, sectors := fullSectors us, pend := none } }).startStore o.id
/-- Words of a 128-byte line. -/
def lineWords (line : Nat) : List Nat := (List.range 32).map (32 * line + ·)
/-- A line leaves the L1 of a core (R218). -/
def State.dropLines (s : State) (core : Nat) (lines : List Nat) : State :=
  s.onCore core fun c => lines.foldl CoreState.dropLine c
/-- The lines of PREF or CFLUSH are done (R190, R214, R215): what a peer returned whole may fill copies (R339). -/
def State.touchDone (s : State) (o : Op) (lines : List Nat) (flush inv l1 : Bool) (ret : LoadReturn) : State :=
  let inLines (u : StoreUnit) : Bool := lines.contains (u.key / 128)
  if flush then
    let mine (p : Op) : Bool := p.slot == o.slot && p.gid == o.gid && decide (p.id < o.id)
    let s1 := s.registerWhere mine inLines
    let left := s1.ops.any fun p => mine p && (match p.kind with | .store st => st.units.any fun u => inLines u && !u.peer | _ => false)
    if left then s1 else if inv then (s1.finishOp o).dropLines o.core lines else s1.finishOp o
  else if l1 then
    let keys := ((lines.filter fun x => keyPath (128 * x) == 4).map fun x => (List.range 128).map (128 * x + ·)).flatten
    ((s.fillCopies o.core ((lines.map lineWords).flatten) true).fillPeer o.core
      (if ret.peer.length = keys.length && ret.fails.isEmpty then keys.zip ret.peer else []) true).finishOp o
  else s.finishOp o
/-- LOAD_DATA_RETURN (R47). A return that nothing allows yet, or that does not fit what was asked, changes nothing; packets to peers that have
not left leave first; requests that find no slot are made as slots free (R189). -/
def execLoadDataReturn (op : Nat) (ret : LoadReturn) (s : State) : Host.Outcome State Fault Refusal :=
  match s.op? op with
  | none => .next s
  | some o =>
    if !s.free o then .next s
    else if s.mustAsk o then .next (s.sendQuestions o)
    else match s.takeSlots o with
      | some w => .next w
      | none =>
        match o.kind with
        | .load l => .next (if s.returnFits o ret l.reads then s.loadData o l ret else s)
        | .store st =>
          match st.pend with
          | some p => .next (if s.returnFits o ret (p.scales.map fun x => (x.1.lane, x.2)) then s.scaleData o st p ret else s)
          | none => .next s
        | .touch lines flush inv l1 => .next (s.touchDone o lines flush inv l1 ret)
        | _ => .next s

/-! ## Stores performed, lines evicted -/

/-- STORE_PERFORMED (R218): a release is handed over and peer units are sent once nothing holds them; a unit then registers, is held, is
acknowledged, or fails (R198). -/
def execStorePerformed (op unit : Nat) (fail : Option ReturnFail) (s : State) : Host.Outcome State Fault Refusal :=
  let s1 := s.startStore op
  match s1.op? op with
  | none => .next s1
  | some o =>
    match o.kind with
    | .store st =>
      match st.units[unit]? with
      | none => .next s1
      | some u =>
        let cut := u.peer && s1.cut [(peerOf u.key).1]
        match (if cut then some cutFail else fail) with
        | some f =>
          if u.peer && (cut || (u.sent.isSome && failOk f)) then
            .next (s1.failUnit o st unit
              { code := f.code, refused := f.refused, lanes := [u.lane], va := u.va, once := st.once,
                detail := st.detail + 4 * 2 ^ 16 })
          else .next s1
        | none => if s1.unitReady o u then .next (s1.unitDone o st unit) else .next s1
    | _ => .next s1
/-- L1_LINE_EVICTION (R218): the line's unregistered stores register where nothing holds them back, and the line goes. -/
def execL1LineEviction (core line : Nat) (s : State) : Host.Outcome State Fault Refusal :=
  .next ((s.registerWhere (fun p => p.core == core) fun u => u.key / 128 == line).dropLines core [line])

/-! ## Poison tests (R209 to R212) -/

/-- Lane l of a register is poisoned or dead. -/
def Team.poisoned (t : Team) (r l : Nat) : Bool := match t.rv r l with | .error _ => true | .ok _ => false
/-- CHK (R209). -/
def execChk (va : VReg) (la lb keep : Bool) (s : State) : Host.Outcome State Fault Refusal :=
  memInstr (.chk va la lb keep) s fun slot t =>
    let bad := t.activeLanes.filterMap fun l => match t.rv va.toNat l with | .error k => some (l, (0 : Dbl), k) | .ok _ => none
    if bad.isEmpty then (s.dropOperands slot t [(va.toNat, la)]).done slot (t.lastUse [(va.toNat, la)])
    else .next (s.poisonFault slot t bad)
/-- CHKB (R210). Its branch prevails over the back edge of a loop whose last word it is, and LC is not counted down, as for every transfer of
control (R130, R131; log entry 71). -/
def execChkb (vd : VReg) (off : BitVec 16) (s : State) : Host.Outcome State Fault Refusal :=
  memInstr (.chkb vd off) s fun slot t =>
    let p0 := maskOf t.beats fun l => t.exec l && t.poisoned vd.toNat l
    if maskEmpty p0 then s.done slot t
    else
      let joins := decide (t.ctl.rpc ≠ t.pc)
      if joins && t.stackFull 1 then .next (s.overflow slot t)
      else
        let s1 := if joins then (s.push slot { kind := .join, pc := t.pc, mask := t.execWindow, rpc := t.ctl.rpc }).setRpc slot t.pc else s
        .next (s1.onTeam slot fun u => (u.setExec p0).goto (branchTo t.pc off))
/-- PTEST (R211). -/
def execPtest (va : VReg) (la lb keep : Bool) (s : State) : Host.Outcome State Fault Refusal :=
  memInstr (.ptest va la lb keep) s fun slot t =>
    let marks := [(va.toNat, la)]
    (s.dropOperands slot t marks).done slot
      ((t.lastUse marks).condLanes fun l => if t.active l then some (.ok (t.poisoned va.toNat l)) else none)
/-- PCLR (R212). -/
def execPclr (vd : VReg) (la lb keep : Bool) (s : State) : Host.Outcome State Fault Refusal :=
  memInstr (.pclr vd la lb keep) s fun slot t =>
    (s.cacheOperand slot t vd.toNat keep).done slot
      (t.wv vd.toNat fun l => if t.active l && t.poisoned vd.toNat l then some Lane.zero else none)

/-! ## Waits, prefetches, flushes (R213 to R215) -/

/-- WAITP (R213): the team stays until the counter is at most sa; a failed instruction whose return it waits for is raised (R198). -/
def execWaitp (path : BitVec 8) (sa : SReg) (s : State) : Host.Outcome State Fault Refusal :=
  memInstr (.waitp path sa) s fun slot t =>
    let fs := t.flight.filter fun f => f.path == path.toNat
    let n := (t.rs sa.toNat).toNat
    if fs.length ≤ n then s.done slot t
    else
      let waits := (fs.take (fs.length - n)).map (·.op)
      match t.failures.find? fun f => waits.contains f.op with
      | some f => .next (s.trap slot (f.report t))
      | none => .next s
/-- PREF: lanes that fail a check, or name the scratchpad, are dropped; peer lanes are sent to their peer (R214, R340). -/
def prefInstr (i : Instr) (s : State) (va : VReg) (sb : SReg) (la l1 : Bool) : Host.Outcome State Fault Refusal :=
  memInstr i s fun slot t =>
    let part := s.partOf t
    let hits := t.activeLanes.filterMap fun l => match laneAddr t sb.toNat va.toNat l with
      | .error _ => none
      | .ok a =>
        match s.resolve part t.group .read 0 a l with
        | .error _ => none
        | .ok k => if k.2 = 0 ∨ s.locked part t.group (a / 128 * 128) 128 false = true then none else some (a, l, k)
    let paths := (hits.map fun h => h.2.2.2).eraseDups
    let marks := [(va.toNat, la)]
    if t.counterFull paths then .next s
    else
      let s1 := (s.noteLeaves part (hits.map fun h => (h.1, h.2.1))).dropOperands slot t marks
      if hits.isEmpty then s1.moveOn slot fun u => u.lastUse marks
      else ((s1.addOp slot t (.touch (hits.map fun h => h.2.2.1 / 128).eraseDups false false l1)).askPeers s.nextId).moveOn slot fun u =>
        (u.lastUse marks).launchOn s.nextId paths
/-- PREF.l1 (R214). -/
def execPrefL1 (va : VReg) (sb : SReg) (la keep : Bool) (s : State) : Host.Outcome State Fault Refusal :=
  prefInstr (.prefL1 va sb la keep) s va sb la true
/-- PREF.l2 (R214). -/
def execPrefL2 (va : VReg) (sb : SReg) (la keep : Bool) (s : State) : Host.Outcome State Fault Refusal :=
  prefInstr (.prefL2 va sb la keep) s va sb la false
/-- CFLUSH: checks 2 and 4 as for a store fault precisely; poisoned lanes and lanes in write-locked ranges are dropped (R192, R215). -/
def cflushInstr (i : Instr) (s : State) (va : VReg) (sb : SReg) (la inv : Bool) : Host.Outcome State Fault Refusal :=
  memInstr i s fun slot t =>
    let part := s.partOf t
    let cs : List LaneCheck := t.activeLanes.map fun l => match laneAddr t sb.toNat va.toNat l with
      | .error k => { lane := l, va := 0, res := .token k }
      | .ok a => { lane := l, va := a, res := match s.resolve part t.group .write 0 a l with
          | .error e => .fails e.1 e.2
          | .ok k => if s.locked part t.group (a / 128 * 128) 128 false then .token 0 else .ok [k.1] k.2 }
    let paths := pathsOf cs
    let marks := [(va.toNat, la)]
    if t.counterFull paths then .next s
    else
      let s1 := s.noteLanes t cs
      if cs.any LaneCheck.failed then .next (s1.accessFault slot t cs 0 true false 128)
      else
        let lines := ((cs.map fun c => match c.res with | .ok ks _ => ks | _ => []).flatten.map (· / 128)).eraseDups
        let s2 := s1.dropOperands slot t marks
        if lines.isEmpty then s2.moveOn slot fun u => u.lastUse marks
        else (s2.addOp slot t (.touch lines true inv false)).moveOn slot fun u => (u.lastUse marks).launchOn s.nextId paths
/-- CFLUSH.wb (R215). -/
def execCflushWb (va : VReg) (sb : SReg) (la keep : Bool) (s : State) : Host.Outcome State Fault Refusal :=
  cflushInstr (.cflushWb va sb la keep) s va sb la false
/-- CFLUSH.inv (R215). -/
def execCflushInv (va : VReg) (sb : SReg) (la keep : Bool) (s : State) : Host.Outcome State Fault Refusal :=
  cflushInstr (.cflushInv va sb la keep) s va sb la true

end Sys2Proof.Machine
end

