-- ==== Sys2Proof/Machine/Sync.lean ====
section
/-! DEFINITION. Atomics, fences, synchronisation words, stage rings and signals, opcodes 0xC0 to 0xCF (R230 to R246), and the
application of an atomic or a signal (R224). -/

namespace Sys2Proof.Machine

/-! ## Issue of an atomic -/

/-- What AADD, AMIN and AMAX compute under AKIND (R232, R234). -/
def Team.kindFn (t : Team) (i n f : AtomFn) : AtomFn := if t.akind = 0 then i else if t.akind = 1 then n else f
/-- The address of a lane in the A format: the pair va:va+1 (R233). -/
def pairAddr (t : Team) (va l : Nat) : Except Word Nat := do
  let lo ← t.rv va l
  let hi ← t.rv (va + 1) l
  pure (hi ++ lo).toNat
/-- An atomic is under way (R47, R190): handed to the router at once where it is a release that nothing holds (R222). -/
def State.startAtomic (s : State) (slot : Nat) (t : Team) (a : AtomOp) (paths : List Nat) (marks : List (Nat × Bool)) :
    Host.Outcome State Fault Refusal :=
  let s1 := (s.dropOperands slot t marks).addOp slot t (.atom a)
  let s2 := match s1.op? s.nextId with
    | some o => (s1.hand o).1
    | none => s1
  (s2.askPeers s.nextId).moveOn slot fun u => ((u.lastUse marks).mark true a.dest).launchOn s.nextId paths
/-- A vector atomic (R233 to R235): n data registers from vb; written with vd equal to va it returns nothing. -/
def vectorAtomic (i : Instr) (s : State) (fn : Team → AtomFn) (n : Nat) (vd va vb : VReg) (la lb : Bool) :
    Host.Outcome State Fault Refusal :=
  storeInstr i s fun slot t =>
    let cs := s.checkLanes t .atomic 4 (pairAddr t va.toNat)
    let paths := pathsOf cs
    let marks := [(va.toNat, la), (va.toNat + 1, la)] ++ (List.range n).map fun j => (vb.toNat + j, lb)
    if t.counterFull paths then .next s
    else
      let s1 := s.noteLanes t cs
      let bad := poisonedLanes t cs vb.toNat n
      if cs.any LaneCheck.failed then .next (s1.accessFault slot t cs 0 true false 4)
      else if !bad.isEmpty then .next (s1.poisonFault slot t bad)
      else if cs.isEmpty then (s1.dropOperands slot t marks).moveOn slot fun u => u.lastUse marks
      else
        let lanes := cs.filterMap fun c => match c.res with
          | .ok (k :: _) _ => some ({ lane := c.lane, va := BitVec.ofNat 64 c.va, key := k, b := (t.lane vb.toNat c.lane).data,
                                      c := (t.lane (vb.toNat + 1) c.lane).data } : AtomLane)
          | _ => none
        s1.startAtomic slot t
          { fn := fn t, dest := if vd = va then .none else .vec vd.toNat 1, cas2 := false, lanes := lanes, acquire := t.orderAcq,
            release := t.orderRel, once := false } paths marks
/-- AADD (R234). -/
def execAadd (vd va vb : VReg) (la lb : Bool) (s : State) : Host.Outcome State Fault Refusal :=
  vectorAtomic (.aadd vd va vb la lb) s (fun t => t.kindFn .addI .addI .addF) 1 vd va vb la lb
/-- AMIN (R234). -/
def execAmin (vd va vb : VReg) (la lb : Bool) (s : State) : Host.Outcome State Fault Refusal :=
  vectorAtomic (.amin vd va vb la lb) s (fun t => t.kindFn .minI .minN .minF) 1 vd va vb la lb
/-- AMAX (R234). -/
def execAmax (vd va vb : VReg) (la lb : Bool) (s : State) : Host.Outcome State Fault Refusal :=
  vectorAtomic (.amax vd va vb la lb) s (fun t => t.kindFn .maxI .maxN .maxF) 1 vd va vb la lb
/-- AAND (R234). -/
def execAand (vd va vb : VReg) (la lb : Bool) (s : State) : Host.Outcome State Fault Refusal :=
  vectorAtomic (.aand vd va vb la lb) s (fun _ => .and) 1 vd va vb la lb
/-- AOR (R234). -/
def execAor (vd va vb : VReg) (la lb : Bool) (s : State) : Host.Outcome State Fault Refusal :=
  vectorAtomic (.aor vd va vb la lb) s (fun _ => .or) 1 vd va vb la lb
/-- AXOR (R234). -/
def execAxor (vd va vb : VReg) (la lb : Bool) (s : State) : Host.Outcome State Fault Refusal :=
  vectorAtomic (.axor vd va vb la lb) s (fun _ => .xor) 1 vd va vb la lb
/-- AXCH (R234). -/
def execAxch (vd va vb : VReg) (la lb : Bool) (s : State) : Host.Outcome State Fault Refusal :=
  vectorAtomic (.axch vd va vb la lb) s (fun _ => .xch) 1 vd va vb la lb
/-- ACAS (R234). -/
def execAcas (vd va vb : VReg) (la lb : Bool) (s : State) : Host.Outcome State Fault Refusal :=
  vectorAtomic (.acas vd va vb la lb) s (fun _ => .cas) 2 vd va vb la lb
/-- The scalar atomic (R236). -/
def scalarAtomic (i : Instr) (s : State) (fn : AtomFn) (sa sd : SReg) : Host.Outcome State Fault Refusal :=
  storeInstr i s fun slot t =>
    let va := (t.rd64 sa.toNat).toNat
    let s1 := s.noteLeaves (s.partOf t) [(va, 0)]
    match s.checkAt (s.partOf t) t.group .atomic 4 va 0 with
    | .fails code path => .next (s1.teamFault slot t code path va 0 true 4)
    | .ok (k :: _) path =>
      if t.counterFull [path] then .next s
      else
        let cas := decide (fn = .cas)
        s1.startAtomic slot t
          { fn := fn, dest := .scal sd.toNat (if cas then 2 else 1), cas2 := cas,
            lanes := [{ lane := 0, va := BitVec.ofNat 64 va, key := k, b := t.rs sd.toNat, c := t.rs (sd.toNat + 1) }],
            acquire := t.orderAcq, release := t.orderRel, once := true } [path] []
    | _ => .next s
/-- SAOP.add (R236). -/
def execSaopAdd (sa sd : SReg) (s : State) : Host.Outcome State Fault Refusal :=
  scalarAtomic (.saopAdd sa sd) s .addI sa sd
/-- SAOP.mini (R236). -/
def execSaopMini (sa sd : SReg) (s : State) : Host.Outcome State Fault Refusal :=
  scalarAtomic (.saopMini sa sd) s .minI sa sd
/-- SAOP.minn (R236). -/
def execSaopMinn (sa sd : SReg) (s : State) : Host.Outcome State Fault Refusal :=
  scalarAtomic (.saopMinn sa sd) s .minN sa sd
/-- SAOP.maxi (R236). -/
def execSaopMaxi (sa sd : SReg) (s : State) : Host.Outcome State Fault Refusal :=
  scalarAtomic (.saopMaxi sa sd) s .maxI sa sd
/-- SAOP.maxn (R236). -/
def execSaopMaxn (sa sd : SReg) (s : State) : Host.Outcome State Fault Refusal :=
  scalarAtomic (.saopMaxn sa sd) s .maxN sa sd
/-- SAOP.and (R236). -/
def execSaopAnd (sa sd : SReg) (s : State) : Host.Outcome State Fault Refusal :=
  scalarAtomic (.saopAnd sa sd) s .and sa sd
/-- SAOP.or (R236). -/
def execSaopOr (sa sd : SReg) (s : State) : Host.Outcome State Fault Refusal :=
  scalarAtomic (.saopOr sa sd) s .or sa sd
/-- SAOP.xor (R236). -/
def execSaopXor (sa sd : SReg) (s : State) : Host.Outcome State Fault Refusal :=
  scalarAtomic (.saopXor sa sd) s .xor sa sd
/-- SAOP.xch (R236). -/
def execSaopXch (sa sd : SReg) (s : State) : Host.Outcome State Fault Refusal :=
  scalarAtomic (.saopXch sa sd) s .xch sa sd
/-- SAOP.cas (R236). -/
def execSaopCas (sa sd : SReg) (s : State) : Host.Outcome State Fault Refusal :=
  scalarAtomic (.saopCas sa sd) s .cas sa sd

/-! ## Fences (R230) -/

/-- Earlier loads and atomics of the team have not returned (R230). -/
def State.loadsPending (s : State) (slot gid : Nat) : Bool :=
  s.ops.any fun o => o.slot == slot && o.gid == gid && (match o.kind with | .load _ => true | .atom _ => true | _ => false)
/-- FENCE.acq (R230). -/
def execFenceAcq (s : State) : Host.Outcome State Fault Refusal :=
  memInstr .fenceAcq s fun slot t =>
    if s.loadsPending slot t.group || s.acquireHeld slot t.group then .next s else (s.acquire t.core).done slot t
/-- A fence that releases: a failed store is raised (R198), then the team stays until the release is performed. -/
def fenceRelease (i : Instr) (s : State) (acq : Bool) : Host.Outcome State Fault Refusal :=
  memInstr i s fun slot t =>
    match t.storeFailed with
    | some f => .next (s.trap slot (f.report t))
    | none =>
      match s.awaitRelease slot t with
      | some w => .next w
      | none =>
        if acq && (s.loadsPending slot t.group || s.acquireHeld slot t.group) then .next s
        else (if acq then s.acquire t.core else s).done slot { t with fence := none }
/-- FENCE.rel (R230). -/
def execFenceRel (s : State) : Host.Outcome State Fault Refusal := fenceRelease .fenceRel s false
/-- FENCE.full (R230). -/
def execFenceFull (s : State) : Host.Outcome State Fault Refusal := fenceRelease .fenceFull s true

/-! ## Synchronisation words (R237 to R241) -/

/-- An instruction on a synchronisation word, with the key of the word once its checks have passed (R241). -/
def syncInstr (i : Instr) (s : State) (sa : SReg) (body : State → Nat → Team → Nat → Host.Outcome State Fault Refusal) :
    Host.Outcome State Fault Refusal :=
  memInstr i s fun slot t =>
    let va := (t.rd64 sa.toNat).toNat
    let s1 := s.noteLeaves (s.partOf t) [(va, 0)]
    match s.checkAt (s.partOf t) t.group .atomic 8 va 0 with
    | .fails code path => .next (s1.teamFault slot t code path va 0 true 8)
    | .ok (k :: _) _ => body s1 slot t k
    | _ => .next s
/-- A signal is under way: a release (R222). -/
def State.startSignal (s : State) (slot : Nat) (t : Team) (g : Signal) (paths : List Nat) : Host.Outcome State Fault Refusal :=
  let s1 := s.addOp slot t (.signal g)
  let s2 := match s1.op? s.nextId with
    | some o => (s1.hand o).1
    | none => s1
  s2.moveOn slot fun u => u.launchOn s.nextId paths
/-- SEMSIG (R238). -/
def execSemsig (sa sb : SReg) (s : State) : Host.Outcome State Fault Refusal :=
  syncInstr (.semsig sa sb) s sa fun s1 slot t k => s1.startSignal slot t (.sem k (t.rd64 sa.toNat) none (t.rs sb.toNat)) []
/-- SEMSIG with a generation (R238). -/
def execSemsigGen (sg sa sb : SReg) (s : State) : Host.Outcome State Fault Refusal :=
  syncInstr (.semsigGen sg sa sb) s sa fun s1 slot t k => s1.startSignal slot t (.sem k (t.rd64 sa.toNat) (some (t.rs sg.toNat)) (t.rs sb.toNat)) []
/-- A word that a speculative group may not wait on or arrive at yet: one outside its scratchpad (R252). -/
def State.syncHeld (s : State) (gid key : Nat) : Bool := s.speculative gid && keyPath key != 0
/-- A team asleep on a word of a peer, whose answer wakes it. -/
def State.sleepPeer (s : State) (slot : Nat) (t : Team) (sd key : Nat) (va : Dbl) (n : Word) (req : SleepReq) : Host.Outcome State Fault Refusal :=
  .next (((s.addOp slot t (.ask (.wake sd key va (req == .bar key) n))).askPeers s.nextId).onTeam slot fun u => { u with request := some req, fence := none })
/-- An earlier access of the team to a synchronisation word is not performed, and the request waits for it (R220); the order of a peer's word
is that of its packets (R341). -/
def State.wordPending (s : State) (slot gid key : Nat) : Bool :=
  s.ops.any fun o => o.slot == slot && o.gid == gid && !o.inFlight && o.kind.keys.any fun k => key / 4 == k / 4 || key / 4 + 1 == k / 4
/-- SEMWAIT (R239): granted at once, or asleep until the home grants it; its grant waits for the team's earlier releases (R223), and its
request for the team's earlier accesses to the word (R220). At a word in a marked sector, of which R193 names loads and atomics only, it acts (log entry 80). -/
def execSemwait (sd sa sb : SReg) (s : State) : Host.Outcome State Fault Refusal :=
  syncInstr (.semwait sd sa sb) s sa fun s1 slot t k =>
    if s.acquireHeld slot t.group || s.syncHeld t.group k || s.wordPending slot t.group k then .next s
    else if keyPath k = 4 then s1.sleepPeer slot t sd.toNat k (t.rd64 sa.toNat) (t.rs sb.toNat) (.sem k)
    else
      let s2 := s1.settleSpec t.group
      let w : SemWaiter := { slot := slot, gid := t.group, part := s.partOf t, key := k, units := some (t.rs sb.toNat), sd := sd.toNat }
      if t.rs sb.toNat = 0 then .next (s2.wake w (s2.wordAt k))
      else
        let s3 : State := { s2.setTeam slot { t with request := some (.sem k) } with semWaiters := s2.semWaiters ++ [w] }
        let s4 := s3.grantAt k
        .next (if s4.wordAt k = s3.wordAt k then s4 else s4.conflicts t.group [k])
/-- BAR (R240): the arrival is a release, the wake an acquire. At a word in a marked sector it acts (log entry 80). -/
def execBar (sd sa sb : SReg) (s : State) : Host.Outcome State Fault Refusal :=
  syncInstr (.bar sd sa sb) s sa fun s1 slot t k =>
    match s1.awaitRelease slot t with
    | some w => .next w
    | none =>
      if s.acquireHeld slot t.group || s.syncHeld t.group k || s.wordPending slot t.group k then .next s
      else if keyPath k = 4 then s1.sleepPeer slot t sd.toNat k (t.rd64 sa.toNat) (t.rs sb.toNat) (.bar k)
      else
        let s2 := s1.settleSpec t.group
        let r := s2.arriveAt k (max (t.rs sb.toNat).toNat 1)
        let s3 := (r.1.grantAt k).conflicts t.group [k]
        match r.2 with
        | some gen => ((s3.acquire t.core).onTeam slot fun u => { u with fence := none }).moveOn slot fun u => u.ws sd.toNat gen
        | none =>
          let w : SemWaiter := { slot := slot, gid := t.group, part := s.partOf t, key := k, units := none, sd := sd.toNat }
          .next { s3.onTeam slot (fun u => { u with request := some (.bar k), fence := none }) with
            semWaiters := s3.semWaiters ++ [w] }

/-! ## Stage rings (R242 to R244) -/

/-- The ring and the slot that a control word names, where they are declared (R242). -/
def Group.ringOf (g : Group) (c : Word) : Option (Nat × Nat × Ring) :=
  let r := (c.extractLsb' 0 3).toNat
  let x := (c.extractLsb' 8 4).toNat
  match g.rings[r]? with
  | some ring => if x < ring.size then some (r, x, ring) else none
  | none => none
/-- The word RGWAIT receives. -/
def ringWord (phase : Bool) (count : Nat) : Word := (if phase then 0x80000000 else 0) ||| word count
/-- A team asleep at RGWAIT goes on: the grant is an acquire (R244). -/
def State.ringWake (s : State) (w : RingWaiter) (v : Word) : State :=
  let s1 := s.onTeam w.slot fun t => { t.ws w.sd v with request := none }.advance
  match s1.team? w.slot with
  | some t => s1.acquire t.core
  | none => s1
/-- Arrivals at a slot of a ring (R243): each flip wakes the waiters of the new phase; all that sleep wait for the first flip's. -/
def State.ringArrive (s : State) (gid r x n : Nat) : State :=
  match s.group? gid with
  | none => s
  | some g =>
    match g.rings[r]? with
    | none => s
    | some ring =>
      let c := sget 0 ring.count x + n
      let p := sget false ring.phase x
      let flips := if ring.target = 0 then 0 else c / ring.target
      let ring1 := { ring with count := sput 0 ring.count x (if ring.target = 0 then c else c % ring.target),
                               phase := sput false ring.phase x (p != (flips % 2 == 1)) }
      let here (w : RingWaiter) : Bool := w.ring == r && w.rslot == x && w.phase == !p
      let s1 := s.setGroup gid { g with rings := g.rings.set r ring1, waiters := if flips = 0 then g.waiters else g.waiters.filter fun w => !here w }
      if flips = 0 then s1
      else (g.waiters.filter here).foldl (fun s w => s.ringWake w (ringWord (!p) (c - ring.target))) s1
/-- RGARR (R243). -/
def execRgarr (sa sb : SReg) (s : State) : Host.Outcome State Fault Refusal :=
  memInstr (.rgarr sa sb) s fun slot t =>
    match (s.group? t.group).bind fun g => g.ringOf (t.rs sa.toNat) with
    | none => .next (s.illegal slot)
    | some r => s.startSignal slot t (.ring r.1 r.2.1 (t.rs sb.toNat)) []
/-- RGWAIT (R244). -/
def execRgwait (sd sa sb : SReg) (s : State) : Host.Outcome State Fault Refusal :=
  memInstr (.rgwait sd sa sb) s fun slot t =>
    match (s.group? t.group).bind fun g => g.ringOf (t.rs sa.toNat) with
    | none => .next (s.illegal slot)
    | some r =>
      let want := (t.rs sb.toNat).getLsbD 0
      let p := sget false r.2.2.phase r.2.1
      if s.acquireHeld slot t.group then .next s
      else if p = want then (s.acquire t.core).done slot (t.ws sd.toNat (ringWord p (sget 0 r.2.2.count r.2.1)))
      else
        .next ((s.setTeam slot { t with request := some (.ring r.1 r.2.1 want) }).onGroup t.group fun g =>
          { g with waiters := g.waiters ++ [{ slot := slot, ring := r.1, rslot := r.2.1, phase := want, sd := sd.toNat }] })

/-! ## SIGX (R246) -/

/-- SIGX (R246): a wake register of an existing queue, or the mailbox of the die. -/
def execSigx (sa sb : SReg) (s : State) : Host.Outcome State Fault Refusal :=
  memInstr (.sigx sa sb) s fun slot t =>
    let n := (t.rs sa.toNat).toNat
    if n < 64 then
      if (sget none (s.part (s.partOf t)).queues n).isSome then s.startSignal slot t (.wake n (t.rs sb.toNat)) [] else .next (s.illegal slot)
    else if n = 0x100 then s.startSignal slot t (.mail (t.rs sb.toNat)) []
    else .next (s.illegal slot)

/-! ## Application (R224) -/

/-- A signal takes effect (R238, R243, R246), and the copy of its word that the signalling core holds goes, so that a later load of the team
reads no older value (R220); one to a word outside its scratchpad by a speculative group is deferred to commit (R252). -/
def State.applySignal (s : State) (o : Op) (g : Signal) : State :=
  match g with
  | .sem key _ gen n =>
    if keyPath key = 4 then s
    else if s.speculative o.gid && keyPath key != 0 then
      s.onGroup o.gid fun x => { x with spec := { x.spec with deferred := x.spec.deferred ++ [.signal key gen n] } }
    else (((s.settleSpec o.gid).signalAt o.part key gen n).conflicts o.gid [key]).dropCopy o.core key
  | .ring r x n => s.ringArrive o.gid r x n.toNat
  | .wake q v => s.onPart o.part fun p => { p with queues := match sget none p.queues q with
      | some x => sput none p.queues q (some { x with wake := x.wake ||| v })
      | none => p.queues }
  | .mail v => s.onDie (dieOf o.core) fun d =>
      if d.mailbox.length < Config.mailboxEntries then { d with mailbox := d.mailbox ++ [(o.slot, v)] }
      else { d with mboxOv := d.mboxOv + 1 }
  | .remote _ _ _ _ => s
/-- The peer that a signal goes to, and the fabric address of its word there: 48 bits of a mapped page, 53 of RSIG (R337, R345). -/
def Signal.target : Signal → Option (Nat × Nat)
  | .sem key _ _ _ => if keyPath key = 4 then some ((peerOf key).1, (key - 2 ^ 60) % 2 ^ 48) else none
  | .remote d a _ _ => some (d, a)
  | _ => none
/-- The generation and the units of a signal. -/
def Signal.units : Signal → Option Word × Word
  | .sem _ _ gen n | .remote _ _ gen n => (gen, n)
  | _ => (none, 0)
/-- The packet of a signal to a peer, which SENT counts (R342, R345). -/
def Signal.packets (g : Signal) : List Outgoing :=
  (g.target.map fun d => ({ line := (d.1, d.2 / 128), body := .signal (d.2 % 128) g.units.1 g.units.2, counted := true } : Outgoing)).toList
/-- A signal that waits until its group is oldest (R252). -/
def Signal.waits : Signal → Bool
  | .wake _ _ | .mail _ | .remote _ _ _ _ => true
  | .sem key _ _ _ => keyPath key == 4
  | .ring _ _ _ => false
/-- The address of a signal's word: RSIG's is the fabric address it names (R345). -/
def Signal.va : Signal → Dbl
  | .sem _ va _ _ => va
  | .remote d a _ _ => BitVec.ofNat 64 (d * 2 ^ 53 + a)
  | _ => 0
/-- The failure of a signal, raised as that of a store (R345). -/
def signalFault (f : ReturnFail) (va : Dbl) : LateFault :=
  { code := f.code, refused := f.refused, lanes := [], va := va, once := true, detail := detailWord 0 4 true false 8 }
/-- A signal goes on: sent, acknowledged, failed, or applied. A copy of its word in the signalling core goes when the peer has performed it
(R220, R339). -/
def State.signalStep (s : State) (o : Op) (g : Signal) (ret : AtomReturn) : State :=
  if g.waits && s.speculative o.gid then s
  else match g.target with
    | some (d, a) =>
      if s.cut [d] then s.failOp o .none true false (signalFault cutFail g.va)
      else if o.sent.isEmpty then s.sendCounted o g.packets
      else match ret.fails with
        | f :: _ => if failOk f then s.failOp o .none true false (signalFault f g.va) else s
        | [] => if s.unacked o.part o.sent then s else (s.finishOp o).dropCopy o.core (peerKey d (a % 2 ^ 48))
    | none =>
      match g with
      | .sem key va _ _ =>
        if s.marked key && keyPath key != 0 then
          s.failOp o .none true false { code := 0x05, refused := false, lanes := [], va := va, once := true,
                                        detail := detailWord 0 (keyPath key) true false 8 }
        else (s.applySignal o g).finishOp o
      -- an arrival at a ring of a group that is swapped out waits for the restore
      | .ring _ _ _ => if (s.group? o.gid).isNone && !o.orphan then s else (s.applySignal o g).finishOp o
      | _ => (s.applySignal o g).finishOp o
/-- The lanes of an atomic applied in ascending order, with their old values (R224, R234). -/
def State.applyLanes (core : Nat) (fn : AtomFn) : State → List AtomLane → State × List (Nat × Word)
  | s, [] => (s, [])
  | s, a :: as =>
    let r := s.atomicAt core fn a.key a.b a.c
    let x := State.applyLanes core fn r.1 as
    (x.1, (a.lane, r.2) :: x.2)
/-- The copies that a core holds of the words of some lanes go (R220, R339). -/
def State.dropLanes (s : State) (core : Nat) (lanes : List AtomLane) : State :=
  if lanes.isEmpty then s else s.onCore core fun c => c.dropWords (lanes.map (·.key / 4))
/-- The effects of some lanes of an atomic by a speculative group, deferred to its commit: those in its scratchpad are not, those at peers go
out in packets then (R252). -/
def State.deferLanes (s : State) (o : Op) (a : AtomOp) (lanes : List AtomLane) : State :=
  let own := (lanes.filter fun x => keyPath x.key != 4).map fun x => Deferred.atom a.fn x.key x.b x.c
  let far := (lanes.filter fun x => keyPath x.key == 4).map fun x => (x.key, x.b, x.c)
  s.onGroup o.gid fun g => { g with spec := { g.spec with
    deferred := g.spec.deferred ++ own ++ (if far.isEmpty then [] else [.peers o.id a.fn far]) } }
/-- The old value and, for the cas form of SAOP, whether it was exchanged (R234, R236). -/
def AtomOp.result (a : AtomOp) (x : Nat × Word) : List Word :=
  if a.cas2 then [x.2, if (a.lanes.find? fun y => y.lane == x.1).map (·.b) = some x.2 then 1 else 0] else [x.2]
/-- An atomic takes effect in every lane (R224, R235); a lane at a marked word, or whose packet failed, fails the instruction (R198). -/
def State.atomStep (s : State) (o : Op) (a : AtomOp) (ret : AtomReturn) : State :=
  let peers := a.lanes.filter fun x => keyPath x.key == 4
  let noRet := decide (a.dest = .none)
  let outside := a.lanes.any fun x => keyPath x.key != 0
  let spec := s.speculative o.gid
  let defer := spec && outside
  if defer && !noRet then s
  else if !defer && noRet && o.sent.isEmpty && peers.any (fun x => !o.lost.contains (peerOf x.key).1) then s.sendCounted o (atomPackets a)
  else if s.mustAsk o then s.sendQuestions o
  else
    let failure (s : State) (x : AtomLane) : Option (Byte × Bool × Nat) :=
      if keyPath x.key = 0 ∨ (defer = true ∧ keyPath x.key = 4) then none else s.byteFailure o ret.fails x.key
    let answered := if noRet then [] else peers.filter fun x => (failure s x).isNone
    let hit := decide (ret.peer.length = answered.length) && (ret.fails.all fun f => failOk f && peers.any fun x => failHits f x.key) &&
      (defer || !noRet || !s.unacked o.part (o.sent.filter fun p => !o.lost.contains p.1))
    if !hit then s
    else
      let s1 := s.settleSpec o.gid
      let bad := a.lanes.filterMap fun x => (failure s1 x).map fun c => (x, c)
      let good := a.lanes.filter fun x => (failure s1 x).isNone
      let now := good.filter fun x => if defer then keyPath x.key == 0 else keyPath x.key != 4
      let r := State.applyLanes o.core a.fn s1 now
      let s2 := if defer then r.1.deferLanes o a (good.filter fun x => keyPath x.key != 0)
        else ((r.1.conflicts o.gid (now.map (·.key))).grants).dropLanes o.core peers
      match bad with
      | (b, c) :: _ =>
        s2.failOp o a.dest false true
          { code := c.1, refused := c.2.1, lanes := bad.map (·.1.lane), va := b.va, once := a.once, detail := detailWord 0 c.2.2 true false 4 }
      | [] =>
        let olds := r.2 ++ (answered.zip ret.peer).map fun p => (p.1.lane, p.2)
        let rs : List (Nat × Except Word (List Word)) := olds.map fun (x : Nat × Word) => (x.1, Except.ok (a.result x))
        let s3 := ((s2.finishOp o).onIssuer o fun t => t.fill a.dest rs).cacheResult o a.dest false
        if a.acquire then s3.acquire o.core else s3
/-- SEMWAIT or BAR on a peer word fails: the team goes on, sd stays empty, and the failure is raised as that of a load (R198, R338). -/
def State.failSleep (s : State) (o : Op) (sd : Nat) (va : Dbl) (f : ReturnFail) : State :=
  ((s.failOp o (.scal sd 1) false false { signalFault f va with detail := detailWord 0 4 true false 8 }).deliver o fun t =>
    { (t.markS true sd).advance with request := none })
/-- ATOMIC_APPLIED (R224): an atomic or a signal is handed over, sent, applied or fails; a peer's answer wakes a sleeper. Requests of an atomic
that find no slot are made as slots free (R189). -/
def execAtomicApplied (op : Nat) (ret : AtomReturn) (s : State) : Host.Outcome State Fault Refusal :=
  match s.op? op with
  | none => .next s
  | some o0 =>
    let h := s.hand o0
    let o := h.2
    match o.kind with
    | .atom a =>
      if !h.1.ready o then .next h.1
      else match h.1.takeSlots o with
        | some w => .next w
        | none => .next (h.1.atomStep o a ret)
    | .signal g => .next (if h.1.ready o then h.1.signalStep o g ret else h.1)
    | .ask (.wake sd key va _ _) =>
      if s.mustAsk o then .next (s.sendQuestions o)
      else if o.lost.contains (peerOf key).1 then .next (s.failSleep o sd va cutFail)
      else match ret.fails, ret.peer with
        | f :: _, _ => .next (if failOk f then s.failSleep o sd va f else s)
        | [], v :: _ => .next (((s.dropOp o.id).deliver o fun t => { t.ws sd v with request := none }.advance).acquire o.core)
        | [], [] => .next s
    | _ => .next s

end Sys2Proof.Machine
end

