-- ==== Sys2Proof/Machine/Engines.lean ====
section
/-! DEFINITION. Commands of engines (R245, R255 to R263): issue with parameters and locks, start, the bytes an engine reads and writes,
failures and status words, cancellation (R271). -/

namespace Sys2Proof.Machine

/-! ## Issue -/

/-- The eight parameter scalars (R255). -/
def Team.params (t : Team) (sa : SReg) : List Word := (List.range 8).map fun i => t.rs (sa.toNat + i)
/-- Parameter scalar i. -/
def pw (ps : List Word) (i : Nat) : Word := ps.getD i 0
/-- The 64-bit parameter in P(i) and P(i+1). -/
def pd (ps : List Word) (i : Nat) : Nat := (pw ps i).toNat + (pw ps (i + 1)).toNat * 2 ^ 32
/-- Bits of a parameter. -/
def pf (ps : List Word) (i lo n : Nat) : Nat := bitsOf (pw ps i).toNat lo n
/-- The valid count (R256): B where the sb field is 0. -/
def validCount (t : Team) (sb : SReg) (b : Nat) : Nat := if sb = 0 then b else min (t.rs sb.toNat).toNat b
/-- Locks a command registers only once its unit has read what fixes them (R269, R305). -/
def CommandOp.late (c : CommandOp) : Nat :=
  match c.cmd with
  | .xexp => if c.valid = 0 then 0 else 1
  | .gmask | .jreplay => 1
  | .emit => if pf c.params 2 0 2 = 1 then 2 else 1
  | .coll => if c.locks.isEmpty then 0 else 5
  | _ => 0
/-- Entries of a partition's lock table in use; a command that has not registered its late locks holds their entries in reserve (R261). -/
def State.lockUse (s : State) (part : Nat) : Nat :=
  (s.locks.filter fun l => l.1 == part).length +
    ((s.ops.filter (·.part == part)).map fun o => match o.kind with
      | .command c => if c.started then 0 else c.late
      | _ => 0).sum
/-- A command at issue, before the release that its issue is. -/
def newCommand (cmd : Command) (ps : List Word) (valid units : Nat) (sd : SReg) (locks : List Lock) : CommandOp :=
  { cmd := cmd, unit := 0, params := ps, valid := valid, units := units, sd := sd.toNat, sdCount := 1, extra := [], rows := [], defs := [],
    mxm := 0, brtab := 0, locks := locks, need := 0, permit := none, released := false, started := false, failed := none, cancel := [] }
/-- The command of an operation. -/
def Op.command? (o : Op) : Option CommandOp := match o.kind with | .command c => some c | _ => none
/-- A command whose issue, a release, nothing holds any more is performed as one (R245). -/
def State.releaseCommand (s : State) (id : Nat) : State :=
  match s.op? id with
  | none => s
  | some o0 =>
    let h := s.hand o0
    match h.2.command? with
    | some c => if !c.released && h.1.ready h.2 then h.1.setOp { h.2 with kind := .command { c with released := true } } else h.1
    | none => s
/-- A command issues (R255, R261): it waits while a counter or the lock table is full; then its locks stand, its status register is empty,
and it counts. -/
def State.issueCommand (s : State) (slot : Nat) (t : Team) (c : CommandOp) (reserve : Nat) (paths : List Nat) (f : Team → Team) :
    Host.Outcome State Fault Refusal :=
  let part := s.partOf t
  if t.counterFull paths || decide (Config.lockEntries < s.lockUse part + reserve) then .next s
  else
    let id := s.nextId
    let s1 := s.addOp slot t (.command c)
    let s2 := { s1 with locks := s1.locks ++ c.locks.map fun l => (part, id, l) }
    (s2.releaseCommand id).moveOn slot fun u => ((f u).mark true (.scal c.sd c.sdCount)).launchOn id paths
/-- A queue of an engine or a unit is full (R258, R275, R305). -/
def State.queueFull (s : State) (same : Op → Bool) (cap : Nat) : Bool := decide (cap ≤ (s.ops.filter same).length)
/-- The issue's field and value checks have failed (R255). -/
def State.badCommand (s : State) (slot : Nat) : Host.Outcome State Fault Refusal := .next (s.illegal slot)

/-! ## Start (R245) -/

/-- Locks of other commands keep a command waiting: an earlier one's, or those of one that has started. -/
def State.lockHeld (s : State) (o : Op) (locks : List Lock) : Bool :=
  s.locks.any fun l => l.1 == o.part && l.2.1 != o.id && locks.any (fun m => m.conflicts l.2.2) &&
    (decide (l.2.1 < o.id) || (match (s.op? l.2.1).bind Op.command? with | some c => c.started | none => false))
/-- A command that waits until its group is oldest (R252, R335): one that acts outside the group, or writes outside its scratchpad and its
tiles, as ATLOAD writes the core's tables. -/
def CommandOp.waitsOldest (c : CommandOp) : Bool :=
  (match c.cmd with
    | .gmask | .gadv | .sample | .route | .emit | .jtrunc | .jreplay | .jstat | .coll | .taskq | .launch | .atload => true
    | _ => false) ||
    c.locks.any fun l => l.write && l.outside
/-- The topology ports of an I/O die report ready (R406). -/
def State.topologyUp (s : State) : Bool := s.functionUp 27 || s.functionUp 28
/-- The journal engine and port that reach the partner report ready: each I/O die has one (R13, R18, R305, R406). -/
def State.journalUp (s : State) : Bool := s.functionUp (25 + s.journal.port % 2)
/-- The unit of a command is ready (R406). -/
def State.unitUp (s : State) (core : Nat) (cmd : Command) : Bool :=
  match cmd with
  | .gmask | .gadv => s.functionUp (16 + dieOf core)
  | .layic => s.functionUp (20 + dieOf core)
  | .emit | .jtrunc | .jreplay | .jstat => s.journalUp
  | .coll => s.topologyUp
  | _ => true
/-- A command may start: its unit is ready, its release is performed, no lock stands in its way, its permit is held. -/
def State.canStart (s : State) (o : Op) (c : CommandOp) : Bool :=
  s.unitUp o.core c.cmd && c.released && !c.started && !s.lockHeld o c.locks && !(s.speculative o.gid && c.waitsOldest) && (decide (c.need = 0) || c.permit.isSome)

/-- A command asks for its permit: all else lets it begin (R30, R399). -/
def State.asksPermit (s : State) (o : Op) : Bool :=
  match o.command? with
  | some c => decide (c.need ≠ 0) && c.permit.isNone && ((s.part o.part).swap.isNone || c.cmd.copies) && s.canStart o { c with need := 0 }
  | none => false
/-- A team's reservation covers its command's permit (R399). -/
def State.ownCovers (s : State) (o : Op) (need : Nat) : Bool :=
  match s.team? o.slot with | some t => t.group == o.gid && !o.orphan && decide (need ≤ t.power) | none => false
/-- A command asks for its permit (R399): it draws from its team's reservation where that covers it, else it joins the asks of its die. -/
def State.askPermit (s : State) (o : Op) (c : CommandOp) : State :=
  if s.ownCovers o c.need then
    (s.onTeam o.slot fun t => { t with power := t.power - c.need }).setOp { o with kind := .command { c with permit := some .team } }
  else s.onDie (dieOf o.core) fun d => if d.asks.contains o.id then d else { d with asks := d.asks ++ [o.id] }

/-! ## Records and status words -/

/-- The team of an operation, resident or saved with its partition. -/
def State.issuer? (s : State) (o : Op) : Option Team :=
  if o.orphan then none
  else match s.team? o.slot with
    | some t => if t.group = o.gid then some t else saved
    | none => saved
where
  /-- The saved team. -/
  saved : Option Team := (s.part o.part).swap.bind fun w => (sget none w.teams o.slot).bind fun t => if t.group = o.gid then some t else none
/-- A record that a unit writes into the ring of the issuing team (R385), and its index. -/
def State.unitRecord (s : State) (o : Op) (r : FaultRecord) : State × Nat :=
  match s.issuer? o with
  | none => (s, 0)
  | some t =>
    let w := s.writeRecord o.part t r
    (w.1.onTeamOf o.part o.slot o.gid fun u => { u with frcur := w.2.2 }, w.2.1)
/-- The count of a status, which has 24 bits (R259). -/
def infoOf (n : Nat) : Nat := if n < 2 ^ 24 then n else Config.openInfo n % 2 ^ 24
/-- A DONE status. -/
def doneStatus (n : Nat) : Word := statusWord 0 (infoOf n)
/-- A cancelled target of XCANCEL has ended; the last one fills XCANCEL's register with the number cancelled (R271). -/
def State.cancelNotice (s : State) (x target : Nat) (cancelled : Bool) : State :=
  match s.op? x with
  | none => s
  | some o =>
    match o.command? with
    | none => s
    | some c =>
      let c1 := { c with extra := c.extra.filter (· != target), valid := c.valid + (if cancelled then 1 else 0) }
      if c1.cmd ≠ .xcancel then s
      else if c1.extra.isEmpty then s.endCommand o c1 [word c1.valid]
      else s.setOp { o with kind := .command c1 }
/-- A command ends with its status, and an XCANCEL that waits for it is told. -/
def State.closeCommand (s : State) (o : Op) (c : CommandOp) (status : List Word) (cancelled : Bool) : State :=
  let s1 := s.endCommand o c status
  c.cancel.foldl (fun s x => s.cancelNotice x o.id cancelled) s1

/-! ## Bytes that engines move -/

/-- Why an engine stops at a unit: code, address, whether it was a write. -/
structure EngineFail where
  code : Nat
  va : Nat
  write : Bool
  deriving DecidableEq, Repr
/-- The key of a byte an engine reads or writes; a peer page gives PROTECTION (R264). Reads and writes of each sector choose their table entries
for themselves (R387; log entry 3). -/
def State.engineKey (s : State) (o : Op) (perm : Perm) (va : Nat) : Except EngineFail Nat :=
  match s.resolve o.part o.gid perm 0 va (va / 32 * 2 + (if perm = .write then 1 else 0)) with
  | .error e => .error { code := e.1, va := va, write := perm == .write }
  | .ok k => if k.2 = 4 then .error { code := codeProtection, va := va, write := perm == .write } else .ok k.1
/-- A byte an engine reads; a marked sector gives UNCORRECTABLE (R273). -/
def State.engineByte (s : State) (o : Op) (va : Nat) : Except EngineFail (Nat × Byte) := do
  let k ← s.engineKey o .read va
  if s.marked k && keyPath k != 0 then .error { code := codeUncorrectable, va := va, write := false } else pure (k, s.homeByte o.gid k)
/-- The bytes an engine reads from an address. -/
def State.engineBytes (s : State) (o : Op) (va n : Nat) : Except EngineFail (List (Nat × Byte)) :=
  (List.range n).mapM fun j => s.engineByte o ((va + j) % 2 ^ 64)
/-- A little-endian number an engine reads. -/
def State.engineNat (s : State) (o : Op) (va n : Nat) : Except EngineFail Nat := (s.engineBytes o va n).map fun bs => leNat (bs.map (·.2))
/-- Marks of the sectors whose every byte is written go (R193). -/
def State.clearMarks (s : State) (keys : List Nat) : State :=
  { s with marks := s.marks.filter fun e => !((List.range 32).all fun i => keys.contains (32 * e.1 + i)) }
/-- Keys whose every bit some masked writes cover. -/
def coveredKeys (ws : List (Nat × Byte × Byte)) : List Nat :=
  (ws.map (·.1)).eraseDups.filter fun k => (ws.foldl (fun (m : Byte) w => if w.1 = k then m ||| w.2.1 else m) 0) == 0xFF
/-- Bits (mask, value) of bytes an engine registers at their homes (R245): no core owns the words, sectors it writes whole lose their
mark, and the write of a group of a deterministic partition commits it (R251). One destination write of a command is that of one unit: rows
that cover a sector only together leave its mark (R273; log entry 88). -/
def State.engineMask (s : State) (o : Op) (ws : List (Nat × Byte × Byte)) : State :=
  let keys := ws.map (·.1)
  let s1 := ((s.settleSpec o.gid).keepLeavesOf keys).disown none ((keys.map (· / 4)).eraseDups)
  let s2 := { s1 with mem := ws.foldl (fun (m : Memory) (w : Nat × Byte × Byte) => m.maskByte w.1 w.2.1 w.2.2) s1.mem }
  ((s2.clearMarks (coveredKeys ws)).conflicts o.gid (keys.filter fun k => keyPath k != 0)).grants
/-- Bytes an engine registers at their homes. -/
def State.engineWrite (s : State) (o : Op) (ws : List (Nat × Byte)) : State := s.engineMask o (ws.map fun w => (w.1, 0xFF, w.2))
/-- One byte moved: to an address, from an address or of a value. -/
structure Move where
  dst : Nat
  src : Option Nat
  val : Byte
  deriving DecidableEq, Repr
/-- The byte a move reads. -/
def State.moveByte (s : State) (o : Op) (m : Move) : Except EngineFail Byte :=
  match m.src with
  | some a => (s.engineByte o a).map (·.2)
  | none => .ok m.val
/-- The bytes that a speculative group's engine reads mark their sectors (R250); the engine's next accesses choose their table entries anew
(R387). -/
def State.noteReads (s : State) (o : Op) (vas : List Nat) : State :=
  { s.markRead o.gid (vas.filterMap fun a => match s.engineKey o .read a with | .ok k => some k | .error _ => none) with
    freeCount := s.freeCount + 1 }
/-- The moves of one unit: every byte is read and every destination found before any is written; on failure the bytes that `part` names
hold their new value (R260). Of several accesses of a unit that fail, the first read in the order of its moves is the one recorded, or else
the first write (log entry 88). -/
def State.runMoves (s : State) (o : Op) (part : Nat) (ms : List Move) : State × Option EngineFail :=
  let s1 := s.noteReads o (ms.filterMap (·.src))
  let r : Except EngineFail (List (Nat × Byte)) := do
    let vs ← ms.mapM (s.moveByte o)
    let ks ← ms.mapM fun m => s.engineKey o .write m.dst
    pure (ks.zip vs)
  match r with
  | .ok ws => (s1.engineWrite o ws, none)
  | .error e =>
    let ws := (ms.zip (List.range ms.length)).filterMap fun m =>
      if part.testBit m.2 then
        match s.moveByte o m.1, s.engineKey o .write m.1.dst with
        | .ok v, .ok k => some (k, v)
        | _, _ => none
      else none
    (s1.engineWrite o ws, some e)
/-- A unit: the addresses it reads to find its moves, and the moves or the failure it meets before it moves anything. -/
abbrev EngineUnit := State → List Nat × Except EngineFail (List Move)
/-- Units run in order until one fails: the state, how many are done, and the failure. -/
def State.runUnits (o : Op) (part : Nat) : State → Nat → List EngineUnit → State × Nat × Option EngineFail
  | s, n, [] => (s, n, none)
  | s, n, u :: us =>
    let r := u s
    let s1 := s.noteReads o r.1
    match r.2 with
    | .error e => (s1, n, some e)
    | .ok ms =>
      let q := s1.runMoves o part ms
      match q.2 with
      | some e => (q.1, n, some e)
      | none => State.runUnits o part q.1 (n + 1) us
/-- The page of an address, 64 KiB. -/
def pageOf (va : Nat) : Nat := va / 2 ^ 16 * 2 ^ 16
/-- An engine waits for a page: the request joins the die's services (R273, R388), and the command notes the page it waits for. -/
def State.requestPage (s : State) (o : Op) (c : CommandOp) (va : Nat) : State :=
  let s1 := s.onDie (dieOf o.core) fun d =>
    if d.services.contains (o.part, pageOf va) then d else { d with services := d.services ++ [(o.part, pageOf va)] }
  s1.setOp { o with kind := .command { c with extra := if c.extra.contains (pageOf va + 1) then c.extra else (pageOf va + 1) :: c.extra } }
/-- A page that a command waits for is there, or is refused for good (R388): the number of a page refused stands in its list. -/
def CommandOp.pageAnswer (c : CommandOp) (va : Nat) (refused : Bool) : CommandOp :=
  if c.extra.contains (pageOf va + 1) then
    let rest := c.extra.filter (· != pageOf va + 1)
    { c with extra := if refused then pageOf va :: rest else rest }
  else c

end Sys2Proof.Machine
end

