-- ==== Sys2Proof/Machine/Copy.lean ====
section
/-! DEFINITION. Copy and layout commands, opcodes 0xD0 to 0xD6 (R255 to R274): parameter checks, locks, the units that each command
moves, LZ4 chunks, cancellation, and the events that start and complete them. -/

namespace Sys2Proof.Machine

/-! ## Ranges -/

/-- An address modulo 2^64. -/
def wrap64 (x : Int) : Nat := (x % 2 ^ 64).toNat
/-- The smallest range that covers V rows of n bytes at a signed pitch (R264). -/
def rowRange (base : Nat) (pitch : Int) (v n : Nat) : Nat × Nat :=
  if v = 0 then (base, 0)
  else (wrap64 (base + min 0 (pitch * (v - 1 : Nat))), (v - 1) * pitch.natAbs + n)
/-- A read range and a write range share a byte (R262). -/
def rangesMeet (gid : Nat) (a b : Nat × Nat) : Bool := partsMeet (rangeParts gid a.1 a.2) (rangeParts gid b.1 b.2)
/-- The locks of the ranges that are not empty: a lock without a byte stands for none and takes no entry (log entry 88). -/
def locksOf (gid : Nat) (reads writes : List (Nat × Nat)) : List Lock :=
  ((reads.map fun r => lockOf false gid r.1 r.2) ++ writes.map fun r => lockOf true gid r.1 r.2).filter fun l => decide (0 < l.size)
/-- An address of the scratchpad window by offset (R182). -/
def spadAddr (off : Nat) : Nat := (spadBase + off) % 2 ^ 64

/-! ## Issue -/

/-- The commands that share a copy or layout engine (R258). -/
def sameCopyEngine (core : Nat) (lay : Bool) (o : Op) : Bool :=
  match o.command? with
  | some c =>
    if c.cmd = .layic then lay && dieOf o.core == dieOf core
    else (c.cmd.copies || decide (c.cmd = .xcancel)) && !lay && columnOf o.core == columnOf core
  | none => false
/-- A copy or layout command (R255, R256, R261, R262): its declared units, whether its parameters are good, what it reads and writes for a
valid count, the units of its permit. -/
structure CopyShape where
  bound : Nat
  good : Bool
  reads : Nat → List (Nat × Nat)
  writes : Nat → List (Nat × Nat)
  need : Nat

/-- A copy or layout command issues. -/
def copyCommand (i : Instr) (s : State) (cmd : Command) (sd sa sb : SReg) (shape : List Word → CopyShape) :
    Host.Outcome State Fault Refusal :=
  issue i s fun slot t =>
    let ps := t.params sa
    let x := shape ps
    let v := validCount t sb x.bound
    let rs := x.reads v
    let ws := x.writes v
    if s.queueFull (sameCopyEngine t.core (decide (cmd = .layic))) Config.engineQueue then .next s
    else if !x.good || rs.any (fun r => ws.any fun w => rangesMeet t.group r w) then s.badCommand slot
    else
      let locks := locksOf t.group rs ws
      let c := { newCommand cmd ps v x.bound sd locks with need := x.need }
      s.issueCommand slot t c (locks.length + c.late) [5] id

/-- A signed 32-bit parameter. -/
def ps32 (ps : List Word) (i : Nat) : Int := (pw ps i).toInt
/-- XCOPY (R264). -/
def xcopyShape (ps : List Word) : CopyShape :=
  let n := pf ps 4 0 24
  let rows := pf ps 5 0 24
  { bound := rows, good := decide (pf ps 4 25 7 = 0 ∧ n ≠ 0 ∧ pf ps 5 24 8 = 0 ∧ rows ≠ 0),
    reads := fun v => [rowRange (pd ps 0) (ps32 ps 6) v n], writes := fun v => [rowRange (pd ps 2) (ps32 ps 7) v n], need := if 2 ^ 20 ≤ n * rows then 2 else 0 }
/-- XFILL (R265). -/
def xfillShape (ps : List Word) : CopyShape :=
  let n := pf ps 4 0 24
  let rows := pf ps 5 0 24
  { bound := rows, good := decide (pf ps 4 25 7 = 0 ∧ n ≠ 0 ∧ pf ps 5 24 8 = 0 ∧ rows ≠ 0 ∧ pw ps 6 = 0),
    reads := fun _ => [], writes := fun v => [rowRange (pd ps 0) (ps32 ps 7) v n], need := 0 }
/-- XTRN (R266). -/
def xtrnShape (ps : List Word) : CopyShape :=
  let nb := pf ps 4 16 8 + 1
  let e := 2 ^ pf ps 4 0 2
  let c := pf ps 5 16 16
  let rows := pf ps 5 0 16
  let sp := (pw ps 6).toNat
  let dp := (pw ps 7).toNat
  { bound := rows,
    good := decide (pf ps 4 25 7 = 0 ∧ pf ps 4 2 14 = 0 ∧ c ≠ 0 ∧ rows ≠ 0 ∧ c * e ≤ sp ∧ rows * e ≤ dp),
    reads := fun v => [(pd ps 0, if v = 0 then 0 else (nb - 1) * rows * sp + (v - 1) * sp + c * e)],
    writes := fun v => [(pd ps 2, if v = 0 then 0 else ((nb - 1) * c + (c - 1)) * dp + v * e)], need := 0 }
/-- XGATH (R267). The lock of the index list covers its part in the scratchpad window: what lies beyond belongs to no group (R184, R261). -/
def xgathShape (ps : List Word) : CopyShape :=
  let idx := (pw ps 4).toNat
  let n := pf ps 6 0 24
  let b := pf ps 7 0 24
  { bound := b, good := decide (idx % 4 = 0 ∧ pf ps 6 26 6 = 0 ∧ n ≠ 0 ∧ pf ps 7 24 8 = 0 ∧ b ≠ 0),
    reads := fun v => (if idx < 2 ^ 20 then [(spadAddr idx, min (4 * v) (2 ^ 20 - idx))] else []) ++
      [(pd ps 0, if v = 0 then 0 else (pw ps 5).toNat * n)],
    writes := fun v => [(pd ps 2, v * n)], need := 0 }
/-- The address of entry n of XEXP's table. -/
def tabAddr (ps : List Word) (n : Nat) : Nat := (pd ps 4 + 4 * n) % 2 ^ 64
/-- XEXP (R269). -/
def xexpShape (ps : List Word) : CopyShape :=
  let b := pf ps 7 0 24
  { bound := b, good := decide (pd ps 4 % 4 = 0 ∧ pf ps 7 25 7 = 0 ∧ b ≠ 0),
    reads := fun v => [(tabAddr ps (pw ps 6).toNat, if v = 0 then 0 else 4 * (v + 1))], writes := fun v => [(pd ps 2, 4096 * v)], need := 0 }
/-- LAYIC's row pitch (R270). -/
def layPitch (ps : List Word) : Nat :=
  128 * ((pf ps 6 4 4 * pf ps 6 0 4 * pf ps 5 0 16 * 2 ^ pf ps 5 16 2 + 127) / 128)
/-- LAYIC (R270). -/
def layicShape (ps : List Word) : CopyShape :=
  let w := pf ps 4 16 16
  let h := pf ps 4 0 16
  let c := pf ps 5 0 16
  let dims := [w, h, c, pf ps 6 28 4, pf ps 6 24 4, pf ps 6 12 4, pf ps 6 8 4, pf ps 6 4 4, pf ps 6 0 4, pf ps 7 16 16, pf ps 7 0 16]
  let inVault := match windowOf (pd ps 2) with | .vault _ _ => true | _ => false
  { bound := pf ps 7 16 16 * pf ps 7 0 16, good := decide (pf ps 5 25 7 = 0 ∧ pf ps 5 18 6 = 0) && dims.all (· != 0) && inVault,
    reads := fun v => [(pd ps 0, if v = 0 then 0 else h * w * c * 2 ^ pf ps 5 16 2)], writes := fun v => [(pd ps 2, v * layPitch ps)], need := 0 }

/-- XCOPY (R264). -/
def execXcopy (sd sa sb : SReg) (s : State) : Host.Outcome State Fault Refusal :=
  copyCommand (.xcopy sd sa sb) s .xcopy sd sa sb xcopyShape
/-- XEXP (R269). -/
def execXexp (sd sa sb : SReg) (s : State) : Host.Outcome State Fault Refusal :=
  copyCommand (.xexp sd sa sb) s .xexp sd sa sb xexpShape
/-- XFILL (R265). -/
def execXfill (sd sa sb : SReg) (s : State) : Host.Outcome State Fault Refusal :=
  copyCommand (.xfill sd sa sb) s .xfill sd sa sb xfillShape
/-- XGATH (R267). -/
def execXgath (sd sa sb : SReg) (s : State) : Host.Outcome State Fault Refusal :=
  copyCommand (.xgath sd sa sb) s .xgath sd sa sb xgathShape
/-- XTRN (R266). -/
def execXtrn (sd sa sb : SReg) (s : State) : Host.Outcome State Fault Refusal :=
  copyCommand (.xtrn sd sa sb) s .xtrn sd sa sb xtrnShape
/-- LAYIC (R270). -/
def execLayic (sd sa sb : SReg) (s : State) : Host.Outcome State Fault Refusal :=
  copyCommand (.layic sd sa sb) s .layic sd sa sb layicShape

/-- The commands that XCANCEL with status register t concerns (R271). -/
def State.cancelTargets (s : State) (slot gid st : Nat) : List Op :=
  s.ops.filter fun o => o.slot == slot && o.gid == gid && !o.orphan && (match o.command? with
    | some c => c.cmd.copies && (st == 0 || c.sd == st)
    | none => false)
/-- XCANCEL (R271): targets that have not started end with 0 units; one that runs ends at its completion, and the last fills sd. -/
def execXcancel (sd st : SReg) (s : State) : Host.Outcome State Fault Refusal :=
  issue (.xcancel sd st) s fun slot t =>
    if t.counterFull [5] || s.queueFull (sameCopyEngine t.core false) Config.engineQueue then .next s
    else
      let ts := s.cancelTargets slot t.group st.toNat
      let running := ts.filter fun o => match o.command? with | some c => c.started | none => false
      let idle := ts.filter fun o => match o.command? with | some c => !c.started | none => false
      let s1 := idle.foldl (fun s o => match o.command? with
        | some c => s.closeCommand o c [statusWord 0x40 0] true
        | none => s) s
      if running.isEmpty then (s1.acquire t.core).moveOn slot fun u => u.ws sd.toNat (word idle.length)
      else
        let id := s1.nextId
        let s2 := running.foldl (fun (s : State) o => match o.command? with
          | some c => s.setOp { o with kind := .command { c with cancel := id :: c.cancel } }
          | none => s) s1
        let c := { newCommand .xcancel [] idle.length 0 sd [] with released := true, started := true, extra := running.map (·.id) }
        (s2.addOp slot t (.command c)).moveOn slot fun u => (u.mark true (.scal sd.toNat 1)).launchOn id [5]

/-! ## Units -/

/-- n bytes copied from one address to another. -/
def copyMoves (dst src n : Nat) : List Move :=
  (List.range n).map fun j => { dst := (dst + j) % 2 ^ 64, src := some ((src + j) % 2 ^ 64), val := 0 }
/-- Bytes written at an address. -/
def valueMoves (dst : Nat) (bs : List Byte) : List Move :=
  (bs.zip (List.range bs.length)).map fun b => { dst := (dst + b.2) % 2 ^ 64, src := none, val := b.1 }
/-- A unit whose moves are known. -/
def plainUnit (ms : List Move) : EngineUnit := fun _ => ([], .ok ms)
/-- Row r of XCOPY. -/
def xcopyUnit (ps : List Word) (r : Nat) : EngineUnit :=
  plainUnit (copyMoves (wrap64 (pd ps 2 + r * ps32 ps 7)) (wrap64 (pd ps 0 + r * ps32 ps 6)) (pf ps 4 0 24))
/-- Row r of XFILL. -/
def xfillUnit (ps : List Word) (r : Nat) : EngineUnit :=
  plainUnit (valueMoves (wrap64 (pd ps 0 + r * ps32 ps 7))
    ((List.range (pf ps 4 0 24)).map fun j => BitVec.ofNat 8 (pd ps 2 / 2 ^ (8 * (j % 8)))))
/-- Source row r of batch b of XTRN. -/
def xtrnUnit (ps : List Word) (b r : Nat) : EngineUnit :=
  let e := 2 ^ pf ps 4 0 2
  let c := pf ps 5 16 16
  let rows := pf ps 5 0 16
  let sp := (pw ps 6).toNat
  let dp := (pw ps 7).toNat
  plainUnit (((List.range c).map fun x =>
    copyMoves (pd ps 2 + b * c * dp + x * dp + r * e) (pd ps 0 + b * rows * sp + r * sp + x * e) e).flatten)
/-- Row i of XGATH. A row that OUT_OF_BOUNDS names has the address that it would have in the table (log entry 88). -/
def xgathUnit (o : Op) (ps : List Word) (i : Nat) : EngineUnit := fun s =>
  let off := (pw ps 4).toNat + 4 * i
  let n := pf ps 6 0 24
  let dst := pd ps 2 + i * n
  ([], do
    let x ← if off < 2 ^ 20 then s.engineNat o (spadAddr off) 4
      else .error { code := codeProtection, va := spadAddr off, write := false }
    let src := (pd ps 0 + x * n) % 2 ^ 64
    if x < (pw ps 5).toNat then pure (copyMoves dst src n)
    else if pf ps 6 25 1 = 1 then pure (valueMoves dst (List.replicate n 0))
    else .error { code := codeOutOfBounds, va := src, write := false })
/-- Row m of LAYIC. -/
def layicUnit (ps : List Word) (m : Nat) : EngineUnit :=
  let w := pf ps 4 16 16
  let h := pf ps 4 0 16
  let ch := pf ps 5 0 16
  let e := 2 ^ pf ps 5 16 2
  let kw := pf ps 6 4 4
  let k := pf ps 6 0 4 * kw * ch
  let dst := pd ps 2 + m * layPitch ps
  let oh := m / pf ps 7 16 16
  let ow := m % pf ps 7 16 16
  plainUnit (((List.range k).map fun t =>
    let c := t % ch
    let ih : Int := oh * pf ps 6 8 4 + (t / ch / kw : Nat) * pf ps 6 24 4 - pf ps 6 16 4
    let iw : Int := ow * pf ps 6 12 4 + (t / ch % kw : Nat) * pf ps 6 28 4 - pf ps 6 20 4
    if 0 ≤ ih ∧ ih < h ∧ 0 ≤ iw ∧ iw < w then
      copyMoves (dst + t * e) (pd ps 0 + ((ih.toNat * w + iw.toNat) * ch + c) * e) e
    else valueMoves (dst + t * e) (List.replicate e 0)).flatten ++
      valueMoves (dst + k * e) (List.replicate (layPitch ps - k * e) 0))

/-! ## Compressed streams (R268, R269) -/

/-- A length with its extension bytes: the sum and the rest of the input. -/
def lz4Length : Nat → Nat → List Byte → Option (Nat × List Byte)
  | 0, _, _ => none
  | n + 1, acc, bs =>
    match bs with
    | [] => none
    | b :: t => if b = 255 then lz4Length n (acc + 255) t else some (acc + b.toNat, t)
/-- A nibble's length: itself below 15, else with extension bytes. -/
def lz4Nibble (nib : Nat) (bs : List Byte) : Option (Nat × List Byte) :=
  if nib < 15 then some (nib, bs) else lz4Length bs.length 15 bs
/-- n bytes copied from `off` bytes back, one after another; the newest byte stands first. -/
def lz4Match : Nat → Nat → List Byte → List Byte
  | 0, _, out => out
  | n + 1, off, out => lz4Match n off (out.getD (off - 1) 0 :: out)
/-- Sequences of an LZ4 block (R268): fuel counts them; the output stands newest first and stays within 4,096 bytes. -/
def lz4Go : Nat → List Byte → List Byte → Option (List Byte)
  | _, [], out => some out
  | 0, _, _ => none
  | n + 1, b :: t, out => do
    let (lits, r) ← lz4Nibble (b.toNat / 16) t
    if r.length < lits ∨ 4096 < out.length + lits then none
    else
      let out1 := (r.take lits).reverse ++ out
      match r.drop lits with
      | [] => some out1
      | [_] => none
      | x :: y :: r2 =>
        let off := x.toNat + 256 * y.toNat
        let (m, r3) ← lz4Nibble (b.toNat % 16) r2
        if off = 0 ∨ out1.length < off ∨ 4096 < out1.length + (m + 4) then none else lz4Go n r3 (lz4Match (m + 4) off out1)
/-- An LZ4 block: exactly 4,096 bytes from exactly its bytes (R268). -/
def lz4Block (bs : List Byte) : Option (List Byte) :=
  match lz4Go bs.length bs [] with
  | some out => if out.length = 4096 then some out.reverse else none
  | none => none
/-- Chunk i of XEXP (R268, R269). -/
def xexpUnit (o : Op) (ps : List Word) (i : Nat) : EngineUnit := fun s =>
  let n := (pw ps 6).toNat + i
  let tab := (List.range 8).map fun j => (tabAddr ps n + j) % 2 ^ 64
  match (do pure ((← s.engineNat o (tabAddr ps n) 4), (← s.engineNat o (tabAddr ps (n + 1)) 4)) : Except EngineFail (Nat × Nat)) with
  | .error e => (tab, .error e)
  | .ok (a, b) =>
    let src := (pd ps 0 + a) % 2 ^ 64
    let dst := pd ps 2 + 4096 * i
    let bad : EngineFail := { code := codeDecode, va := src, write := false }
    if b < a ∨ 4096 < b - a then (tab, .error bad)
    else if b - a = 0 then (tab, .ok (valueMoves dst (List.replicate 4096 0)))
    else if b - a = 4096 then (tab, .ok (copyMoves dst src 4096))
    else
      (tab ++ (List.range (b - a)).map (fun j => (src + j) % 2 ^ 64), do
        let bs ← s.engineBytes o src (b - a)
        match lz4Block (bs.map (·.2)) with
        | some out => pure (valueMoves dst out)
        | none => .error bad)

/-! ## Start and completion -/

/-- The units of a command below its valid count, with their numbers in its records (R260). -/
def copyUnits (o : Op) (c : CommandOp) : List (Nat × EngineUnit) :=
  let ps := c.params
  let rows (f : Nat → EngineUnit) : List (Nat × EngineUnit) := (List.range c.valid).map fun r => (r, f r)
  match c.cmd with
  | .xcopy => rows (xcopyUnit ps)
  | .xfill => rows (xfillUnit ps)
  | .xgath => rows (xgathUnit o ps)
  | .xexp => rows (xexpUnit o ps)
  | .layic => rows (layicUnit ps)
  | .xtrn =>
    ((List.range (pf ps 4 16 8 + 1)).map fun b => (List.range c.valid).map fun r => (b * pf ps 5 0 16 + r, xtrnUnit ps b r)).flatten
  | _ => []
/-- PGIN of a command (R273). -/
def CommandOp.pgin (c : CommandOp) : Bool :=
  let ps := c.params
  match c.cmd with
  | .xcopy | .xfill | .xtrn => pf ps 4 24 1 == 1
  | .xgath => pf ps 6 24 1 == 1
  | .xexp => pf ps 7 24 1 == 1
  | .layic => pf ps 5 24 1 == 1
  | _ => false
/-- A failure that page service may still mend (R273). -/
def CommandOp.mends (c : CommandOp) (e : EngineFail) : Bool :=
  c.pgin && decide (e.code = codeNotPresent) && !c.extra.contains (pageOf e.va)
/-- A copy or layout command fails at a unit (R260): its record and its status. -/
def State.failCopy (s : State) (o : Op) (c : CommandOp) (u : Nat) (e : EngineFail) : State :=
  let r := s.unitRecord o { code := e.code, rflags := 1, lane := u, detail := 5 * 2 ^ 16 + (if e.write then 2 ^ 9 else 0), pc := o.pc,
                            va := BitVec.ofNat 64 e.va }
  r.1.closeCommand o c [tokenOf e.code r.2] false
/-- The range of XEXP's third lock, once the engine has read the two entries (R269). -/
def State.lateRange (s : State) (o : Op) (c : CommandOp) : Except EngineFail (Nat × Nat) := do
  let ps := c.params
  let first := (pw ps 6).toNat
  let a ← s.engineNat o (tabAddr ps first) 4
  let b ← s.engineNat o (tabAddr ps (first + c.valid)) 4
  pure ((pd ps 0 + a) % 2 ^ 64, b - a)
/-- A command has started. -/
def State.begin (s : State) (o : Op) (c : CommandOp) : State := s.setOp { o with kind := .command { c with started := true } }
/-- XEXP starts: its third lock stands, or overlaps its own write lock and fails it, at the first address of the range (R260, R262; log entry
76). Where an entry that fixes the range cannot be read, no compressed byte may be, and the command fails at its first unit (R260, R269; log
entry 76). -/
def State.beginExpand (s : State) (o : Op) (c : CommandOp) : State :=
  if c.valid = 0 then s.begin o c
  else match s.lateRange o c with
  | .error e => if c.mends e then s.requestPage o c e.va else s.failCopy o c 0 e
  | .ok r =>
    let l := lockOf false o.gid r.1 r.2
    if r.2 = 0 then s.begin o c
    else if c.locks.any (fun m => m.write && m.meets o.gid r.1 r.2) then
      s.failCopy o c 0 { code := codeRangeLocked, va := r.1, write := false }
    else if s.lockHeld o [l] then s
    else
      let first := (pw c.params 6).toNat
      let reads := [tabAddr c.params first, tabAddr c.params (first + c.valid)]
      let s1 := (s.noteReads o reads).begin o { c with locks := c.locks ++ [l] }
      if s.specOver o.gid o.core s1 then s else { s1 with locks := s1.locks ++ [(o.part, o.id, l)] }
/-- COPY_COMMAND_COMPLETION (R259, R260, R271). In a speculative group reads that the core's speculative state has no room for wait (R252). -/
def execCopyCommandCompletion (op : Nat) (fin : EngineEnd) (s : State) : Host.Outcome State Fault Refusal :=
  match s.op? op with
  | none => .next s
  | some o =>
    match o.command? with
    | none => .next s
    | some c =>
      if !c.started || !c.cmd.copies then .next s
      else
        let us := copyUnits o c
        let stop := !c.cancel.isEmpty && decide (fin.units < us.length)
        let r := State.runUnits o fin.part s 0 ((if stop then us.take fin.units else us).map (·.2))
        if s.specOver o.gid o.core r.1 then .next s
        else match r.2.2 with
        | some e =>
          if c.mends e then .next (s.requestPage o c e.va)
          else .next (r.1.failCopy o c ((us.map (·.1)).getD r.2.1 0) e)
        | none =>
          .next (r.1.closeCommand o c [if stop then statusWord 0x40 (infoOf r.2.1) else doneStatus c.valid] stop)

end Sys2Proof.Machine
end

