-- ==== Sys2Proof/Machine/FormatState.lean ====
section
/-! DEFINITION. Format definitions, statistics and the seed, opcodes 0x90 to 0x95 (R99 to R107). -/

namespace Sys2Proof.Machine

/-- The team with a definition register written. -/
def Team.setFdr (t : Team) (n : Nat) (d : Dbl) : Team :=
  { t with fmt := { t.fmt with fdr := sput (builtin 0) t.fmt.fdr n d } }

/-- FDEF (R102): an invalid definition takes ILLEGAL and leaves the register. -/
def execFdef (n : BitVec 4) (sa : SReg) (s : State) : Host.Outcome State Fault Refusal :=
  issue (.fdef n sa) s fun slot t =>
    let d := t.rd64 sa.toNat
    if fmtValid d then s.done slot (t.setFdr n.toNat d) else .next (s.illegal slot)

/-- A built-in definition with PACK (R103). -/
def builtinPacked (pair : Bool) (idx : Nat) : Dbl := if pair then builtin idx ||| 0x0000010000000000 else builtin idx
/-- FDEFI (R103). -/
def execFdefi (n : BitVec 4) (pair : Bool) (idx : BitVec 8) (s : State) : Host.Outcome State Fault Refusal :=
  issue (.fdefi n pair idx) s fun slot t => s.done slot (t.setFdr n.toNat (builtinPacked pair idx.toNat))

/-- FGET (R104). -/
def execFget (sd : SReg) (n : BitVec 4) (s : State) : Host.Outcome State Fault Refusal :=
  issue (.fget sd n) s fun slot t => s.done slot (t.wd64 sd.toNat (t.fdr n.toNat))

/-- A special-function instruction of the team has not made its statistics update (R99). -/
def State.statsPending (s : State) (slot gid : Nat) : Bool :=
  s.ops.any fun o => o.slot == slot && o.gid == gid && (match o.kind with | .sfu _ => true | _ => false)

/-- The statistics item of a selector (R105). -/
def Team.statItem (t : Team) (sel : Nat) : Word :=
  if sel < 16 then sget 0 t.fmt.amax sel
  else if sel = 16 then t.fmt.flags.zeroExtend 32
  else if sel = 17 then t.fmt.seed.extractLsb' 0 32
  else if sel = 18 then t.fmt.seed.extractLsb' 32 32
  else if sel = 19 then t.fmt.srcnt.extractLsb' 0 32
  else t.fmt.srcnt.extractLsb' 32 32
/-- STGET (R99, R105). -/
def execStget (sd : SReg) (sel : BitVec 8) (s : State) : Host.Outcome State Fault Refusal :=
  issue (.stget sd sel) s fun slot t =>
    if s.statsPending slot t.group then .next s else s.done slot (t.ws sd.toNat (t.statItem sel.toNat))

/-- The team with the statistics that STCLR names cleared (R106). -/
def Team.clearStats (t : Team) (co cn ca c1 : Bool) (n : Nat) : Team :=
  let keep : BitVec 4 := (if co then 0 else flagOvc) ||| (if cn then 0 else flagNan ||| flagNinf ||| flagPinf)
  { t with fmt := { t.fmt with
      flags := t.fmt.flags &&& keep
      amax := if ca then [] else if c1 then sput 0 t.fmt.amax n 0 else t.fmt.amax } }
/-- STCLR (R99, R106). -/
def execStclr (co cn ca c1 : Bool) (n : BitVec 4) (s : State) : Host.Outcome State Fault Refusal :=
  issue (.stclr co cn ca c1 n) s fun slot t =>
    if s.statsPending slot t.group then .next s else s.done slot (t.clearStats co cn ca c1 n.toNat)

/-- STSEED (R107). -/
def execStseed (sa : SReg) (s : State) : Host.Outcome State Fault Refusal :=
  issue (.stseed sa) s fun slot t => s.done slot { t with fmt := { t.fmt with seed := t.rd64 sa.toNat, srcnt := 0 } }

end Sys2Proof.Machine
end

