-- ==== Sys2Proof/Machine/Matrix.lean ====
section
/-! DEFINITION. Matrix instructions, opcodes 0xD8 to 0xE2 (R275 to R303): the unit's acceptance order, tiles, operand blocks and segments,
block-exact accumulation, tile management, drains and activation tables. -/

namespace Sys2Proof.Machine

/-! ## The unit (R275, R276) -/

/-- A command of the matrix unit. -/
def Command.matrix : Command → Bool
  | .mma | .mmal | .mmaw4 | .aczero | .acload | .acread | .acdrain | .atload => true
  | _ => false
/-- A command that writes a status word. -/
def Command.matrixStatus : Command → Bool
  | .mmal | .acload | .acdrain | .atload => true
  | _ => false
/-- The commands the unit of a core has accepted. -/
def onMatrix (core : Nat) (o : Op) : Bool := o.core == core && (match o.command? with | some c => c.cmd.matrix | none => false)
/-- A matrix instruction issues while the unit is not full (R275). -/
def matrixInstr (i : Instr) (s : State) (body : Nat → Team → Host.Outcome State Fault Refusal) : Host.Outcome State Fault Refusal :=
  issue i s fun slot t => if s.queueFull (onMatrix t.core) Config.unitQueue then .next s else body slot t
/-- The core tiles of group tile indices; none where one is not mapped (R277). -/
def State.tilesOf (s : State) (gid : Nat) (idx : List Nat) : Option (List Nat) :=
  match s.group? gid with
  | none => none
  | some g => idx.mapM fun i => if 128 ≤ i then none else match sget 0 g.tileMap i with | 0 => none | n + 1 => some n
/-- The element at an index of a core's tiles. -/
def CoreState.element (c : CoreState) (k : Nat) : Lane := { data := sget 0 c.tiles k, tag := sget false c.tileTags k, dead := false }
/-- The core with an element of its tiles written. -/
def CoreState.setElement (c : CoreState) (k : Nat) (x : Lane) : CoreState :=
  { c with tiles := sput 0 c.tiles k x.data, tileTags := sput false c.tileTags k x.tag }
/-- The index of element (m, n) of an array of tiles with nt columns of tiles (R277). -/
def elemIndex (tiles : List Nat) (nt m n : Nat) : Nat := 1024 * tiles.getD (m / 32 * nt + n / 32) 0 + 32 * (m % 32) + n % 32
/-- Tiles with every element zero and every tag clear. -/
def CoreState.clearTile (c : CoreState) (t : Nat) : CoreState :=
  let here (k : Nat) : Bool := decide (1024 * t ≤ k ∧ k < 1024 * (t + 1))
  { c with tiles := c.tiles.filter fun e => !here e.1, tileTags := c.tileTags.filter fun e => !here e.1 }

/-! ## Operand blocks (R278 to R282) -/

/-- MXINT8 (R91). -/
def mxInt8 : Fmt :=
  { w := 8, m := 0, sign := true, kind := 3, e := 0, bias := 0, frac := 6, pack := false, ovf := false, sub := 0, inf := 0, nan := 0,
    drnd := 0 }
/-- The element format of a code 1 to 6 (R278). -/
def mxFmt (code : Nat) : Fmt := if code = 6 then mxInt8 else fmtOf (builtin (code + 2))
/-- The format of an operand: its code, the slot's definition for code 0, in-data selection. -/
structure Operand where
  code : Nat
  fmt : Fmt
  data : Bool
  deriving DecidableEq, Repr
/-- The 32 values of an MX block: selector, scale and elements (R91, R279). -/
def Operand.mxBlock (p : Operand) (sel z bits : Nat) : List Val :=
  let c := if p.data then sel else p.code
  if c = 0 ∨ 6 < c ∨ z = 255 then List.replicate 32 .nan
  else (List.range 32).map fun q => (decodeVal (mxFmt c) (bits / 2 ^ (q * mxWidth c) % 2 ^ mxWidth c)).scale ((z : Int) - 127)
/-- A row of an A block in registers (R281), or the token of its first poisoned register (R284). -/
def Operand.row (p : Operand) (regs : List Lane) : Except Word (List Val) := do
  let ws ← regs.mapM Lane.read
  let x := leNat ((ws.map fun w => leBytes 4 w.toNat).flatten)
  if p.code = 0 then
    let n := max p.fmt.count 1
    let cw := if p.fmt.pack then 64 else 32
    pure ((List.range 32).map fun q => p.fmt.element (x / 2 ^ (cw * (q / n)) % 2 ^ cw) (q % n))
  else
    let h := (ws.getD (ws.length - 1) 0).toNat
    pure (p.mxBlock (h % 256) (h / 256 % 256) x)
/-- The most bytes a segment of an operand has (R282). -/
def Operand.bytes (p : Operand) : Nat := if p.code = 0 then 4 * p.fmt.w else 2 + 4 * (if p.data then 8 else mxWidth p.code)
/-- A byte of a segment (R282, R284): only the scratchpad and vault windows hold segments. -/
def State.segmentByte (s : State) (o : Op) (va : Nat) : Except EngineFail Byte :=
  match windowOf va with
  | .translated | .none => .error { code := codeProtection, va := va, write := false }
  | _ => do
    let b ← s.engineByte o va
    if s.locks.any fun l => l.1 == o.part && l.2.1 != o.id && l.2.2.write && l.2.2.meets o.gid va 1 then
      .error { code := codeRangeLocked, va := va, write := false }
    else pure b.2
/-- The bytes of a segment. -/
def State.segmentBytes (s : State) (o : Op) (va n : Nat) : Except EngineFail (List Byte) :=
  (List.range n).mapM fun j => s.segmentByte o ((va + j) % 2 ^ 64)
/-- The addresses of n bytes. -/
def addrs (va n : Nat) : List Nat := (List.range n).map fun j => (va + j) % 2 ^ 64
/-- A segment's 32 values (R282), and the addresses read. -/
def State.segment (s : State) (o : Op) (p : Operand) (va : Nat) : List Nat × Except EngineFail (List Val) :=
  if p.code = 0 then
    (addrs va (4 * p.fmt.w), do
      let x := leNat (← s.segmentBytes o va (4 * p.fmt.w))
      pure ((List.range 32).map fun q => p.fmt.element x q))
  else
    let n := match s.segmentBytes o va 1 with
      | .ok (b :: _) => if p.data then (if 1 ≤ b.toNat ∧ b.toNat ≤ 6 then 2 + 4 * mxWidth b.toNat else 2) else 2 + 4 * mxWidth p.code
      | _ => 2
    (addrs va n, do
      let bs ← s.segmentBytes o va n
      pure (p.mxBlock (bs.getD 0 0).toNat (bs.getD 1 0).toNat (leNat (bs.drop 2))))
/-- MMAW4's column n (R290): sixteen bytes of weights, and the word of its scale and zero point. -/
def State.segmentW4 (s : State) (o : Op) (va sz : Nat) : List Nat × Except EngineFail (List Val) :=
  (addrs va 16 ++ addrs sz 4, do
    let x := leNat (← s.segmentBytes o va 16)
    let h := leNat (← s.segmentBytes o sz 4)
    let bf := fmtOf (builtin 2)
    let g := decodeVal bf (h % 65536)
    pure ((List.range 32).map fun q =>
      decodeVal bf (encodeVal bf 0 false 0
        (mulVals (Val.ofInt (((x / 16 ^ q % 16 : Nat) : Int) - (h / 65536 % 256 : Nat)) 0) g).exact).code))

/-! ## Block-exact accumulation (R283, R284) -/

/-- One block's sum, rounded once (R283). -/
def blockSum (a b : List Val) : Word :=
  word (toF32 0 false 0 (sumVals false ((a.zip b).map fun p => mulVals p.1 p.2)).exact).code
/-- An element after a block: poison of the row, of the column, of the old element, else the sum (R283, R284). -/
def blockElement (ovw : Bool) (old : Lane) (a b : Except Word (List Val)) : Lane :=
  laneOf (do
    let x ← a
    let y ← b
    if ovw then pure (blockSum x y)
    else
      let c ← old.read
      pure (addF32 c (blockSum x y)))
/-- A block over rows and columns; whether an element came out poisoned. -/
def State.blockStep (s : State) (core : Nat) (tiles : List Nat) (nt : Nat) (ovw : Bool) (rows cols : List (Nat × Except Word (List Val))) :
    State × Bool :=
  let c0 := s.core core
  let xs := (rows.map fun r => cols.map fun k =>
    let i := elemIndex tiles nt r.1 k.1
    (i, blockElement ovw (c0.element i) r.2 k.2)).flatten
  (s.onCore core fun c => xs.foldl (fun c x => c.setElement x.1 x.2) c, xs.any (·.2.tag))
/-- A record of a failing segment: the row or column is its unit (R260, R284). -/
def State.segmentRecord (s : State) (o : Op) (u : Nat) (e : EngineFail) : State × Word :=
  let r := s.unitRecord o { code := e.code, rflags := 1, lane := u, detail := 5 * 2 ^ 16, pc := o.pc, va := BitVec.ofNat 64 e.va }
  (r.1, tokenOf e.code r.2)
/-- Segments read one after another, each failure with a record of its own. -/
def State.segments (o : Op) (f : State → Nat → List Nat × Except EngineFail (List Val)) :
    State → List Nat → State × List (Nat × Except Word (List Val))
  | s, [] => (s, [])
  | s, u :: us =>
    let x := f s u
    let s1 := s.noteReads o x.1
    match x.2 with
    | .ok vs =>
      let r := State.segments o f s1 us
      (r.1, (u, .ok vs) :: r.2)
    | .error e =>
      let k := s1.segmentRecord o u e
      let r := State.segments o f k.1 us
      (r.1, (u, .error k.2) :: r.2)

/-! ## MMA and MMAW4 (R285 to R290) -/

/-- The A operand in MXM. -/
def operandOf (mxm : Half) (lo : Nat) (d : Dbl) (data : Bool) : Operand :=
  { code := (mxm.extractLsb' lo 4).toNat, fmt := fmtOf d, data := data }
/-- bfloat16 as MMAW4 takes A. -/
def w4Operand : Operand := { code := 0, fmt := fmtOf (builtin 2), data := false }
/-- The registers of an A block, lane by lane. -/
def Team.aBlock (t : Team) (va n : Nat) : List (List Lane) := (List.range n).map fun j => (List.range t.lanes).map fun l => t.lane (va + j) l
/-- Registers marked dead in every lane whose row was computed (R286). -/
def Team.killRows (t : Team) (va n : Nat) : Team :=
  (List.range n).foldl (fun t j => t.wv (va + j) fun l => if t.exec l then some { t.lane (va + j) l with dead := true } else none) t
/-- The rows that exec words select. -/
def selectedRows (ws : List Word) : List Nat := (List.range (32 * ws.length)).filter fun l => maskBit ws l
/-- MMA or MMAW4 issues: A's format and block, B's and the scales' ranges (R285 to R288, R290). -/
def mmaInstr (i : Instr) (s : State) (w4 : Bool) (tile : BitVec 7) (va : VReg) (j : BitVec 5) (ra la ovw : Bool) :
    Host.Outcome State Fault Refusal :=
  matrixInstr i s fun slot t =>
    let ps := (List.range 8).map fun n => if n < (if w4 then 6 else 4) then t.rs (8 * j.toNat + n) else 0
    let nt := pf ps 3 0 4 + 1
    let mx := s.mxsel t
    let fmt := if w4 then w4Format else t.aFormat
    let n := if w4 then 16 else t.aCount mx
    let b := operandOf t.mxm 4 (t.fdr (t.mx 12)) mx
    match s.tilesOf t.group ((List.range (t.beats * nt)).map (tile.toNat + ·)) with
    | none => s.badCommand slot
    | some ts =>
      if pf ps 2 24 8 ≠ 0 ∨ pf ps 3 4 28 ≠ 0 then s.badCommand slot
      else
        let rows := if t.latched va.toNat fmt then (match t.latch with | some l => l.rows | none => []) else t.aBlock va.toNat n
        let seg := if w4 then 16 else b.bytes
        let locks := locksOf t.group
          ([(pd ps 0, (32 * nt - 1) * pf ps 2 0 24 + seg)] ++ if w4 then [(pd ps 4, 128 * nt)] else []) []
        let c := { newCommand (if w4 then .mmaw4 else .mma) (ps ++ t.execWindow) nt (32 * t.beats) 0 locks with
          sdCount := 0, unit := if ovw then 1 else 0, extra := ts, rows := rows, defs := [t.fdr (t.mx 8), t.fdr (t.mx 12)], mxm := t.mxm }
        let regs := (span va.toNat n).map fun r => (r, la)
        (s.dropOperands slot t regs).issueCommand slot t c locks.length [] fun u =>
          let u1 := { u with latch := if ra then some { va := va.toNat, fmt := fmt.1, slotDef := fmt.2, rows := rows } else none }
          if la then u1.killRows va.toNat n else u1
/-- MMA (R285). -/
def execMma (tile : BitVec 7) (va : VReg) (j : BitVec 5) (ra la ovw : Bool) (s : State) : Host.Outcome State Fault Refusal :=
  mmaInstr (.mma tile va j ra la ovw) s false tile va j ra la ovw
/-- MMAW4 (R290). -/
def execMmaw4 (tile : BitVec 7) (va : VReg) (j : BitVec 5) (ra la ovw : Bool) (s : State) : Host.Outcome State Fault Refusal :=
  mmaInstr (.mmaw4 tile va j ra la ovw) s true tile va j ra la ovw
/-- The elements that an MMA, an MMAW4 or an MMAL computes. -/
def CommandOp.computed (c : CommandOp) : List Nat :=
  let nt := if c.cmd = .mmal then pf c.params 5 8 4 + 1 else pf c.params 3 0 4 + 1
  let rows := if c.cmd = .mmal then List.range c.valid else selectedRows (c.params.drop 8)
  (rows.map fun m => (List.range (32 * nt)).map fun n => elemIndex c.extra nt m n).flatten
/-- The effect of an MMA or MMAW4 (R286). -/
def State.runMma (s : State) (o : Op) (c : CommandOp) (data : Bool) : State :=
  let ps := c.params
  let nt := pf ps 3 0 4 + 1
  let w4 := decide (c.cmd = .mmaw4)
  let a := if w4 then w4Operand else operandOf c.mxm 0 (c.defs.getD 0 0) data
  let b := operandOf c.mxm 4 (c.defs.getD 1 0) data
  let col (s : State) (n : Nat) : List Nat × Except EngineFail (List Val) :=
    let va := (pd ps 0 + n * pf ps 2 0 24) % 2 ^ 64
    if w4 then s.segmentW4 o va ((pd ps 4 + 4 * n) % 2 ^ 64) else s.segment o b va
  let cs := State.segments o col s (List.range (32 * nt))
  let rows := (selectedRows (ps.drop 8)).map fun l => (l, a.row (c.rows.map fun r => r.getD l Lane.zero))
  (cs.1.blockStep o.core c.extra nt (c.unit == 1) rows cs.2).1

/-! ## MMAL (R291, R292) -/

/-- The range of segments at two pitches, the first signed (R292). -/
def segmentRange (base : Nat) (inc : Int) (steps pitch n seg : Nat) : Nat × Nat :=
  if n = 0 then (base, 0) else rowRange base inc steps ((n - 1) * pitch + seg)
/-- MMAL (R291). -/
def execMmal (sd sa sb : SReg) (s : State) : Host.Outcome State Fault Refusal :=
  matrixInstr (.mmal sd sa sb) s fun slot t =>
    let ps := t.params sa
    let mt := pf ps 5 15 5 + 1
    let nt := pf ps 5 8 4 + 1
    let k := pf ps 5 20 12
    let v := validCount t sb (32 * mt)
    let mx := s.mxsel t
    let a := operandOf t.mxm 0 (t.fdr (t.mx 8)) mx
    let b := operandOf t.mxm 4 (t.fdr (t.mx 12)) mx
    match s.tilesOf t.group ((List.range (mt * nt)).map (pf ps 5 0 7 + ·)) with
    | none => s.badCommand slot
    | some ts =>
      if k = 0 ∨ pf ps 5 13 2 ≠ 0 ∨ pf ps 5 7 1 ≠ 0 then s.badCommand slot
      else
        let locks := locksOf t.group
          [segmentRange (pd ps 0) (ps32 ps 6) k (pf ps 4 16 16) v a.bytes,
           segmentRange (pd ps 2) (ps32 ps 7) k (pf ps 4 0 16) (if v = 0 then 0 else 32 * nt) b.bytes] []
        let c := { newCommand .mmal ps v (32 * mt) sd locks with
          extra := ts, defs := [t.fdr (t.mx 8), t.fdr (t.mx 12)], mxm := t.mxm, need := 6 }
        s.issueCommand slot t c locks.length [] id
/-- The steps of an MMAL from one on; fuel counts them (R292). -/
def State.runMmal (o : Op) (c : CommandOp) (data : Bool) : Nat → Nat → State → Bool → State × Bool
  | 0, _, s, p => (s, p)
  | n + 1, k, s, p =>
    let ps := c.params
    let nt := pf ps 5 8 4 + 1
    let a := operandOf c.mxm 0 (c.defs.getD 0 0) data
    let b := operandOf c.mxm 4 (c.defs.getD 1 0) data
    let rs := State.segments o (fun s m => s.segment o a (wrap64 (pd ps 0 + k * ps32 ps 6 + m * pf ps 4 16 16))) s (List.range c.valid)
    let cs := State.segments o (fun s m => s.segment o b (wrap64 (pd ps 2 + k * ps32 ps 7 + m * pf ps 4 0 16))) rs.1
      (List.range (if c.valid = 0 then 0 else 32 * nt))
    let r := cs.1.blockStep o.core c.extra nt (decide (pf ps 5 12 1 = 1 ∧ k = 0)) rs.2 cs.2
    State.runMmal o c data n (k + 1) r.1 (p || r.2)

/-! ## Tile management (R293 to R295) -/

/-- MFMT (R280). -/
def execMfmt (imm : BitVec 16) (s : State) : Host.Outcome State Fault Refusal :=
  matrixInstr (.mfmt imm) s fun slot t => s.done slot { t with mxm := imm }
/-- The lowest run of c unmapped group tile indices. -/
def Group.freeRun (g : Group) (c : Nat) : Option Nat :=
  (List.range 129).find? fun t => decide (t + c ≤ 128) && (List.range c).all fun j => sget 0 g.tileMap (t + j) == 0
/-- The free tiles of a core, lowest first. -/
def CoreState.freeTiles (c : CoreState) : List Nat := (List.range Config.tiles).filter fun t => !sget false c.tileUsed t
/-- Group tile indices from t mapped to core tiles. -/
def mapTiles (m : Sparse Nat) (t : Nat) (ts : List Nat) : Sparse Nat :=
  (ts.zip (List.range ts.length)).foldl (fun m x => sput 0 m (t + x.2) (x.1 + 1)) m
/-- Tiles of a core taken from the pool, zero with tags clear. -/
def CoreState.takeTiles (c : CoreState) (ts : List Nat) : CoreState :=
  ts.foldl (fun (c : CoreState) t => let d := c.clearTile t; { d with tileUsed := sput false d.tileUsed t true }) c
/-- ACALLOC (R293). -/
def execAcalloc (sd sa : SReg) (s : State) : Host.Outcome State Fault Refusal :=
  matrixInstr (.acalloc sd sa) s fun slot t =>
    let c := (t.rs sa.toNat).toNat
    if c = 0 ∨ 128 < c then s.badCommand slot
    else
      let ts := (s.core t.core).freeTiles
      match (s.group? t.group).bind fun g => g.freeRun c with
      | some r =>
        if ts.length < c then s.done slot (t.ws sd.toNat 0xFFFFFFFF)
        else
          let s1 := s.onCore t.core fun x => x.takeTiles (ts.take c)
          (s1.onGroup t.group fun g => { g with tileMap := mapTiles g.tileMap r (ts.take c) }).done slot (t.ws sd.toNat (word r))
      | none => s.done slot (t.ws sd.toNat 0xFFFFFFFF)
/-- ACFREE (R293). -/
def execAcfree (sa sb : SReg) (s : State) : Host.Outcome State Fault Refusal :=
  matrixInstr (.acfree sa sb) s fun slot t =>
    let lo := (t.rs sa.toNat).toNat
    let n := (t.rs sb.toNat).toNat
    if n ≠ 0 ∧ 128 < lo + n then s.badCommand slot
    else match s.tilesOf t.group ((List.range n).map (lo + ·)) with
      | none => s.badCommand slot
      | some ts =>
        let users (x : Nat) : List Nat := (s.ops.filter fun o => onMatrix t.core o && (match o.command? with
          | some c => c.extra.contains x
          | none => false)).map (·.id)
        let s1 := s.onGroup t.group fun g => { g with tileMap := (List.range n).foldl (fun m j => sput 0 m (lo + j) 0) g.tileMap }
        let s2 := s1.onCore t.core fun c => { c with freeing := c.freeing ++ ts.map fun x => { tile := x, after := users x } }
        (s2.reclaim t.core).done slot t
/-- ACZERO (R293); its issue, as that of every matrix command, is a release (R245). -/
def execAczero (sa sb : SReg) (s : State) : Host.Outcome State Fault Refusal :=
  matrixInstr (.aczero sa sb) s fun slot t =>
    let lo := (t.rs sa.toNat).toNat
    let n := (t.rs sb.toNat).toNat
    if n ≠ 0 ∧ 128 < lo + n then s.badCommand slot
    else match s.tilesOf t.group ((List.range n).map (lo + ·)) with
      | none => s.badCommand slot
      | some ts =>
        if n = 0 then s.done slot t
        else
          let c := { newCommand .aczero [] n n 0 [] with sdCount := 0, extra := ts }
          s.issueCommand slot t c 0 [] id
/-- ACLOAD (R294). -/
def execAcload (sd sa sb : SReg) (s : State) : Host.Outcome State Fault Refusal :=
  matrixInstr (.acload sd sa sb) s fun slot t =>
    let ps := (List.range 4).map fun n => t.rs (sa.toNat + n)
    let mt := pf ps 3 16 5 + 1
    let nt := pf ps 3 8 4 + 1
    let v := validCount t sb (32 * mt)
    match s.tilesOf t.group ((List.range (mt * nt)).map (pf ps 3 0 7 + ·)) with
    | none => s.badCommand slot
    | some ts =>
      if pf ps 3 7 1 ≠ 0 ∨ pf ps 3 12 4 ≠ 0 ∨ pf ps 3 21 11 ≠ 0 then s.badCommand slot
      else
        let locks := locksOf t.group [rowRange (pd ps 0) (ps32 ps 2) v (128 * nt)] []
        s.issueCommand slot t { newCommand .acload ps v (32 * mt) sd locks with extra := ts } locks.length [] id
/-- ACREAD (R295). Its tiles are those of the beats that have an active lane; its unit field holds keep (R46). -/
def execAcread (vd : VReg) (sb : SReg) (la keep : Bool) (s : State) : Host.Outcome State Fault Refusal :=
  matrixInstr (.acread vd sb la keep) s fun slot t =>
    let w := (t.rs sb.toNat).toNat
    let nc := bitsOf w 21 5 + 1
    let c0 := bitsOf w 16 5
    let lanes := t.activeLanes
    let beats := (lanes.map (· / 32)).eraseDups
    match s.tilesOf t.group (beats.map fun b => bitsOf w 0 7 + b * bitsOf w 8 7) with
    | none => s.badCommand slot
    | some ts =>
      if 32 < c0 + nc ∨ t.nvregs < vd.toNat + nc then s.badCommand slot
      else match t.failures.find? (fun f => f.hits [] (span vd.toNat nc)) with
        | some f => .next (s.trap slot (f.report t))
        | none =>
          if (span vd.toNat nc).any t.vEmpty then .next s
          else
            let ps := [word vd.toNat, word nc, word c0] ++ List.replicate 5 0 ++ t.lanesMask lanes
            let c := { newCommand .acread ps nc nc 0 [] with sdCount := 0, extra := ts }
            s.issueCommand slot t c 0 [] fun u => u.mark true (.vec vd.toNat nc)
/-- The effect of an ACREAD on its team. -/
def readTiles (c : CommandOp) (x : CoreState) (t : Team) : Team :=
  let ps := c.params
  let vd := (pw ps 0).toNat
  let nc := (pw ps 1).toNat
  let lanes := selectedRows (ps.drop 8)
  let beats := (lanes.map (· / 32)).eraseDups
  let tile (b : Nat) : Nat := ((beats.zip c.extra).find? fun p => p.1 == b).elim 0 (·.2)
  ((List.range nc).foldl (fun (t : Team) j => t.wv (vd + j) fun l =>
    if lanes.contains l then some (x.element (1024 * tile (l / 32) + 32 * (l % 32) + ((pw ps 2).toNat + j))) else none) t).mark false (.vec vd nc)

/-! ## Activation tables (R300 to R302) -/

/-- The FP32 word at an offset of a bank of a table. -/
def CoreState.tableWord (c : CoreState) (tab : Nat) (bank : Bool) (off : Nat) : Val :=
  let k := (2 * tab + (if bank then 1 else 0)) * 2064 + off
  ofF32 (word (leNat ((List.range 4).map fun j => sget 0 c.atab (k + j))))
/-- The segment of x in a table (R300). -/
def tableSegment (lo hi x : Val) : Nat :=
  match lo, hi with
  | .fin _ _ e, .fin _ _ d =>
    if lo.lt hi then
      match x with
      | .fin _ _ f =>
        let g := min (min e d) f
        (max 0 (min 255 (256 * (x.intAt g - lo.intAt g) / (hi.intAt g - lo.intAt g)))).toNat
      | .inf neg => if neg then 0 else 255
      | .nan => 0
    else 0
  | _, _ => 0
/-- The value of a table at x (R300). -/
def CoreState.evalTable (c : CoreState) (tab : Nat) (bank : Bool) (x : Word) : Word :=
  let v := ofF32 x
  let g := tableSegment (c.tableWord tab bank 0) (c.tableWord tab bank 4) v
  let slope := c.tableWord tab bank (16 + 8 * g)
  let icept := c.tableWord tab bank (20 + 8 * g)
  let y : Val := match v with
    | .nan => .nan
    | .inf _ => if slope.isZero then icept else mulVals slope v
    | _ => sumVals false [mulVals slope v, icept]
  word (toF32 0 false 0 y.exact).code
/-- ATLOAD (R301). -/
def execAtload (sd sa : SReg) (s : State) : Host.Outcome State Fault Refusal :=
  matrixInstr (.atload sd sa) s fun slot t =>
    let ps := (List.range 3).map fun n => t.rs (sa.toNat + n)
    if pf ps 2 2 30 ≠ 0 then s.badCommand slot
    else
      let locks := locksOf t.group [(pd ps 0, 2064)] []
      s.issueCommand slot t (newCommand .atload ps 1 1 sd locks) locks.length [] id
/-- The table of an ATLOAD or of a drain's activation stage. -/
def CommandOp.table? (c : CommandOp) : Option Nat :=
  if c.cmd = .atload then some (pf c.params 2 0 2)
  else if c.cmd = .acdrain ∧ pf c.params 0 29 1 = 1 then some (pf c.params 0 24 2)
  else none
/-- A drain's bank: the one kept for it, or the active one (R302). -/
def CommandOp.bank (c : CommandOp) (x : CoreState) (tab : Nat) : Bool := if c.unit = 0 then sget false x.atabBank tab else c.unit == 2
/-- Drains accepted before an ATLOAD keep the bank that is active now (R302). -/
def keepBank (core tab : Nat) (active : Bool) (o : Op) : Op :=
  match o.kind with
  | .command c =>
    if o.core = core ∧ c.cmd = .acdrain ∧ c.table? = some tab ∧ c.unit = 0 then
      { o with kind := .command { c with unit := if active then 2 else 1 } }
    else o
  | _ => o
/-- The effect of an ATLOAD (R301): the inactive bank is filled and becomes active. -/
def State.loadTable (s : State) (o : Op) (c : CommandOp) (bs : List Byte) : State × Word :=
  let tab := pf c.params 2 0 2
  let active := sget false (s.core o.core).atabBank tab
  let k := (2 * tab + (if active then 0 else 1)) * 2064
  let gen := sget 0 (s.core o.core).atabGen tab + 1
  let s1 := { s with ops := s.ops.map fun (p : Op) => if p.id < o.id then keepBank o.core tab active p else p }
  (s1.onCore o.core fun x =>
    { x with atab := (bs.zip (List.range bs.length)).foldl (fun m (b : Byte × Nat) => sput 0 m (k + b.2) b.1) x.atab,
             atabBank := sput false x.atabBank tab (!active), atabGen := sput 0 x.atabGen tab gen }, gen)

/-! ## ACDRAIN (R296 to R299) -/

/-- Bit of a drain's P0. -/
def drainBit (ps : List Word) (n : Nat) : Bool := pf ps 0 n 1 == 1
/-- The bytes of the scales of a record's groups under SMODE 1 or 2 (R298). -/
def scaleRange (b : BufRec) : List (Nat × Nat) :=
  if (b.smode = 1 ∨ b.smode = 2) ∧ b.len ≠ 0 then
    let groups := (8 * b.len - 1) / b.ew / 2 ^ (b.sgrp + 5) + 1
    [(b.sptr.toNat, if b.smode = 1 then groups else 4 * groups)]
  else []
/-- The record among a drain's captured parameters. -/
def drainRecord (ps : List Word) : BufRec := recordOf (leNat ((((ps.drop 8).map fun w => leBytes 4 w.toNat)).flatten))
/-- A drain issues with its record, if it packs. -/
def State.issueDrain (s : State) (slot : Nat) (t : Team) (sd sb : SReg) (ps : List Word) (rec? : Option Nat) :
    Host.Outcome State Fault Refusal :=
  let mt := pf ps 0 16 5 + 1
  let nt := pf ps 0 8 4 + 1
  let v := validCount t sb (32 * mt)
  match s.tilesOf t.group ((List.range (mt * nt)).map (pf ps 0 0 7 + ·)) with
  | none => s.badCommand slot
  | some ts =>
    let words := match rec? with
      | some x => (List.range 10).map fun j => word (x / 2 ^ (32 * j))
      | none => []
    let b := rec?.map recordOf
    let reads := if drainBit ps 28 && decide (v ≠ 0) then [(pd ps 2, 128 * nt)] else []
    let writes := if v = 0 then [] else match b with
      | some r => (r.base.toNat, r.len) :: scaleRange r
      | none => []
    if reads.any (fun r => writes.any fun w => rangesMeet t.group r w) then s.badCommand slot
    else
      let locks := locksOf t.group reads writes
      let c := { newCommand .acdrain (ps ++ words) v (32 * mt) sd locks with
        extra := ts, defs := match b with | some r => [t.fdr r.fslot] | none => [] }
      s.issueCommand slot t c locks.length [] id
/-- ACDRAIN (R296). Its record is read at issue, as a buffer access reads it (R206, R221, R252). -/
def execAcdrain (sd sa sb : SReg) (s0 : State) : Host.Outcome State Fault Refusal :=
  matrixInstr (.acdrain sd sa sb) s0 fun slot t =>
    let ps := t.params sa
    let pack := drainBit ps 31
    let n := pf ps 1 0 12
    if pf ps 0 21 3 ≠ 0 ∨ pf ps 0 12 4 ≠ 0 ∨ pf ps 0 7 1 ≠ 0 ∨ pf ps 1 12 20 ≠ 0 ∨
        (pack = false ∧ (drainBit ps 27 = true ∨ drainBit ps 26 = true)) then s0.badCommand slot
    else if !pack then s0.issueDrain slot t sd sb ps none
    else
    let s := s0.registerOthers slot t (s0.recordPlace t n)
    if s0.acquiring slot t.group || s0.specFull t.group t.core (s0.recordPlace t n) then .next s0
    else if !s.present slot t then .next s
    else match s.readRecord slot t n with
      | .absent =>
        .next ({ s with freeCount := s.freeCount + 1 }.teamFault slot t codeOutOfBounds 15 (Config.openAddress (s.freeCount + 1)).toNat n false 40)
      | .fails code path => .next (s.teamFault slot t code path (t.recordAddr n) n false 40)
      | .bits x =>
        if !recordValid t x || decide ((recordOf x).enc = 3) then s.badCommand slot
        else (s.cacheRecord t n).issueDrain slot t sd sb ps (some x)

/-- Why a drain stops at an element. -/
inductive DrainStop where
  | poison (token : Word)
  | fails (e : EngineFail)
  deriving DecidableEq, Repr
/-- An element drained: its row and column, its value, and where it is packed. -/
structure Drained where
  m : Nat
  n : Nat
  x : Word
  elem : Option Elem
  deriving DecidableEq, Repr
/-- An element through the stages of a drain (R297). -/
def drainStages (c : CommandOp) (core : CoreState) (bias : List Word) (n : Nat) (x : Word) : Word :=
  let ps := c.params
  let x1 := if drainBit ps 28 then addF32 x (bias.getD n 0) else x
  let x2 := if drainBit ps 29 then core.evalTable (pf ps 0 24 2) (c.bank core (pf ps 0 24 2)) x1 else x1
  if drainBit ps 30 then
    word (toF32 0 false 0 (sumVals false [mulVals (ofF32 x2) (ofF32 (pw ps 4)), ofF32 (pw ps 5)]).exact).code
  else x2
/-- Where an element is packed (R203, R297): nowhere, or the keys of its bytes and of its scale. -/
def State.drainPlace (s : State) (o : Op) (c : CommandOp) (b : BufRec) (cols m n : Nat) : Except EngineFail (Option Elem) := do
  let ps := c.params
  let i := (pw ps 6).toNat + (if drainBit ps 26 then n * (pw ps 7).toNat + m else m * (pw ps 7).toNat + n)
  let p := b.position i
  match b.place true p with
  | .error _ => .error { code := codeOutOfBounds, va := b.addr p, write := true }
  | .ok none => pure none
  | .ok (some p) =>
    let keys ← (addrs (b.addr p) (b.span p)).mapM (s.engineKey o .write)
    let sc := b.scaleAt p
    let scale ← (addrs sc.1 sc.2).mapM fun a =>
      if b.smode = 1 then s.engineKey o .write a else (s.engineByte o a).map (·.1)
    pure (some { lane := m * cols + n + 1, q := 0, va := BitVec.ofNat 64 (b.addr p), keys := keys, bit := p * b.ew % 8, scale := scale,
                 scaleVa := BitVec.ofNat 64 sc.1 })
/-- An element drained, or why the drain stops at it. -/
def State.drainElement (s : State) (o : Op) (c : CommandOp) (b : Option BufRec) (bias : List Word) (nt m n : Nat) :
    Except DrainStop Drained :=
  let core := s.core o.core
  let x := core.element (elemIndex c.extra nt m n)
  if x.tag then .error (.poison x.data)
  else
    let y := drainStages c core bias n x.data
    match b with
    | none => .ok { m := m, n := n, x := y, elem := none }
    | some r => match s.drainPlace o c r (32 * nt) m n with
      | .ok e => .ok { m := m, n := n, x := y, elem := e }
      | .error e => .error (.fails e)
/-- The rows of a drain until one stops: what is drained in full, and where it stops with what else that row holds. -/
def State.drainRows (s : State) (o : Op) (c : CommandOp) (b : Option BufRec) (bias : List Word) (nt : Nat) :
    List Nat → List Drained × Option (Nat × DrainStop × List Drained)
  | [] => ([], none)
  | m :: ms =>
    let xs := (List.range (32 * nt)).map fun n => s.drainElement o c b bias nt m n
    let good := xs.filterMap fun x => match x with | .ok d => some d | .error _ => none
    match xs.findSome? fun x => match x with | .error e => some e | .ok _ => none with
    | some e => ([], some (m, e, good))
    | none =>
      let r := State.drainRows s o c b bias nt ms
      (good ++ r.1, r.2)
/-- A record whose scales the pack stage chooses (R91, R205). -/
def BufRec.choosesScale (b : BufRec) : Bool := b.enc == 2 && b.smode == 1
/-- The flags of drained elements, bit 0 PINF, 1 NINF, 2 NAN (R297); an infinity that makes a scale 0xFF sets NAN too (R91). -/
def drainFlags (b : Option BufRec) (xs : List Drained) : Nat :=
  let scaled (d : Drained) : Bool := (match b with | some r => r.choosesScale | none => false) && d.elem.isSome
  (if xs.any (fun d => (ofF32 d.x).isInf false) then 1 else 0) + (if xs.any (fun d => (ofF32 d.x).isInf true) then 2 else 0) +
    (if xs.any (fun d => (ofF32 d.x).isNan || (scaled d && ((ofF32 d.x).isInf false || (ofF32 d.x).isInf true))) then 4 else 0)
/-- The bytes of some packed elements, in order, as (element, key). -/
def packedBytes (ds : List Drained) : List (Nat × Nat) :=
  (ds.filterMap (·.elem)).flatMap fun e => e.keys.map fun k => (e.lane, k)
/-- The pack stage (R205, R297): elements of full rows, and of a row that stops the bytes that `part` names. -/
def State.drainPack (s : State) (o : Op) (c : CommandOp) (b : BufRec) (full rest : List Drained) (part : Nat) : State × Bool :=
  let f := fmtOf (c.defs.getD 0 0)
  let rb := packedBytes rest
  let chosen := ((rb.zip (List.range rb.length)).filter fun x => part.testBit x.2).map (·.1)
  let touched := rest.filter fun d => match d.elem with | some e => chosen.any (·.1 == e.lane) | none => false
  let all := full ++ touched
  let vals : Sparse Word := all.filterMap fun d => d.elem.map fun e => (e.lane, d.x)
  let raw (e : Elem) : Nat := (sget 0 vals e.lane).toNat
  let xOf (e : Elem) : Val := ofF32 (sget 0 vals e.lane)
  let es := all.filterMap (·.elem)
  let read (k : Nat) : Byte := s.homeByte o.gid k
  let part? (l : Nat) : Bool := touched.any fun d => match d.elem with | some e => e.lane == l | none => false
  let scale? (k : Nat) : Bool := b.smode == 1 && es.any fun e => e.scale.contains k
  let ws := (b.writesBy f read xOf raw es).filter fun w => !part? w.lane || scale? w.key || chosen.contains (w.lane, w.key)
  let ovc := (full.filterMap (·.elem)).any fun e => !e.keys.isEmpty && (b.elemEnc f read xOf raw es e).ovc
  (s.engineMask o (ws.map fun w => (w.key, w.mask, w.val)), ovc)
/-- Tiles written back by a drain that does not pack: full rows, and the bytes of a row that stops that `part` names (R297). -/
def drainBack (c : CommandOp) (nt : Nat) (full rest : List Drained) (part : Nat) (x : CoreState) : CoreState :=
  let idx (d : Drained) : Nat := elemIndex c.extra nt d.m d.n
  let x1 := full.foldl (fun (x : CoreState) d => x.setElement (idx d) { data := d.x, tag := false, dead := false }) x
  rest.foldl (fun (x : CoreState) d =>
    let old := (x.element (idx d)).data
    let bs := (List.range 4).map fun j =>
      BitVec.ofNat 8 ((if part.testBit (4 * d.n + j) then d.x else old).toNat / 2 ^ (8 * j))
    x.setElement (idx d) { data := word (leNat bs), tag := false, dead := false }) x1
/-- A status register is marked as holding a drain's fault (R299). -/
def State.markDrain (s : State) (o : Op) (sd : Nat) (token : Word) : State :=
  s.deliver o fun t => { t with drains := t.drains ++ [{ reg := sd, pc := o.pc, token := token, vaddr := 0 }] }
/-- The effect of a drain (R297 to R299). -/
def State.runDrain (s : State) (o : Op) (c : CommandOp) (part : Nat) : State :=
  let ps := c.params
  let nt := pf ps 0 8 4 + 1
  let b := if drainBit ps 31 then some (drainRecord ps) else none
  let biasVas := if drainBit ps 28 && decide (c.valid ≠ 0) then addrs (pd ps 2) (128 * nt) else []
  match biasVas.mapM (s.engineByte o) with
  | .error e => s.failCopy o c 0 e
  | .ok bb =>
    let bytes := bb.map (·.2)
    let bias := (List.range (32 * nt)).map fun n => word (leNat ((bytes.drop (4 * n)).take 4))
    let r := State.drainRows s o c b bias nt (List.range c.valid)
    let full := r.1
    let rest := match r.2 with | some x => x.2.2 | none => []
    let s0 := s.noteReads o biasVas
    let p := match b with
      | some rc => s0.drainPack o c rc full rest part
      | none => (s0.onCore o.core (drainBack c nt full rest part), false)
    let s1 := if drainBit ps 27 then p.1.onCore o.core fun x =>
        full.foldl (fun (x : CoreState) d => x.setElement (elemIndex c.extra nt d.m d.n) { data := 0, tag := false, dead := false }) x
      else p.1
    match r.2 with
    | none => s1.closeCommand o c [statusWord 0 ((drainFlags b full + (if p.2 then 8 else 0)) * 2 ^ 20 + c.valid % 2 ^ 20)] false
    | some (m, .fails e, _) => s1.failCopy o c m e
    | some (_, .poison k, _) => (s1.closeCommand o c [k] false).markDrain o c.sd k

/-! ## Completion -/

/-- A matrix command may complete: it has started or its release has failed, and what acceptance order puts before it is complete (R275,
R301, R302). -/
def State.matrixReady (s : State) (o : Op) (c : CommandOp) : Bool :=
  (c.started || c.failed.isSome) && !(s.ops.any fun p => onMatrix o.core p && (match p.command? with
    | some d =>
      (decide (p.id < o.id) && (d.extra.any c.extra.contains || (c.cmd.matrixStatus && p.slot == o.slot && p.gid == o.gid) ||
        (d.cmd == .atload && d.table?.isSome && d.table? == c.table?))) ||
      (c.cmd == .atload && p.id != o.id && d.cmd == .acdrain && d.table? == c.table? && d.unit != 0 &&
        d.unit == (if sget false (s.core o.core).atabBank (pf c.params 2 0 2) then 1 else 2))
    | none => false))
/-- A command without a status is over. -/
def State.closePlain (s : State) (o : Op) (c : CommandOp) : State := ((s.unlock o.id).returnPermit o c).retire o
/-- The effect of ACZERO and ACREAD, which touch tiles and registers alone (R293, R295); ACREAD's keep is ignored. -/
def State.runTiles (s : State) (o : Op) (c : CommandOp) : State :=
  if c.cmd = .aczero then (s.onCore o.core fun x => c.extra.foldl CoreState.clearTile x).closePlain o c
  else ((s.deliver o (readTiles c (s.core o.core))).cacheResult o (.vec (pw c.params 0).toNat (pw c.params 1).toNat) false).closePlain o c
/-- A command without a status whose release can no longer be performed, or one with it (R245, R284). ACZERO and ACREAD, of which R245 says
nothing, have no memory to read and take their effect (log entry 60). -/
def State.failMatrix (s : State) (o : Op) (c : CommandOp) (k : Word) : State :=
  let poison (s : State) : State := s.onCore o.core fun x =>
    c.computed.foldl (fun x i => x.setElement i { data := k, tag := true, dead := false }) x
  match c.cmd with
  | .mma | .mmaw4 => (poison s).closePlain o c
  | .aczero | .acread => s.runTiles o c
  | .mmal => (poison s).closeCommand o c [statusWord 0 ((if c.computed.isEmpty then 0 else 2 ^ 23) + c.valid)] false
  | _ => s.closeCommand o c [k] false
/-- The effect of a matrix command that is ready. -/
def State.runMatrix (s : State) (o : Op) (c : CommandOp) (part : Nat) : State :=
  let data := match s.group? o.gid with | some g => g.mxsel | none => false
  match c.cmd with
  | .mma | .mmaw4 => (s.runMma o c data).closePlain o c
  | .mmal =>
    let r := State.runMmal o c data (pf c.params 5 20 12) 0 s false
    r.1.closeCommand o c [statusWord 0 ((if r.2 then 2 ^ 23 else 0) + c.valid)] false
  | .aczero | .acread => s.runTiles o c
  | .acload =>
    let ps := c.params
    let nt := pf ps 3 8 4 + 1
    let row (s : State) (m : Nat) : Except EngineFail (List Byte) :=
      (s.engineBytes o (wrap64 (pd ps 0 + m * ps32 ps 2)) (128 * nt)).map fun bs => bs.map (·.2)
    let put (x : CoreState) (m : Nat) (bs : List Byte) : CoreState :=
      (List.range (32 * nt)).foldl (fun x n => x.setElement (elemIndex c.extra nt m n)
        { data := word (leNat ((bs.drop (4 * n)).take 4)), tag := false, dead := false }) x
    let rows := (List.range c.valid).map fun m => (m, row s m)
    let good := rows.takeWhile fun r => match r.2 with | .ok _ => true | .error _ => false
    let s1 := s.onCore o.core fun x => good.foldl (fun x r => match r.2 with | .ok bs => put x r.1 bs | .error _ => x) x
    let s2 := s1.noteReads o ((good.map fun r => addrs (wrap64 (pd ps 0 + r.1 * ps32 ps 2)) (128 * nt)).flatten)
    match rows[good.length]? with
    | some (m, .error e) =>
      -- the bytes of the failing row that could be read may hold their new value
      let s3 := s2.onCore o.core fun x => (List.range (32 * nt)).foldl (fun x n =>
        let old := (x.element (elemIndex c.extra nt m n)).data
        let bs := (List.range 4).map fun j =>
          if part.testBit (4 * n + j) then
            match s.engineByte o (wrap64 (pd ps 0 + m * ps32 ps 2 + (4 * n + j : Nat))) with
            | .ok v => v.2
            | .error _ => BitVec.ofNat 8 (old.toNat / 2 ^ (8 * j))
          else BitVec.ofNat 8 (old.toNat / 2 ^ (8 * j))
        if word (leNat bs) = old then x
        else x.setElement (elemIndex c.extra nt m n) { data := word (leNat bs), tag := false, dead := false }) x
      s3.failCopy o c m e
    | _ => s2.closeCommand o c [doneStatus c.valid] false
  | .acdrain => s.runDrain o c part
  | .atload =>
    match s.engineBytes o (pd c.params 0) 2064 with
    | .error e => s.failCopy o c 0 e
    | .ok bs =>
      let r := (s.noteReads o (addrs (pd c.params 0) 2064)).loadTable o c (bs.map (·.2))
      r.1.closeCommand o c [statusWord 0 (r.2.toNat % 2 ^ 24)] false
  | _ => s
/-- MATRIX_COMMAND_COMPLETION (R275). In a speculative group reads that the core's speculative state has no room for wait (R252). -/
def execMatrixCommandCompletion (op : Nat) (fin : EngineEnd) (s : State) : Host.Outcome State Fault Refusal :=
  match s.op? op with
  | none => .next s
  | some o =>
    match o.command? with
    | none => .next s
    | some c =>
      if !c.cmd.matrix || !s.matrixReady o c then .next s
      else
        let s1 := match c.failed with
          | some k => s.failMatrix o c k
          | none => s.runMatrix o c fin.part
        .next (if s.specOver o.gid o.core s1 then s else s1.reclaim o.core)

end Sys2Proof.Machine
end

