-- ==== Sys2Proof/Machine/Sm3.lean ====
section
/-! DEFINITION. The SM3 hash as published: digests of grammar states (R312), of grammar images (R310) and of canonical trees (R350). -/

namespace Sys2Proof.Machine

/-- The initial chaining value. -/
def sm3Init : List Word := [0x7380166F, 0x4914B2B9, 0x172442D7, 0xDA8A0600, 0xA96F30BC, 0x163138AA, 0xE38DEE4D, 0xB0FB0E4E]
/-- The permutation P0. -/
def sm3P0 (x : Word) : Word := x ^^^ x.rotateLeft 9 ^^^ x.rotateLeft 17
/-- The permutation P1. -/
def sm3P1 (x : Word) : Word := x ^^^ x.rotateLeft 15 ^^^ x.rotateLeft 23
/-- The words of a block extended one at a time; the newest stands first. -/
def sm3Expand : Nat → List Word → List Word
  | 0, ws => ws
  | n + 1, ws =>
    let g (i : Nat) : Word := ws.getD (i - 1) 0
    sm3Expand n ((sm3P1 (g 16 ^^^ g 9 ^^^ (g 3).rotateLeft 15) ^^^ (g 13).rotateLeft 7 ^^^ g 6) :: ws)
/-- The round constant. -/
def sm3T (j : Nat) : Word := if j < 16 then 0x79CC4519 else 0x7A879D8A
/-- Rounds j to 63 over the working words a to h; fuel counts them. -/
def sm3Rounds (ws : List Word) : Nat → Nat → List Word → List Word
  | 0, _, v => v
  | n + 1, j, v =>
    let g (i : Nat) : Word := v.getD i 0
    let a := g 0; let b := g 1; let c := g 2; let d := g 3
    let e := g 4; let f := g 5; let x := g 6; let h := g 7
    let ss1 := (a.rotateLeft 12 + e + (sm3T j).rotateLeft (j % 32)).rotateLeft 7
    let ss2 := ss1 ^^^ a.rotateLeft 12
    let ff := if j < 16 then a ^^^ b ^^^ c else (a &&& b) ||| (a &&& c) ||| (b &&& c)
    let gg := if j < 16 then e ^^^ f ^^^ x else (e &&& f) ||| (~~~e &&& x)
    let tt1 := ff + d + ss2 + (ws.getD j 0 ^^^ ws.getD (j + 4) 0)
    let tt2 := gg + h + ss1 + ws.getD j 0
    sm3Rounds ws n (j + 1) [tt1, a, b.rotateLeft 9, c, sm3P0 tt2, e, f.rotateLeft 19, x]
/-- Blocks of 16 big-endian words, one after another; fuel counts them. -/
def sm3Blocks : Nat → List Word → List Word → List Word
  | 0, _, v => v
  | n + 1, ws, v =>
    let w := (sm3Expand 52 (ws.take 16).reverse).reverse
    let r := sm3Rounds w 64 0 v
    sm3Blocks n (ws.drop 16) ((v.zip r).map fun p => p.1 ^^^ p.2)
/-- Big-endian words of bytes. -/
def beWords : List Byte → List Word
  | a :: b :: c :: d :: t => (a ++ b ++ c ++ d) :: beWords t
  | _ => []
/-- The bytes of n with the highest first. -/
def beBytes (n x : Nat) : List Byte := (leBytes n x).reverse
/-- A message padded to whole blocks. -/
def sm3Pad (bs : List Byte) : List Byte :=
  bs ++ [0x80] ++ List.replicate ((119 - bs.length % 64) % 64) 0 ++ beBytes 8 (8 * bs.length)
/-- The 32 bytes of the hash. -/
def sm3 (bs : List Byte) : List Byte :=
  let ws := beWords (sm3Pad bs)
  ((sm3Blocks (ws.length / 16) ws sm3Init).map fun w => beBytes 4 w.toNat).flatten

end Sys2Proof.Machine
end

