-- ==== Sys2Proof/Machine/Generation.lean ====
section
/-! DEFINITION. GMASK, GADV, SAMPLE and ROUTE, opcodes 0xE4 to 0xE7 (R304 to R320): sequence control blocks, grammar images, the
arithmetic of choices, replayed values (R332), and the completions of the grammar and generation units. -/

namespace Sys2Proof.Machine

/-! ## Bytes that a unit reaches (R304) -/

/-- The window of an address lies outside the paths that an entry permits, wherever a walk ends. -/
def windowBarred (paths : List Nat) (va : Nat) : Bool :=
  match windowOf va with
  | .spad _ => !paths.contains 0
  | .vault _ _ => !paths.contains 1
  | .translated => !([2, 3, 4].any paths.contains)
  | .none => false
/-- The key of a byte on one of the paths that the instruction's entry permits: its window is tested first (R304, R313). Reads and writes of each
sector choose their table entries for themselves (R387; log entry 3). -/
def State.unitKey (s : State) (o : Op) (paths : List Nat) (perm : Perm) (va : Nat) : Except EngineFail Nat :=
  if windowBarred paths va then .error { code := codeProtection, va := va, write := perm == .write }
  else match s.resolve o.part o.gid perm 0 va (va / 32 * 2 + (if perm = .write then 1 else 0)) with
  | .error e => .error { code := e.1, va := va, write := perm == .write }
  | .ok k => if paths.contains k.2 then .ok k.1 else .error { code := codeProtection, va := va, write := perm == .write }
/-- The n bytes from an address. -/
def State.unitBytes (s : State) (o : Op) (paths : List Nat) (va n : Nat) : Except EngineFail (List Byte) :=
  (addrs va n).mapM fun a => do
    let k ← s.unitKey o paths .read a
    if s.marked k && keyPath k != 0 then .error { code := codeUncorrectable, va := a, write := false } else pure (s.homeByte o.gid k)
/-- A little-endian number at an address. -/
def State.unitNat (s : State) (o : Op) (paths : List Nat) (va n : Nat) : Except EngineFail Nat := (s.unitBytes o paths va n).map leNat
/-- Bytes to be written at an address. -/
structure Patch where
  va : Nat
  bytes : List Byte
  deriving DecidableEq, Repr
/-- The keys of some patches with their bytes. -/
def State.patchKeys (s : State) (o : Op) (paths : List Nat) (ps : List Patch) : Except EngineFail (List (Nat × Byte)) :=
  (ps.flatMap fun p => (addrs p.va p.bytes.length).zip p.bytes).mapM fun x => (s.unitKey o paths .write x.1).map fun k => (k, x.2)
/-- Every window but peer pages (R304). -/
def anyPath : List Nat := [0, 1, 2, 3]
/-- Windows of an SCB (R307). -/
def scbPath : List Nat := [1, 2]
/-- A command of these units ends; a pair whose second word has no value takes a free one (log entry 3). -/
def State.endUnit (s : State) (o : Op) (c : CommandOp) (st : Word) (second : Option Word) : State :=
  { s with freeCount := s.freeCount + 1 }.closeCommand o c
    (if c.sdCount = 2 then [st, second.getD (Config.openWord s.freeCount)] else [st]) false
/-- A command ends with a STATE and an INFO (R306). -/
def State.endState (s : State) (o : Op) (c : CommandOp) (st info : Nat) : State := s.endUnit o c (statusWord st (info % 2 ^ 24)) none
/-- A memory failure of a command (R306): its single unit, with a record. -/
def State.failState (s : State) (o : Op) (c : CommandOp) (e : EngineFail) : State :=
  let r := s.unitRecord o { code := e.code, rflags := 1, lane := 0, detail := 5 * 2 ^ 16 + (if e.write then 2 ^ 9 else 0), pc := o.pc,
                            va := BitVec.ofNat 64 e.va }
  r.1.endUnit o c (tokenOf e.code r.2) none

/-! ## Issue (R304, R305) -/

/-- The commands that share a unit and its queue: 0 a die's grammar unit, 1 a core's generation unit, 2 the journal engine (R305). -/
def Command.genUnit : Command → Option Nat
  | .gmask | .gadv => some 0
  | .sample | .route => some 1
  | .emit | .jtrunc | .jreplay | .jstat => some 2
  | _ => none
/-- An operation is a command of a unit that a core's commands go to; each I/O die has a journal engine, known by its port (R13, R18). -/
def sameGenUnit (core port : Nat) (u : Nat) (o : Op) : Bool :=
  match o.command? with
  | some c => c.cmd.genUnit == some u && (if u = 0 then dieOf o.core == dieOf core else if u = 1 then o.core == core else c.unit == port)
  | none => false
/-- A command of this chapter issues: parameters good, locks known from the parameter block; a journal command goes to the engine whose port
reaches the partner (R304, R305). -/
def genInstr (i : Instr) (s : State) (cmd : Command) (sd : SReg) (count : Nat) (ps : Team → List Word) (good : List Word → Bool)
    (reads writes : List Word → List (Nat × Nat)) : Host.Outcome State Fault Refusal :=
  issue i s fun slot t =>
    let p := ps t
    let u := cmd.genUnit.getD 0
    let rs := reads p
    let ws := writes p
    if s.queueFull (sameGenUnit t.core s.journal.port u) (if u = 0 then Config.engineQueue else if u = 1 then Config.unitQueue else Config.journalQueue) then
      .next s
    else if !good p || rs.any (fun r => ws.any fun w => rangesMeet t.group r w) then s.badCommand slot
    else
      let locks := locksOf t.group rs ws
      let c := { newCommand cmd p 1 1 sd locks with sdCount := count, unit := if u = 2 then s.journal.port else 0 }
      s.issueCommand slot t c (locks.length + c.late) [] id
/-- Bytes of an SCB (R307). -/
def scbBytes : Nat := 2176
/-- GMASK (R313). -/
def execGmask (sd sa : SReg) (s : State) : Host.Outcome State Fault Refusal :=
  genInstr (.gmask sd sa) s .gmask sd 1 (·.params sa) (fun _ => true) (fun p => [(pd p 0, scbBytes)]) fun _ => []
/-- GADV (R314). -/
def execGadv (sd sa : SReg) (s : State) : Host.Outcome State Fault Refusal :=
  genInstr (.gadv sd sa) s .gadv sd 1 (·.params sa) (fun _ => true) (fun _ => []) fun p => [(pd p 0, scbBytes)]
/-- SAMPLE (R315). The supplied draw is read at issue. -/
def execSample (sd sa sb : SReg) (s : State) : Host.Outcome State Fault Refusal :=
  genInstr (.sample sd sa sb) s .sample sd 2 (fun t => t.params sa ++ [t.rs sb.toNat, t.rs (sb.toNat + 1)])
    (fun p => decide (pf p 6 30 2 ≠ 3 ∧ pf p 6 21 8 = 0 ∧ pw p 7 = 0 ∧ 1 ≤ pf p 6 0 21 ∧ pf p 6 0 21 ≤ 2 ^ 20))
    (fun p => (pd p 2, 4 * pf p 6 0 21) :: if pf p 6 29 1 = 1 then [] else [(pd p 4, 4 * ((pf p 6 0 21 + 31) / 32))])
    fun p => [(pd p 0, scbBytes)]
/-- ROUTE (R319). -/
def execRoute (sd sa : SReg) (s : State) : Host.Outcome State Fault Refusal :=
  genInstr (.route sd sa) s .route sd 1 (·.params sa)
    (fun p => decide (pf p 4 20 12 = 0 ∧ pf p 4 11 5 = 0 ∧ pf p 5 16 16 = 0 ∧ pf p 4 16 4 ≤ pf p 4 0 11))
    (fun p => [(pd p 0, 4 * (pf p 4 0 11 + 1))])
    fun p => (pd p 2, 8 * (pf p 4 16 4 + 1)) :: if pd p 6 = 0 then [] else [(pd p 6, scbBytes)]

/-! ## Sequence control blocks (R307, R312) -/

/-- An SCB as a unit reads it: its address, its first 128 bytes and the stack entries in use. -/
structure Scb where
  va : Nat
  head : List Byte
  stack : List Nat
  deriving DecidableEq, Repr
/-- The n bytes of an SCB's field at an offset, as a number. -/
def Scb.field (b : Scb) (off n : Nat) : Nat := leNat ((b.head.drop off).take n)
/-- Fields of an SCB. -/
def Scb.state (b : Scb) : Nat := b.field 0x30 4
/-- DEPTH. -/
def Scb.depth (b : Scb) : Nat := b.field 0x34 2
/-- STEP. -/
def Scb.step (b : Scb) : Nat := b.field 0x38 4
/-- JSTEP. -/
def Scb.jstep (b : Scb) : Nat := b.field 0x3C 4
/-- FLAGS. -/
def Scb.flags (b : Scb) : Nat := b.field 0x44 4
/-- CTR. -/
def Scb.ctr (b : Scb) : Nat := b.field 0x20 8
/-- PFXSTEP. -/
def Scb.pfx (b : Scb) : Nat := b.field 0x78 4
/-- RCOUNT. -/
def Scb.rcount (b : Scb) : Nat := b.field 0x68 2
/-- MISMATCH. -/
def Scb.mismatch (b : Scb) : Nat := b.field 0x50 4
/-- REPLAY. -/
def Scb.replay (b : Scb) : Bool := b.flags.testBit 3
/-- The stack-top symbol, 0 on an empty stack (R311). -/
def Scb.top (b : Scb) : Nat := (b.stack.getLast?).getD 0
/-- An SCB holds an invalid value (R307). -/
def Scb.bad (b : Scb) : Bool :=
  decide (b.field 0x6A 6 ≠ 0 ∨ 64 ≤ b.flags ∨ 2 ^ 11 ≤ b.field 0x36 2 ∨ 1024 < b.depth ∨ 64 < b.rcount ∨
    (b.replay = true ∧ b.field 0x54 4 ≤ b.step))
/-- A unit reads an SCB (R307). -/
def State.readScb (s : State) (o : Op) (va : Nat) : Except EngineFail Scb :=
  match windowOf va with
  | .spad _ | .none => .error { code := codeProtection, va := va, write := false }
  | _ => do
    if va % 128 ≠ 0 then .error { code := codeMisaligned, va := va, write := false }
    else
      let head ← s.unitBytes o scbPath va 128
      let n := min (leNat ((head.drop 0x34).take 2)) 1024
      let st ← s.unitBytes o scbPath (va + 128) (2 * n)
      pure { va := va, head := head, stack := (List.range n).map fun i => leNat ((st.drop (2 * i)).take 2) }
/-- A patch of an SCB's field. -/
def Scb.set (b : Scb) (off n v : Nat) : Patch := { va := b.va + off, bytes := leBytes n v }
/-- The digest of a grammar state (R312). -/
def grammarDigest (state : Nat) (stack : List Nat) : Nat :=
  leNat ((sm3 (leBytes 4 state ++ leBytes 2 stack.length ++ stack.flatMap (leBytes 2))).take 8)

/-! ## Grammar images (R310, R311) -/

/-- A malformed image. -/
def badImage {α : Type} (va : Nat) : Except EngineFail α := .error { code := codeDecode, va := va % 2 ^ 64, write := false }
/-- The header of a grammar image. -/
structure Image where
  base : Nat
  vocab : Nat
  nstates : Nat
  start : Nat
  eos : Nat
  len : Nat
  id : Nat
  stoff : Nat
  dig : List Byte
  deriving DecidableEq, Repr
/-- A unit reads the header of an image (R310). -/
def State.readImage (s : State) (o : Op) (base : Nat) : Except EngineFail Image := do
  if base % 128 ≠ 0 then badImage base
  else
    let h ← s.unitBytes o [2] base 128
    let f (off n : Nat) : Nat := leNat ((h.drop off).take n)
    let img : Image := { base := base, vocab := f 4 4, nstates := f 8 4, start := f 12 4, eos := f 16 4, len := f 0x18 8, id := f 0x20 8,
                         stoff := f 0x28 8, dig := (h.drop 0x40).take 32 }
    if h.take 4 ≠ [0x47, 0x52, 0x4D, 0x31] ∨ f 0x14 4 ≠ 0 ∨ f 0x30 16 ≠ 0 ∨ f 0x60 32 ≠ 0 ∨ img.vocab = 0 ∨ 2 ^ 20 < img.vocab ∨
        img.nstates = 0 ∨ 2 ^ 24 < img.nstates ∨ img.nstates ≤ img.start ∨ img.vocab ≤ img.eos ∨ img.stoff % 16 ≠ 0 ∨ img.len < 128 then
      badImage base
    else pure img
/-- The n bytes at an offset of an image. -/
def State.imageBytes (s : State) (o : Op) (img : Image) (off n : Nat) : Except EngineFail (List Byte) :=
  if img.len < off + n then badImage (img.base + off) else s.unitBytes o [2] (img.base + off) n
/-- A case of a state. -/
structure Case where
  top : Nat
  ntr : Nat
  maskoff : Nat
  troff : Nat
  deriving DecidableEq, Repr
/-- Keys rise strictly. -/
def rising : List Nat → Bool
  | a :: b :: t => decide (a < b) && rising (b :: t)
  | _ => true
/-- Whether a state's entry accepts, and its case for a stack-top symbol (R310, R311). -/
def State.readCase (s : State) (o : Op) (img : Image) (state top : Nat) : Except EngineFail (Bool × Option Case) := do
  if img.nstates ≤ state then badImage img.base
  else
    let e ← s.imageBytes o img (img.stoff + 16 * state) 16
    let n := leNat ((e.drop 4).take 4)
    let off := leNat (e.drop 8)
    if 2 ≤ leNat (e.take 4) ∨ off % 8 ≠ 0 then badImage (img.base + img.stoff + 16 * state)
    else
      let cs ← s.imageBytes o img off (32 * n)
      let rows := (List.range n).map fun i => (cs.drop (32 * i)).take 32
      if rows.any (fun r => leNat ((r.drop 2).take 2) != 0 || leNat (r.drop 24) != 0) || !rising (rows.map fun r => leNat (r.take 2)) then
        badImage (img.base + off)
      else
        let cases : List Case := rows.map fun r =>
          { top := leNat (r.take 2), ntr := leNat ((r.drop 4).take 4), maskoff := leNat ((r.drop 8).take 8), troff := leNat ((r.drop 16).take 8) }
        pure (leNat (e.take 4) == 1, (cases.find? (·.top == top)).orElse fun _ => cases.find? (·.top == 0xFFFF))
/-- A transition of a case. -/
structure Trans where
  token : Nat
  next : Nat
  pop : Nat
  push : List Nat
  deriving DecidableEq, Repr
/-- The transitions of a case. -/
def State.readTrans (s : State) (o : Op) (img : Image) (c : Case) : Except EngineFail (List Trans) := do
  let bs ← s.imageBytes o img c.troff (16 * c.ntr)
  let rows := (List.range c.ntr).map fun i => (bs.drop (16 * i)).take 16
  if rows.any (fun r => decide (3 < leNat ((r.drop 9).take 1))) || !rising (rows.map fun r => leNat (r.take 4)) then
    badImage (img.base + c.troff)
  else
    pure (rows.map fun r =>
      { token := leNat (r.take 4), next := leNat ((r.drop 4).take 4), pop := leNat ((r.drop 8).take 1),
        push := (List.range (leNat ((r.drop 9).take 1))).map fun j => leNat ((r.drop (10 + 2 * j)).take 2) })

/-! ## Replayed values (R332) -/

/-- What the journal holds for a step in progress: whether it lies in the prefix, its token, counter, digest and route entries. -/
structure Replayed where
  pfx : Bool
  token : Nat
  ctr : Option Nat
  digest : Option Nat
  routes : List RouteEntry
  deriving DecidableEq, Repr
/-- The replay that an SCB carries. -/
def State.replayOf (s : State) (o : Op) (b : Scb) : Option Replay :=
  match s.unitKey o scbPath .read b.va with
  | .ok k => s.journal.replays.find? (·.scb == k)
  | .error _ => none
/-- Records of a sequence that this device's journal holds. -/
def Journal.records (j : Journal) (dev : Nat) (seqid : Dbl) : List JRecord := j.held.filter fun r => r.srcdev == dev && r.seqid == seqid
/-- The journalled values of step STEP + 1 of a sequence in replay; where the command uses it, a token of the prefix is read from memory. -/
def State.replayed (s : State) (o : Op) (b : Scb) (tokens : Bool) : Except EngineFail (Option Replayed) :=
  if !b.replay then .ok none
  else match s.replayOf o b with
    | none => .ok none
    | some r =>
      let recs := s.journal.records r.dev r.seqid
      let j := b.step + 1
      if j ≤ b.pfx then do
        let tok ← if tokens then s.unitNat o anyPath (b.field 0x70 8 + 4 * (j - 1)) 4 else pure 0
        let sum := if j = b.pfx then recs.find? (·.kind == .trunc) else none
        pure (some { pfx := true, token := tok, ctr := sum.map (·.ctr.toNat), digest := sum.map (·.digest.toNat), routes := [] })
      else
        .ok ((recs.find? fun x => x.kind == .step && x.step.toNat == j).map fun x =>
          { pfx := false, token := x.token.toNat, ctr := some x.ctr.toNat, digest := some x.digest.toNat, routes := x.routes })
/-- A replay ends and its source records are released (R331, R332). -/
def State.endReplay (s : State) (o : Op) (b : Scb) : State :=
  match s.replayOf o b with
  | none => s
  | some r => { s with journal := { s.journal with
      replays := s.journal.replays.filter (· != r)
      held := s.journal.held.filter fun x => !(x.srcdev == r.dev && x.seqid == r.seqid) } }

/-! ## GMASK and GADV (R313, R314) -/

/-- A command's outcome: a memory failure, or its status and what it writes: patches with the paths they may take. -/
structure Result where
  st : Nat
  info : Nat
  second : Option Word
  paths : List Nat
  patches : List Patch
  deriving DecidableEq, Repr
/-- A status that writes nothing. -/
def Result.just (st : Nat) : Result := { st := st, info := 0, second := none, paths := [], patches := [] }
/-- A command ends with its outcome: everything it writes lands, or nothing (R306). -/
def State.finishUnit (s : State) (o : Op) (c : CommandOp) (r : Except EngineFail Result) (andThen : State → State) : State :=
  match r with
  | .error e => s.failState o c e
  | .ok x => match s.patchKeys o x.paths x.patches with
    | .error e => s.failState o c e
    | .ok ws => (andThen (s.engineWrite o ws)).endUnit o c (statusWord x.st (x.info % 2 ^ 24)) x.second
/-- Set bits of a list of words. -/
def bitCount (ws : List Nat) : Nat := (ws.map fun w => ((List.range 32).filter w.testBit).length).sum
/-- GMASK's outcome (R313). -/
def State.runGmask (s : State) (o : Op) (c : CommandOp) : Except EngineFail Result := do
  let b ← s.readScb o (pd c.params 0)
  if b.bad then pure (.just 0x48)
  else
    let img ← s.readImage o (b.field 8 8)
    let (acc, case) ← s.readCase o img b.state b.top
    let n := (img.vocab + 31) / 32
    let raw ← match case with
      | some k => (s.imageBytes o img k.maskoff (4 * n)).map fun bs => (List.range n).map fun i => leNat ((bs.drop (4 * i)).take 4)
      | none => pure (List.replicate n 0)
    let ws := (raw.zip (List.range n)).map fun p =>
      let w := if acc && b.depth == 0 && p.2 == img.eos / 32 then p.1 ||| 2 ^ (img.eos % 32) else p.1
      if 32 * (p.2 + 1) ≤ img.vocab then w else w % 2 ^ (img.vocab % 32)
    let k := bitCount ws
    pure { st := if k = 0 then 0x41 else 0, info := k, second := none, paths := [0, 1],
           patches := [{ va := pd c.params 2, bytes := ws.flatMap (leBytes 4) }] }
/-- What GADV adds in replay after a step (R332): the comparison of digests, and the end of the replay. -/
def gadvReplay (b : Scb) (rp : Option Replayed) (dig : Nat) (flags : Nat) : List Patch × Bool :=
  let bad := match rp.bind (·.digest) with | some d => decide (d ≠ dig) | none => false
  let ended := b.replay && decide ((b.step + 1) % 2 ^ 32 = b.field 0x54 4)
  ((if bad then [b.set 0x50 4 (b.mismatch + 1)] else []) ++
    [b.set 0x44 4 (if ended then flags &&& 0x37 else flags)], ended)
/-- GADV's outcome (R314), and whether the replay ends. -/
def State.runGadv (s : State) (o : Op) (c : CommandOp) : Except EngineFail (Result × Option Scb) := do
  let tok := (pw c.params 2).toNat
  let b ← s.readScb o (pd c.params 0)
  if b.bad then pure (.just 0x48, none)
  else if b.flags.testBit 2 then pure (.just 0x47, none)
  else
    let img ← s.readImage o (b.field 8 8)
    if img.vocab ≤ tok then pure (.just 0x42, none)
    else
      let (acc, case) ← s.readCase o img b.state b.top
      let rp ← s.replayed o b false
      let step := (b.step + 1) % 2 ^ 32
      let common := [b.set 0x38 4 step, b.set 0x40 4 tok]
      if tok = img.eos ∧ acc = true ∧ b.depth = 0 then
        let x := gadvReplay b rp (b.field 0x48 8) (b.flags ||| 4)
        pure ({ st := 0x45, info := step, second := none, paths := scbPath, patches := common ++ x.1 }, if x.2 then some b else none)
      else
        let ts ← match case with | some k => s.readTrans o img k | none => pure []
        match ts.find? (·.token == tok) with
        | none => pure (.just 0x42, none)
        | some x =>
          if img.nstates ≤ x.next then badImage img.base
          else if b.depth < x.pop ∨ 1024 < b.depth - x.pop + x.push.length ∨ x.push.any (fun p => p == 0 || p == 0xFFFF) = true then
            pure (.just 0x46, none)
          else
            let base := b.depth - x.pop
            let st := b.stack.take base ++ x.push
            let dig := grammarDigest x.next st
            let r := gadvReplay b rp dig b.flags
            pure ({ st := 0, info := step, second := none, paths := scbPath,
                    patches := common ++ [b.set 0x30 4 x.next, b.set 0x34 2 st.length, b.set 0x48 8 dig,
                      b.set (128 + 2 * base) (2 * x.push.length) (leNat (x.push.flatMap (leBytes 2)))] ++ r.1 },
                  if r.2 then some b else none)
/-- GRAMMAR_UNIT_COMPLETION (R306). -/
def execGrammarUnitCompletion (op : Nat) (s : State) : Host.Outcome State Fault Refusal :=
  match s.op? op with
  | none => .next s
  | some o =>
    match o.command? with
    | none => .next s
    | some c =>
      if !c.started then .next s
      else match c.cmd with
        | .gmask => .next (s.finishUnit o c (s.runGmask o c) id)
        | .gadv =>
          match s.runGadv o c with
          | .error e => .next (s.failState o c e)
          | .ok r => .next (s.finishUnit o c (.ok r.1) fun s => match r.2 with | some b => s.endReplay o b | none => s)
        | _ => .next s

/-! ## SAMPLE (R316 to R318) -/

/-- T[r]: the integer nearest to 2^31 2^(r/256); the 256th root is eight square roots (R316). -/
def weightT (r : Nat) : Nat := (isqrt (isqrt (isqrt (isqrt (isqrt (isqrt (isqrt (isqrt (2 ^ (8192 + r))))))))) + 1) / 2
/-- A logit as it counts: NaN as -infinity. -/
def logit (w : Word) : Val := if (ofF32 w).isNan then .inf true else ofF32 w
/-- The difference of two logits rounded to binary32 (R316, R320). -/
def logitDiff (l m : Val) : Val := ofF32 (word (toF32 0 false 0 (sumVals false [l, m.negate]).exact).code)
/-- The weight of a logit under the largest one (R316). -/
def sampleWeight (c : Word) (m l : Val) : Nat :=
  if l.isInf true then 0
  else
    let d := if l.isInf false && m.isInf false then .fin false 0 0 else logitDiff l m
    let y := ofF32 (word (toF32 0 false 0 (mulVals d (ofF32 c)).exact).code)
    let n : Int := match y with
      | .fin neg k e => if k = 0 then 0 else max (-8192) (min 0 (roundInt 0 0 neg (Mag.dyadic k e) 8))
      | _ => -8192
    let q := n / 256
    weightT (n - 256 * q).toNat / 2 ^ (-q).toNat
/-- An element put into a list before the first that does not come before it. -/
def insertWhere {α : Type} (before : α → α → Bool) (x : α) : List α → List α
  | [] => [x]
  | y :: t => if before y x then y :: insertWhere before x t else x :: y :: t
/-- A list in the order of a relation, elements that tie as they stood. -/
def sortWhere {α : Type} (before : α → α → Bool) (xs : List α) : List α := xs.reverse.foldl (fun acc x => insertWhere before x acc) []
/-- Descending weight, ties to the lower id: the list stands in ascending id. -/
def byWeight (xs : List (Nat × Nat)) : List (Nat × Nat) := sortWhere (fun a b => decide (b.2 < a.2)) xs
/-- The shortest prefix whose weights reach a sum. -/
def prefixTo : Nat → List (Nat × Nat) → List (Nat × Nat)
  | _, [] => []
  | need, x :: t => if need = 0 then [] else x :: prefixTo (need - x.2) t
/-- The sum of weights. -/
def weightSum (xs : List (Nat × Nat)) : Nat := (xs.map (·.2)).sum
/-- The first token whose running sum exceeds a target. -/
def pickAt : Nat → Nat → List (Nat × Nat) → Option Nat
  | _, _, [] => none
  | acc, target, x :: t => if target < acc + x.2 then some x.1 else pickAt (acc + x.2) target t
/-- The selection of R317 among tokens with weights in ascending id; none where no weight is left. -/
def selectToken (topk topp u : Nat) (xs : List (Nat × Nat)) : Option Nat :=
  let k1 := if topk ≠ 0 ∧ topk < xs.length then (byWeight xs).take topk else byWeight xs
  let k2 := if topp ≠ 0 then prefixTo ((topp * weightSum k1 + 65535) / 65536) k1 else k1
  let sum := weightSum k2
  if sum = 0 then none
  else pickAt 0 (u * sum / 2 ^ 64) (sortWhere (fun a b => decide (a.1 < b.1)) k2)
/-- The token of the largest logit, ties to the lower id (R318). -/
def greedyToken (xs : List (Nat × Val)) : Nat :=
  match xs with
  | [] => 0
  | x :: t => (t.foldl (fun a b => if a.2.lt b.2 then b else a) x).1
/-- C is positive and finite. -/
def goodC (w : Word) : Bool := match ofF32 w with | .fin neg m _ => !neg && decide (m ≠ 0) | _ => false
/-- SAMPLE's own choice (R316 to R318): the token, ZEROW, the counter after it. -/
def ownChoice (b : Scb) (mode : Nat) (u : Nat) (ls : List (Nat × Val)) : Nat × Bool × Nat :=
  if mode = 1 then (greedyToken ls, false, b.ctr)
  else
    let cnt := b.ctr
    let seqid := b.field 0 8
    let out := philox (dbl (b.field 0x18 8)) (cnt % 2 ^ 32) (cnt / 2 ^ 32) (seqid % 2 ^ 32) (seqid / 2 ^ 32)
    let draw := if mode = 0 then out.getD 1 0 * 2 ^ 32 + out.getD 0 0 else u
    let m := ls.foldl (fun a x => if a.lt x.2 then x.2 else a) (.inf true)
    let ctr := if mode = 0 then (cnt + 1) % 2 ^ 64 else cnt
    match selectToken (b.field 0x2C 2) (b.field 0x2E 2) draw (ls.map fun x => (x.1, sampleWeight (word (b.field 0x28 4)) m x.2)) with
    | some k => (k, false, ctr)
    | none => (greedyToken ls, true, ctr)
/-- SAMPLE's outcome (R315 to R318, R332). -/
def State.runSample (s : State) (o : Op) (c : CommandOp) : Except EngineFail Result := do
  let ps := c.params
  let mode := pf ps 6 30 2
  let n := pf ps 6 0 21
  let b ← s.readScb o (pd ps 0)
  if b.bad || (mode != 1 && !goodC (word (b.field 0x28 4))) then pure (.just 0x48)
  else
    let mask ← if pf ps 6 29 1 = 1 then pure (List.replicate ((n + 31) / 32 * 4) (0xFF : Byte)) else s.unitBytes o anyPath (pd ps 4) ((n + 31) / 32 * 4)
    let legal := (List.range n).filter fun t => (mask.getD (t / 8) 0).getLsbD (t % 8)
    let raw ← legal.mapM fun t => (s.unitNat o anyPath (pd ps 2 + 4 * t) 4).map fun w => (t, word w)
    let rp ← s.replayed o b true
    let nan := raw.any fun x => (ofF32 x.2).isNan
    let own := ownChoice b mode (pd ps 8) (raw.map fun x => (x.1, logit x.2))
    let tok : Option Nat := if legal.isEmpty then none else some own.1
    let ctr := if legal.isEmpty then b.ctr else own.2.2
    let bits := (if nan then 1 else 0) + (if !legal.isEmpty && own.2.1 then 2 else 0)
    match rp with
    | none =>
      let patches := if ctr = b.ctr then [] else [b.set 0x20 8 ctr]
      match tok with
      | none => pure { st := 0x43, info := 0, second := some 0xFFFFFFFF, paths := scbPath, patches := [] }
      | some k => pure { st := 0, info := bits, second := some (word k), paths := scbPath, patches := patches }
    | some r =>
      let mis := !r.pfx && (decide (tok ≠ some r.token) || (mode == 0 && decide (some ctr ≠ r.ctr)))
      let newCtr := r.ctr.getD b.ctr
      pure { st := 0, info := bits + 4 + (if mis then 8 else 0), second := some (word r.token), paths := scbPath,
             patches := (if newCtr = b.ctr then [] else [b.set 0x20 8 newCtr]) ++ if mis then [b.set 0x50 4 (b.mismatch + 1)] else [] }

/-! ## ROUTE (R319, R320) -/

/-- e^y for y = m 2^e > 0 as a magnitude to be rounded to binary32; from 128 up it lies above every finite one. -/
def expPos (m : Nat) (e : Int) : Mag :=
  if 7 ≤ (Nat.log2 m : Int) + e then Mag.dyadic 1 200
  else
    Mag.refined (fun p =>
      let t := expNeg (2 * p) m e
      if t.c ≤ 2 * t.e then { c := 1, e := 2 ^ (4 * p) }
      else { c := (2 ^ (3 * p) : Nat) / t.c, e := (t.e * 2 ^ (3 * p) / (t.c.toNat * (t.c.toNat - t.e))) + 2 }) 256
/-- e^d rounded to binary32 (R320). -/
def expF32 (d : Val) : Word :=
  match d with
  | .nan => 0x7FC00000
  | .inf neg => if neg then 0 else 0x7F800000
  | .fin neg m e => word (toF32 0 false 0 (.real false (if m = 0 then Mag.dyadic 1 0 else if neg then expVal m e else expPos m e))).code
/-- The quotient of two binary32 words, rounded. -/
def divF32 (a b : Word) : Word := word (toF32 0 false 0 (divVals (ofF32 a) (ofF32 b))).code
/-- The weights of the chosen logits in order (R320). -/
def routeWeights (ls : List Val) : List Word :=
  let l0 := ls.headD (.inf true)
  if l0.isInf true then ls.map fun _ => word (toF32 0 false 0 (divVals (Val.ofInt 1 0) (Val.ofInt ls.length 0))).code
  else
    let es := ls.map fun l =>
      if l0.isInf false then (if l.isInf false then 0x3F800000 else 0)
      else expF32 (logitDiff l l0)
    let sum := (tree (fun _ _ (x y : Word) => addF32 x y) es).getD 0
    es.map fun e => divF32 e sum
/-- ROUTE's outcome (R319, R320, R332). -/
def State.runRoute (s : State) (o : Op) (c : CommandOp) : Except EngineFail Result := do
  let ps := c.params
  let k := pf ps 4 16 4 + 1
  let n := pf ps 4 0 11 + 1
  let layer := pf ps 5 0 16
  let scb ← if pd ps 6 = 0 then pure none else (s.readScb o (pd ps 6)).map some
  if (scb.map Scb.bad).getD false then pure (.just 0x48)
  else
    let logitAt (e : Nat) : Except EngineFail Val := (s.unitNat o anyPath (pd ps 0 + 4 * e) 4).map fun w => logit (word w)
    let ls ← (List.range n).mapM fun e => (logitAt e).map fun l => (e, l)
    let own := ((sortWhere (fun (a b : Nat × Val) => b.2.lt a.2) ls).take k).map (·.1)
    if (scb.map fun b => b.rcount == 64).getD false then pure (.just 0x47)
    else
      let rp ← match scb with | some b => s.replayed o b false | none => pure none
      let entry : Option RouteEntry := match scb, rp with
        | some b, some r => if r.pfx then none else r.routes[b.rcount]?
        | _, _ => none
      let ids (e : RouteEntry) : List Nat := e.ids.map BitVec.toNat
      let chosen : List Nat := match entry with | some e => ids e | none => own
      let mis := match rp with
        | some r => !r.pfx && (match entry with | some e => decide (ids e ≠ own ∨ e.layer.toNat ≠ layer) | none => true)
        | none => false
      let vals ← chosen.mapM logitAt
      let out := ((chosen.zip (routeWeights vals)).flatMap fun (p : Nat × Word) => leBytes 4 p.1 ++ leBytes 4 p.2.toNat)
      let log := match scb with
        | some b =>
          [({ va := b.field 0x60 8 + 36 * b.rcount,
              bytes := leBytes 2 layer ++ leBytes 1 chosen.length ++ leBytes 1 0 ++ leBytes 32 (leNat (chosen.flatMap (leBytes 2))) } : Patch),
           b.set 0x68 2 (b.rcount + 1)] ++ if mis then [b.set 0x50 4 (b.mismatch + 1)] else []
        | none => []
      pure { st := 0, info := k, second := none, paths := anyPath, patches := log ++ [{ va := pd ps 2, bytes := out }] }
/-- GENERATION_UNIT_COMPLETION (R306). -/
def execGenerationUnitCompletion (op : Nat) (s : State) : Host.Outcome State Fault Refusal :=
  match s.op? op with
  | none => .next s
  | some o =>
    match o.command? with
    | none => .next s
    | some c =>
      if !c.started then .next s
      else match c.cmd with
        | .sample => .next (s.finishUnit o c (s.runSample o c) id)
        | .route => .next (s.finishUnit o c (s.runRoute o c) id)
        | _ => .next s

end Sys2Proof.Machine
end

