-- ==== Sys2Proof/Machine/Journal.lean ====
section
/-! DEFINITION. The journal: EMIT, JTRUNC, JREPLAY and JSTAT, opcodes 0xE8 to 0xEB (R321 to R336), the region and the local tail, partner
loss, castling and resynchronisation (R32, R325 to R329), and the Journal group of the management interface (R409). -/

namespace Sys2Proof.Machine

/-! ## Records (R321, R322) -/

/-- A record with no fields of its own. -/
def blankRecord (kind : RecKind) (dev : Nat) (seqid : Dbl) (step : Word) : JRecord :=
  { kind := kind, reason := 0, srcdev := dev, seqid := seqid, step := step, c := 0, topk := 0, topp := 0, key := 0, ctr := 0, imgid := 0,
    imgdig := [], start := 0, prompt := [], token := 0, digest := 0, routes := [] }
/-- Bytes of a record (R321, R322). -/
def recordLen (r : JRecord) : Nat :=
  (match r.kind with
    | .opn => 32 + 72 + 4 * r.prompt.length + 31
    | .step => 32 + 24 + 36 * r.routes.length + 31
    | .close => 32
    | .trunc => 64) / 32 * 32
/-- A route log's entry (R319). -/
def routeEntryOf (bs : List Byte) : RouteEntry :=
  let k := leNat ((bs.drop 2).take 1)
  { layer := BitVec.ofNat 16 (leNat (bs.take 2)), k := BitVec.ofNat 8 k,
    ids := (List.range (min k 16)).map fun i => BitVec.ofNat 16 (leNat ((bs.drop (4 + 2 * i)).take 2)) }
/-- The TRUNC records of the local tail that the partner has not acknowledged: held beside the records that they will release (R326, R330). -/
def Journal.pendingTruncs (j : Journal) : List JRecord :=
  (j.sends.filter fun x => x.op.isSome && x.record.kind == .trunc).map (·.record)
/-- Bytes of the region in use, the local tail included with the records that it has not had acknowledged (R326). -/
def Journal.used (j : Journal) : Nat := ((j.held ++ j.pendingTruncs).map recordLen).sum
/-- The state with the journal changed. -/
def State.onJournal (s : State) (f : Journal → Journal) : State := { s with journal := f s.journal }
/-- The records of a sequence without the STEP records that a TRUNC releases and with it as their summary (R330). -/
def truncRecords (held : List JRecord) (r : JRecord) : List JRecord :=
  (held.filter fun x => !(x.srcdev == r.srcdev && x.seqid == r.seqid &&
    (x.kind == .trunc || (x.kind == .step && decide (x.step.toNat ≤ r.step.toNat))))) ++ [r]
/-- The records without those of a sequence. -/
def dropRecords (held : List JRecord) (dev : Nat) (seqid : Dbl) : List JRecord :=
  held.filter fun x => !(x.srcdev == dev && x.seqid == seqid)

/-! ## Issue -/

/-- EMIT (R323). -/
def execEmit (sd sa : SReg) (s : State) : Host.Outcome State Fault Refusal :=
  genInstr (.emit sd sa) s .emit sd 1 (·.params sa)
    (fun p => decide (pf p 2 0 2 ≠ 3 ∧ pf p 2 2 6 = 0 ∧ pf p 2 16 16 = 0 ∧ (pf p 2 0 2 = 0 → (pw p 3).toNat ≤ 2 ^ 20)))
    (fun _ => []) fun p => [(pd p 0, scbBytes)]
/-- JTRUNC (R330). -/
def execJtrunc (sd sa : SReg) (s : State) : Host.Outcome State Fault Refusal :=
  genInstr (.jtrunc sd sa) s .jtrunc sd 1 (·.params sa) (fun _ => true) (fun _ => []) fun p => [(pd p 0, scbBytes)]
/-- JREPLAY (R331). -/
def execJreplay (sd sa : SReg) (s : State) : Host.Outcome State Fault Refusal :=
  genInstr (.jreplay sd sa) s .jreplay sd 1 (·.params sa) (fun p => decide (pf p 4 11 21 = 0)) (fun _ => [])
    fun p => [(pd p 0, scbBytes), (pd p 6, 4 * (pw p 5).toNat)]
/-- JSTAT (R334). -/
def execJstat (sd sa : SReg) (s : State) : Host.Outcome State Fault Refusal :=
  genInstr (.jstat sd sa) s .jstat sd 2 (·.params sa) (fun p => decide ((pw p 0).toNat ≤ 8)) (fun _ => []) fun _ => []

/-! ## Sending (R324, R327) -/

/-- Patches with the paths they may take. -/
abbrev Patches := List (List Nat × Patch)
/-- The keys and bytes of patches, or the first failure. -/
def State.allKeys (s : State) (o : Op) (ps : Patches) : Except EngineFail (List (Nat × Byte)) :=
  (ps.mapM fun p => s.patchKeys o p.1 [p.2]).map List.flatten
/-- A record leaves for the partner in journal flits (R32, R357). -/
def State.sendJournal (s : State) (part : Option Nat) (r : JRecord) : State :=
  s.transmitJournal { type := 4, dst := s.journal.partner.getD 0, part := part, seq := none, lens := flitLens (recordLen r) }
/-- The partner is there or coming back by itself: the link is up or resynchronising. -/
def Journal.reach (j : Journal) : Bool := decide (j.partner.isSome ∧ (j.link = 0 ∨ j.link = 2))
/-- A command's record is sent, or waits for a partner, or ends NOPARTNER with nothing changed (R327). The tail keeps a copy of it beside what
it holds until the acknowledgement, but for a TRUNC record, which is the summary of a release only once that is acknowledged (R326, R330). -/
def State.sendRecord (s : State) (o : Op) (c : CommandOp) (locks : List Lock) (r : JRecord) (policy : Bool) : State :=
  if !s.journal.reach && policy then s.endState o c 0x44 0
  else
    let s1 := s.begin o { c with locks := c.locks ++ locks }
    let s2 := { s1 with locks := s1.locks ++ locks.map fun l => (o.part, o.id, l) }
    let s3 := s2.onJournal fun j => { j with
      held := if r.kind = .trunc then j.held else j.held ++ [r]
      sends := j.sends ++ [{ op := some o.id, sent := j.reach, policy := policy, record := r }] }
    if s.journal.reach then s3.sendJournal (some o.part) r else s3
/-- The partner as an SCB records it. -/
def Journal.partnerId (j : Journal) : Nat := j.partner.getD 0 % 2 ^ 11
/-- What EMIT writes at the acknowledgement (R324). -/
def emitPatches (b : Scb) (kind reason partner : Nat) : Patches :=
  let rb := b.field 0x10 8
  let put (off : Nat) (v : Nat) : List Nat × Patch := ([2, 3], { va := rb + off, bytes := leBytes 4 v })
  let own (p : Patch) : List Nat × Patch := (scbPath, p)
  match kind with
  | 0 => [own (b.set 0x44 4 (b.flags ||| 1)), own (b.set 0x3C 4 0), own (b.set 0x36 2 partner), put 0 0, put 4 0]
  | 1 => [own (b.set 0x3C 4 b.step), own (b.set 0x68 2 0), put (8 + 4 * ((b.step + 2 ^ 32 - 1) % 2 ^ 32)) (b.field 0x40 4), put 0 b.step]
  | _ => [own (b.set 0x44 4 (b.flags ||| 2)), put 4 (1 ||| (reason * 2 ^ 8))]
/-- The state of a sequence admits an EMIT (R323). -/
def emitAdmits (b : Scb) (kind : Nat) : Bool :=
  let opened := b.flags.testBit 0
  let closed := b.flags.testBit 1
  match kind with
  | 0 => !opened
  | 1 => opened && !closed && decide (b.step = (b.jstep + 1) % 2 ^ 32)
  | _ => opened && !closed
/-- EMIT's record (R322, R324). -/
def State.emitRecord (s : State) (o : Op) (c : CommandOp) (b : Scb) (kind reason : Nat) : Except EngineFail JRecord :=
  let seqid := dbl (b.field 0 8)
  match kind with
  | 0 => do
    let img ← s.readImage o (b.field 8 8)
    let n := (pw c.params 3).toNat
    let ids ← s.unitBytes o anyPath (pd c.params 4) (4 * n)
    pure { blankRecord .opn s.fabric.devid seqid 0 with
      c := word (b.field 0x28 4), topk := BitVec.ofNat 16 (b.field 0x2C 2), topp := BitVec.ofNat 16 (b.field 0x2E 2),
      key := dbl (b.field 0x18 8), ctr := dbl b.ctr, imgid := dbl img.id, imgdig := img.dig, start := word img.start,
      prompt := (List.range n).map fun i => word (leNat ((ids.drop (4 * i)).take 4)) }
  | 1 => do
    let log ← s.unitBytes o anyPath (b.field 0x60 8) (36 * b.rcount)
    pure { blankRecord .step s.fabric.devid seqid (word b.step) with
      token := word (b.field 0x40 4), ctr := dbl b.ctr, digest := dbl (b.field 0x48 8),
      routes := (List.range b.rcount).map fun i => routeEntryOf ((log.drop (36 * i)).take 36) }
  | _ => .ok { blankRecord .close s.fabric.devid seqid (word b.jstep) with reason := BitVec.ofNat 8 reason }
/-- EMIT starts (R305, R323, R324). -/
def State.startEmit (s : State) (o : Op) (c : CommandOp) : State :=
  let kind := pf c.params 2 0 2
  let reason := pf c.params 2 8 8
  match s.readScb o (pd c.params 0) with
  | .error e => s.failState o c e
  | .ok b =>
    if b.bad then s.endState o c 0x48 0
    else if !emitAdmits b kind then s.endState o c 0x47 0
    else
      let rb := b.field 0x10 8
      let ranges := (rb, 8) :: if kind = 1 then [((rb + 8 + 4 * ((b.step + 2 ^ 32 - 1) % 2 ^ 32)) % 2 ^ 64, 4)] else []
      let locks := locksOf o.gid [] ranges
      if s.lockHeld o locks then s
      else match (do
          let r ← s.emitRecord o c b kind reason
          let _ ← s.allKeys o (emitPatches b kind reason s.journal.partnerId)
          pure r : Except EngineFail JRecord) with
        | .error e => s.failState o c e
        | .ok r => s.sendRecord o c locks r (b.flags.testBit 4)
/-- The TRUNC record of a step (R330). -/
def State.truncRecord (s : State) (b : Scb) (step : Nat) : JRecord :=
  let dev := s.fabric.devid
  let seqid := dbl (b.field 0 8)
  let recs := s.journal.records dev seqid
  let r := blankRecord .trunc dev seqid (word step)
  match recs.find? fun x => x.kind == .step && x.step.toNat == step with
  | some x => { r with ctr := x.ctr, digest := x.digest }
  | none =>
    if step = 0 then
      match recs.find? (·.kind == .opn) with
      | some x => { r with ctr := x.ctr, digest := dbl (grammarDigest x.start.toNat []) }
      | none => r
    else match recs.find? (·.kind == .trunc) with
      | some x => { r with ctr := x.ctr, digest := x.digest }
      | none => r
/-- What JTRUNC writes at the acknowledgement: nothing where it releases a closed sequence whole (R330). -/
def truncPatches (b : Scb) (step : Nat) : Patches :=
  if b.flags.testBit 1 && decide (step = b.jstep) then [] else [(scbPath, b.set 0x7C 4 step)]
/-- JTRUNC starts (R330). -/
def State.startTrunc (s : State) (o : Op) (c : CommandOp) : State :=
  let step := (pw c.params 2).toNat
  match s.readScb o (pd c.params 0) with
  | .error e => s.failState o c e
  | .ok b =>
    if b.bad then s.endState o c 0x48 0
    else if !b.flags.testBit 0 || decide (b.jstep < step ∨ step < b.field 0x7C 4) then s.endState o c 0x47 0
    else match s.allKeys o (truncPatches b step) with
      | .error e => s.failState o c e
      | .ok _ => s.sendRecord o c [] (s.truncRecord b step) (b.flags.testBit 4)
/-- What JREPLAY finds: the OPEN record, the last step, whether the sequence was closed. -/
structure Source where
  opn : JRecord
  last : Nat
  summary : Option Nat
  closed : Bool
  deriving DecidableEq, Repr
/-- A sequence in this device's journal (R331). -/
def Journal.source (j : Journal) (dev : Nat) (seqid : Dbl) : Option Source :=
  let recs := j.records dev seqid
  let steps := (recs.filter (·.kind == .step)).map (·.step.toNat)
  let sum := (recs.find? (·.kind == .trunc)).map (·.step.toNat)
  (recs.find? (·.kind == .opn)).map fun x =>
    { opn := x, last := if steps.isEmpty then sum.getD 0 else steps.foldl max 0, summary := sum, closed := recs.any (·.kind == .close) }
/-- What JREPLAY writes at the acknowledgement (R331). -/
def replayPatches (c : CommandOp) (b : Scb) (x : Source) (partner : Nat) : Patches :=
  let own (off n v : Nat) : List Nat × Patch := (scbPath, b.set off n v)
  [(anyPath, { va := pd c.params 6, bytes := x.opn.prompt.flatMap fun w => leBytes 4 w.toNat }),
   own 0 8 (pd c.params 2), own 0x18 8 x.opn.key.toNat, own 0x28 4 x.opn.c.toNat, own 0x2C 2 x.opn.topk.toNat, own 0x2E 2 x.opn.topp.toNat,
   own 0x20 8 x.opn.ctr.toNat, own 0x30 4 x.opn.start.toNat, own 0x34 2 0, own 0x48 8 (grammarDigest x.opn.start.toNat []), own 0x38 4 0,
   own 0x54 4 x.last,
   own 0x44 4 ((b.flags &&& 0x16) ||| 1 ||| (if x.last = 0 then 0 else 8) ||| (if x.closed then 0x20 else 0)),
   own 0x3C 4 0, own 0x36 2 partner, ([2, 3], { va := b.field 0x10 8, bytes := leBytes 4 0 })]
/-- A replay's image does not match its OPEN record (R331). -/
def State.imageDiffers (s : State) (o : Op) (b : Scb) (x : Source) : Except EngineFail Bool := do
  let img ← s.readImage o (b.field 8 8)
  let bs ← s.unitBytes o [2] (img.base + 128) (img.len - 128)
  pure (decide (sm3 bs ≠ x.opn.imgdig ∨ dbl img.id ≠ x.opn.imgid))
/-- JREPLAY starts (R329, R331). -/
def State.startReplay (s : State) (o : Op) (c : CommandOp) : State :=
  let ps := c.params
  let dev := pf ps 4 0 11
  match s.readScb o (pd ps 0) with
  | .error e => s.failState o c e
  | .ok b =>
    if b.bad then s.endState o c 0x48 0
    else if !s.journal.fenced.contains dev then s.endState o c 0x4A 0
    else match s.journal.source dev (dbl (pd ps 2)) with
      | none => s.endState o c 0x49 0
      | some x => match s.imageDiffers o b x with
        | .error e => s.failState o c e
        | .ok differs =>
          if differs || decide ((pw ps 5).toNat < x.opn.prompt.length) || (match x.summary with | some t => decide (b.pfx ≠ t) | none => false) then
            s.endState o c 0x48 0
          else
            let locks := locksOf o.gid [] [(b.field 0x10 8, 8)]
            if s.lockHeld o locks then s
            else match s.allKeys o (replayPatches c b x s.journal.partnerId) with
              | .error e => s.failState o c e
              | .ok _ =>
                let r := { x.opn with srcdev := s.fabric.devid }
                s.sendRecord o c locks r (b.flags.testBit 4)
/-- Sequences held for a device, in ascending SEQID (R334). -/
def State.heldSeqs (s : State) (dev : Nat) : List Nat :=
  if dev = s.fabric.devid then []
  else sortWhere (fun a b => decide (a < b)) ((s.journal.held.filter (·.srcdev == dev)).map (·.seqid.toNat)).eraseDups
/-- JSTAT's answer (R334). -/
def State.jstatAnswer (s : State) (sel p1 p2 : Nat) : Word :=
  let j := s.journal
  match sel with
  | 0 => match j.partner with | some d => word (2 ^ 31 + d % 2 ^ 11) | none => 0
  | 1 => word j.link
  | 2 => word j.missed
  | 3 => word ((j.used + 1023) / 1024)
  | 4 => word (j.capacity * 1024)
  | 5 => word (j.sends.filter (·.sent)).length
  | 6 => word (s.heldSeqs p2).length
  | _ => match (s.heldSeqs p2)[p1]? with
    | some q => word (if sel = 7 then q else q / 2 ^ 32)
    | none => 0xFFFFFFFF
/-- A journal command starts. -/
def State.startJournal (s : State) (o : Op) (c : CommandOp) : State :=
  match c.cmd with
  | .emit => s.startEmit o c
  | .jtrunc => s.startTrunc o c
  | .jreplay => s.startReplay o c
  | _ => s.endUnit o c (doneStatus 0) (some (s.jstatAnswer (pw c.params 0).toNat (pw c.params 1).toNat (pw c.params 2).toNat))
/-- GMASK starts: its mask buffer's lock stands once the image's VOCAB is known (R305). -/
def State.startGmask (s : State) (o : Op) (c : CommandOp) : State :=
  match (do
      let b ← s.readScb o (pd c.params 0)
      s.readImage o (b.field 8 8) : Except EngineFail Image) with
  | .error _ => s.begin o c
  | .ok img =>
    let locks := locksOf o.gid [] [(pd c.params 2, 4 * ((img.vocab + 31) / 32))]
    if s.lockHeld o locks then s
    else
      let s1 := s.begin o { c with locks := c.locks ++ locks }
      { s1 with locks := s1.locks ++ locks.map fun l => (o.part, o.id, l) }

/-! ## Acknowledgements (R324, R330, R331) -/

/-- A sequence begins anew: its OPEN record is all that is held of it. -/
def reopen (held : List JRecord) (r : JRecord) : List JRecord := dropRecords held r.srcdev r.seqid ++ [r]
/-- A command's record is acknowledged: its effects land in order and its status fills. -/
def State.acknowledge (s : State) (o : Op) (c : CommandOp) (r : JRecord) : State :=
  let ps := c.params
  match s.readScb o (pd ps 0) with
  | .error e => s.failState o c e
  | .ok b =>
    let land (patches : Patches) (f : Journal → Journal) (info : Nat) : State :=
      match s.allKeys o patches with
      | .error e => s.failState o c e
      | .ok ws => ((s.engineWrite o ws).onJournal f).endState o c 0 info
    match c.cmd with
    | .emit =>
      let kind := pf ps 2 0 2
      land (emitPatches b kind (pf ps 2 8 8) s.journal.partnerId)
        (fun j => if kind = 0 then { j with held := reopen j.held r } else j) (if kind = 0 then 0 else if kind = 1 then b.step else b.jstep)
    | .jtrunc =>
      let step := r.step.toNat
      let whole := b.flags.testBit 1 && decide (step = b.jstep)
      land (truncPatches b step)
        (fun j => { j with held := if whole then dropRecords j.held r.srcdev r.seqid else truncRecords j.held r }) step
    | .jreplay =>
      let dev := pf ps 4 0 11
      match s.journal.source dev (dbl (pd ps 2)), s.unitKey o scbPath .read b.va with
      | some x, .ok k =>
        land (replayPatches c b x s.journal.partnerId) (fun j =>
          let rest := j.replays.filter (·.scb != k)
          let held := reopen j.held r
          if x.last = 0 then { j with held := dropRecords held dev (dbl (pd ps 2)), replays := rest }
          else { j with held := held, replays := { scb := k, dev := dev, seqid := dbl (pd ps 2) } :: rest }) x.last
      | _, _ => s.endState o c 0x49 0
    | _ => s
/-- The journal port of the partner carries records, acknowledgements and heartbeats (R32, R358, R406): J0 is port 34, J1 port 35. -/
def State.journalCarries (s : State) : Bool := s.journalUp && s.fabric.carries (34 + s.journal.port % 2)
/-- JOURNAL_ACK_RECEIVED (R324, R327): a record that has gone out on a link that is up. -/
def execJournalAckReceived (op : Nat) (s : State) : Host.Outcome State Fault Refusal :=
  match s.journal.sends.find? (fun x => x.op == some op && x.sent), s.op? op with
  | some x, some o =>
    match o.command? with
    | some c =>
      if s.journal.link ≠ 0 ∨ s.journalCarries = false then .next s
      else .next ((s.onJournal fun j => { j with sends := j.sends.filter (· != x) }).acknowledge o c x.record)
    | none => .next s
  | _, _ => .next s

/-! ## The partner's records (R325) -/

/-- A record that may be applied: its sequence is open and its step follows the last one applied. -/
def Journal.admits (j : Journal) (r : JRecord) : Bool :=
  let recs := j.records r.srcdev r.seqid
  let last := (recs.map fun x => if x.kind == .step || x.kind == .trunc then x.step.toNat else 0).foldl max 0
  match r.kind with
  | .opn => true
  | .step => recs.any (·.kind == .opn) && decide (r.step.toNat ≤ last + 1)
  | .close => recs.any (·.kind == .opn) && decide (r.step.toNat ≤ last)
  | .trunc => recs.any (·.kind == .opn)
/-- The region after a record is applied (R325, R330). -/
def applyRecord (held : List JRecord) (r : JRecord) : List JRecord :=
  match r.kind with
  | .opn => reopen held r
  | .trunc =>
    if held.any fun x => x.srcdev == r.srcdev && x.seqid == r.seqid && x.kind == .close && x.step == r.step then
      dropRecords held r.srcdev r.seqid
    else truncRecords held r
  | k =>
    -- a step that a TRUNC has released stays released
    if k == .step && held.any fun x => x.srcdev == r.srcdev && x.seqid == r.seqid && x.kind == .trunc && decide (r.step.toNat ≤ x.step.toNat)
    then held
    else (held.filter fun x => !(x.srcdev == r.srcdev && x.seqid == r.seqid && x.kind == k && x.step == r.step)) ++ [r]
/-- JOURNAL_RECORD_RECEIVED (R325): written and registered when the region has room, then acknowledged. -/
def execJournalRecordReceived (rec : JRecord) (s : State) : Host.Outcome State Fault Refusal :=
  let j := s.journal
  if s.journalCarries = false ∨ j.partner ≠ some rec.srcdev ∨ j.fenced.contains rec.srcdev = true ∨ j.admits rec = false ∨
      (rec.kind ≠ .trunc ∧ j.capacity * 2 ^ 20 < j.used + recordLen rec) then .next s
  else .next (((s.onJournal fun j => { j with held := applyRecord j.held rec }).tell (.journalAck rec.srcdev rec.seqid rec.kind rec.step)).transmitJournal
    { type := 3, dst := rec.srcdev, part := none, seq := none, lens := [none] })

/-! ## Partner loss and castling (R32, R327, R328) -/

/-- HEARTBEAT_SEND (R32): another interval of 10 µs has passed, whether or not the port carries the heartbeat. -/
def execHeartbeatSend (s : State) : Host.Outcome State Fault Refusal :=
  .next (if s.journalUp && s.journal.partner.isSome then
      (s.onJournal fun j => { j with missed := min 3 (j.missed + 1) }).transmitJournal
        { type := 4, dst := s.journal.partner.getD 0, part := none, seq := none, lens := [none] }
    else s)
/-- HEARTBEAT_RECEIVED (R32). -/
def execHeartbeatReceived (s : State) : Host.Outcome State Fault Refusal :=
  .next (if s.journalCarries && s.journal.partner.isSome then s.onJournal fun j => { j with missed := 0 } else s)
/-- A command that waits for a record ends NOPARTNER; the record leaves the tail (R327). -/
def State.dropSend (s : State) (x : JSend) : State :=
  let s1 := s.onJournal fun j => { j with
    sends := j.sends.filter (· != x), held := if x.record.kind = .trunc then j.held else j.held.erase x.record }
  match x.op.bind s1.op? with
  | some o => match o.command? with
    | some c => s1.endState o c 0x44 0
    | none => s1
  | none => s1
/-- PARTNER_LOST (R32, R327): commands of sequences with POLICY 1 end NOPARTNER, others wait. -/
def execPartnerLost (s : State) : Host.Outcome State Fault Refusal :=
  let j := s.journal
  if j.partner.isSome && decide (j.missed = 3 ∧ j.link ≠ 1) then
    let s1 := (s.onJournal fun j => { j with link := 1 }).tell .partnerLost
    .next ((s1.journal.sends.filter fun x => x.policy && x.op.isSome).foldl State.dropSend s1)
  else .next s
/-- Where a record stands in what a resynchronisation sends of its sequence: OPEN, the summary, the steps in ascending order, CLOSE (R328). -/
def resyncRank (r : JRecord) : Nat :=
  match r.kind with | .opn => 0 | .trunc => 1 | .step => 2 + r.step.toNat | .close => 2 + 2 ^ 32
/-- Records sequence by sequence in the order of a resynchronisation; the sequences in the order in which they are held (R328; log entry 81). -/
def resyncOrder (rs : List JRecord) : List JRecord :=
  ((rs.map (·.seqid)).eraseDups).flatMap fun q => sortWhere (fun a b => decide (resyncRank a < resyncRank b)) (rs.filter (·.seqid == q))
/-- The journal port that reaches a device which may become the partner (R32, R328): the castling candidate's is the one that does not reach
the partner; any other device must be the partner itself, or there is none yet (log entry 81). -/
def Journal.portTo (j : Journal) (dev : Nat) : Option Nat :=
  if j.candidate = some dev ∧ j.partner ≠ some dev then some (1 - j.port % 2)
  else if j.partner = none ∨ j.partner = some dev then some (j.port % 2)
  else none
/-- PARTNER_ASSIGN (R325, R328): refused while the capacity is zero, or where no journal port reaches the device; the whole tail goes out
again, and the commands that wait after it. -/
def execPartnerAssign (dev : Nat) (s : State) : Host.Outcome State Fault Refusal :=
  match s.journal.portTo dev with
  | none => .next s
  | some port =>
    if s.journal.capacity = 0 then .next s
    else
      let j := s.journal
      let cmds := (j.sends.filter (·.op.isSome)).map fun x => { x with sent := true }
      let mine := j.held.filter fun r => r.srcdev == s.fabric.devid && (r.kind == .trunc || !cmds.any fun x => x.record == r)
      let sends := (resyncOrder mine).map (fun r => { op := none, sent := true, policy := false, record := r }) ++ cmds
      let s1 := s.onJournal fun j => { j with
        partner := some dev, port := port, link := 2, missed := 0
        candidate := if j.candidate = some dev then none else j.candidate
        sends := sends }
      .next (sends.foldl (fun (t : State) x => t.sendJournal ((x.op.bind s.op?).map (·.part)) x.record) s1)
/-- RESYNCHRONISATION_COMPLETE (R328). -/
def execResynchronisationComplete (s : State) : Host.Outcome State Fault Refusal :=
  .next (if s.journal.link = 2 ∧ s.journalCarries = true then s.onJournal fun j => { j with link := 0, sends := j.sends.filter (·.op.isSome) } else s)
/-- CASTLING_CANDIDATE_NAME (R32). -/
def execCastlingCandidateName (dev : Nat) (s : State) : Host.Outcome State Fault Refusal :=
  .next (s.onJournal fun j => { j with candidate := some dev })
/-- JOURNAL_CAPACITY_SET (R325): not while a partner is assigned. The region lies at the top of HBM (log entry 74), withheld from every
partition and from the host's share. -/
def execJournalCapacitySet (mib : Nat) (s : State) : Host.Outcome State Fault Refusal :=
  let size := mib * 2 ^ 20
  .next (if s.journal.partner.isSome || decide (Config.hbmBytes < size) || s.hbmTaken 8 (Config.hbmBytes - size) size then s
    else s.onJournal fun j => { j with capacity := mib })
/-- DEVICE_FENCE (R329). -/
def execDeviceFence (dev : Nat) (s : State) : Host.Outcome State Fault Refusal :=
  .next (if s.journal.fenced.contains dev then s else s.onJournal fun j => { j with fenced := dev :: j.fenced })

end Sys2Proof.Machine
end

