-- ==== Sys2Proof/Machine/Remote.lean ====
section
/-! DEFINITION. Peers and collectives: RSIG, COLL and PEERQ, opcodes 0xEC to 0xEE (R345 to R354), packets that arrive from other devices
(R337, R338, R341), acknowledgements and unreachable destinations (R342 to R344), links (R357 to R359). -/

namespace Sys2Proof.Machine

/-! ## RSIG (R345) -/

/-- RSIG with an optional generation: a release that is handed to the router. Its traps are those of an access made once for the team, with the
fabric address that it names (R201). -/
def rsigInstr (i : Instr) (s : State) (sa : SReg) (gen : Team → Option Word) (n : Team → Word) : Host.Outcome State Fault Refusal :=
  issue i s fun slot t =>
    let v := (t.rd64 sa.toNat).toNat
    if v % 8 ≠ 0 then .next (s.teamFault slot t codeMisaligned 4 v 0 true 8)
    else if v / 2 ^ 53 = s.fabric.devid then .next (s.teamFault slot t codeProtection 4 v 0 true 8)
    else if t.counterFull [4] || s.routerFull (s.partOf t) then .next s
    else s.startSignal slot t (.remote (v / 2 ^ 53) (v % 2 ^ 53) (gen t) (n t)) [4]
/-- RSIG (R345). -/
def execRsig (sa sb : SReg) (s : State) : Host.Outcome State Fault Refusal :=
  rsigInstr (.rsig sa sb) s sa (fun _ => none) fun t => t.rs sb.toNat
/-- RSIG with a generation (R345). -/
def execRsigGen (sg sa sb : SReg) (s : State) : Host.Outcome State Fault Refusal :=
  rsigInstr (.rsigGen sg sa sb) s sa (fun t => some (t.rs sg.toNat)) fun t => t.rs sb.toNat

/-! ## PEERQ (R347) -/

/-- A question is under way: its destination is empty until the answer. -/
def State.startAsk (s : State) (slot : Nat) (t : Team) (q : Question) (d : Dest) : Host.Outcome State Fault Refusal :=
  (s.addOp slot t (.ask q)).moveOn slot fun u => u.mark true d
/-- An answer is written and its registers fill (R47). -/
def State.answer (s : State) (o : Op) (sd : Nat) (ws : List Word) : State :=
  (s.deliver o fun t => (t.wsList sd ws).mark false (.scal sd ws.length)).dropOp o.id
/-- PEERQ (R347). -/
def execPeerq (sd sa sb : SReg) (s : State) : Host.Outcome State Fault Refusal :=
  issue (.peerq sd sa sb) s fun slot t =>
    let a := (t.rs sa.toNat).toNat
    let b := (t.rs sb.toNat).toNat
    if 11 < b ∨ (b ≤ 10 ∧ 2 ^ 11 ≤ a) ∨ (b = 11 ∧ 35 < a) then .next (s.illegal slot)
    else s.startAsk slot t (.peer sd.toNat (t.rs sa.toNat) (t.rs sb.toNat)) (.scal sd.toNat 1)
/-- The router's answer (R347). -/
def State.routerWord (s : State) (part a b : Nat) : Word :=
  let f := s.fabric
  let bit (n : Nat) (x : Bool) : Nat := if x then 2 ^ n else 0
  match b with
  | 0 =>
    let hops := if a = f.devid then 0 else if f.direct then (match f.route? a with | some r => r.hops % 4 | none => 0)
      else if f.reachable a then 1 else 0
    let alts := if f.direct then (match f.route? a with | some r => (f.usable r).length | none => 0) else 0
    word (bit 31 (f.reachable a) + bit 30 (f.unreachable.contains a) + hops * 2 ^ 28 + alts * 2 ^ 24 + a)
  | 1 => match (if f.direct then f.route? a else none) with
    | some r => word (2 ^ 31 + r.next % 2 ^ 11 * 2 ^ 16 + r.port % 2 ^ 6)
    | none => 0
  | 10 => word (min (sget 0 (s.part part).sent a - sget 0 (s.part part).acked a) 0xFFFFFFFF)
  | 11 =>
    let p := f.port a
    word (bit 31 (f.portUp a) + bit 9 (decide (34 ≤ a)) + bit 8 p.nrz + p.lanes % 32)
  | n => match (if f.direct then f.route? a else none).bind fun r => r.nonMin[n - 2]? with
    | some x => word (bit 31 (f.carries x.2) + x.1 % 2 ^ 11 * 2 ^ 16 + x.2 % 2 ^ 6)
    | none => 0
/-- ROUTER_ANSWER (R347). -/
def execRouterAnswer (op : Nat) (s : State) : Host.Outcome State Fault Refusal :=
  match s.op? op with
  | some o => match o.kind with
    | .ask (.peer sd a b) => .next (s.answer o sd [s.routerWord o.part a.toNat b.toNat])
    | _ => .next s
  | none => .next s

/-! ## Request blocks of collectives (R349) -/

/-- A collective request block: its fields, nodes as (kind, children, reference), child list, mapping, the canonical tree; whether it is valid,
and whether its header is, so that its tables count. -/
structure Crb where
  op : Nat
  func : Nat
  rnd : Nat
  fmt : Dbl
  cid : Dbl
  count : Nat
  nshard : Nat
  root : Nat
  nodes : List (Nat × Nat × Nat)
  kids : List Nat
  mapping : List Nat
  tree : List Byte
  valid : Bool
  full : Bool
  deriving DecidableEq, Repr
/-- The nodes reached from a stack of nodes, children in order; none where there are more than the fuel. -/
def crbWalk (nodes : List (Nat × Nat × Nat)) (kids : List Nat) : Nat → List Nat → Option (List Nat)
  | _, [] => some []
  | 0, _ => none
  | n + 1, x :: st =>
    match nodes[x]? with
    | none => none
    | some (k, nch, ref) => (crbWalk nodes kids n ((if k = 1 then (kids.drop ref).take nch else []) ++ st)).map (x :: ·)
/-- The nodes of a block in the order its fold reaches them. -/
def Crb.order (b : Crb) : List Nat := (crbWalk b.nodes b.kids b.nodes.length [b.root]).getD []
/-- The shards at the leaves, leftmost first. -/
def Crb.shards (b : Crb) : List Nat := b.order.filterMap fun x => match b.nodes[x]? with | some (0, _, r) => some r | _ => none
/-- The tables of a block are valid: every node reached once, every shard the leaf of one node (R349). -/
def Crb.tablesOk (b : Crb) : Bool :=
  b.nodes.all (fun n => match n with
    | (0, nch, ref) => decide (nch = 0 ∧ ref < b.nshard)
    | (1, nch, ref) => decide (1 ≤ nch ∧ nch ≤ 64 ∧ ref + nch ≤ b.kids.length)
    | _ => false) &&
  b.kids.all (fun x => decide (x < b.nodes.length)) && b.mapping.all (fun m => decide (m < 2 ^ 11)) &&
  decide (b.order.length = b.nodes.length) && b.order.eraseDups.length == b.order.length &&
  decide (b.shards.length = b.nshard) && b.shards.eraseDups.length == b.nshard
/-- Where a block lies: device memory (R348). -/
def crbPath : List Nat := [2]
/-- Windows of the streams (R348). -/
def streamPath : List Nat := [0, 1, 2]
/-- The ranges of a block's tables. -/
def crbTables (va : Nat) (head : List Byte) : List (Nat × Nat) :=
  let f (off n : Nat) : Nat := leNat ((head.drop off).take n)
  [((va + f 0x28 8) % 2 ^ 64, 8 * f 0x1E 2), ((va + f 0x30 8) % 2 ^ 64, 4 * f 0x24 4), ((va + f 0x38 8) % 2 ^ 64, 2 * f 0x1C 2)]
/-- A block as the bytes of its header and of its tables give it; the tables are read where the header's fields hold valid values (R349,
R351). -/
def crbOf (parts : List (List Byte)) : Crb :=
  let head := parts.headD []
  let ts := parts.drop 1
  let f (off n : Nat) : Nat := leNat ((head.drop off).take n)
  let b : Crb := { op := f 4 1, func := f 5 1, rnd := f 6 1, fmt := dbl (f 8 8), cid := dbl (f 0x10 8), count := f 0x18 4, nshard := f 0x1C 2,
                   root := f 0x20 4, nodes := [], kids := [], mapping := [], tree := [], valid := false, full := false }
  if f 0 4 ≠ 0x31425243 ∨ 2 < b.op ∨ 2 < b.func ∨ 4 < b.rnd ∨ f 7 1 ≠ 0 ∨ fmtValid b.fmt = false ∨ b.count = 0 ∨ 2 ^ 24 ≤ b.count ∨
      b.nshard = 0 ∨ 4096 < b.nshard ∨ f 0x1E 2 = 0 ∨ 8192 < f 0x1E 2 ∨ f 0x1E 2 ≤ b.root ∨ f 0x28 8 % 8 ≠ 0 ∨ f 0x30 8 % 4 ≠ 0 ∨
      f 0x38 8 % 2 ≠ 0 ∨ f 0x40 64 ≠ 0 then b
  else
    let at_ (n off len : Nat) : Nat := leNat (((ts.getD n []).drop off).take len)
    let nodes := (List.range (f 0x1E 2)).map fun i => (at_ 0 (8 * i) 2, at_ 0 (8 * i + 2) 2, at_ 0 (8 * i + 4) 4)
    let b1 := { b with
      nodes := nodes, kids := (List.range (f 0x24 4)).map fun i => at_ 1 (4 * i) 4
      mapping := (List.range b.nshard).map fun i => at_ 2 (2 * i) 2
      tree := (head.drop 4).take 3 ++ (head.drop 8).take 8 ++ (head.drop 0x18).take 12 ++ ts.getD 0 [] ++ ts.getD 1 [] }
    { b1 with valid := b1.tablesOk, full := true }
/-- The valid elements of a participant (R256, R348). -/
def CommandOp.elems (c : CommandOp) (b : Crb) : Nat := if c.units = 0 then b.count else min c.valid b.count
/-- Bytes of a stream of v elements. -/
def Crb.streamBytes (b : Crb) (v : Nat) : Nat := (v * (fmtOf b.fmt).w + 7) / 8
/-- The combination of two codes (R350). -/
def Crb.combine (b : Crb) (x y : Nat) : Nat :=
  let f := fmtOf b.fmt
  let u := decodeVal f x
  let w := decodeVal f y
  let r := if b.func = 0 then sumVals (decide (b.rnd = 3)) [u, w] else if b.func = 1 then maxVal u w else minVal u w
  (encodeVal f b.rnd false 0 r.exact).code
/-- The value of a node at every element (R350). -/
def Crb.value (b : Crb) (contrib : Nat → List Nat) : Nat → Nat → List Nat
  | 0, _ => []
  | n + 1, x =>
    match b.nodes[x]? with
    | some (1, nch, ref) =>
      match (b.kids.drop ref).take nch with
      | k :: ks => ks.foldl (fun acc y => List.zipWith b.combine acc (Crb.value b contrib n y)) (Crb.value b contrib n k)
      | [] => []
    | some (_, _, ref) => contrib ref
    | none => []
/-- What a collective writes: the fold at ROOT, or for BROADCAST the root shard's contribution (R350). -/
def Crb.result (b : Crb) (contrib : Nat → List Nat) : List Nat :=
  if b.op = 2 then contrib (b.shards.headD 0) else b.value contrib b.nodes.length b.root
/-- A shard's COLL writes the result (R350). -/
def Crb.writes (b : Crb) (shard : Nat) : Bool := decide (b.op ≠ 0) || b.shards.headD 0 == shard

/-! ## COLL (R348, R352 to R354) -/

/-- COLL (R348): the CRB's lock is known at issue, the tables' and streams' once the engine has read it. -/
def execColl (sd sa sb : SReg) (s : State) : Host.Outcome State Fault Refusal :=
  issue (.coll sd sa sb) s fun slot t =>
    let ps := t.params sa
    let n := (t.rs sb.toNat).toNat
    if pd ps 0 % 128 ≠ 0 ∨ pf ps 6 12 20 ≠ 0 then s.badCommand slot
    else
      let locks := if sb ≠ 0 ∧ n = 0 then [] else locksOf t.group [(pd ps 0, 128)] []
      let c := { newCommand .coll ps n (if sb = 0 then 0 else 1) sd locks with need := 4 }
      s.issueCommand slot t c (locks.length + c.late) [] id
/-- The entry of the collective log (R354): HASH, CID, V and SHARD as the command's block gives them, free values where it does not. A base of
0 is a base not set (log entries 3, 8); no entry goes outside the partition's share of HBM (R31) or to a stack that is not ready (R406; log
entry 93). -/
def State.logColl (s : State) (o : Op) (c : CommandOp) (b : Option Crb) (state : Nat) : State :=
  let p := s.part o.part
  let at_ := p.logBase.toNat + 64 * p.logNext
  if p.logBase = 0 ∨ s.inShare o.part at_ 64 = false ∨ s.stacksUp at_ 64 = false then s
  else
    let open_ (n k : Nat) : List Byte := ((List.range n).map fun i => leBytes 4 (Config.openWord (s.freeCount + k + i)).toNat).flatten
    let hash := match b with | some b => sm3 b.tree | none => open_ 8 0
    let v := match b, c.extra[3]? with | some b, _ => leBytes 4 (c.elems b) | none, some v => leBytes 4 v | none, none => open_ 1 8
    let cid := match c.extra with | x :: _ => leBytes 8 x | [] => open_ 2 9
    let bytes := hash ++ cid ++ leBytes 4 (pw c.params 7).toNat ++ v ++ leBytes 2 (pf c.params 6 0 12) ++ leBytes 1 state ++ List.replicate 13 0
    let s1 := { s with freeCount := s.freeCount + 11 }
    (s1.homeWrite at_ bytes).onPart o.part fun p => { p with logNext := (p.logNext + 1) % Config.logEntries }
/-- A COLL starts (R348, R351): the engine reads the block once, which fixes the canonical tree, and its other locks stand. A block whose
header cannot be read names no collective, and the COLL ends alone; where a table cannot be read, or a range overlaps its own destination
(R262), the failure is the collective's (R352). -/
def State.startColl (s : State) (o : Op) (c : CommandOp) : State :=
  let va := pd c.params 0
  match s.unitBytes o crbPath va 128 with
  | .error e => (s.logColl o c none e.code).failState o c e
  | .ok head =>
    let h := crbOf [head]
    match (if h.full then (crbTables va head).mapM fun r => s.unitBytes o crbPath r.1 r.2 else .ok []) with
    | .error e => s.begin o { c with extra := [h.cid.toNat, e.code, e.va, c.elems h] }
    | .ok ts =>
      let b := crbOf (head :: ts)
      let v := c.elems b
      let dst := (pd c.params 4, b.streamBytes v)
      let reads := (if b.valid then crbTables va head else []) ++ [(pd c.params 2, b.streamBytes v)]
      let locks := if v = 0 || !b.valid then [] else locksOf o.gid reads [dst]
      if s.lockHeld o locks then s
      else
        let meets := b.valid && decide (0 < v) && ((va, 128) :: reads).any fun r => rangesMeet o.gid r dst
        let s1 := s.begin o { c with
          locks := c.locks ++ locks, block := head :: ts, extra := b.cid.toNat :: (if meets then [codeRangeLocked, pd c.params 4] else []) }
        { s1 with locks := s1.locks ++ locks.map fun l => (o.part, o.id, l) }
/-- A local participant with the block its engine has read. -/
structure Member where
  op : Op
  cmd : CommandOp
  crb : Except EngineFail Crb
/-- The shard a participant contributes. -/
def Member.shard (m : Member) : Nat := pf m.cmd.params 6 0 12
/-- The block of a participant where it is valid. -/
def Member.block? (m : Member) : Option Crb := match m.crb with | .ok b => if b.valid then some b else none | .error _ => none
/-- The block of a participant where its header is valid and its tables were read: its tree and COUNT are known (R351). -/
def Member.read? (m : Member) : Option Crb := match m.crb with | .ok b => if b.full then some b else none | .error _ => none
/-- What a participant's engine found when it read the block: the block, or the failure of a table. -/
def CommandOp.crb (c : CommandOp) : Except EngineFail Crb :=
  match c.block with
  | [] => .error { code := c.extra.getD 1 0, va := c.extra.getD 2 0, write := false }
  | ps => .ok (crbOf ps)
/-- The local participants of a collective: of one partition (R31), started, with its CID and SEQ (R352). -/
def State.members (s : State) (cid : Dbl) (sq : Word) : List Member :=
  let all := s.ops.filterMap fun o => match o.command? with
    | some c =>
      if c.cmd = .coll ∧ c.started = true ∧ c.extra.head? = some cid.toNat ∧ pw c.params 7 = sq then
        some ({ op := o, cmd := c, crb := c.crb } : Member)
      else none
    | none => none
  match all with
  | [] => []
  | m :: _ => all.filter fun x => x.op.part == m.op.part
/-- What participants must agree on: tree, COUNT, mapping, V (R352). -/
def Member.terms (m : Member) : Option (List Byte × Nat × List Nat × Nat) :=
  m.block?.map fun b => (sm3 b.tree, b.count, b.mapping, m.cmd.elems b)
/-- The bytes of a participant's contribution as codes. -/
def State.contribution (s : State) (m : Member) (b : Crb) : Except EngineFail (List Nat) := do
  let v := m.cmd.elems b
  let bs ← s.unitBytes m.op streamPath (pd m.cmd.params 2) (b.streamBytes v)
  let x := leNat bs
  let w := (fmtOf b.fmt).w
  pure ((List.range v).map fun e => x / 2 ^ (e * w) % 2 ^ w)
/-- The keys, masks and bytes of a result stream at a destination. -/
def State.streamWrites (s : State) (m : Member) (b : Crb) (codes : List Nat) : Except EngineFail (List (Nat × Byte × Byte)) := do
  let w := (fmtOf b.fmt).w
  let bits := codes.length * w
  let x := codes.foldr (fun c acc => c + acc * 2 ^ w) 0
  let ks ← (addrs (pd m.cmd.params 4) (b.streamBytes codes.length)).mapM fun a => s.unitKey m.op streamPath .write a
  pure ((ks.zip (List.range ks.length)).map fun k =>
    (k.1, BitVec.ofNat 8 (2 ^ min 8 (bits - 8 * k.2) - 1), BitVec.ofNat 8 (x / 2 ^ (8 * k.2))))
/-- A participant completes with a STATE and an INFO. -/
def State.endMember (s : State) (m : Member) (state info : Nat) : State :=
  (s.logColl m.op m.cmd m.read? state).endCommand m.op m.cmd [statusWord state (info % 2 ^ 24)]
/-- A participant of the device at which a read or write failed completes with its code and a record (R260, R352). -/
def State.failMember (s : State) (m : Member) (e : EngineFail) : State :=
  (s.logColl m.op m.cmd m.read? e.code).failState m.op m.cmd e
/-- A collective that cannot produce results ends: the STATE that holds before any contribution counts (R352). -/
def State.collBad (s : State) (ms : List Member) (shares : List RemoteShare) : Option Nat :=
  let ok := ms.filterMap Member.block?
  let terms := ms.filterMap Member.terms
  let first := terms.head?
  let claims := ms.map Member.shard ++ shares.map (·.shard)
  let maps : List Nat := (ok.head?.map (·.mapping)).getD []
  if (ms.any fun m => match m.crb with | .ok b => !b.valid | .error _ => false) || shares.any (fun x => decide (x.hash.length ≠ 32)) then some 0x50
  else if terms.any (fun t => some t != first) || shares.any (fun x => first.isSome && some (x.hash, x.count, x.mapping, x.v) != first) ||
      claims.eraseDups.length != claims.length ||
      (ms.any fun m => m.block?.isSome && maps[m.shard]? != some s.fabric.devid) ||
      shares.any (fun x => first.isSome && maps[x.shard]? != some x.dev) then some 0x51
  else if s.cut maps then some 0x06
  else none
/-- The first failure of a read or write at this device (R352). -/
def State.collFail (s : State) (ms : List Member) : Option EngineFail :=
  ms.findSome? fun m => match m.crb with
    | .error e => some e
    | .ok b =>
      if m.cmd.extra.length = 3 ∧ m.block?.isSome then some { code := codeRangeLocked, va := pd m.cmd.params 4, write := true }
      else match s.contribution m b with
        | .error e => some e
        | .ok _ =>
          if b.writes m.shard then
            match s.streamWrites m b (List.replicate (m.cmd.elems b) 0) with
            | .error e => some e
            | .ok _ => none
          else none
/-- Every shard is contributed, here or elsewhere. -/
def collWhole (ms : List Member) (shares : List RemoteShare) : Bool :=
  match ms.findSome? Member.block? with
  | some b => (List.range b.nshard).all fun x => ms.any (fun m => m.shard == x) || shares.any fun r => r.shard == x
  | none => ms.any fun m => match m.crb with | .error _ => true | .ok _ => false
/-- What a shard contributes. -/
def State.shardCodes (s : State) (ms : List Member) (shares : List RemoteShare) (b : Crb) (shard : Nat) : List Nat :=
  match ms.find? fun m => m.shard == shard with
  | some m => (match s.contribution m b with | .ok cs => cs | .error _ => [])
  | none => ((shares.find? fun r => r.shard == shard).map fun r => r.data.map (·.toNat % 2 ^ (fmtOf b.fmt).w)).getD []
/-- The device of a node: that of the shard at its leftmost leaf (R350); the fuel counts the nodes. -/
def Crb.home (b : Crb) : Nat → Nat → Nat
  | 0, _ => 0
  | n + 1, x =>
    match b.nodes[x]? with
    | some (1, _, ref) => Crb.home b n (b.kids.getD ref 0)
    | some (_, _, ref) => b.mapping.getD ref 0
    | none => 0
/-- The devices to which a device sends streams of a collective (R350): the value of a node to the device of its parent, the result from the
root's device to every device whose COLL writes it. -/
def Crb.streamsFrom (b : Crb) (dev : Nat) : List Nat :=
  let home := b.home b.nodes.length
  let folds := if b.op = 2 then [] else b.nodes.zip (List.range b.nodes.length) |>.flatMap fun x =>
    if x.1.1 = 1 then (((b.kids.drop x.1.2.2).take x.1.2.1).filter fun y => home y == dev && home y != home x.2).map fun _ => home x.2 else []
  folds ++ if b.op ≠ 0 ∧ home b.root = dev then (b.mapping.eraseDups).filter (· != dev) else []
/-- The flits of a collective's traffic leave (R350, R357; log entry 90). -/
def State.collTraffic (s : State) (m : Member) (b : Crb) : State :=
  (b.streamsFrom s.fabric.devid).foldl (fun (t : State) d =>
    t.transmitNew { type := 5, dst := d, part := some m.op.part, seq := none, lens := flitLens (b.streamBytes (m.cmd.elems b)) }) s
/-- Participants end where a read or write failed, here or elsewhere, or system software aborted (R352): the failure stands first. -/
def State.stopColl (s : State) (ms : List Member) (failure : Option EngineFail) (elsewhere : Bool) : State :=
  match failure with
  | some e => ms.foldl (fun s m => s.failMember m e) s
  | none => ms.foldl (fun s m => s.endMember m (if elsewhere then 0x52 else 0x40) 0) s
/-- COLL_COMPLETION (R352): the participants complete together once every shard is there, or an earlier outcome applies. -/
def execCollCompletion (cid : Dbl) (sq : Word) (shares : List RemoteShare) (fin : EngineEnd) (s : State) :
    Host.Outcome State Fault Refusal :=
  let ms := s.members cid sq
  let aborted := s.fabric.aborted.contains (cid, sq)
  match s.collBad ms shares with
  | some st => .next (ms.foldl (fun s m => s.endMember m st 0) s)
  | none =>
    if !collWhole ms shares then .next (if aborted then s.stopColl ms (s.collFail ms) (shares.any (·.failed)) else s)
    else
      let reads := ms.foldl (fun s m => match m.block? with
        | some b => s.noteReads m.op (addrs (pd m.cmd.params 2) (b.streamBytes (m.cmd.elems b)))
        | none => s) s
      match s.collFail ms with
      | some e => .next (reads.stopColl ms (some e) false)
      | none =>
        -- after a failure the bytes that fin.part names hold their new value
        let writes (p : Option Nat) : State := ms.foldl (fun (q : State) m =>
          match m.block? with
          | some b =>
            if !b.writes m.shard then q
            else match s.streamWrites m b (b.result (s.shardCodes ms shares b)) with
              | .ok ws => q.engineMask m.op (((ws.zip (List.range ws.length)).filter fun w => match p with
                  | some x => x.testBit w.2
                  | none => true).map (·.1))
              | .error _ => q
          | none => q) reads
        let failed := shares.any (·.failed)
        if failed || aborted then .next ((writes (some fin.part)).stopColl ms none failed)
        else
          let sent := match ms.findSome? fun m => m.block?.map fun b => (m, b) with
            | some x => (writes none).collTraffic x.1 x.2
            | none => writes none
          .next (ms.foldl (fun s m => s.endMember m 0 ((m.block?.map m.cmd.elems).getD 0)) sent)
/-- COLLECTIVE_ABORT (R352): an outcome that stands before it in the order applies first. -/
def execCollectiveAbort (cid : Dbl) (sq : Word) (s : State) : Host.Outcome State Fault Refusal :=
  let s1 := s.onFabric fun f => { f with aborted := if f.aborted.contains (cid, sq) then f.aborted else (cid, sq) :: f.aborted }
  let ms := s1.members cid sq
  .next (match s1.collBad ms [] with
    | some st => ms.foldl (fun s m => s.endMember m st 0) s1
    | none => s1.stopColl ms (s1.collFail ms) false)

/-! ## Packets that arrive (R337, R338, R341) -/

/-- A write by a party that is no team of the device: no core owns the words, marks of sectors it writes whole go, waiters of
synchronisation words are granted (R193, R217, R239). -/
def State.outsideMask (s : State) (ws : List (Nat × Byte × Byte)) : State :=
  let s1 := (s.keepLeavesOf (ws.map (·.1))).disown none ((ws.map (·.1 / 4)).eraseDups)
  let s2 := { s1 with mem := ws.foldl (fun (m : Memory) (w : Nat × Byte × Byte) => m.maskByte w.1 w.2.1 w.2.2) s1.mem }
  (s2.clearMarks (coveredKeys ws)).grants
/-- Whole bytes written by a party that is no team of the device. -/
def State.outsideWrite (s : State) (ws : List (Nat × Byte)) : State := s.outsideMask (ws.map fun w => (w.1, 0xFF, w.2))
/-- The 128-byte line of a packet (R340). -/
def packetLine (p : PeerPacket) : Nat := p.addr / 128 * 128
/-- The import entry that admits a packet (R337). -/
def Fabric.admits (f : Fabric) (p : PeerPacket) : Option Import :=
  match f.imports.find? fun i => i.src == p.src && i.srcPart == p.part && decide (i.page ≤ p.addr ∧ p.addr < i.page + i.size) with
  | none => none
  | some i =>
    let ok := match p.op with
      | .load _ | .prefetch => i.rd
      | .store _ => i.wr
      | .atomic _ _ _ | .rsig _ _ | .semwait _ | .bar _ | .withdraw _ => i.wr && i.atom
    if ok then some i else none
/-- A packet that the sender's SENT counts (R342). -/
def peerCounted : PeerOp → Bool
  | .store _ | .rsig _ _ => true
  | .atomic _ ret _ => !ret
  | _ => false
/-- An atomic of a packet in its lanes, in their order: the old values, and whether a marked word kept one from its effect. -/
def State.peerLanes (fn : AtomFn) (key : Nat → Nat) : State → List (Nat × Word × Word) → State × List Word × Bool
  | s, [] => (s, [], false)
  | s, l :: ls =>
    let k := key l.1
    if s.marked k then
      let r := State.peerLanes fn key s ls
      (r.1, r.2.1, true)
    else
      let m := s.wordAt k
      let r := State.peerLanes fn key (s.outsideWrite ((List.range 4).map fun j =>
        (k + j, BitVec.ofNat 8 ((atomNew fn m l.2.1 l.2.2).toNat / 2 ^ (8 * j))))) ls
      (r.1, m :: r.2.1, r.2.2)
/-- What a packet does at its words' homes, under the target partition's rules, and the answer where there is one at once; a marked word
fails (R338). A SEMWAIT that cannot be granted and a BAR that others must complete wait here among the device's own (R237). A line brought
to its home is a move of caches only (R214). -/
def State.peerEffect (s : State) (i : Import) (p : PeerPacket) : State × Option PeerAnswer :=
  let at_ (a : Nat) : Nat := i.base + (a - i.page)
  let key (off : Nat) : Nat := at_ (p.addr + off)
  let poisoned : PeerAnswer := .failed 0x05 false
  let waiter (u : Option Word) : SemWaiter :=
    { slot := 0, gid := 0, part := i.part, key := key 0, units := u, sd := 0, remote := some (p.src, p.part, p.seq) }
  match p.op with
  | .load sectors =>
    let ks := ((List.range 4).filter sectors.getLsbD).flatMap fun x => (List.range 32).map fun j => at_ (packetLine p + 32 * x + j)
    (s, some (if ks.any s.marked then poisoned else .bytes (ks.map s.mem.byte)))
  | .prefetch => (s, some .performed)
  | .store bs => (s.outsideMask (bs.map fun b => (key b.1, b.2)), some .performed)
  | .atomic fn ret lanes =>
    let r := State.peerLanes fn key s lanes
    (r.1, some (if r.2.2 then poisoned else if ret then .olds r.2.1 else .performed))
  | .rsig gen n => if s.marked (key 0) then (s, some poisoned) else (s.signalAt i.part (key 0) gen n, some .performed)
  | .semwait u =>
    if u = 0 then (s, some (.woken (s.wordAt (key 0))))
    else (State.grantAt { s with semWaiters := s.semWaiters ++ [waiter (some u)] } (key 0), none)
  | .bar n =>
    let r := s.arriveAt (key 0) (max n.toNat 1)
    match r.2 with
    | some gen => ((r.1.grantAt (key 0)), some (.woken gen))
    | none => (State.grantAt { r.1 with semWaiters := r.1.semWaiters ++ [waiter none] } (key 0), none)
  | .withdraw req =>
    (State.grants { s with semWaiters := s.semWaiters.filter fun w => w.remote != some (p.src, p.part, req) }, some .performed)
/-- The table entry for the packets of a source and its partition. -/
def packetFrom (p : PeerPacket) : Nat := 8 * p.src + p.part
/-- A packet is answered (R338). -/
def State.answerPeer (s : State) (p : PeerPacket) (a : PeerAnswer) : State := s.answerTo p.src p.part p.seq a
/-- Where a packet's line lies at this device. -/
def importHome (i : Import) (p : PeerPacket) : Nat := i.base + (packetLine p - i.page)
/-- A packet performed and answered, or refused (R337, R338), also where an import entry names device memory outside its partition's share (R31;
log entry 74); one whose line lies in a stack that is not ready fails as a marked word does (R406; log entry 93). -/
def State.performPacket (s : State) (p : PeerPacket) : State :=
  let reply (s : State) (a : Option PeerAnswer) : State := (a.map (s.answerPeer p)).getD s
  match s.fabric.admits p with
  | some i =>
    let k := importHome i p
    if keyPath k == 2 && !s.inShare i.part k 128 then s.answerPeer p (.failed 0x06 true)
    else if keyPath k == 2 && !s.stacksUp k 128 then s.answerPeer p (.failed 0x05 false)
    else reply (s.peerEffect i p).1 (s.peerEffect i p).2
  | none => s.answerPeer p (.failed 0x06 true)
/-- Every packet of a source up to this one has been performed: the next one has its turn, and the cumulative count that is returned takes in
this one where it is counted, a refused one too (R342; log entry 78). -/
def State.passPacket (s : State) (p : PeerPacket) : State :=
  let s1 := s.onFabric fun f => { f with expected := sput 0 f.expected (packetFrom p) ((p.seq.toNat + 1) % 2 ^ 32) }
  if !peerCounted p.op then s1
  else
    let n := sget 0 s1.fabric.performed (packetFrom p) + 1
    ((s1.onFabric fun f => { f with performed := sput 0 f.performed (packetFrom p) n }).tell (.peerAcked p.src p.part n)).transmitNew
      { type := 3, dst := p.src, part := none, seq := none, lens := [none] }
/-- Packets of a source that came before their turn have it now (R341): one that was held is performed, one that was performed passes. -/
def State.takeHeld (src : Nat) : Nat → State → State
  | 0, s => s
  | n + 1, s =>
    let next (x : PeerPacket) : Bool := packetFrom x == src && x.seq.toNat == sget 0 s.fabric.expected src
    match s.fabric.early.find? next, s.fabric.ahead.find? next with
    | some x, _ => State.takeHeld src n (((s.onFabric fun f => { f with early := f.early.filter (· != x) }).performPacket x).passPacket x)
    | none, some x => State.takeHeld src n ((s.onFabric fun f => { f with ahead := f.ahead.filter (· != x) }).passPacket x)
    | none, none => s
/-- The answer that a packet was given. -/
def State.answered (s : State) (p : PeerPacket) : Option PeerAnswer :=
  s.hostLog.reverse.findSome? fun e => match e with
    | .peerAnswer src part seq a => if src = p.src ∧ part = p.part ∧ seq = p.seq then some a else none
    | _ => none
/-- Two packets of one source, its partition and one line, the first with the earlier number: they are applied in that order (R341). -/
def inLineBefore (a b : PeerPacket) : Bool :=
  packetFrom a == packetFrom b && packetLine a == packetLine b && decide (0 < (b.seq - a.seq).toNat ∧ (b.seq - a.seq).toNat < 2 ^ 31)
/-- PEER_PACKET_ARRIVAL (R338, R341): the packets of one source to one line are performed in the order of their sequence numbers. One that
arrives before earlier packets is held, or performed where none of them goes to its line, as the arrival says; an arrival that contradicts
an earlier one is none (log entry 78). A repetition is applied no second time and answered as before. -/
def execPeerPacketArrival (pkt : PeerPacket) (s : State) : Host.Outcome State Fault Refusal :=
  if !s.topologyUp then .next s
  else
    let before := (pkt.seq - word (sget 0 s.fabric.expected (packetFrom pkt))).toNat
    let same (x : PeerPacket) : Bool := packetFrom x == packetFrom pkt && x.seq == pkt.seq
    if 2 ^ 31 ≤ before || s.fabric.ahead.any same then
      match s.answered pkt with
      | some a => .next (s.answerPeer pkt a)
      | none => .next s
    else if s.fabric.early.any same || s.fabric.ahead.any (inLineBefore pkt) then .next s
    else if before = 0 then
      .next (State.takeHeld (packetFrom pkt) (s.fabric.early.length + s.fabric.ahead.length) ((s.performPacket pkt).passPacket pkt))
    else if pkt.apart && !s.fabric.early.any (fun x => inLineBefore x pkt) then
      .next ((s.onFabric fun f => { f with ahead := f.ahead ++ [pkt] }).performPacket pkt)
    else .next (s.onFabric fun f => { f with early := f.early ++ [pkt] })

/-! ## Acknowledgements and loss (R342 to R344) -/

/-- FABRIC_ACK_ARRIVAL (R342): a cumulative count of what the destination has performed, at topology ports that are ready (R406). -/
def execFabricAckArrival (part dest count : Nat) (s : State) : Host.Outcome State Fault Refusal :=
  let p := s.part part
  if s.topologyUp = true ∧ sget 0 p.acked dest < count ∧ count ≤ sget 0 p.sent dest then
    .next (s.onPart part fun p => { p with acked := sput 0 p.acked dest count })
  else .next s
/-- A packet of an operation is on its way to a destination and not answered. -/
def State.asked (s : State) (dest : Nat) (o : Op) : Bool := s.fabric.packets.any fun pk => pk.op == o.id && pk.dest == dest && s.unanswered pk
/-- A handed release whose snapshot waits for a destination (R344). -/
def State.waitsFor (s : State) (dest : Nat) (o : Op) : Bool :=
  o.handed && o.releases && o.snapshot.any fun d => d.1 == dest && decide (sget 0 (s.part o.part).acked dest < d.2)
/-- The units of a store that are on their way to a lost destination fail together (R198, R344). -/
def State.loseUnits (s : State) (dest : Nat) (sent : StoreUnit → Bool) (o : Op) (st : StoreOp) : State :=
  let gone (u : StoreUnit) : Bool := u.peer && (peerOf u.key).1 == dest && sent u
  match st.units.filter gone with
  | [] => s
  | u :: us =>
    let s1 := s.pushFailure o .none true false
      { code := 0x06, refused := false, lanes := ((u :: us).map (·.lane)).eraseDups, va := u.va, once := st.once, detail := st.detail + 4 * 2 ^ 16 }
    match st.units.filter fun x => !gone x with
    | [] => s1.dropOp o.id
    | rest => s1.setOp { o with kind := .store { st with units := rest } }
/-- Packets of an operation that are on their way to a lost destination fail (R198, R344): the units of a store, a signal, the request of a
sleeper; a load or an atomic goes on with what its other packets bring, those lanes failed. `late` says which counted packets the destination
had not acknowledged. -/
def State.losePackets (s : State) (dest : Nat) (late : Nat → List (Nat × Nat) → Bool) (o : Op) : State :=
  match o.kind with
  | .store st =>
    if st.pend.isSome then s.setOp { o with lost := dest :: o.lost }
    else s.loseUnits dest (fun u => match u.sent with | some n => late o.part [n] | none => false) o st
  | .signal g => s.failOp o .none true false (signalFault cutFail g.va)
  | .ask (.wake sd _ va _ _) => s.failSleep o sd va cutFail
  | .load _ | .atom _ | .touch _ _ _ _ => s.setOp { o with lost := dest :: o.lost }
  | _ => s
/-- A handed release that can no longer be performed: an access is raised with its team's lowest failed store; a command ends with the
failure (R344). -/
def State.loseRelease (s : State) (o : Op) : State :=
  let first := (s.team? o.slot).bind fun t => if t.group = o.gid then t.failures.find? (·.store) else none
  let lost (d : Dest) (va : Dbl) : State := match first with
    | some f =>
      (s.onTeam o.slot fun t => { t with failures := t.failures ++ [{ f with
        op := o.id, sregs := d.sregs.filter (· != 0), vregs := d.vregs, paths := (t.flight.filter fun x => x.op == o.id).map (·.path) }] }).dropOp o.id
    | none => s.failOp o d true false (signalFault cutFail va)
  match o.kind with
  | .store st => lost .none ((st.units.head?.map (·.va)).getD 0)
  | .atom a => lost a.dest ((a.lanes.head?.map (·.va)).getD 0)
  | .signal g => lost .none g.va
  | .command c =>
    let logged := if c.cmd = .coll then s.logColl o c none 0x06 else s
    let r := logged.unitRecord o { code := 0x06, rflags := 1, lane := 0, detail := 4 * 2 ^ 16, pc := o.pc, va := 0 }
    let tok := tokenOf 0x06 r.2
    if c.cmd.matrix then (r.1.unlock o.id).setOp { o with kind := .command { c with released := true, locks := [], failed := some tok } }
    else r.1.endUnit o c tok none
  | _ => s
/-- A destination is declared unreachable (R344). -/
def State.declareUnreachable (s : State) (dest : Nat) : State :=
  let lost := s.ops.filter (s.waitsFor dest)
  let s1 := (s.onFabric fun f => { f with
    unreachable := dest :: f.unreachable, packets := f.packets.filter (·.dest != dest) }).tell (.unreachable dest)
  let s2 := { s1 with parts := s1.parts.map fun (p : Nat × Partition) => (p.1, { p.2 with acked := sput 0 p.2.acked dest (sget 0 p.2.sent dest) }) }
  let s3 := (s2.ops.filter (s.asked dest)).foldl (fun t o => match t.op? o.id with
    | some p => t.losePackets dest s.unacked p
    | none => t) s2
  lost.foldl (fun s o => match s.op? o.id with
    | some p => s.loseRelease p
    | none => s) s3
/-- RETRANSMIT_TIMEOUT (R344): a packet that is not answered goes out again by the next way; after the fourth transmission the destination is
unreachable. -/
def execRetransmitTimeout (packet : PacketName) (s : State) : Host.Outcome State Fault Refusal :=
  match s.fabric.packets.find? fun k => k.part == packet.part && k.dest == packet.dest && k.seq == packet.seq && s.unanswered k with
  | none => .next s
  | some k =>
    if s.cut [k.dest] then .next s
    else if 4 ≤ k.ways.length then .next (s.declareUnreachable k.dest)
    else
      let w := s.fabric.nextWay k
      .next ((s.onFabric fun f => { f with packets := f.packets.map fun x => if x = k then { x with ways := w :: x.ways } else x }).transmit w k.sending)
/-- UNREACHABLE_CLEAR (R344). -/
def execUnreachableClear (dest : Nat) (s : State) : Host.Outcome State Fault Refusal :=
  .next (s.onFabric fun f => { f with unreachable := f.unreachable.filter (· != dest) })

/-! ## Links (R356 to R359) -/

/-- The function that a port belongs to reports ready (R406). Which of the 34 topology ports lie on which I/O die is the model's choice, as are
which of PEERQ's ports 34 and 35 (R347) is J0: the specification gives 17 to each die (R13) and assigns no numbers (log entry 89). -/
def State.portReady (s : State) (p : Nat) : Bool := s.functionUp (if p < 17 then 27 else if p < 34 then 28 else p - 34 + 25)
/-- A field of a flit that R357 says is zero is not, or a length or a partition is out of its range: the flit counts as one of a reserved type
(log entry 82). -/
def flitBad (x : Flit) : Bool :=
  decide (5 < x.type.toNat ∨ x.flags.toNat / 2 ^ 6 ≠ 0 ∨ 2 ^ 11 ≤ x.dst.toNat ∨ 2 ^ 11 ≤ x.src.toNat ∨ 2 ^ 11 ≤ x.mid.toNat ∨ 7 < x.part.toNat ∨
    224 < x.len.toNat ∨ x.zero ≠ 0)
/-- A flit for another device goes on by its route: to its intermediate device where it still must reach it, else to its destination, by the
minimal route, one hop more in its header; the link's counter, its key and tag are the next link's (R33, R356, R358). One that no port
carries, or with four hops behind it, is lost; its source sends it again (R344). -/
def State.forwardFlit (s : State) (x : Flit) : State :=
  let f := s.fabric
  let fl := x.flags.toNat
  let nonMin := fl.testBit 1
  let reached := fl.testBit 2 || (nonMin && x.mid.toNat == f.devid)
  let hops := fl / 16 % 4 + 1
  match f.route? (if nonMin && !reached then x.mid.toNat else x.dst.toNat) with
  | none => s
  | some r =>
    if 3 < hops || !f.carries r.port then s
    else
      let flags := (if nonMin then 2 else 0) + (if reached then 4 else 0) + fl / 8 % 2 * 8 + hops * 16
      s.putFlit r.port { x with flags := BitVec.ofNat 8 flags }
/-- FLIT_ARRIVAL (R355 to R358): at a port that uses the device's own flit. A reserved type is dropped and counted; a flit whose tag fails, or
whose key slot is empty, is dropped and sent again by the link; one for another device is forwarded. What a flit for this device carries
takes effect when its packet, acknowledgement or record arrives. -/
def execFlitArrival (port : Nat) (flit : Flit) (s : State) : Host.Outcome State Fault Refusal :=
  let f := s.fabric
  let slot := if flit.flags.getLsbD 0 then 1 else 0
  if 36 ≤ port ∨ (port < 34 ∧ f.direct = false) ∨ f.portUp port = false then .next s
  else if !flit.tagOk || (sget none (f.port port).keys slot).isNone then .next s
  else if flitBad flit then .next (s.onFabric fun f => f.onPort port fun p => { p with errors := p.errors + 1 })
  else if 34 ≤ port ∨ flit.type = 0 ∨ flit.dst.toNat = f.devid then .next s
  else .next (s.forwardFlit flit)
/-- LINK_LANE_FAILURE (R359): a journal port first moves to NRZ; lanes drop otherwise. -/
def execLinkLaneFailure (port : Nat) (persist : Bool) (s : State) : Host.Outcome State Fault Refusal :=
  .next (s.onFabric fun f => f.onPort port fun p =>
    if 34 ≤ port ∧ p.nrz = false then { p with nrz := true, retraining := true }
    else if 34 ≤ port && !persist then p
    else { p with lanes := p.lanes - 1, up := p.up && decide (1 < p.lanes) })
/-- LINK_RETRAINING_COMPLETE (R359): of a port that is ready (R406). -/
def execLinkRetrainingComplete (port : Nat) (up : Bool) (s : State) : Host.Outcome State Fault Refusal :=
  .next (s.onFabric fun f => f.onPort port fun p => { p with retraining := false, up := up && s.portReady port })
/-- LINK_KEY_LIMIT (R358): the link has sent 2^48 flits under its key, which is used up for sending; it goes on under the key of its other slot
where that is not used up, or stops. Both keys stay for flits that arrive. -/
def execLinkKeyLimit (port : Nat) (s : State) : Host.Outcome State Fault Refusal :=
  .next (s.onFabric fun f => f.onPort port fun p =>
    let q := { p with flits := max p.flits (p.keyFrom + 2 ^ 48) }
    if (sget none p.keys (1 - p.inUse)).isSome && !p.spent.contains (1 - p.inUse) then
      { q with spent := [p.inUse], inUse := 1 - p.inUse, keyFrom := q.flits }
    else { q with spent := [0, 1], stopped := true })
/-- LINK_KEY_INSTALL (R358): a new key in one of two slots; a link that had stopped goes on under it. -/
def execLinkKeyInstall (port kslot key : Nat) (s : State) : Host.Outcome State Fault Refusal :=
  if 1 < kslot then .next s
  else .next (s.onFabric fun f => f.onPort port fun p =>
    let q := { p with keys := sput none p.keys kslot (some key), spent := p.spent.filter (· != kslot) }
    if p.stopped || decide (p.inUse = kslot) then { q with stopped := false, inUse := kslot, keyFrom := q.flits } else q)

end Sys2Proof.Machine
end

