-- ==== Sys2Proof/Machine/Launch.lean ====
section
/-! DEFINITION. Launches: the launch record and its checks (R361 to R364), acceptance, start and placement (R247, R365 to R371), TASKQ and
LAUNCH, opcodes 0xF9 and 0xFA (R373, R374), special registers and CLKRD, opcodes 0xFB to 0xFD (R375, R376), the start of every engine
command (R245), the end of teams and groups (R134, R249). -/

namespace Sys2Proof.Machine

/-! ## The launch record (R361) -/

/-- The n bytes at an offset of a record, as a number. -/
def recField (bs : List Byte) (off n : Nat) : Nat := leNat ((bs.drop off).take n)
/-- Product of numbers. -/
def prodNat (xs : List Nat) : Nat := xs.foldl (· * ·) 1
/-- Coordinates of an index over extents, the first most significant (R362). -/
def coordsOf : List Nat → Nat → List Nat
  | [], _ => []
  | _ :: es, x => (x / prodNat es) :: coordsOf es (x % prodNat es)
/-- A record's fields, checked or not; `minor` is that of its code object. -/
def parseRecord (bs : List Byte) (minor : Nat) : LaunchRec :=
  let f := recField bs
  let flags := f 8 4
  { levels := (List.range (min (f 4 1) 8)).map fun i =>
      { extent := f (0x80 + 8 * i) 4, domain := f (0x84 + 8 * i) 1, home := f (0x85 + 8 * i) 1 }
    gteams := f 5 1
    teams := (List.range (min (f 6 1) 32)).map fun i =>
      { beats := f (0xC0 + 4 * i) 1, nvregs := f (0xC1 + 4 * i) 1, role := f (0xC2 + 4 * i) 1 }
    rings := (List.range (min (f 7 1) 8)).map fun i => (f (0x140 + 4 * i) 1, f (0x142 + 4 * i) 2)
    coop := flags.testBit 0, idem := flags.testBit 1, mxsel := flags.testBit 2, prio := flags / 16 % 4
    tiles := f 0xC 2, spilld := f 0xE 1, frlog2 := f 0xF 1, scratch := f 0x10 4, fsidx := f 0x16 2
    entry := dbl (f 0x18 8), ctab := dbl (f 0x28 8), brtab := dbl (f 0x30 8), frbase := dbl (f 0x38 8)
    plybase := dbl (f 0x40 8), plystep := dbl (f 0x48 8)
    args := (List.range (min (f 0x14 1) 32)).map fun i => word (f (0x160 + 4 * i) 4)
    fmts := (List.range 16).map fun i => dbl (f (0x1E0 + 8 * i) 8)
    handles := (List.range (min (f 0x15 1) 32)).map fun i => (f (0x260 + 8 * i) 4, f (0x264 + 8 * i) 1)
    minor := minor }
/-- The declaration of team i (R361). -/
def LaunchRec.decl (r : LaunchRec) (i : Nat) : TeamDecl := (r.teams[min i (r.teams.length - 1)]?).getD { beats := 1, nvregs := 32, role := 0 }
/-- The declarations of a group's teams. -/
def LaunchRec.decls (r : LaunchRec) : List TeamDecl := (List.range r.gteams).map r.decl
/-- Extents of the levels. -/
def LaunchRec.extents (r : LaunchRec) : List Nat := r.levels.map (·.extent)
/-- The deepest level of domain group/core (R362). -/
def LaunchRec.groupLevel (r : LaunchRec) : Option Nat := ((List.range r.levels.length).filter fun i => (r.levels[i]?.map (·.domain)) == some 1).getLast?
/-- Levels that number groups: 0 to gl, or all (R362). -/
def LaunchRec.glevels (r : LaunchRec) : Nat := match r.groupLevel with | some g => g + 1 | none => r.levels.length
/-- Level 0 has domain fabric set. -/
def LaunchRec.fabric (r : LaunchRec) : Bool := (r.levels.head?.map (·.domain)) == some 5
/-- The groups that the record runs on this device (R362). -/
def LaunchRec.groups (r : LaunchRec) : Nat := prodNat ((r.extents.take r.glevels).drop (if r.fabric then 1 else 0))
/-- The index of the first of them. -/
def LaunchRec.first (r : LaunchRec) : Nat := if r.fabric then r.fsidx * r.groups else 0
/-- Bytes of a team's spill area (R371). -/
def LaunchRec.spillBytes (r : LaunchRec) (i : Nat) : Nat := r.spilld * spillSize (r.decl i).beats
/-- A group's scratchpad reservation (R371). -/
def LaunchRec.reservation (r : LaunchRec) : Nat := (r.scratch + ((List.range r.gteams).map r.spillBytes).sum + 191) / 192 * 192
/-- Lane-registers of a team (R21). -/
def TeamDecl.cost (d : TeamDecl) : Nat := 32 * d.beats * d.nvregs

/-! ## Quadrants (R21) -/

/-- Lane-registers and teams of the four quadrants. -/
abbrev Loads := List (Nat × Nat)
/-- The loads with a team on a quadrant, where it fits. -/
def Loads.put (l : Loads) (cost q : Nat) : Option Loads :=
  match l[q]? with
  | some x => if x.1 + cost ≤ Config.laneRegs ∧ x.2 < 16 then some (l.set q (x.1 + cost, x.2 + 1)) else none
  | none => none
/-- The loads in ascending order: quadrants with equal loads are interchangeable. -/
def Loads.sorted (l : Loads) : Loads := sortWhere (fun a b => decide (a.1 < b.1 ∨ (a.1 = b.1 ∧ a.2 < b.2))) l
/-- The loads that some teams can make, each order of quadrants once. -/
def Loads.reach (start : List Loads) (costs : List Nat) : List Loads :=
  costs.foldl (fun ls c => ((ls.map fun l => (List.range 4).filterMap (l.put c)).flatten.map Loads.sorted).eraseDups) start
/-- Some quadrants take some teams beside what they hold. -/
def Loads.takes (l : Loads) (costs : List Nat) : Bool := !(Loads.reach [l] costs).isEmpty
/-- Quadrants for teams where they fit: for each set of loads that they can make, one choice, the lowest quadrants first. -/
def Loads.plans (l : Loads) (costs : List Nat) : List (List Nat) :=
  (costs.foldl (fun (ps : List (List Nat × Loads)) c =>
    let all := ps.flatMap fun p => (List.range 4).filterMap fun q => (p.2.put c q).map fun m => (p.1 ++ [q], m)
    all.foldl (fun acc p => if acc.any fun x => x.2.sorted == p.2.sorted then acc else acc ++ [p]) []) [([], l)]).map (·.1)
/-- The loads with teams on the quadrants named for them, where each fits. -/
def Loads.putAll (l : Loads) : List (Nat × Nat) → Option Loads
  | [] => some l
  | (c, q) :: t => (l.put c q).bind fun m => Loads.putAll m t

/-! ## Checks (R364) -/

/-- Homes that a domain may use (R26). -/
def homeOk (domain home : Nat) : Bool :=
  match domain with
  | 0 => decide (home ≤ 4)
  | 1 => decide (1 ≤ home ∧ home ≤ 4)
  | 5 => decide (3 ≤ home ∧ home ≤ 4)
  | _ => decide (2 ≤ home ∧ home ≤ 4)
/-- Entries of a table with a test on each, by offset. -/
def entriesOf (bs : List Byte) (base size n : Nat) (bad : Nat → Bool) : List (Nat × Bool) :=
  (List.range n).map fun i => (base + size * i, bad (recField bs (base + size * i) size))
/-- The conditions that one field decides alone, in ascending offset (R364). -/
def fieldChecks (bs : List Byte) : List (Nat × Bool) :=
  let f := recField bs
  [(0x000, f 0 4 != 0x48434E4C), (0x004, decide (f 4 1 = 0 ∨ 8 < f 4 1)), (0x005, decide (f 5 1 = 0 ∨ 32 < f 5 1)),
   (0x006, decide (f 6 1 = 0 ∨ 32 < f 6 1)), (0x007, decide (8 < f 7 1)), (0x008, f 8 4 &&& 0xFFFFFFC8 != 0), (0x00C, decide (128 < f 0xC 2)),
   (0x00F, decide (f 0xF 1 < 4 ∨ 16 < f 0xF 1)), (0x010, decide (Config.scratchBytes < f 0x10 4)), (0x014, decide (32 < f 0x14 1)),
   (0x015, decide (32 < f 0x15 1)), (0x018, f 0x18 1 % 4 != 0), (0x030, decide (4096 < f 0x30 2 % 2 ^ 13)), (0x038, f 0x38 1 % 32 != 0),
   (0x050, f 0x50 48 != 0)] ++
  entriesOf bs 0x080 8 (min (f 4 1) 8) (fun x => decide (x % 2 ^ 32 = 0 ∨ 5 < x / 2 ^ 32 % 256 ∨ 4 < x / 2 ^ 40 % 256 ∨ x / 2 ^ 48 ≠ 0)) ++
  entriesOf bs 0x0C0 4 (min (f 6 1) 32) (fun x =>
    decide (x % 256 = 0 ∨ 32 < x % 256 ∨ 3 < x / 2 ^ 16 % 256 ∨ x / 2 ^ 24 ≠ 0) || !([32, 64, 96, 128] : List Nat).contains (x / 256 % 256)) ++
  entriesOf bs 0x140 4 (min (f 7 1) 8) (fun x =>
    decide (x % 256 = 0 ∨ 16 < x % 256 ∨ x / 256 % 256 ≠ 0 ∨ x / 2 ^ 16 = 0 ∨ 1024 < x / 2 ^ 16)) ++
  entriesOf bs 0x1E0 8 16 (fun x => !fmtValid (dbl x)) ++
  entriesOf bs 0x260 8 (min (f 0x15 1) 32) (fun x => decide (3 < x / 2 ^ 32 % 256 ∨ x / 2 ^ 40 ≠ 0)) ++ [(0x360, f 0x360 160 != 0)]
/-- A level breaks R25 or R362, or an entry at or above NLEVEL is not zero. -/
def levelBad (bs : List Byte) (r : LaunchRec) (i : Nat) : Bool :=
  match r.levels[i]? with
  | none => recField bs (0x80 + 8 * i) 8 != 0
  | some l =>
    decide (l.domain = 5 ∧ i ≠ 0) ||
    (match (if i = 0 then none else r.levels[i - 1]?) with | some u => decide (u.domain < l.domain) | none => false) ||
    (decide (l.domain = 0) && prodNat (r.extents.drop (i + 1)) != 1) ||
    (decide (l.domain = 1) && prodNat ((r.extents.take r.glevels).drop (i + 1)) != 1)
/-- The joint conditions in the order of R364's table. -/
def jointChecks (bs : List Byte) (r : LaunchRec) : List (Nat × Bool) :=
  let ids := r.handles.map (·.1)
  ((List.range 8).map fun i => (0x80 + 8 * i, levelBad bs r i)) ++
  ((List.range r.levels.length).map fun i => (0x80 + 8 * i, match r.levels[i]? with | some l => !homeOk l.domain l.home | none => false)) ++
  [(0x005, decide (r.gteams ≠ if r.groupLevel.isSome then prodNat (r.extents.drop r.glevels) else 1))] ++
  ((List.range 32).map fun i => (0xC0 + 4 * i, decide (r.teams.length ≤ i) && recField bs (0xC0 + 4 * i) 4 != 0)) ++
  ((List.range 8).map fun i => (0x140 + 4 * i, decide (r.rings.length ≤ i) && recField bs (0x140 + 4 * i) 4 != 0)) ++
  [(0x0C0, decide (8192 < (r.decls.map fun d => 32 * d.beats).sum)),
   (0x0C0, !Loads.takes (List.replicate 4 (0, 0)) (r.decls.map TeamDecl.cost)),
   (0x010, decide (Config.scratchBytes < r.reservation)),
   (0x016, if r.fabric then decide ((r.extents.headD 0) ≤ r.fsidx) else decide (r.fsidx ≠ 0))] ++
  ((List.range ids.length).map fun i => (0x260 + 8 * i, (ids.take i).contains (ids.getD i 0)))
/-- The offset that BADRECORD reports (R364). -/
def badField (bs : List Byte) (r : LaunchRec) : Option Nat :=
  match (fieldChecks bs).find? (·.2) with
  | some x => some x.1
  | none => ((jointChecks bs r).find? (·.2)).map (·.1)
/-- A section entry breaks R71: a kind that is not defined, a reserved bit of SFLAGS, a target section on a section that is not RELOCS, the
reserved word, a placement alignment outside 2 to 30 or, for CODE, below 7. R72 names reserved fields and kinds alone: a target section
elsewhere and an ALIGN out of its range count as such, the model's choice (log entry 73). -/
def sectionBad (s : List Byte) : Bool :=
  let g := recField s
  decide (g 0 4 = 0 ∨ 10 < g 0 4 ∨ g 4 4 / 256 ≠ 0 ∨ (g 0 4 ≠ 6 ∧ g 4 4 ≠ 0) ∨ g 0x1C 4 ≠ 0 ∨ g 0x18 4 < 2 ∨ 30 < g 0x18 4 ∨
    (g 0 4 = 1 ∧ g 0x18 4 < 7))
/-- What a code object breaks (R57, R70 to R72): the status that R366 gives it, by its header, its sections and, where it is known, its size.
NSECT outside 1 to 64 and a SECTOFF that is no multiple of 32 count as reserved fields, the model's choice (log entry 73). -/
def objectBad (emulMin : Nat) (size : Option Nat) (h : List Byte) (sections : List (List Byte)) : Option Word :=
  let f := recField h
  let g (s : List Byte) (off n : Nat) : Nat := recField s off n
  let ends (s : List Byte) : Nat × Nat := (g s 8 8, g s 8 8 + g s 0x10 8)
  let pairs := (List.range sections.length).any fun i => (List.range i).any fun j =>
    let a := ends (sections.getD i [])
    let b := ends (sections.getD j [])
    decide (a.1 < b.2 ∧ b.1 < a.2)
  let overrun := match size with
    | some n => decide (n < 64 ∨ n < f 0x10 8 + 32 * f 0xC 4) || sections.any fun x => decide (n < (ends x).2)
    | none => false
  if f 0 4 ≠ 0x4D52544E then some (statusWord 0x61 1)
  else if f 8 4 / 4 ≠ 0 ∨ f 0x18 40 ≠ 0 ∨ f 0xC 4 = 0 ∨ 64 < f 0xC 4 ∨ f 0x10 8 % 32 ≠ 0 ∨ sections.any sectionBad = true then
    some (statusWord 0x61 2)
  else if pairs || overrun then some (statusWord 0x61 3)
  else if (f 8 4).testBit 0 ≠ sections.any (fun s => g s 0 4 == 9) then some (statusWord 0x61 4)
  else if f 4 2 ≠ 4 ∨ emulMin < f 6 2 then some (statusWord 0x62 (f 4 2 * 2 ^ 8 ||| f 6 2))
  else none
/-- A failing read of the command processor: code, path, address. -/
abbrev CpFail := Nat × Nat × Nat
/-- Why a submitted record starts nothing: a failing read, or a status. -/
inductive RecordBad where
  | read (f : CpFail)
  | status (w : Word)
  deriving DecidableEq, Repr
/-- A record read and checked, with a reader of bytes, the path of an address and the size of the object placed at an address (R364). -/
def readLaunchRec (emulMin : Nat) (sizeAt : Nat → Option Nat) (rd : Nat → Nat → Except CpFail (List Byte)) (path : Nat → Nat) (va : Nat) :
    Except RecordBad (List Byte × LaunchRec) :=
  if va % 128 ≠ 0 then .error (.read (codeMisaligned, path va, va))
  else match rd va 1024 with
    | .error e => .error (.read e)
    | .ok bs =>
      let obj := recField bs 0x20 8
      match rd obj 64 with
      | .error e => .error (.read e)
      | .ok h =>
        let n := recField h 0xC 4
        let early := objectBad emulMin (sizeAt obj) h []
        -- the section table is read once the header's own fields are good
        if recField h 0 4 ≠ 0x4D52544E ∨ n = 0 ∨ 64 < n then .error (.status (early.getD (statusWord 0x61 2)))
        else match (List.range n).mapM fun i => rd ((obj + recField h 0x10 8 + 32 * i) % 2 ^ 64) 32 with
          | .error e => .error (.read e)
          | .ok ss =>
            match objectBad emulMin (sizeAt obj) h ss with
            | some w => .error (.status w)
            | none =>
              let r := parseRecord bs (recField h 6 2)
              match badField bs r with
              | some off => .error (.status (statusWord 0x60 off))
              | none => .ok (bs, r)
/-- Bytes as the command processor reads them (R361, R366). -/
def State.cpRead (s : State) (part va n : Nat) : Except CpFail (List Byte) := (s.cpKeys part .read va n).map fun ks => ks.map s.mem.byte

/-- The size of the code object that is placed with its header at an address of a partition (R72). -/
def State.objectSize (s : State) (part va : Nat) : Option Nat :=
  match s.cpKeys part .read va 1 with
  | .ok ks => (s.objects.find? fun x => x.part == part && decide (some x.header.toNat = ks.head?)).map (·.size)
  | .error _ => none

/-! ## Acceptance (R365, R373) -/

/-- A launch that has ended before any group: its status is posted (R364). -/
def State.endLaunch (s : State) (lid : Nat) (w : Word) : State :=
  match s.launch? lid with
  | none => s
  | some l => (s.setLaunch lid { l with started := true, complete := true, waiting := [] }).postStatus l.part l.dest w
/-- The status of a record that starts nothing: for an instruction, a failing read names a record in the team's ring (R366). -/
def State.recordStatus (s : State) (dest : StatusDest) (b : RecordBad) : State × Word :=
  match b with
  | .status w => (s, w)
  | .read f =>
    match dest with
    | .command id => match s.op? id with
      | some o =>
        let r := s.unitRecord o { code := f.1, rflags := 1, lane := 0, detail := f.2.1 % 16 * 2 ^ 16, pc := o.pc, va := BitVec.ofNat 64 f.2.2 }
        (r.1, tokenOf f.1 r.2)
      | none => (s, tokenOf f.1 0)
    | _ => (s, tokenOf f.1 0)
/-- A launch is accepted: its record is read and checked, its groups wait (R247, R364, R365). -/
def State.acceptLaunch (s : State) (part queue prio : Nat) (va : Nat) (dest : StatusDest) (parent : Option Nat) : State :=
  let lid := s.nextId
  let blank := parseRecord [] 0
  let make (r : LaunchRec) (w : List Waiting) : Launch :=
    { part := part, queue := queue, qprio := prio, record := r, dest := dest, parent := parent, started := false, waiting := w, resident := [],
      begun := 0, ended := 0, killed := 0, cancelled := false, complete := false, children := [], units := [] }
  let s1 : State := { s with nextId := s.nextId + 1 }
  match readLaunchRec s.board.emulMin (s.objectSize part) (s.cpRead part) (s.pathAt part) va with
  | .ok (_, r) =>
    s1.setLaunch lid (make r ((List.range r.groups).map fun i => { child := none, index := r.first + i, reruns := 0, again := false }))
  | .error b =>
    let x := (s1.setLaunch lid (make blank [])).recordStatus dest b
    x.1.endLaunch lid x.2
/-- The first entry of a queue. -/
def State.queueHead? (s : State) (part queue : Nat) : Option (Queue × QEntry) :=
  if s.functionUp 24 then (sget none (s.part part).queues queue).bind fun q => q.ring.head?.map fun e => (q, e) else none
/-- A queue changed. -/
def State.onQueue (s : State) (part queue : Nat) (f : Queue → Queue) : State :=
  s.onPart part fun p => { p with queues := match sget none p.queues queue with
    | some q => sput none p.queues queue (some (f q))
    | none => p.queues }
/-- The first entry is accepted or skipped. -/
def State.popQueue (s : State) (part queue : Nat) : State := s.onQueue part queue fun q => { q with ring := q.ring.tail }
/-- Every launch accepted from a queue is complete. -/
def State.drained (s : State) (part queue : Nat) : Bool :=
  !(s.launches.any fun e => match e.2 with
    | some l => l.part == part && l.queue == queue && !l.complete
    | none => false)
/-- An event on the first entry of a queue, for one OP. -/
def queueEvent (s : State) (part queue op : Nat) (body : Queue → QEntry → State) : Host.Outcome State Fault Refusal :=
  match s.queueHead? part queue with
  | some (q, e) => if e.op.toNat = op ∧ e.reserved = false then .next (body q e) else .next s
  | none => .next s
/-- QUEUE_LAUNCH (R365). -/
def execQueueLaunch (part queue : Nat) (s : State) : Host.Outcome State Fault Refusal :=
  queueEvent s part queue 1 fun q e =>
    (s.popQueue part queue).acceptLaunch part queue q.prio e.addr.toNat (if e.status = 0 then .none else .memory e.status) none
/-- QUEUE_DRAIN (R365). -/
def execQueueDrain (part queue : Nat) (s : State) : Host.Outcome State Fault Refusal :=
  queueEvent s part queue 2 fun _ _ => if s.drained part queue then s.popQueue part queue else s
/-- QUEUE_WRITE (R365). -/
def execQueueWrite (part queue : Nat) (s : State) : Host.Outcome State Fault Refusal :=
  queueEvent s part queue 3 fun _ e =>
    if s.drained part queue then (s.popQueue part queue).cpWrite part e.addr.toNat (leBytes 8 e.value.toNat) else s
/-- QUEUE_WAITWAKE (R365). -/
def execQueueWaitwake (part queue : Nat) (s : State) : Host.Outcome State Fault Refusal :=
  queueEvent s part queue 4 fun q e =>
    let m := e.value.extractLsb' 0 32
    if q.wake &&& m ≠ 0 then (s.popQueue part queue).onQueue part queue fun q => { q with wake := q.wake &&& ~~~m } else s
/-- QUEUE_NOP (R365). -/
def execQueueNop (part queue : Nat) (s : State) : Host.Outcome State Fault Refusal :=
  queueEvent s part queue 0 fun _ _ => s.popQueue part queue
/-- QUEUE_ENTRY_SKIPPED (R365). -/
def execQueueEntrySkipped (part queue : Nat) (s : State) : Host.Outcome State Fault Refusal :=
  match s.queueHead? part queue with
  | some (_, e) =>
    if 4 < e.op.toNat ∨ e.reserved = true then .next ((s.popQueue part queue).onQueue part queue fun q => { q with errors := q.errors + 1 })
    else .next s
  | none => .next s

/-! ## Where groups fit (R368) -/

/-- The groups on a core. -/
def State.groupsOn (s : State) (core : Nat) : List (Nat × Group) :=
  s.groups.filterMap fun e => match e.2 with | some g => if g.core = core then some (e.1, g) else none | none => none
/-- Teams on a core. -/
def State.teamsOn (s : State) (core : Nat) : List Team :=
  s.teams.filterMap fun e => match e.2 with | some t => if t.core = core then some t else none | none => none
/-- Lane-registers and teams of a core's quadrants (R21). -/
def State.quadLoads (s : State) (core : Nat) : Loads :=
  (List.range 4).map fun q =>
    let ts := (s.teamsOn core).filter (·.quad == q)
    ((ts.map fun t => 32 * t.beats * t.nvregs).sum, ts.length)
/-- Where a free run of a reservation begins: the lowest multiple of 192 (R184, R371). -/
def spadFit (used : List (Nat × Nat)) (n : Nat) : Option Nat :=
  (sortWhere (fun a b => decide (a < b)) (0 :: used.map fun u => (u.1 + u.2 + 191) / 192 * 192)).find? fun c =>
    decide (c + n ≤ Config.scratchBytes) && used.all fun u => decide (u.2 = 0 ∨ n = 0 ∨ c + n ≤ u.1 ∨ u.1 + u.2 ≤ c)
/-- A core may take groups of a partition: it lies in a column of the partition that is ready, and passed its self-test (R370, R397, R406). -/
def State.coreOpen (s : State) (part core : Nat) : Bool :=
  decide (core < Config.cores) && (s.part part).columns.getLsbD (columnOf core) && s.functionUp (64 + columnOf core) && !(s.core core).unavailable
/-- The unit of a domain in which a core lies: columns and dies; the device is one package (R15, R25). -/
def unitOf (domain core : Nat) : Option Nat := if domain = 2 then some (columnOf core) else if domain = 3 then some (dieOf core) else none
/-- The instances of levels to which a group belongs, with the unit that each would occupy on a core (R25, R368). -/
def instancesOf (r : LaunchRec) (w : Waiting) (core : Nat) : List (Nat × Nat × Nat) :=
  (List.range r.glevels).filterMap fun n => match r.levels[n]? with
    | some l => (unitOf l.domain core).map fun u =>
        (n + 8 * (match w.child with | some c => c + 1 | none => 0), w.index / prodNat ((r.extents.take r.glevels).drop (n + 1)), u)
    | none => none
/-- What the launch's instances occupy leaves a core open. -/
def Launch.unitsOk (l : Launch) (is : List (Nat × Nat × Nat)) : Bool :=
  is.all fun i => l.units.all fun u => decide (u.1 ≠ i.1 ∨ u.2.1 ≠ i.2.1 ∨ u.2.2 = i.2.2)
/-- The resources of a core suffice for a group beside what they hold (R368). -/
def State.roomOn (s : State) (part core : Nat) (r : LaunchRec) : Bool :=
  s.coreOpen part core && decide ((s.teamsOn core).length + r.gteams ≤ Config.slotsPerCore) &&
    (spadFit ((s.groupsOn core).map fun g => (g.2.resBase, g.2.reservation)) r.reservation).isSome &&
    decide (r.tiles ≤ (s.core core).freeTiles.length) &&
    !((s.part part).det && decide (Config.speculativeGroups ≤ ((s.groupsOn core).filter fun g => !g.2.leaving && s.speculative g.1).length)) &&
    (s.quadLoads core).takes (r.decls.map TeamDecl.cost)
/-- A waiting group fits on a core (R368). -/
def State.fits (s : State) (l : Launch) (w : Waiting) (core : Nat) : Bool :=
  s.roomOn l.part core (l.recordOf w) && l.unitsOk (instancesOf (l.recordOf w) w core)

/-! ## Placement -/

/-- A team as it starts (R28, R363). -/
def newTeam (r : LaunchRec) (core quad gid index tidx age : Nat) : Team :=
  let d := r.decl tidx
  let args := r.args.zip (List.range r.args.length)
  let regs : Sparse Word := (args.foldl (fun q a => sput 0 q (4 + a.2) a.1)
    (sput 0 (sput 0 [] 2 (r.ctab.extractLsb' 0 32)) 3 (r.ctab.extractLsb' 32 32)))
  let coords := coordsOf (r.extents.take r.glevels) index ++ coordsOf (r.extents.drop r.glevels) tidx
  { core := core, quad := quad, group := gid, tidx := tidx, beats := d.beats, nvregs := d.nvregs, role := d.role, status := .running,
    service := none, pc := r.entry, mode := 0, akind := 0, pmcount := 0,
    regs := { s := (List.range d.beats).foldl (fun q b => sput 0 q (224 + b) 0xFFFFFFFF) regs, sEmpty := [], v := [], vEmpty := [] },
    ctl := { stack := [], spilled := 0, spillOff := r.scratch + ((List.range tidx).map r.spillBytes).sum, spillDepth := r.spilld, rpc := rpcNone,
             loop := { lc := 0, start := 0, last := 0, active := false, capture := false, buffer := [] }, live := List.replicate d.beats 0xFFFFFFFF,
             cpois := List.replicate d.beats 0, ctok := List.replicate d.beats 0 },
    fmt := { fdr := (r.fmts.zip (List.range 16)).foldl (fun q f => sput (builtin 0) q f.2 f.1) [], amax := [], flags := 0, seed := 0, srcnt := 0 },
    mxm := 0, latch := none, report := { cause := 0, vaddr := 0, recpc := 0, token := 0, tcode := 0, flw := [] }, frcur := 1,
    frBase := r.frbase + BitVec.ofNat 64 (32 * 2 ^ r.frlog2 * (index * r.gteams + tidx)), frLog2 := r.frlog2, brtab := r.brtab,
    lvidx := (List.range 8).map fun i => word (coords.getD i 0), lvext := (List.range 8).map fun i => word (r.extents.getD i 1),
    flight := [], failures := [], drains := [], power := 0, powerAt := 0, request := none, fence := none,
    sched := { age := age, promoted := false, yielding := false } }
/-- A group as it starts (R28, R362, R371), with the pool tiles it takes. -/
def newGroup (l : Launch) (lid : Nat) (w : Waiting) (core base placedAt : Nat) (tiles : List Nat) : Group :=
  let r := l.recordOf w
  { launch := lid, child := w.child, index := w.index, part := l.part, core := core, idem := r.idem, mxsel := r.mxsel, prio := r.prio,
    qprio := l.qprio, ply := r.ply w.index, minor := r.minor, scratchBytes := r.scratch,
    reservation := r.reservation, resBase := base,
    tileMap := (tiles.zip (List.range tiles.length)).foldl (fun m t => sput 0 m t.2 (t.1 + 1)) [],
    rings := r.rings.map fun x => { size := x.1, target := x.2, count := [], phase := [] }, waiters := [],
    spec := { marks := [], held := [], sectors := [], deferred := [] }, request := none, reruns := w.reruns, placedAt := placedAt }
/-- The free team slots of a core. -/
def State.freeSlots (s : State) (core : Nat) : List Nat :=
  ((List.range Config.slotsPerCore).map (core * Config.slotsPerCore + ·)).filter fun i => (s.team? i).isNone
/-- A group placed on a core, its teams on the quadrants named (R363, R368 to R371); none where it does not fit so. -/
def State.placeGroup (s : State) (lid : Nat) (l : Launch) (w : Waiting) (core : Nat) (quads : List Nat) : Option State :=
  let r := l.recordOf w
  let used := (s.groupsOn core).map fun g => (g.2.resBase, g.2.reservation)
  match spadFit used r.reservation, (s.quadLoads core).putAll ((r.decls.map TeamDecl.cost).zip quads) with
  | some base, some _ =>
    if quads.length ≠ r.gteams ∨ s.fits l w core = false then none
    else
      let gid := s.nextId
      let tiles := ((s.core core).freeTiles).take r.tiles
      let s1 := { s with nextId := s.nextId + 1 }.onCore core fun c => tiles.foldl (fun (c : CoreState) t =>
        let d := c.clearTile t
        { d with tileUsed := sput false d.tileUsed t true }) c
      let s2 := s1.setGroup gid (newGroup l lid w core base gid tiles)
      let s3 := ((s.freeSlots core).zip (quads.zip (List.range r.gteams))).foldl (fun (s : State) x =>
        s.setTeam x.1 (newTeam r core x.2.1 gid w.index x.2.2 s.youngest)) s2
      let s4 := s3.setLaunch lid { l with
        waiting := l.waiting.erase w, resident := l.resident ++ [gid], begun := if w.again then l.begun else l.begun + 1
        units := (l.units ++ instancesOf r w core).eraseDups }
      let s5 := if w.child.isSome && !w.again then s4.onPart l.part fun p => { p with taskUsed := p.taskUsed - 1 } else s4
      -- the start of a child group, and of a group of a launch that LAUNCH submitted, is an acquire (R248)
      some (if w.child.isSome || l.parent.isSome then s5.acquire core else s5)
  | _, _ => none
/-- A group placed on a core, its teams on the quadrants of each choice that takes them. -/
def State.placesOn (s : State) (lid : Nat) (w : Waiting) (core : Nat) : List State :=
  match s.launch? lid with
  | none => []
  | some l => ((s.quadLoads core).plans ((l.recordOf w).decls.map TeamDecl.cost)).filterMap fun qs => s.placeGroup lid l w core qs
/-- Waiting groups in the order in which they take their places: in a deterministic partition by ascending ply, so that those that are not
speculative come before those that a core holds 16 of (R253, R368). -/
def State.placeOrder (s : State) (l : Launch) (ws : List Waiting) : List Waiting :=
  let ply (w : Waiting) : Nat := ((l.recordOf w).ply w.index).toNat
  if (s.part l.part).det then sortWhere (fun a b => decide (ply a < ply b)) ws else ws
/-- Groups of a launch placed one after another, each on the lowest core and quadrants that let the rest be placed. -/
def State.placeAll (lid : Nat) : List Waiting → State → Option State
  | [], s => some s
  | w :: ws, s => (List.range Config.cores).findSome? fun c => (s.placesOn lid w c).findSome? (State.placeAll lid ws)
/-- A cooperative launch that has placed nothing: it is placed whole (R368). -/
def Launch.whole (l : Launch) : Bool := l.record.coop && decide (l.begun = 0)
/-- The groups that go with a waiting group in its placement. -/
def Launch.together (l : Launch) (w : Waiting) : List Waiting :=
  if l.whole && w.child.isNone then (l.waiting.filter fun x => x.child.isNone && !x.again).erase w else []
/-- A waiting group can be placed somewhere at this moment. -/
def State.placeable (s : State) (lid : Nat) (l : Launch) (w : Waiting) : Bool :=
  (List.range Config.cores).any fun c => s.fits l w c && (s.placesOn lid w c).any fun x =>
    (State.placeAll lid (s.placeOrder l (l.together w)) x).isSome
/-- A waiting group that goes ahead of every unplaced group of launches of equal or lower priority: a child, or a group of a cooperative
launch that is placed again (R368, R374). -/
def Launch.ahead (l : Launch) (w : Waiting) : Bool := w.child.isSome || (w.again && l.record.coop)
/-- A waiting group comes before another: by queue priority, then children and groups of cooperative launches that are placed again, then
acceptance, then place in the launch (R367, R368, R374, R391). -/
def waitsBefore (la : Nat × Launch × Nat × Waiting) (lb : Nat × Launch × Nat × Waiting) : Bool :=
  let key (x : Nat × Launch × Nat × Waiting) : Nat × Nat × Nat × Nat :=
    (7 - x.2.1.qprio, if x.2.1.ahead x.2.2.2 then 0 else 1, x.1, x.2.2.1)
  let a := key la
  let b := key lb
  decide (a.1 < b.1 ∨ (a.1 = b.1 ∧ (a.2.1 < b.2.1 ∨ (a.2.1 = b.2.1 ∧ (a.2.2.1 < b.2.2.1 ∨ (a.2.2.1 = b.2.2.1 ∧ a.2.2.2 < b.2.2.2))))))
/-- The groups of a partition that wait for placement, with their launches and places. -/
def State.waitingGroups (s : State) (part : Nat) : List (Nat × Launch × Nat × Waiting) :=
  (s.launches.map fun e => match e.2 with
    | some l => if l.part = part ∧ l.started = true ∧ l.complete = false ∧ l.cancelled = false then
        (l.waiting.zip (List.range l.waiting.length)).map fun w => (e.1, l, w.2, w.1) else []
    | none => []).flatten
/-- A waiting cooperative launch holds back the groups of later launches of equal or lower priority, but for those that go ahead of its own
(R368). -/
def State.heldByCoop (s : State) (lid : Nat) (l : Launch) (w : Waiting) : Bool :=
  s.launches.any fun e => match e.2 with
    | some c => c.part == l.part && c.started && !c.complete && !c.cancelled && c.whole &&
        decide (e.1 < lid ∧ (l.qprio < c.qprio ∨ (l.qprio = c.qprio ∧ l.ahead w = false)))
    | none => false
/-- What a swapped-out partition still runs: the priority-7 launches that waited at the swap (R396). -/
def State.mayPlace (s : State) (lid : Nat) (l : Launch) : Bool :=
  match (s.part l.part).swap with
  | none => true
  | some w => w.allowed.contains lid
/-- GROUP_PLACEMENT (R367, R368): a group that comes before every other that could be placed now; with a cooperative launch's first group
go its others. -/
def execGroupPlacement (lid : Nat) (group : GroupName) (core : Nat) (quads : List Nat) (s : State) :
    Host.Outcome State Fault Refusal :=
  match s.launch? lid with
  | none => .next s
  | some l =>
    match (s.waitingGroups l.part).find? fun x => x.1 == lid && x.2.2.2.child == group.child && x.2.2.2.index == group.index with
    | none => .next s
    | some me =>
      let w := me.2.2.2
      if s.heldByCoop lid l w || !s.mayPlace lid l || (s.waitingGroups l.part).any (fun x =>
          waitsBefore x me && s.mayPlace x.1 x.2.1 && !s.heldByCoop x.1 x.2.1 x.2.2.2 && s.placeable x.1 x.2.1 x.2.2.2) then
        .next s
      else match (s.placeGroup lid l w core quads).bind (State.placeAll lid (s.placeOrder l (l.together w))) with
        | some x => .next x
        | none => .next s

/-! ## Start (R247) -/

/-- The most groups of a record whose resources fit one empty core: fuel bounds the count. -/
def coreHolds (r : LaunchRec) : Nat → Nat
  | 0 => 0
  | n + 1 =>
    let m := n + 1
    if m * r.reservation ≤ Config.scratchBytes ∧ m * r.tiles ≤ Config.tiles ∧ m * r.gteams ≤ Config.slotsPerCore ∧
        Loads.takes (List.replicate 4 (0, 0)) ((List.replicate m (r.decls.map TeamDecl.cost)).flatten) = true then m
    else coreHolds r n
/-- Groups of an instance of the outermost level of a domain; 1 where no level has it. -/
def instanceGroups (r : LaunchRec) (domain : Nat) : Nat :=
  match (List.range r.glevels).find? fun n => (r.levels[n]?.map (·.domain)) == some domain with
  | some n => prodNat ((r.extents.take r.glevels).drop (n + 1))
  | none => 1
/-- The groups of a launch that are never speculative while the partition holds nothing else: those of the lowest ply (R249, R253). -/
def LaunchRec.oldestGroups (r : LaunchRec) : Nat :=
  let plies := (List.range r.groups).map fun i => (r.ply (r.first + i)).toNat
  (plies.filter fun p => plies.all fun q => decide (p ≤ q)).length
/-- For each instance of n groups that some cores of a column can hold, the groups that are not speculative which it needs: of the groups that
fit on a core at most 16 are speculative, and others stand beside them (R253, R368). In ascending order. -/
def columnCosts (per cores n : Nat) : List Nat :=
  let base := cores * min per Config.speculativeGroups
  (List.range (cores * per / n)).map fun j => (j + 1) * n - base - (j * n - base)
/-- Costs in ascending order, m of them at a time as one. -/
def blockCosts (m : Nat) (costs : List Nat) : List Nat :=
  let xs := sortWhere (fun a b => decide (a < b)) costs
  (List.range (xs.length / m)).map fun i => ((xs.drop (i * m)).take m).sum
/-- How many costs, in ascending order, a sum covers. -/
def covered : Nat → List Nat → Nat
  | _, [] => 0
  | free, c :: cs => if c ≤ free then covered (free - c) cs + 1 else 0
/-- The partition could hold all groups of a launch while otherwise empty (R368): whole column instances in columns, whole die instances in
dies; in a deterministic partition the groups that are never speculative stand where they complete the most instances. -/
def State.couldHold (s : State) (part : Nat) (r : LaunchRec) : Bool :=
  let per := coreHolds r Config.slotsPerCore
  let gcol := instanceGroups r 2
  let gdie := max (instanceGroups r 3) gcol
  let cores (c : Nat) : Nat := ((List.range 4).filter fun i => s.coreOpen part (4 * c + i)).length
  if (s.part part).det then
    let inDie (d : Nat) : List Nat := blockCosts (gdie / gcol) (((List.range 16).map fun i => columnCosts per (cores (16 * d + i)) gcol).flatten)
    decide (r.groups ≤ covered r.oldestGroups (blockCosts 1 ((List.range 4).map inDie).flatten) * gdie)
  else
    let inDie (d : Nat) : Nat := ((List.range 16).map fun i => cores (16 * d + i) * per / gcol).sum / (gdie / gcol)
    decide (r.groups ≤ ((List.range 4).map inDie).sum * gdie)
/-- A launch writes a handle, or uses it (R247). -/
def Launch.usesHandle (l : Launch) (h : Nat) (write : Bool) : Bool :=
  l.record.handles.any fun x => x.1 == h && (if write then x.2.testBit 1 else decide (x.2 ≠ 0))
/-- An earlier launch has a handle in common with a later one, and one of them writes it. -/
def Launch.orders (a b : Launch) : Bool :=
  a.part == b.part && b.record.handles.any fun h => (a.usesHandle h.1 true && b.usesHandle h.1 false) || (a.usesHandle h.1 false && b.usesHandle h.1 true)
/-- LAUNCH_START (R247, R368): once ordered earlier launches are complete; after a writer the not-owned copies of the partition's cores
go; a cooperative launch that can never be held ends COOPFIT. -/
def execLaunchStart (lid : Nat) (s : State) : Host.Outcome State Fault Refusal :=
  match s.launch? lid with
  | none => .next s
  | some l =>
    let before := s.launches.filterMap fun e => match e.2 with | some x => if e.1 < lid ∧ x.orders l = true then some x else none | none => none
    if l.started || l.complete || before.any (fun x => !x.complete) then .next s
    else
      let wrote := before.any fun x => l.record.handles.any fun h => x.usesHandle h.1 true
      let s1 := if wrote then { s with cores := s.cores.map fun (c : Nat × CoreState) =>
        if (s.part l.part).columns.getLsbD (columnOf c.1) then (c.1, { c.2 with copies := [], recCache := [] }) else c } else s
      if l.record.coop && !s.couldHold l.part l.record then .next (s1.endLaunch lid (statusWord 0x63 0))
      else .next ((s1.setLaunch lid { l with started := true }).checkLaunch lid)
/-- LAUNCH_CANCEL (R366): the groups that wait are withdrawn, resident groups run to their exits. -/
def execLaunchCancel (lid : Nat) (s : State) : Host.Outcome State Fault Refusal :=
  match s.launch? lid with
  | none => .next s
  | some l =>
    if l.complete then .next s
    else
      let gone (c : Nat) : Nat := (l.waiting.filter fun w => w.child == some c).length
      let queued := (l.waiting.filter fun w => w.child.isSome && !w.again).length
      let l1 := { l with started := true, cancelled := true, waiting := [],
                         children := l.children.map fun c => { c with added := c.added - gone c.op } }
      let s1 := (s.setLaunch lid l1).onPart l.part fun p => { p with taskUsed := p.taskUsed - queued }
      let s2 := (l1.children.filter fun c => decide (c.added ≤ c.ended)).foldl (fun s c => match s.op? c.op with
        | some o => match o.command? with
          | some k => s.endCommand o k [statusWord 0x66 c.added]
          | none => s
        | none => s) s1
      .next (s2.checkLaunch lid)

/-! ## TASKQ and LAUNCH (R373, R374) -/

/-- The words of bytes. -/
def bytesWords (bs : List Byte) : List Word := (List.range (bs.length / 4)).map fun i => word (leNat ((bs.drop (4 * i)).take 4))
/-- Bytes of a team's partition as TASKQ reads them, with the team's own stores (R199, R373). -/
def State.taskRead (s : State) (slot : Nat) (t : Team) (va n : Nat) : Except CpFail (List Byte) :=
  (s.cpKeys (s.partOf t) .read va n).map fun ks => ks.map fun k => s.loadByte slot t.group t.core s.nextId false k
/-- Stores of other teams of the core to some bytes that TASKQ reads register first (R218). -/
def State.taskRegister (s : State) (slot : Nat) (t : Team) (va n : Nat) : State :=
  match s.cpKeys (s.partOf t) .read va n with
  | .ok ks => s.registerOthers slot t ks
  | .error _ => s
/-- The state in which TASKQ reads its record, the header of its code object and the section table. -/
def State.taskReads (s : State) (slot : Nat) (t : Team) (va : Nat) : State :=
  let num (r : Except CpFail (List Byte)) : Nat := match r with | .ok bs => leNat bs | .error _ => 0
  let s1 := s.taskRegister slot t va 1024
  let obj := num (s1.taskRead slot t ((va + 0x20) % 2 ^ 64) 8)
  let s2 := s1.taskRegister slot t obj 64
  s2.taskRegister slot t ((obj + num (s2.taskRead slot t ((obj + 0x10) % 2 ^ 64) 8)) % 2 ^ 64)
    (32 * min 64 (num (s2.taskRead slot t ((obj + 0xC) % 2 ^ 64) 4)))
/-- TASKQ (R373, R374): the record is read at execution, with the team's own stores, after its earlier acquires (R221) and once its group is
oldest (R252); what it says travels with the command. -/
def execTaskq (sd sa sb : SReg) (s0 : State) : Host.Outcome State Fault Refusal :=
  issue (.taskq sd sa sb) s0 fun slot t =>
    let ps := t.params sa
    let s := s0.taskReads slot t (pd ps 0)
    if s0.acquiring slot t.group || s0.speculative t.group then .next s0
    else if !s.present slot t then .next s
    else
    let part := s.partOf t
    let rd := s.taskRead slot t
    let lid := (s.group? t.group).map (·.launch) |>.getD 0
    let go (c : CommandOp) : Host.Outcome State Fault Refusal := s.issueCommand slot t c 0 [] id
    match readLaunchRec s.board.emulMin (s.objectSize part) rd (s.pathAt part) (pd ps 0) with
    | .ok (bs, r) =>
      let first := (pw ps 2).toNat
      if r.groups ≤ first ∨ r.coop = true then s.badCommand slot
      else
        let v := validCount t sb (r.groups - first)
        go { newCommand .taskq (ps ++ bytesWords bs) v (r.groups - first) sd [] with extra := [lid, r.minor] }
    | .error (.status w) => go { newCommand .taskq ps 0 0 sd [] with extra := [lid, 0], failed := some w }
    | .error (.read f) =>
      let a := s.allocRecord slot { code := f.1, rflags := 1, lane := 0, detail := f.2.1 % 16 * 2 ^ 16, pc := t.pc, va := BitVec.ofNat 64 f.2.2 }
      match a.1.team? slot with
      | some t1 => a.1.issueCommand slot t1 { newCommand .taskq ps 0 0 sd [] with extra := [lid, 0], failed := some (tokenOf f.1 a.2) } 0 [] id
      | none => .next s
/-- LAUNCH (R373): the queue must exist. -/
def execLaunch (sd sa : SReg) (s : State) : Host.Outcome State Fault Refusal :=
  issue (.launch sd sa) s fun slot t =>
    let ps := t.params sa
    let q := (pw ps 2).toNat
    if 64 ≤ q ∨ (sget none (s.part (s.partOf t)).queues q).isNone = true then s.badCommand slot
    else s.issueCommand slot t { newCommand .launch ps 0 0 sd [] with extra := [((s.group? t.group).map (·.launch)).getD 0] } 0 [] id
/-- TASKQ adds its groups, all or none (R374). -/
def State.startTaskq (s : State) (o : Op) (c : CommandOp) : State :=
  let lid := c.extra.headD 0
  match c.failed, s.launch? lid with
  | some w, _ => s.endCommand o c [w]
  | none, none => s.endCommand o c [doneStatus 0]
  | none, some l =>
    if Config.taskEntries < (s.part o.part).taskUsed + c.valid then s.endCommand o c [statusWord 0x64 0]
    else if c.valid = 0 || l.complete || l.cancelled then s.endCommand o c [if c.valid = 0 then doneStatus 0 else statusWord 0x66 0]
    else
      let r := parseRecord (((c.params.drop 8).map fun w => leBytes 4 w.toNat).flatten) (c.extra.getD 1 0)
      let first := r.first + (pw c.params 2).toNat
      let ws : List Waiting := (List.range c.valid).map fun i => { child := some o.id, index := first + i, reruns := 0, again := false }
      let set : ChildSet := { op := o.id, record := r, added := c.valid, ended := 0, killed := 0 }
      ((s.setOp { o with kind := .command { c with started := true } }).setLaunch lid
        { l with waiting := l.waiting ++ ws, children := l.children ++ [set] }).onPart o.part fun p => { p with taskUsed := p.taskUsed + c.valid }
/-- LAUNCH submits its record as an entry accepted on its queue (R374). -/
def State.startLaunchCmd (s : State) (o : Op) (c : CommandOp) : State :=
  let q := (pw c.params 2).toNat
  let prio := match sget none (s.part o.part).queues q with | some x => x.prio | none => 0
  (s.setOp { o with kind := .command { c with started := true } }).acceptLaunch o.part q prio (pd c.params 0) (.command o.id) c.extra.head?

/-! ## The start of engine commands (R245) -/

/-- ENGINE_COMMAND_START (R245): the issue's release is performed as soon as nothing holds it; then the command starts once it may. -/
def execEngineCommandStart (op : Nat) (s : State) : Host.Outcome State Fault Refusal :=
  let s1 := s.releaseCommand op
  match s1.op? op with
  | none => .next s1
  | some o =>
    match o.command? with
    | none => .next s1
    | some c =>
      if s1.asksPermit o then .next (s1.askPermit o c)
      else if !s1.canStart o c then .next s1
      else .next (match c.cmd with
        | .xexp => s1.beginExpand o c
        | .gmask => s1.startGmask o c
        | .emit | .jtrunc | .jreplay | .jstat => s1.startJournal o c
        | .coll => s1.startColl o c
        | .taskq => s1.startTaskq o c
        | .launch => s1.startLaunchCmd o c
        | _ => s1.begin o c)

/-! ## Special registers (R375, R376) -/

/-- The value of a special register. -/
def State.special (s : State) (t : Team) (n : Nat) : Word :=
  let g := s.group? t.group
  let ply : Dbl := match g with | some x => if (s.part x.part).det then x.ply else 0 | none => 0
  let ring : Dbl := t.frBase + BitVec.ofNat 64 t.frLog2
  if 0x10 ≤ n ∧ n ≤ 0x17 then t.lvidx.getD (n - 0x10) 0
  else if 0x18 ≤ n ∧ n ≤ 0x1F then t.lvext.getD (n - 0x18) 0
  else match n with
    | 0x00 => word t.tidx
    | 0x01 => word ((g.map (·.index)).getD 0)
    | 0x02 => word t.beats
    | 0x03 => word t.nvregs
    | 0x04 => word t.role
    | 0x05 => word (s.partOf t)
    | 0x06 => word s.fabric.devid
    | 0x07 => (sget 0 (s.core t.core).cycles t.quad).extractLsb' 0 32
    | 0x08 => t.akind.setWidth 32
    | 0x09 => word (t.core + t.quad * 256)
    | 0x20 => ply.extractLsb' 0 32
    | 0x21 => ply.extractLsb' 32 32
    | 0x22 => t.brtab.extractLsb' 0 32
    | 0x23 => t.brtab.extractLsb' 32 32
    | 0x24 => ring.extractLsb' 0 32
    | _ => ring.extractLsb' 32 32
/-- SRD (R375). -/
def execSrd (sd : SReg) (num : BitVec 16) (s : State) : Host.Outcome State Fault Refusal :=
  scalarInstr (.srd sd num) s sd.toNat fun t => s.special t num.toNat
/-- SWR (R375): AKIND and the halves of BRTAB, with their value checks (R232, R361). -/
def execSwr (sa : SReg) (num : BitVec 16) (s : State) : Host.Outcome State Fault Refusal :=
  issue (.swr sa num) s fun slot t =>
    let v := t.rs sa.toNat
    match num.toNat with
    | 0x08 => if 2 < v.toNat then .next (s.illegal slot) else s.done slot { t with akind := v.setWidth 2 }
    | 0x22 =>
      if 4096 < v.toNat % 2 ^ 13 then .next (s.illegal slot)
      else s.done slot { t with brtab := t.brtab.extractLsb' 32 32 ++ v }
    | 0x23 => s.done slot { t with brtab := v ++ t.brtab.extractLsb' 0 32 }
    | _ => .next (s.illegal slot)
/-- CLKRD (R376). -/
def execClkrd (sd : SReg) (sel : BitVec 8) (s : State) : Host.Outcome State Fault Refusal :=
  issue (.clkrd sd sel) s fun slot t =>
    s.startAsk slot t (.clock sd.toNat sel.toNat (sget 0 (s.core t.core).cycles t.quad)) (.scal sd.toNat 2)
/-- A die's reference time at a reading (R376): nanoseconds have passed since the last one, and the management core steers the count towards the
host's time, slower or faster but never back. How many have passed, and how far it steers, are free values (log entry 3). -/
def Die.readTime (d : Die) (salt : Nat) : Die :=
  let adv := Config.elapsed salt
  let bound := if d.refGap < 0 then min d.refGap.natAbs adv else d.refGap.natAbs
  let turn : Int := (Config.steered salt % (bound + 1) : Nat)
  let steer : Int := if d.refGap < 0 then -turn else turn
  { d with refTime := BitVec.ofNat 64 (min ((d.refTime.toNat : Int) + adv + steer).toNat (2 ^ 64 - 1)), refGap := d.refGap - steer }
/-- CLKRD_ANSWER (R376). The reference time is the management core's, which must be ready (R406). -/
def execClkrdAnswer (op : Nat) (s : State) : Host.Outcome State Fault Refusal :=
  match s.op? op with
  | some o => match o.kind with
    | .ask (.clock sd sel count) =>
      if sel = 0 then .next (s.answer o sd [count.extractLsb' 0 32, count.extractLsb' 32 32])
      else if !s.functionUp (12 + dieOf o.core) then .next s
      else
        let d := dieOf o.core
        let s1 := { s with freeCount := s.freeCount + 1 }.onDie d fun x => x.readTime s.freeCount
        let now := (s1.die d).refTime
        .next (s1.answer o sd [now.extractLsb' 0 32, now.extractLsb' 32 32])
    | _ => .next s
  | none => .next s

/-! ## The end of teams and groups (R134, R249) -/

/-- TEAM_LEAVE_QUADRANT (R134): every access, command and handed release of an exited team is performed; the last team's exit is the
group's, which in a deterministic partition commits first. -/
def execTeamLeaveQuadrant (slot : Nat) (s : State) : Host.Outcome State Fault Refusal :=
  match s.team? slot with
  | none => .next s
  | some t =>
    if t.status ≠ .exited ∨ s.working slot t.group = true then .next s
    else
      let s1 := { s with ops := s.ops.filter fun o => o.slot != slot || o.gid != t.group || o.orphan }.removeTeam slot t
      if !(s1.slotsOf t.group).isEmpty || (s.part (s.partOf t)).det then .next s1 else .next (s1.exitGroup t.group)
/-- GROUP_COMMIT (R249): a group all of whose teams have left commits once it is oldest. -/
def execGroupCommit (gid : Nat) (s : State) : Host.Outcome State Fault Refusal :=
  match s.group? gid with
  | none => .next s
  | some g =>
    if (s.part g.part).det && !g.leaving && (s.slotsOf gid).isEmpty && s.oldest gid then .next ((s.commit gid).exitGroup gid) else .next s

end Sys2Proof.Machine
end

