-- ==== Sys2Proof/Machine/Power.lean ====
section
/-! DEFINITION. Power: PWREQ and PWREL, opcodes 0xF7 and 0xF8 (R400, R401), the governor's grants (R399), thresholds, POWERCTL (R402). -/

namespace Sys2Proof.Machine

/-! ## PWREQ and PWREL (R400) -/

/-- The status word of PWREQ. -/
def powerWord (st held : Nat) : Word := word (st * 2 ^ 24 + held % 2 ^ 24)
/-- PWREQ (R400). -/
def execPwreq (sd sa : SReg) (s : State) : Host.Outcome State Fault Refusal :=
  issue (.pwreq sd sa) s fun slot t =>
    let u := (t.rs sa.toNat).toNat
    let d := dieOf t.core
    if s.dcap d - s.floorUnits d < t.power + u then s.done slot (t.ws sd.toNat (powerWord 0x70 t.power))
    else if u = 0 then s.done slot (t.ws sd.toNat (powerWord 0 t.power))
    else s.startAsk slot t (.power sd.toNat u) (.scal sd.toNat 1)
/-- PWREL (R400). -/
def execPwrel (sa : SReg) (s : State) : Host.Outcome State Fault Refusal :=
  issue (.pwrel sa) s fun slot t =>
    let u := (t.rs sa.toNat).toNat
    let back := if u = 0 ∨ t.power ≤ u then t.power else u
    (s.onDie (dieOf t.core) fun d => { d with aboveHeld := d.aboveHeld - back }).done slot { t with power := t.power - back }

/-! ## The governor (R399) -/

/-- The partition of an operation is swapped out. -/
def State.out (s : State) (part : Nat) : Bool := (s.part part).swap.isSome
/-- The PWREQ requests of a die in arrival order: those of partitions that are out are withdrawn until the restore (R401). -/
def State.powerQueue (s : State) (die : Nat) : List Op :=
  s.ops.filter fun o => (match o.kind with | .ask (.power _ _) => true | _ => false) && dieOf o.core == die && !s.out o.part
/-- The command whose ask is at the head of its die's queue, in strict arrival order (R399): also one that by now waits for something else
than its permit, such as the lock of an older command or its partition's restore. -/
def State.firstAsk (s : State) (die : Nat) : Option Op :=
  (s.die die).asks.findSome? fun id => (s.op? id).bind fun o => match o.command? with
    | some c => if c.permit.isNone && !c.started then some o else none
    | none => none
/-- Free units cover a command's ask. -/
def State.covers (s : State) (die need : Nat) : Option PermitFrom :=
  if need ≤ s.floorFree die then some .floor else if need ≤ s.aboveFree die then some .above else none
/-- A command ask that has not been served holds back every PWREQ request (R399). -/
def State.askHolds (s : State) (die : Nat) : Bool := (s.firstAsk die).isSome
/-- A request whose team has ended is withdrawn (R401). -/
def State.askLive (s : State) (o : Op) : Bool := match s.issuer? o with | some t => decide (t.status ≠ .exited) | none => false
/-- PWREQ_GRANT (R399, R400): the first request of the die, where it fits above the floor. -/
def execPwreqGrant (op : Nat) (s : State) : Host.Outcome State Fault Refusal :=
  match s.op? op with
  | none => .next s
  | some o =>
    match o.kind with
    | .ask (.power sd units) =>
      let d := dieOf o.core
      if !s.askLive o then .next (s.dropOp o.id)
      else if (s.powerQueue d).head?.map (·.id) ≠ some op ∨ (s.die d).hot = true ∨ s.askHolds d = true ∨ s.aboveFree d < units then .next s
      else
        let s1 := { s with nextId := s.nextId + 1 }.onDie d fun x => { x with aboveHeld := x.aboveHeld + units }
        let s2 := s1.deliver o fun t => { t with power := t.power + units, powerAt := if t.power = 0 then s.nextId else t.powerAt }
        let held := ((s2.issuer? o).map (·.power)).getD units
        .next (if sd = 0 then s2.dropOp o.id else s2.answer o sd [powerWord 0 held])
    | _ => .next s
/-- PWREQ_TIMEOUT (R400): the request at the head of its die's queue ends TIMEOUT. -/
def execPwreqTimeout (op : Nat) (s : State) : Host.Outcome State Fault Refusal :=
  match s.op? op with
  | none => .next s
  | some o =>
    match o.kind with
    | .ask (.power sd _) =>
      if (s.powerQueue (dieOf o.core)).head?.map (·.id) = some op then
        .next (s.answer o sd [powerWord 0x71 (((s.issuer? o).map (·.power)).getD 0)])
      else .next s
    | _ => .next s
/-- POWER_PERMIT_GRANT (R399): the ask at the head of the die's queue, from the floor where that covers it, else from above it. -/
def execPowerPermitGrant (op : Nat) (s : State) : Host.Outcome State Fault Refusal :=
  match s.op? op with
  | none => .next s
  | some o =>
    match o.command? with
    | none => .next s
    | some c =>
      let d := dieOf o.core
      let give (f : PermitFrom) (s : State) : State :=
        (s.onDie d fun x => { x with asks := x.asks.filter (· != op) }).setOp { o with kind := .command { c with permit := some f } }
      if (s.die d).hot || decide ((s.firstAsk d).map (·.id) ≠ some op) then .next s
      else match s.covers d c.need with
        | some .floor => .next (give .floor (s.onDie d fun x => { x with floorHeld := x.floorHeld + c.need }))
        | some _ => .next (give .above (s.onDie d fun x => { x with aboveHeld := x.aboveHeld + c.need }))
        | none => .next s
/-- DIE_HOT_THRESHOLD (R399). -/
def execDieHotThreshold (die : Nat) (s : State) : Host.Outcome State Fault Refusal := .next (s.onDie die fun d => { d with hot := true })
/-- HOT_THRESHOLD_CLEARED (R399). -/
def execHotThresholdCleared (die : Nat) (s : State) : Host.Outcome State Fault Refusal := .next (s.onDie die fun d => { d with hot := false })
/-- DIE_CRITICAL_THRESHOLD (R399): reported, and the package's power is removed. -/
def execDieCriticalThreshold (die : Nat) (s : State) : Host.Outcome State Fault Refusal :=
  let s1 := s.tell (.critical die)
  .next { s1 with board := { s1.board with removed := true, powered := false } }

/-! ## POWERCTL (R402) -/

/-- A value of POWERCTL that a write may store (R402). PCEIL 0, which lets every capacity be 0 only, is stored like any other value: the spec
names no outcome for it (log entry 69). -/
def powerctlOk (v : Dbl) : Bool :=
  let f (lo n : Nat) : Nat := (v.extractLsb' lo n).toNat
  decide (f 52 11 = 0 ∧ f 0 12 ≤ 2400 ∧ f 12 10 + f 22 10 + f 32 10 + f 42 10 ≤ f 0 12)
/-- POWERCTL_WRITE (R402): a write that is ignored, for LOCK too, is counted (R410). -/
def execPowerctlWrite (value : Dbl) (s : State) : Host.Outcome State Fault Refusal :=
  let b := s.board
  if b.powerctl.getLsbD 63 = false ∧ powerctlOk value = true then .next { s with board := { b with powerctl := value } }
  else .next { s with board := { b with pwrErr := b.pwrErr + 1 } }

end Sys2Proof.Machine
end

