-- ==== Sys2Proof/Machine/Traps.lean ====
section
/-! DEFINITION. Traps and pre-emption: TRAP, PMASK and PUNMASK, opcodes 0xF4 to 0xF6 (R389, R392), reserved words (R53, R55), Beloft's
service of trap-queue entries (R380, R381, R390), the team-state window (R382, R383), page service (R388), pre-emption requests, watchdogs
and partition swaps (R391 to R396), errors (R193, R397), promotion (R372). -/

namespace Sys2Proof.Machine

/-! ## TRAP, PMASK, PUNMASK -/

/-- TRAP (R389): waits as a release does, then traps. -/
def execTrap (code : BitVec 16) (s : State) : Host.Outcome State Fault Refusal :=
  issue (.trap code) s fun slot t =>
    match s.awaitRelease slot t with
    | some w => .next w
    | none => .next ((s.setTeam slot { t with fence := none }).trap slot { Report.precise 0x13 t.execWindow with tcode := code.zeroExtend 32 })
/-- PMASK (R392). -/
def execPmask (s : State) : Host.Outcome State Fault Refusal :=
  issue .pmask s fun slot t => if t.pmcount = 255 then .next (s.illegal slot) else s.done slot { t with pmcount := t.pmcount + 1 }
/-- PUNMASK (R392): a deferred request is taken when the group becomes unmasked. -/
def execPunmask (s : State) : Host.Outcome State Fault Refusal :=
  issue .punmask s fun slot t =>
    if t.pmcount = 0 then .next (s.illegal slot)
    else .next ((s.setTeam slot { t with pmcount := t.pmcount - 1 }.advance).settle t.group)

/-! ## Words that are no instruction (R53, R55) -/

/-- What the current team does where it can issue. -/
def onCurrent (s : State) (f : Nat → Team → State) : Host.Outcome State Fault Refusal :=
  match s.cur with
  | none => .fault .noTeam
  | some slot =>
    match s.team? slot with
    | none => .fault .noTeam
    | some t => if t.canIssue then .next (f slot t) else .next s
/-- ILLEGAL_OPCODE (R53). -/
def execIllegalOpcode (s : State) : Host.Outcome State Fault Refusal := onCurrent s fun slot _ => s.illegal slot
/-- RESERVED_OPCODE_PARK (R55): the team is parked and waits for its die's management core. -/
def execReservedOpcodePark (s : State) : Host.Outcome State Fault Refusal :=
  onCurrent s fun slot t => s.trap slot (Report.precise 0x15 t.allLanes)

/-! ## Scheduling (R135, R372) -/

/-- TEAM_PROMOTION (R372): the schedule lets it happen only to a ready team, one whose issue would go on (State.perform). -/
def execTeamPromotion (slot : Nat) (s : State) : Host.Outcome State Fault Refusal :=
  .next (s.onTeam slot fun t => if t.canIssue then { t with sched := { t.sched with promoted := true } } else t)
/-- YIELD_EXPIRY (R135). -/
def execYieldExpiry (slot : Nat) (s : State) : Host.Outcome State Fault Refusal :=
  .next (s.onTeam slot fun t => { t with sched := { t.sched with yielding := false } })

/-! ## Beloft takes a trap (R380, R381) -/

/-- The code of a trap report. -/
def Team.cause (t : Team) : Nat := (t.report.cause.extractLsb' 0 8).toNat
/-- The report is of a precise fault of the instruction at PC. -/
def Team.precise (t : Team) : Bool := t.report.cause.extractLsb' 8 24 == 0
/-- An address is an entry of the code table of an object placed in a partition (R73). -/
def State.lazyEntry (s : State) (part : Nat) (e : Dbl) : Bool :=
  s.objects.any fun x => x.part == part && decide (x.codetab ≤ e.toNat ∧ e.toNat < x.codetab + 32 * x.entries ∧ (e.toNat - x.codetab) % 32 = 0)
/-- The code of a lazy function placed where teams will fetch it (R74): on mapped pages that allow a fetch. -/
def State.placeLazy (s : State) (part : Nat) (p : LazyPlace) : Option State :=
  if p.code.isEmpty || decide (p.entry % 4 ≠ 0) then none
  else match s.cpKeys part .fetch p.entry p.code.length with
    | .ok ks => some ((ks.zip p.code).foldl (fun (s : State) w => s.homeWrite w.1 [w.2]) s)
    | .error _ => none
/-- A lazy function is bound (R74, R75, R390), unless its entry says that it has been: ENTRY, STATE := BOUND, or FAILED where Beloft places no
code for an entry of a placed object, the exchange of WAITERS, the signal to SEM. -/
def State.bindLazy (s : State) (part : Nat) (e : Dbl) (place : Option LazyPlace) : State :=
  match s.cpKeys part .write e.toNat 32 with
  | .error _ => s
  | .ok ks =>
    let k := ks.headD 0
    if 2 ≤ (s.wordAt k).toNat then s
    else
      let s1 := match (if s.lazyEntry part e then place else none).bind fun p => (s.placeLazy part p).map fun x => (x, p.entry) with
        | some (x, entry) => (x.homeWrite (k + 0x10) (leBytes 8 entry)).homeWrite k (leBytes 4 2)
        | none => s.homeWrite k (leBytes 4 3)
      let n := s1.wordAt (k + 4)
      (s1.homeWrite (k + 4) (leBytes 4 0)).signalAt part (k + 8) none n
/-- A page's service is asked of a die (R388). -/
def State.askPage (s : State) (die part va : Nat) : State :=
  s.onDie die fun d => if d.services.contains (part, pageOf va) then d else { d with services := d.services ++ [(part, pageOf va)] }
/-- The management core of a die runs (R405, R406). -/
def State.coreUp (s : State) (die : Nat) : Bool := s.functionUp (12 + die)
/-- Beloft holds a routine for the word at which a team is parked (R55): the group's object is of a minor version above 2, the word belongs to
one above 2 and at most the object's own (a free value, log entry 3), and the emulation set covers it. -/
def State.emulates (s : State) (t : Team) : Bool :=
  let minor := match s.group? t.group with | some g => g.minor | none => 0
  match s.wordAtPc t t.pc.toNat true with
  | .ok (_, w) =>
    let m := Config.introduced w.toNat
    decide (2 < minor ∧ 2 < m ∧ m ≤ minor ∧ m ≤ s.board.emulMin)
  | .error _ => false
/-- A cause that Beloft reports to the host and that kills the group; with debug enabled the team stays parked for the host (R381). -/
def State.fatal (s : State) (slot : Nat) (t : Team) (e : HostEvent) : State :=
  let s1 := s.tell e
  if (s.part (s.partOf t)).debug then s1.onTeam slot fun u => { u with status := .awaiting, service := some .debug } else s1.killGroup t.group
/-- What Beloft does with the entry it takes (R381, R390): page service, a wait for locks, an emulation routine, the report of BRK and of the
codes that are the host's, the binding of a lazy function; everything else is fatal, among it a word that no routine emulates and a code
treated as ILLEGAL (R55, R390; log entry 39). The team is in its handler, at BRK it is parked. -/
def State.serve (s : State) (slot : Nat) (t : Team) (bind : Option LazyPlace) : State :=
  let part := s.partOf t
  let inH (sv : Service) (s : State) : State := s.onTeam slot fun u => { u with status := .inHandler, service := some sv }
  let fatal : State := s.fatal slot t (.trapReport slot t.report.cause t.pc)
  let illegal : State :=
    let t1 := { t with report := { t.report with cause := 0x10, flw := t.allLanes } }
    (s.setTeam slot t1).fatal slot t1 (.trapReport slot 0x10 t.pc)
  let va := t.report.vaddr.toNat
  match t.cause with
  | 0x01 =>
    if !t.precise then fatal
    else match s.walkNow part va with
      | .leaf _ _ => inH .ready s
      | .fail _ _ => (inH (.page (BitVec.ofNat 64 (pageOf va))) s).askPage (dieOf t.core) part va
  | 0x04 =>
    if !t.precise then fatal
    else (inH (t.service.getD .ready) s).onDie (dieOf t.core) fun d => { d with lockWaits := d.lockWaits + 1 }
  | 0x13 =>
    let code := t.report.tcode.toNat
    if code = 0x0100 then
      inH .bound ((s.onDie (dieOf t.core) fun d => { d with binds := d.binds.erase (part, t.rd64 190) }).bindLazy part (t.rd64 190) bind)
    else if code = 0x0101 then (s.tell (.bindFailed slot (t.rd64 190))).killGroup t.group
    else if 0x0102 ≤ code ∧ code ≤ 0x0FFF then illegal
    else inH .host (s.tell (.trapCode slot t.report.tcode))
  | 0x14 => (s.onTeam slot fun u => { u with status := .parked, service := some .host }).tell (.brk slot t.report.tcode)
  | 0x15 => if s.emulates t then inH .routine s else illegal
  | _ => fatal
/-- TRAP_QUEUE_TAKE (R380): the oldest entry of the die's trap queue, once the management core is ready (R406). With none left Beloft completes
a binding whose team is gone (R75). -/
def execTrapQueueTake (take : TrapTake) (s : State) : Host.Outcome State Fault Refusal :=
  let die := take.die
  if !s.coreUp die then .next s
  else match (s.die die).trapQueue with
    | [] =>
      match (s.die die).binds with
      | [] => .next s
      | b :: bs => .next ((s.onDie die fun d => { d with binds := bs }).bindLazy b.1 b.2 take.bind)
    | slot :: rest =>
      let s1 := s.onDie die fun d => { d with trapQueue := rest }
      match s1.team? slot with
      | some t => .next (if t.status = .trapped then s1.serve slot t take.bind else s1)
      | none => .next s1
/-- An address of an instruction: bits 1:0 are zero (R34). -/
def wordAligned (a : Dbl) : Dbl := a &&& ~~~3
/-- A team that a command of CTRL acts on: in handler, awaiting service, or parked at BRK (R380). -/
def Team.stopped (t : Team) : Bool := decide (t.status = .inHandler ∨ t.status = .awaiting ∨ t.status = .parked)
/-- RESUME may be written (R381, R390): the page is there, the locks are released, the host decides of a team that is detached or parked. -/
def State.mayResume (s : State) (t : Team) : Bool :=
  t.stopped && match t.service with
    | some (.page _) => false
    | some (.unlock ids) => ids.all fun id => !s.locks.any fun l => l.2.1 == id
    | some .host => decide (t.status ≠ .inHandler)
    | _ => true
/-- The PC at which a resumed team goes on where the window was not written: behind a TRAP or BRK (R138, R390), else at its instruction. At the
last word of a loop the PC is that of the word behind it, and the loop stays active (log entry 71). -/
def Team.resumePc (t : Team) : Dbl := if t.service = some .host ∨ t.service = some .bound then t.pc + 4 else t.pc
/-- RESUME (R380): at the PC given, or that the window holds. A request that waited for the handler is decided (R393). -/
def State.ctrlResume (s : State) (slot : Nat) (t : Team) (pc : Option Dbl) : State :=
  (s.resume slot (some (wordAligned (pc.getD t.resumePc)))).settle t.group
/-- KILL (R380, R397). -/
def execCtrlKill (slot : Nat) (s : State) : Host.Outcome State Fault Refusal :=
  match s.team? slot with
  | none => .next s
  | some t => .next (if t.stopped then s.killGroup t.group else s)
/-- DETACH (R380). -/
def execCtrlDetach (slot : Nat) (s : State) : Host.Outcome State Fault Refusal :=
  match s.team? slot with
  | none => .next s
  | some t =>
    if t.status = .inHandler then .next ((s.setTeam slot { t with status := .awaiting }).settle t.group) else .next s

/-! ## Emulation (R55, R56) -/

/-- The registers a routine's load or atomic fills. -/
def routineDest (v r : Option Nat) (n : Nat) : Dest :=
  match v, r with
  | some x, _ => .vec x n
  | none, some x => .scal x n
  | none, none => .none
/-- The accesses of a routine's lanes, checked as the team's own would be (R56, R191, R192). -/
def State.routineChecks (s : State) (t : Team) (perm : Perm) (size : Nat) (lanes : List (Nat × Dbl)) : List LaneCheck :=
  lanes.map fun l => { lane := l.1, va := l.2.toNat, res := s.checkAt (s.partOf t) t.group perm size l.2.toNat l.1 }
/-- A routine's accesses with their checks: its loads, its atomics, the bytes of its stores. -/
structure RoutineChecks where
  loads : List (RoutineLoad × List LaneCheck)
  atoms : List (RoutineAtomic × List LaneCheck)
  stores : List LaneCheck
/-- The checks of a routine's accesses (R56). -/
def State.checkRoutine (s : State) (t : Team) (c : RoutineCommit) : RoutineChecks :=
  { loads := (c.loads.filter fun l => !l.lanes.isEmpty).map fun l => (l, s.routineChecks t .read l.size l.lanes)
    atoms := (c.atoms.filter fun a => !a.lanes.isEmpty).map fun a => (a, s.routineChecks t .atomic 4 (a.lanes.map fun x => (x.1, x.2.1)))
    stores := s.routineChecks t .write 1 (c.stores.map fun w => (0, w.1)) }
/-- The first access of a routine that fails, with its direction and size: a speculative load's failure is poison instead (R196). -/
def RoutineChecks.failed (x : RoutineChecks) : Option (List LaneCheck × Bool × Nat) :=
  let loads := (x.loads.filter fun (l : RoutineLoad × List LaneCheck) => !l.1.spec).map fun l => (l.2, false, l.1.size)
  let atoms := x.atoms.map fun (a : RoutineAtomic × List LaneCheck) => (a.2, true, 4)
  (loads ++ atoms ++ [(x.stores, true, 1)]).find? fun y => y.1.any LaneCheck.failed
/-- The keys that checked accesses touch. -/
def checkedKeys (cs : List LaneCheck) : List Nat := (cs.map fun c => match c.res with | .ok ks _ => ks | _ => []).flatten
/-- Every checked access of a routine. -/
def RoutineChecks.all (x : RoutineChecks) : List LaneCheck := (x.loads.map (·.2)).flatten ++ (x.atoms.map (·.2)).flatten ++ x.stores
/-- The registers that a commit writes or marks empty. -/
def routineDests (c : RoutineCommit) : List Dest :=
  c.loads.map (fun (l : RoutineLoad) => routineDest l.vreg l.sreg (regsOf l.size)) ++ c.atoms.map (fun (a : RoutineAtomic) => routineDest a.vreg a.sreg 1) ++
    c.sregs.map (fun (r : Nat × Word) => Dest.scal r.1 1) ++ c.lanes.map fun (l : Nat × Nat × Word × Bool) => Dest.vec l.1 1
/-- A register of a destination is empty, and what would write it waits (R49, R383). -/
def Team.destEmpty (t : Team) (d : Dest) : Bool := d.sregs.any t.sEmpty || d.vregs.any t.vEmpty
/-- A commit names registers and lanes that the team has, and sizes that accesses have. -/
def Team.commitFits (t : Team) (c : RoutineCommit) : Bool :=
  (routineDests c).all (fun d => d.sregs.all (fun r => decide (r < 256)) && d.vregs.all fun r => decide (r < t.nvregs)) &&
    c.lanes.all (fun l => decide (l.2.1 < t.lanes)) && c.loads.all fun l => [1, 2, 4, 8, 16].contains l.size && l.lanes.all fun x => decide (x.1 < t.lanes)
/-- The paths that each access of a routine counts on (R190). -/
def RoutineChecks.uses (x : RoutineChecks) : List (List Nat) := (x.loads.map fun l => pathsOf l.2) ++ (x.atoms.map fun a => pathsOf a.2) ++ [pathsOf x.stores]
/-- Accesses would together raise a counter above 1,024 (R190). -/
def Team.overCounts (t : Team) (uses : List (List Nat)) : Bool :=
  (List.range 6).any fun p => decide (Config.maxInFlight < t.inflight p + (uses.filter (·.contains p)).length)
/-- What makes the commit step of a routine wait, as the instruction would (R49, R190, R235, R252, R343): a register it writes is empty, a
counter would rise too high, the core's speculative state is full, the router is, an atomic is outstanding. -/
def State.routineWaits (s : State) (slot : Nat) (t : Team) (c : RoutineCommit) (x : RoutineChecks) : Bool :=
  (routineDests c).any t.destEmpty || t.overCounts x.uses || s.specFull t.group t.core (checkedKeys x.all) ||
    (!x.all.isEmpty && s.atomPending slot) || (t.orderRel && !(x.stores.isEmpty && x.atoms.isEmpty) && s.routerFull (s.partOf t))
/-- The failure of an earlier access that a routine's accesses raise, as the instruction's would (R198, R235). -/
def Team.routineRaises (t : Team) (x : RoutineChecks) : Option Failure :=
  match (if x.all.isEmpty then none else t.failures.find? (·.atomic)) with
  | some f => some f
  | none => if t.orderRel && !(x.stores.isEmpty && x.atoms.isEmpty) then t.storeFailed else none
/-- The routine's writes of registers, mode and statistics (R56, R100): the magnitude of a slot rises, flags are sticky, SRCNT counts draws. -/
def Team.commitRegs (t : Team) (c : RoutineCommit) : Team :=
  let t1 := c.sregs.foldl (fun (t : Team) r => t.ws r.1 r.2) t
  let t2 := c.lanes.foldl (fun (t : Team) x =>
    t.wv x.1 fun l => if l = x.2.1 then some { data := x.2.2.1, tag := x.2.2.2, dead := false } else none) t1
  let t3 := c.amax.foldl (fun (t : Team) x => t.addStat (x.1 % 16) { flags := 0, amax := x.2 }) t2
  let t4 := { t3 with fmt := { t3.fmt with flags := t3.fmt.flags ||| c.flags, srcnt := t3.fmt.srcnt + BitVec.ofNat 64 c.draws } }
  { t4 with mode := if modeOk 0x1F (c.mode.extractLsb' 0 12) = true ∧ c.mode.extractLsb' 12 4 = 0 then c.mode else t4.mode }
/-- An access of a routine is under way, as the team's own: its destination is empty, it counts on its paths (R47, R56, R190). -/
def State.startRoutineOp (s : State) (slot : Nat) (t : Team) (k : OpKind) (d : Dest) (cs : List LaneCheck) : State :=
  let s1 := (s.noteLanes t cs).addOp slot t k
  ((s1.startStore s.nextId).askPeers s.nextId).onTeam slot fun u => (u.mark true d).launchOn s.nextId (pathsOf cs)
/-- A load of a routine under way. -/
def State.startRoutineLoad (slot : Nat) (t : Team) (s : State) (x : RoutineLoad × List LaneCheck) : State :=
  let l := x.1
  let d := routineDest l.vreg l.sreg (regsOf l.size)
  let r := s.allocRecords slot (recordsOf t x.2 0 false l.spec l.size)
  r.1.startRoutineOp slot t (.load {
    dest := d, size := l.size, accs := accessesOf x.2 r.2, buf := none, spec := l.spec, keep := false, acquire := t.orderAcq
    once := l.vreg.isNone && l.sreg.isSome, detail := detailWord 0 0 false l.spec l.size }) d x.2
/-- An atomic of a routine under way. -/
def State.startRoutineAtom (slot : Nat) (t : Team) (s : State) (x : RoutineAtomic × List LaneCheck) : State :=
  let a := x.1
  let d := routineDest a.vreg a.sreg 1
  let lanes := (a.lanes.zip x.2).filterMap fun y => match y.2.res with
    | .ok (k :: _) _ => some ({ lane := y.1.1, va := y.1.2.1, key := k, b := y.1.2.2.1, c := y.1.2.2.2 } : AtomLane)
    | _ => none
  s.startRoutineOp slot t (.atom {
    fn := a.fn, dest := d, cas2 := false, lanes := lanes, acquire := t.orderAcq, release := t.orderRel
    once := a.vreg.isNone && a.sreg.isSome }) d x.2
/-- The stores of a routine under way. -/
def State.startRoutineStore (s : State) (slot : Nat) (t : Team) (ws : List (Dbl × Byte)) (cs : List LaneCheck) : State :=
  let us := unitsOf ((ws.zip cs).map fun w => { lane := 0, va := w.1.1, key := (checkedKeys [w.2]).headD 0, mask := 0xFF, val := w.1.2 })
  if us.isEmpty then s
  else s.startRoutineOp slot t (.store {
    units := us, sectors := fullSectors us, release := t.orderRel, once := true, detail := detailWord 0 0 true false 1 }) .none cs
/-- A team that a routine has returned to its scheduler; a request that waited for the handler is decided (R56, R393). -/
def State.returnTeam (s : State) (slot gid : Nat) : State := (s.resume slot none).settle gid
/-- The commit step of a routine (R56): registers, mode and statistics are written, its accesses go out as the team's own in the order loads,
atomics, stores (log entry 94), and the PC moves on or to the target. Nothing happens where it must wait, a fault where an access fails. -/
def State.commitRoutine (s : State) (slot : Nat) (t : Team) (c : RoutineCommit) : State :=
  let x := s.checkRoutine t c
  if !t.commitFits c then s
  else match t.routineRaises x with
    | some f => (s.trap slot (f.report t)).settle t.group
    | none =>
      match x.failed with
      | some (cs, write, size) => ((s.noteLanes t cs).accessFault slot t cs 0 write false size).settle t.group
      | none =>
        if s.routineWaits slot t c x then s
        else
          let s1 := (s.setTeam slot (t.commitRegs c))
          let s2 := c.lanes.foldl (fun (s : State) l => s.cacheOperand slot t l.1 false) s1
          let s3 := x.loads.foldl (State.startRoutineLoad slot t) s2
          let s4 := x.atoms.foldl (State.startRoutineAtom slot t) s3
          let s5 := s4.startRoutineStore slot t c.stores x.stores
          (s5.onTeam slot fun u => match c.target with | some a => u.goto (wordAligned a) | none => u.advance).returnTeam slot t.group
/-- A routine without success (R56): EMULATION_FAILED as poison in the active lanes of the destination registers of a speculative form, once
they are full. -/
def State.failRoutine (s : State) (slot : Nat) (t : Team) (first count : Nat) : State :=
  let d : Dest := .vec first count
  if t.destEmpty d || d.vregs.any fun r => decide (t.nvregs ≤ r) then s
  else
    let a := s.allocRecords slot (t.activeLanes.map fun l =>
      { code := codeEmulationFailed, rflags := 0, lane := l, detail := detailWord 0 15 false true 0, pc := t.pc, va := 0 : FaultRecord })
    let toks := t.activeLanes.zip a.2
    let poison (u : Team) (r : Nat) : Team :=
      u.wv r fun l => (toks.find? fun x => x.1 == l).map fun x => laneOf (.error (tokenOf codeEmulationFailed x.2))
    let s1 := d.vregs.foldl (fun (s : State) r => s.cacheOperand slot t r false) a.1
    (s1.onTeam slot fun u => (d.vregs.foldl poison u).advance).returnTeam slot t.group
/-- The end of an emulation routine (R56): its commit step; EMULATION_FAILED, as poison in the destination of a speculative form; or the fault of
the instruction. The team's traps are taken at the instruction, and a request that waited for its handler is decided (R393). -/
def State.endRoutine (s : State) (slot : Nat) (t : Team) (r : RoutineEnd) : State :=
  match r with
  | .fault code va => (s.trap slot { Report.precise code.toNat t.allLanes with vaddr := va }).settle t.group
  | .failed none => (s.trap slot (Report.precise codeEmulationFailed t.allLanes)).settle t.group
  | .failed (some d) => s.failRoutine slot t d.1 d.2
  | .commit c => s.commitRoutine slot t c
/-- CTRL_RESUME (R380): a team whose service is over goes on; a routine's team with the routine's end (R56). -/
def execCtrlResume (slot : Nat) (how : Restart) (s : State) : Host.Outcome State Fault Refusal :=
  match s.team? slot with
  | none => .next s
  | some t =>
    if !s.mayResume t then .next s
    else if t.service = some .routine then
      match how.routine with
      | some r => .next (s.endRoutine slot t r)
      | none => .next s
    else .next (s.ctrlResume slot t how.pc)

/-! ## The team-state window (R382, R383) -/

/-- A half of a doubleword replaced. -/
def setHalf (d : Dbl) (high : Bool) (v : Word) : Dbl := if high then v ++ d.extractLsb' 0 32 else d.extractLsb' 32 32 ++ v
/-- Word i of a mask replaced. -/
def putWord (m : List Word) (k i : Nat) (v : Word) : List Word := if i < k then maskSet k m i v else m
/-- A stack entry with the word at an offset replaced (R126); its PC keeps bits 1:0 zero (R34). -/
def DivEntry.setWord (e : DivEntry) (off : Nat) (v : Word) : DivEntry :=
  match off / 4 with
  | 0 => { e with pc := wordAligned (setHalf e.pc false v) }
  | 1 => { e with pc := setHalf e.pc true v }
  | 2 => { e with rpc := setHalf e.rpc false v }
  | 3 => { e with rpc := setHalf e.rpc true v }
  | 4 => { e with kind := divKindOf v.toNat }
  | n => if 8 ≤ n then { e with mask := e.mask.set (n - 8) v } else e
/-- A word of a hardware entry of the stack written, entry 0 the oldest; above the depth it is kept for when the depth rises (R382). -/
def Control.setEntry (c : Control) (i off : Nat) (v : Word) : Control :=
  if i < c.stack.length then
    { c with stack := c.stack.mapIdx fun j e => if j + i + 1 = c.stack.length then e.setWord off v else e }
  else { c with above := sput 0 c.above (40 * i + off / 4) (if off = 0 then v &&& ~~~3 else v) }
/-- Word i of a stack entry in the layout of R126. -/
def DivEntry.word (k i : Nat) (e : DivEntry) : Word := BitVec.ofNat 32 (leNat (((e.bytes k).drop (4 * i)).take 4))
/-- The entry that the words above the depth hold at entry n. -/
def Control.entryAbove (c : Control) (k n : Nat) : DivEntry :=
  (List.range (8 + k)).foldl (fun (e : DivEntry) i => e.setWord (4 * i) (sget 0 c.above (40 * n + i)))
    { kind := .join, pc := 0, mask := List.replicate k 0, rpc := 0 }
/-- A stack of n entries: the newest stay in the hardware above the depth, or what stands there becomes part of the stack (R382); a depth that
the hardware cannot hold is ignored. -/
def Control.setDepth (c : Control) (k n : Nat) : Control :=
  let spilled := min c.spilled n
  let hw := n - spilled
  let len := c.stack.length
  if Config.hardwareStack < hw then c
  else
    let gone := (c.stack.take (len - hw)).zip (List.range (len - hw))
    { c with
      spilled := spilled
      stack := ((List.range (hw - len)).map fun j => c.entryAbove k (hw - 1 - j)) ++ c.stack.drop (len - hw)
      above := gone.foldl (fun (m : Sparse Word) e => (List.range (8 + k)).foldl (fun (m : Sparse Word) i =>
        sput 0 m (40 * (len - 1 - e.2) + i) (e.1.word k i)) m) c.above }
/-- The lanes 32w to 32w + 31 of a register with a bit of each changed. -/
def laneBits (n w : Nat) (v : Word) (f : Lane → Bool → Lane) (x : Nat → Lane) : Nat → Option Lane :=
  fun l => if 32 * w ≤ l ∧ l < 32 * w + 32 ∧ l < n then some (f (x l) (v.getLsbD (l - 32 * w))) else none
/-- The 32 registers of the A latch with all their lanes: those a block leaves out are zero. -/
def fullRows (lanes : Nat) (rows : List (List Lane)) : List (List Lane) :=
  (List.range 32).map fun j => (List.range lanes).map fun l => (rows.getD j []).getD l Lane.zero
/-- The registers of the A latch, full or empty (R382). -/
def Team.latchLanes (t : Team) : List (List Lane) := fullRows t.lanes (match t.latch with | some a => a.rows | none => t.latchRows)
/-- The A latch with lanes of one of its registers changed, full or empty (R382). -/
def Team.onLatch (t : Team) (j : Nat) (f : Nat → Lane → Lane) : Team :=
  let rows := t.latchLanes.mapIdx fun i r => if i = j then r.mapIdx f else r
  match t.latch with
  | some a => { t with latch := some { a with rows := rows } }
  | none => { t with latchRows := rows }
/-- LHDR written (R287, R382): the latch full of its registers under a block and an A format, with the slot's definition where the format code
is the slot's own; or empty. -/
def Team.setLatch (t : Team) (v : Word) : Team :=
  if v.getLsbD 0 then
    let fmt : Word := (v.extractLsb' 16 16).zeroExtend 32
    let code := (v.extractLsb' 16 4).toNat
    let new := if fmt = w4Format.1 then w4Format.2 else if code = 0 then t.fdr (v.extractLsb' 20 4).toNat else 0
    let kept := match t.latch with | some a => if a.fmt = fmt then a.slotDef else new | none => new
    { t with latch := some { va := (v.extractLsb' 8 7).toNat, fmt := fmt, slotDef := kept, rows := t.latchLanes } }
  else { t with latchRows := t.latchLanes, latch := none }
/-- A register that the window would write is empty, and the write waits for it (R383). -/
def Team.windowWaits (t : Team) (off : Nat) : Bool :=
  if 0x400 ≤ off ∧ off < 0x800 then t.sEmpty ((off - 0x400) / 4)
  else if 0x4000 ≤ off ∧ off < 0xC000 then t.vEmpty ((off - 0x4000) % 0x4000 / 128)
  else if 0x80000 ≤ off then t.vEmpty ((off - 0x80000) / 4096)
  else false
/-- Values that IDENT may hold: k from 1 to 32, a register count that a team may declare (R20), a role (R382; log entry 72). -/
def identOk (v : Word) : Bool :=
  let k := (v.extractLsb' 8 8).toNat
  decide (1 ≤ k ∧ k ≤ 32 ∧ v.extractLsb' 27 5 = 0) && [32, 64, 96, 128].contains (v.extractLsb' 16 8).toNat
/-- The mode register and AKIND hold no reserved code (R38, R375). -/
def miscOk (v : Word) : Bool :=
  decide (v.extractLsb' 12 4 = 0 ∧ v.extractLsb' 16 2 ≠ 3) && modeOk 0x1F (v.extractLsb' 0 12)
/-- A word written at an offset of the window, CTRL apart; none where the write is ignored and counted (R383), also where the word would put
a reserved code into MISC or IDENT (R38; log entry 72). PC and the addresses that a loop and the stack put there keep bits 1:0 zero (R34), and
CAUSE bits 31:10 (R7, R379). -/
def Team.windowWord (t : Team) (off : Nat) (v : Word) : Option Team :=
  let hi := decide (off / 4 % 2 = 1)
  let c := t.ctl
  let f := t.fmt
  let r := t.report
  if off = 0x04 then some { t with report := { r with cause := v &&& 0x3FF } }
  else if off / 8 = 1 then some { t with
    pc := wordAligned (setHalf t.pc hi v), service := if t.service = some .host ∨ t.service = some .bound then some .ready else t.service }
  else if off / 8 = 2 then some { t with report := { r with vaddr := setHalf r.vaddr hi v } }
  else if off / 8 = 3 then some { t with report := { r with recpc := setHalf r.recpc hi v } }
  else if off = 0x20 then some { t with report := { r with token := v } }
  else if off = 0x24 then some { t with report := { r with tcode := v } }
  else if off = 0x28 then
    if identOk v then some { t with
      tidx := (v.extractLsb' 0 8).toNat, beats := (v.extractLsb' 8 8).toNat, nvregs := (v.extractLsb' 16 8).toNat
      role := (v.extractLsb' 24 2).toNat } else none
  else if off = 0x2C then
    if !miscOk v then none
    else some { t with mode := v.extractLsb' 0 16, akind := v.extractLsb' 16 2, pmcount := (v.extractLsb' 24 8).toNat }
  else if off / 8 = 6 then some { t with ctl := { c with rpc := setHalf c.rpc hi v } }
  else if off = 0x38 then some { t with ctl := { c with loop := { c.loop with lc := v } } }
  else if off = 0x3C then some { t with ctl := { c with loop := { c.loop with active := decide (v ≠ 0) } } }
  else if off / 8 = 8 then some { t with ctl := { c with loop := { c.loop with start := wordAligned (setHalf c.loop.start hi v) } } }
  else if off / 8 = 9 then some { t with ctl := { c with loop := { c.loop with last := setHalf c.loop.last hi v } } }
  else if off = 0x50 then some { t with mxm := v.extractLsb' 0 16 }
  else if off = 0x54 then some { t with ctl := c.setDepth t.beats v.toNat }
  else if off = 0x64 then some { t with fmt := { f with flags := v.extractLsb' 0 4 } }
  else if off / 8 = 13 then some { t with fmt := { f with seed := setHalf f.seed hi v } }
  else if off / 8 = 14 then some { t with fmt := { f with srcnt := setHalf f.srcnt hi v } }
  else if off = 0x78 then some { t with frcur := v.toNat }
  else if 0x80 ≤ off ∧ off < 0xC0 then some { t with fmt := { f with amax := sput 0 f.amax ((off - 0x80) / 4) v } }
  else if 0xC0 ≤ off ∧ off < 0x140 then
    let n := (off - 0xC0) / 8
    let d := setHalf (t.fdr n) hi v
    if fmtValid d then some { t with fmt := { f with fdr := sput (builtin 0) f.fdr n d } } else none
  else if 0x180 ≤ off ∧ off < 0x200 then some { t with report := { r with flw := putWord r.flw t.beats ((off - 0x180) / 4) v } }
  else if 0x200 ≤ off ∧ off < 0x280 then some { t with ctl := { c with live := putWord c.live t.beats ((off - 0x200) / 4) v } }
  else if 0x280 ≤ off ∧ off < 0x300 then some { t with ctl := { c with cpois := putWord c.cpois t.beats ((off - 0x280) / 4) v } }
  else if 0x300 ≤ off ∧ off < 0x380 then some { t with ctl := { c with ctok := putWord c.ctok t.beats ((off - 0x300) / 4) v } }
  else if 0x400 ≤ off ∧ off < 0x800 then some (t.ws ((off - 0x400) / 4) v)
  else if 0x800 ≤ off ∧ off < 0x1200 then
    some { t with ctl := c.setEntry ((off - 0x800) / 160) ((off - 0x800) % 160) v }
  else if 0x4000 ≤ off ∧ off < 0xC000 then
    let dead := decide (0x8000 ≤ off)
    let o := (off - 0x4000) % 0x4000
    let n := o / 128
    if n < t.nvregs then
      some (t.wv n (laneBits t.lanes (o % 128 / 4) v (fun x b => if dead then { x with dead := b } else { x with tag := b }) (t.lane n)))
    else some t
  else if 0xC000 ≤ off ∧ off < 0xD000 then
    let w := (off - 0xC000) % 128 / 4
    some (t.onLatch ((off - 0xC000) / 128) fun l x => if l / 32 = w then { x with tag := v.getLsbD (l % 32) } else x)
  else if off = 0xD000 then some (t.setLatch v)
  else if 0x20000 ≤ off ∧ off < 0x40000 then
    let i := (off - 0x20000) / 4
    some (t.onLatch (i / 1024) fun l x => if l = i % 1024 then { x with data := v } else x)
  else if 0x80000 ≤ off ∧ off < 0x100000 then
    let i := (off - 0x80000) / 4
    if i / 1024 < t.nvregs ∧ i % 1024 < t.lanes then
      some (t.wv (i / 1024) (fun l => if l = i % 1024 then some { t.lane (i / 1024) l with data := v } else none))
    else some t
  else some t
/-- STATE of CTRL (R382). -/
def TeamStatus.code : TeamStatus → Nat
  | .running => 0
  | .trapped => 1
  | .inHandler => 2
  | .awaiting => 3
  | .parked => 4
  | .exited => 0
/-- A word of which bit i is p i. -/
def bitsWord (p : Nat → Bool) : Word := word (((List.range 32).map fun i => if p i then 2 ^ i else 0).sum)
/-- A half of a doubleword. -/
def halfOf (d : Dbl) (high : Bool) : Word := if high then d.extractLsb' 32 32 else d.extractLsb' 0 32
/-- The word of the team-state window at an offset (R382, R383): what the team holds, every result that has landed included; `idem` says that
its group is idempotent. A reserved offset, a lane at or above 32 k and a register at or above the declared count read zero. -/
def Team.windowRead (t : Team) (idem : Bool) (off : Nat) : Word :=
  let hi := decide (off / 4 % 2 = 1)
  let c := t.ctl
  let f := t.fmt
  let r := t.report
  let lanes (n w : Nat) (p : Lane → Bool) : Word :=
    if n < t.nvregs then bitsWord fun i => decide (32 * w + i < t.lanes) && p (t.lane n (32 * w + i)) else 0
  let latched (i l : Nat) : Lane := (t.latchLanes.getD i []).getD l Lane.zero
  if off = 0 then word t.status.code
  else if off = 0x04 then r.cause
  else if off / 8 = 1 then halfOf t.pc hi
  else if off / 8 = 2 then halfOf r.vaddr hi
  else if off / 8 = 3 then halfOf r.recpc hi
  else if off = 0x20 then r.token
  else if off = 0x24 then r.tcode
  else if off = 0x28 then word (t.tidx + t.beats * 2 ^ 8 + t.nvregs * 2 ^ 16 + t.role * 2 ^ 24 + (if idem then 2 ^ 26 else 0))
  else if off = 0x2C then word (t.mode.toNat + t.akind.toNat * 2 ^ 16 + t.pmcount * 2 ^ 24)
  else if off / 8 = 6 then halfOf c.rpc hi
  else if off = 0x38 then c.loop.lc
  else if off = 0x3C then (if c.loop.active then 1 else 0)
  else if off / 8 = 8 then halfOf c.loop.start hi
  else if off / 8 = 9 then halfOf c.loop.last hi
  else if off = 0x50 then t.mxm.zeroExtend 32
  else if off = 0x54 then word t.depth
  else if 0x58 ≤ off ∧ off < 0x64 then
    let i := (off - 0x58) / 2
    word (t.inflight i + t.inflight (i + 1) * 2 ^ 16)
  else if off = 0x64 then f.flags.zeroExtend 32
  else if off / 8 = 13 then halfOf f.seed hi
  else if off / 8 = 14 then halfOf f.srcnt hi
  else if off = 0x78 then word t.frcur
  else if 0x80 ≤ off ∧ off < 0xC0 then sget 0 f.amax ((off - 0x80) / 4)
  else if 0xC0 ≤ off ∧ off < 0x140 then halfOf (t.fdr ((off - 0xC0) / 8)) hi
  else if 0x180 ≤ off ∧ off < 0x200 then maskWord r.flw ((off - 0x180) / 4)
  else if 0x200 ≤ off ∧ off < 0x280 then maskWord c.live ((off - 0x200) / 4)
  else if 0x280 ≤ off ∧ off < 0x300 then maskWord c.cpois ((off - 0x280) / 4)
  else if 0x300 ≤ off ∧ off < 0x380 then maskWord c.ctok ((off - 0x300) / 4)
  else if 0x380 ≤ off ∧ off < 0x3A0 then bitsWord fun i => !t.sEmpty (8 * (off - 0x380) + i)
  else if 0x3A0 ≤ off ∧ off < 0x3B0 then
    bitsWord fun i => decide (8 * (off - 0x3A0) + i < t.nvregs) && !t.vEmpty (8 * (off - 0x3A0) + i)
  else if 0x400 ≤ off ∧ off < 0x800 then t.rs ((off - 0x400) / 4)
  else if 0x800 ≤ off ∧ off < 0x1200 then
    match c.stack.reverse[(off - 0x800) / 160]? with
    | some e => e.word t.beats ((off - 0x800) % 160 / 4)
    | none => sget 0 c.above ((off - 0x800) / 4)
  else if 0x4000 ≤ off ∧ off < 0x8000 then lanes ((off - 0x4000) / 128) ((off - 0x4000) % 128 / 4) (·.tag)
  else if 0x8000 ≤ off ∧ off < 0xC000 then lanes ((off - 0x8000) / 128) ((off - 0x8000) % 128 / 4) (·.dead)
  else if 0xC000 ≤ off ∧ off < 0xD000 then
    bitsWord fun i => (latched ((off - 0xC000) / 128) (32 * ((off - 0xC000) % 128 / 4) + i)).tag
  else if off = 0xD000 then
    match t.latch with
    | some a => word (1 + a.va * 2 ^ 8 + a.fmt.toNat % 2 ^ 16 * 2 ^ 16)
    | none => 0
  else if 0x20000 ≤ off ∧ off < 0x40000 then (latched ((off - 0x20000) / 4 / 1024) ((off - 0x20000) / 4 % 1024)).data
  else if 0x80000 ≤ off ∧ off < 0x100000 then
    let i := (off - 0x80000) / 4
    if i / 1024 < t.nvregs ∧ i % 1024 < t.lanes then (t.lane (i / 1024) (i % 1024)).data else 0
  else 0

/-- The slot and the offset that an address of a die's management address space names: TSW + 1 MiB (64 local core + slot) (R382). -/
def State.windowAt (s : State) (die addr : Nat) : Option (Nat × Nat) :=
  let base := (s.die die).tsw.toNat
  let n := (addr - base) / 2 ^ 20
  if addr < base ∨ 4096 ≤ n then none else some (4096 * die + n, (addr - base) % 2 ^ 20)
/-- The word that Beloft reads at an address of a die's management address space, where a team's window lies there (R382, R383). -/
def State.windowRead (s : State) (die addr : Nat) : Option Word :=
  (s.windowAt die addr).bind fun w => (s.team? w.1).map fun t =>
    t.windowRead (match s.group? t.group with | some g => g.idem | none => false) (w.2 / 4 * 4)

/-- A write of the window of a slot (R383): a word, or a doubleword low word first; CTRL's command bits are RESUME, KILL and DETACH. -/
def State.windowWrite (s : State) (slot off : Nat) (wide : Bool) (value : Dbl) (t : Team) : Host.Outcome State Fault Refusal :=
  let lo := value.extractLsb' 0 32
  let hi := value.extractLsb' 32 32
  let ignored := s.onDie (dieOf t.core) fun d => { d with tswIgn := d.tswIgn + 1 }
  if t.status = .running ∨ t.status = .exited then .next ignored
  else if off = 0 then
    let s1 := if wide then (match t.windowWord 4 hi with | some u => s.setTeam slot u | none => s) else s
    if lo.getLsbD 8 then execCtrlResume slot ⟨none, none⟩ s1
    else if lo.getLsbD 9 then execCtrlKill slot s1
    else if lo.getLsbD 10 then execCtrlDetach slot s1
    else .next s1
  else if t.windowWaits off || (wide && t.windowWaits (off + 4)) then .next s
  else
    let fdr := decide (0xC0 ≤ off ∧ off < 0x140)
    let r : Option Team :=
      if wide then
        if fdr ∧ off % 8 = 0 then
          if fmtValid value then some { t with fmt := { t.fmt with fdr := sput (builtin 0) t.fmt.fdr ((off - 0xC0) / 8) value } } else none
        else (t.windowWord off lo).bind fun u => u.windowWord (off + 4) hi
      else t.windowWord off lo
    match r with
    | none => .next ignored
    | some u =>
      let reg := if 0x80000 ≤ off then (off - 0x80000) / 4096 else (off - 0x4000) % 0x4000 / 128
      let s1 := s.setTeam slot u
      let s2 := if 0x80000 ≤ off ∨ (0x4000 ≤ off ∧ off < 0xC000) then s1.cacheOperand slot u reg false else s1
      let s3 := if off = 0x28 then s2.onGroup t.group fun g => { g with idem := lo.getLsbD 26 } else s2
      .next (if off = 0x28 ∨ off = 0x2C then s3.settle t.group else s3)
/-- TEAM_STATE_WINDOW_WRITE (R382, R383): by the die's management core, at an address of its address space. -/
def execTeamStateWindowWrite (die addr : Nat) (wide : Bool) (value : Dbl) (s : State) : Host.Outcome State Fault Refusal :=
  match s.windowAt die addr with
  | none => .next s
  | some w =>
    match s.team? w.1 with
    | none => .next s
    | some t => if s.coreUp die then s.windowWrite w.1 (w.2 / 4 * 4) wide value t else .next s

/-! ## Page service (R388) -/

/-- A detached team waits for a page. -/
def Team.awaitsPage (t : Team) (va : Nat) : Bool :=
  t.status == .awaiting && (match t.service with | some (.page p) => p.toNat == pageOf va | _ => false)
/-- A team waits for a page, detached or still in its handler. -/
def Team.wantsPage (t : Team) (va : Nat) : Bool :=
  (t.status == .awaiting || t.status == .inHandler) && (match t.service with | some (.page p) => p.toNat == pageOf va | _ => false)
/-- A page's service is over on its die, and the engine commands that joined it are told (R388). -/
def State.pageOver (s : State) (v : ServiceName) (va : Nat) (refused : Bool) : State :=
  let s1 := s.onDie v.die fun d => { d with services := d.services.filter fun x => x != (v.part, pageOf va) }
  { s1 with ops := s1.ops.map fun (o : Op) => if o.part = v.part ∧ dieOf o.core = v.die then
      (match o.kind with | .command c => { o with kind := .command (c.pageAnswer va refused) } | _ => o) else o }
/-- A page is in service on a die whose management core runs (R388, R406). -/
def State.serving (s : State) (v : ServiceName) (va : Nat) : Bool := s.coreUp v.die && (s.die v.die).services.contains (v.part, pageOf va)
/-- A team of a partition on a die. -/
def State.servedBy (s : State) (v : ServiceName) (t : Team) : Bool := decide (s.partOf t = v.part ∧ dieOf t.core = v.die)
/-- The slots of a partition's teams of a die that wait for a page. -/
def State.pageWaiters (s : State) (v : ServiceName) (va : Nat) : List Nat :=
  s.teams.filterMap fun e => match e.2 with
    | some t => if s.servedBy v t && t.awaitsPage va then some e.1 else none
    | none => none
/-- The groups whose teams of a die wait for a page, detached or still in their handlers. -/
def State.pageGroups (s : State) (v : ServiceName) (va : Nat) : List Nat :=
  (s.teams.filterMap fun (e : Nat × Option Team) => match e.2 with
    | some t => if s.servedBy v t && t.wantsPage va then some t.group else none
    | none => none).eraseDups
/-- The leaf that ends a service is registered where the walk ended, which Beloft's writes reach as the walker's reads do (R31, R388, R406). -/
def State.registerLeaf (s : State) (part va : Nat) (leaf : Dbl) : State :=
  let entry := walkEnd s.mem va 4 (s.rootOf part)
  if (s.entryFault part entry).isSome then s else s.homeWrite entry (leBytes 8 leaf.toNat)
/-- PAGE_SERVICE_COMPLETE (R388): the leaf is registered; every detached team of the die is resumed at its PC, one that is swapped out once it
is restored; a handler that has not ended yet finds the page there. -/
def execPageServiceComplete (service : ServiceName) (va leaf : Dbl) (s : State) : Host.Outcome State Fault Refusal :=
  let v := service
  if !s.serving v va.toNat then .next s
  else
    let s1 := s.registerLeaf v.part va.toNat leaf
    let s2 := s1.pageOver v va.toNat false
    let s3 := (s2.pageWaiters v va.toNat).foldl (fun s slot => s.resume slot none) s2
    let s4 := { s3 with teams := s3.teams.map fun (e : Nat × Option Team) => (e.1, e.2.map fun (t : Team) =>
      if s3.servedBy v t && t.wantsPage va.toNat then { t with service := some .ready } else t) }
    .next (s4.onPart v.part fun p => { p with swap := p.swap.map fun w =>
      { w with teams := w.teams.map fun (e : Nat × Option Team) => (e.1, e.2.map fun (t : Team) =>
          if dieOf t.core = v.die ∧ t.awaitsPage va.toNat = true then { t with status := .running, service := none } else t) } })
/-- A group that is saved with its swapped-out partition is killed (R388, R397): its state is dropped where it is kept; its scratchpad and its
tiles stay while engine commands of it run (R274). -/
def State.killSaved (s : State) (part gid : Nat) : State :=
  match (s.part part).swap with
  | none => s
  | some w =>
    match sget none w.groups gid with
    | none => s
    | some g =>
      let slots := w.teams.filterMap fun (e : Nat × Option Team) => match e.2 with
        | some t => if t.group = gid then some e.1 else none
        | none => none
      let w1 := { w with
        teams := slots.foldl sdel w.teams
        groups := sput none w.groups gid (some g.dropped)
        traps := w.traps.map fun x => (x.1, x.2.filter fun y => !slots.contains y) }
      let s1 := ((s.dropCommands gid).onPart part fun p => { p with swap := some w1, kills := p.kills + 1 }).onLaunch g.launch fun l =>
        { l with resident := l.resident.filter (· != gid), ended := l.ended + 1, killed := l.killed + 1 }
      let s2 := (s1.withdraw gid).leave part gid
      ((s2.tell (.killed part gid)).childEnded g.launch g.child true).checkLaunch g.launch
/-- PAGE_SERVICE_REFUSAL (R381, R388): reported; the groups of the die's waiting teams are killed, resident or swapped out, detached or in handler;
engine commands fail NOT_PRESENT. -/
def execPageServiceRefusal (service : ServiceName) (va : Dbl) (s : State) : Host.Outcome State Fault Refusal :=
  let v := service
  if !s.serving v va.toNat then .next s
  else
    let gids := s.pageGroups v va.toNat
    let saved := match (s.part v.part).swap with
      | some w => (w.teams.filterMap fun (e : Nat × Option Team) => match e.2 with
          | some t => if dieOf t.core = v.die ∧ t.awaitsPage va.toNat = true then some t.group else none
          | none => none).eraseDups
      | none => []
    let s1 := (s.pageOver v va.toNat true).tell (.pageRefused v.part va)
    .next (saved.foldl (fun s g => s.killSaved v.part g) (gids.foldl State.killGroup s1))

/-! ## Pre-emption requests (R367, R391 to R393) -/

/-- A request reaches a group's core: one that is pending takes it in. -/
def State.preempt (s : State) (gid : Nat) (src : PreSource) : State :=
  match s.group? gid with
  | none => s
  | some g =>
    if g.request.isSome || g.leaving then s
    else (s.setGroup gid { g with request := some { src := src, maskDog := false, handlerDog := false } }).settle gid
/-- The machine with the groups of a core that are in a list gone, as far as placement asks. -/
def State.without (s : State) (core : Nat) (gids : List Nat) : State :=
  let tiles := ((s.groupsOn core).filter fun g => gids.contains g.1).flatMap fun g => g.2.tileMap.map fun e => e.2 - 1
  let s1 := { s with
    groups := s.groups.filter fun e => !gids.contains e.1
    teams := s.teams.filter fun e => match e.2 with | some t => !gids.contains t.group | none => true }
  s1.onCore core fun c => { c with tileUsed := tiles.foldl (fun u t => sput false u t false) c.tileUsed }
/-- The first sublists of n entries, in the order of the list, that satisfies a test. -/
def firstOf (ok : List Nat → Bool) : Nat → List Nat → List Nat → Option (List Nat)
  | 0, _, acc => if ok acc then some acc else none
  | _ + 1, [], _ => none
  | n + 1, x :: xs, acc => match firstOf ok n xs (acc ++ [x]) with
    | some r => some r
    | none => firstOf ok (n + 1) xs acc
/-- The groups chosen for a waiting group that are still on their core. -/
def State.victimsOf (s : State) (w : Waiting) : List Nat :=
  w.victims.filter fun v => match s.group? v with | some g => !g.leaving | none => false
/-- The fewest groups of a core, of those that may be named, whose leaving lets a waiting group fit there: in ascending priority and, within
equal priority, the most recently placed first (R367). Groups that another request names count as if they stayed. -/
def State.victimChoice (s : State) (core : Nat) (named : List Nat) (l : Launch) (w : Waiting) : Option (List Nat) :=
  let may := (s.groupsOn core).filter fun x => decide (x.2.qprio < 7) && x.2.request.isNone && !x.2.leaving && !named.contains x.1
  let cands := (sortWhere (fun (a b : Nat × Group) =>
    decide (a.2.qprio < b.2.qprio ∨ (a.2.qprio = b.2.qprio ∧ b.2.placedAt < a.2.placedAt))) may).map (·.1)
  (List.range (cands.length + 1)).findSome? fun n => firstOf (fun gs => (s.without core gs).fits l w core) n cands []
/-- The distributor may ask for a group's pre-emption (R367): a choice for an unplaced group of a priority-7 launch names it, or such a choice
is made now, once for that group, on the core on which the group runs. -/
def State.distributorChoice (s : State) (gid : Nat) : Option State :=
  match s.group? gid with
  | none => none
  | some g =>
    let waiting := (s.waitingGroups g.part).filter fun x => x.2.1.qprio == 7 && s.mayPlace x.1 x.2.1
    if g.leaving || g.request.isSome then none
    else if waiting.any fun x => (s.victimsOf x.2.2.2).contains gid then some s
    else waiting.findSome? fun x =>
      if !(s.victimsOf x.2.2.2).isEmpty || s.placeable x.1 x.2.1 x.2.2.2 then none
      else match s.victimChoice g.core (waiting.flatMap fun y => s.victimsOf y.2.2.2) x.2.1 x.2.2.2 with
        | some gs =>
          if gs.contains gid then some (s.onLaunch x.1 fun l => { l with waiting := l.waiting.modify x.2.2.1 fun w => { w with victims := gs } })
          else none
        | none => none
/-- PREEMPTION_REQUEST (R391, R393). -/
def execPreemptionRequest (gid : Nat) (src : PreSource) (s : State) : Host.Outcome State Fault Refusal :=
  if src = .distributor then .next (match s.distributorChoice gid with | some s1 => s1.preempt gid src | none => s)
  else .next (s.preempt gid src)
/-- HOST_PREEMPTION_REQUEST (R391). -/
def execHostPreemptionRequest (gid : Nat) (s : State) : Host.Outcome State Fault Refusal := .next (s.preempt gid .host)

/-! ## Partition swaps (R394 to R396) -/

/-- The groups of a partition. -/
def State.groupsIn (s : State) (part : Nat) : List (Nat × Group) :=
  s.groups.filterMap fun e => match e.2 with | some g => if g.part = part then some (e.1, g) else none | none => none
/-- The teams of a partition. -/
def State.teamsIn (s : State) (part : Nat) : List (Nat × Team) :=
  s.teams.filterMap fun e => match e.2 with | some t => if s.partOf t = part then some (e.1, t) else none | none => none
/-- An operation of a partition lands before its state is saved (R181, R216, R303, R395). -/
def Op.lands (o : Op) : Bool :=
  !o.orphan && match o.kind with
    | .sfu _ | .load _ | .touch _ _ _ _ => true
    | .store st => !o.handed && !st.allSent
    | .atom _ => !o.handed
    | .signal _ => !o.handed
    | .ask _ => false
    | .command c => c.cmd.matrix && (decide (c.need = 0) || c.permit.isSome)
/-- Shadow storage is enabled on every die of a partition (R185, R394). -/
def State.shadowed (s : State) (part : Nat) : Bool :=
  (List.range 4).all fun d => (s.die d).shadow || (List.range 16).all fun c => !(s.part part).columns.getLsbD (16 * d + c)
/-- Speculative groups are discarded, unregistered stores registered (R395). -/
def State.prepareSwap (s : State) (part : Nat) : State :=
  let s1 := if (s.part part).det then ((s.groupsIn part).filter fun g => s.speculative g.1).foldl (fun s g => s.discard g.1 g.2.reruns) s else s
  s1.registerWhere (fun o => o.part == part && !o.orphan) fun u => !u.peer
/-- The cores of a partition's columns at their reset contents, but for what no partition holds: their clocks and whether they may be used
(R395, R396). -/
def State.clearCores (s : State) (part : Nat) : State :=
  let cs := s.cores.map fun (c : Nat × CoreState) =>
    if (s.part part).columns.getLsbD (columnOf c.1) then (c.1, { CoreState.reset with cycles := c.2.cycles, unavailable := c.2.unavailable }) else c
  { s with cores := cs.filter fun (c : Nat × CoreState) => decide (c.2 ≠ CoreState.reset) }
/-- A partition is swapped out: its state is saved and its cores are empty; the request for a group that led to it is withdrawn
(R395, R396, R401). -/
def State.swapOut (s : State) (part gid : Nat) (src : PreSource) : State :=
  let teams := s.teamsIn part
  let groups := s.groupsIn part
  let mine (c : Nat) : Bool := (s.part part).columns.getLsbD (columnOf c)
  let saved : Sparse (Option Team) := teams.foldl (fun q e => sput none q e.1 (some
    (if e.2.status = .inHandler then
      { e.2 with status := .trapped, service := match e.2.service with | some (.unlock ids) => some (.unlock ids) | _ => none }
    else e.2))) []
  let traps := (List.range 4).map fun d =>
    (d, (teams.filter fun e => dieOf e.2.core == d && e.2.status == .inHandler).map (·.1) ++
      ((s.die d).trapQueue.filter fun x => teams.any fun e => e.1 == x))
  let w : Swap :=
    { src := src
      allowed := s.launches.filterMap fun e => match e.2 with
        | some l => if l.part = part ∧ l.qprio = 7 ∧ l.complete = false ∧ l.waiting ≠ [] then some e.1 else none
        | none => none
      teams := saved
      groups := groups.foldl (fun q e => sput none q e.1 (some (if e.1 = gid then { e.2 with request := none } else e.2))) []
      cores := s.cores.filter fun c => mine c.1
      traps := traps, due := [], asked := false }
  let s1 := { s with
    teams := teams.foldl (fun q (e : Nat × Team) => sput none q e.1 none) s.teams
    groups := groups.foldl (fun q (e : Nat × Group) => sput none q e.1 none) s.groups }
  let s2 := s1.clearCores part
  let s3 := (List.range 4).foldl (fun s d => s.onDie d fun x =>
    { x with trapQueue := x.trapQueue.filter (fun y => !(teams.any fun e => e.1 == y)),
             aboveHeld := x.aboveHeld - ((teams.filter fun e => dieOf e.2.core == d).map (·.2.power)).sum }) s2
  s3.onPart part fun p => { p with swap := some w }
/-- A watchdog of a group's request expires (R394): the partition is swapped out once what is outstanding has landed; without shadow
storage the expiry is reported and the request goes on waiting. -/
def State.expire (s : State) (gid : Nat) (running : PreRequest → Bool) (stop : PreRequest → PreRequest) : State :=
  match s.group? gid with
  | none => s
  | some g =>
    match g.request with
    | none => s
    | some r =>
      if !running r || s.allEnded gid then s
      else if !s.shadowed g.part then (s.tell (.watchdog gid)).setGroup gid { g with request := some (stop r) }
      else
        let s1 := s.prepareSwap g.part
        if s1.ops.any (fun o => o.part == g.part && o.lands) then s else s1.swapOut g.part gid r.src
/-- MASK_WATCHDOG_EXPIRY (R394). -/
def execMaskWatchdogExpiry (gid : Nat) (s : State) : Host.Outcome State Fault Refusal :=
  .next (s.expire gid (·.maskDog) fun r => { r with maskDog := false, maskPast := true })
/-- HANDLER_WATCHDOG_EXPIRY (R394). -/
def execHandlerWatchdogExpiry (gid : Nat) (s : State) : Host.Outcome State Fault Refusal :=
  .next (s.expire gid (·.handlerDog) fun r => { r with handlerDog := false, handlerPast := true })
/-- RESTORE_WRITE (R396): by the party whose request led to the swap. -/
def execRestoreWrite (part : Nat) (src : PreSource) (s : State) : Host.Outcome State Fault Refusal :=
  .next (s.onPart part fun p => { p with swap := p.swap.map fun w => if src = w.src ∧ src ≠ .distributor then { w with asked := true } else w })
/-- The reservations of restored teams are requested again, in the order given and ahead of other requests (R401). -/
def State.askAgain (s : State) (part : Nat) (held : List (Nat × Team)) : State :=
  let asks : List Op := (held.zip (List.range held.length)).map fun x =>
    { id := s.nextId + x.2, slot := x.1.1, gid := x.1.2.group, part := part, core := x.1.2.core, pc := x.1.2.pc, snapshot := [], handed := false,
      sent := [], orphan := false, kind := .ask (.power 0 x.1.2.power) }
  held.foldl (fun (s : State) e => s.setTeam e.1 { e.2 with power := 0 }) { s with nextId := s.nextId + held.length, ops := asks ++ s.ops }
/-- PARTITION_RESTORE (R396): once the launches that ran meanwhile have ended, or a restore was written. -/
def execPartitionRestore (part : Nat) (s : State) : Host.Outcome State Fault Refusal :=
  match (s.part part).swap with
  | none => .next s
  | some w =>
    let finished := w.allowed.all fun lid => match s.launch? lid with | some l => l.complete | none => true
    if !(s.groupsIn part).isEmpty || !(if w.src = .distributor then finished else w.asked) then .next s
    else
      -- what ran meanwhile leaves nothing in the columns' cores; the caches and the operand caches come back empty (R46, R395)
      let s1 := w.cores.foldl (fun (s : State) c => s.onCore c.1 fun x =>
        { c.2 with copies := [], recCache := [], owned := [], opcache := [], cycles := x.cycles, unavailable := x.unavailable }) (s.clearCores part)
      let s2 := { s1 with
        groups := w.groups.foldl (fun q (e : Nat × Option Group) => sput none q e.1 e.2) s1.groups
        teams := w.teams.foldl (fun q (e : Nat × Option Team) => sput none q e.1 e.2) s1.teams }
      let s3 := w.traps.foldl (fun (s : State) x => s.onDie x.1 fun d => { d with trapQueue := d.trapQueue ++ x.2 }) s2
      let s4 := s3.onPart part fun p => { p with swap := none }
      -- the reservations in the order in which they were granted, the oldest at the front
      let held := w.teams.filterMap fun e => e.2.bind fun t => if t.power = 0 then none else some (e.1, t)
      let s5 := s4.askAgain part (sortWhere (fun (a b : Nat × Team) => decide (a.2.powerAt < b.2.powerAt)) held)
      -- statuses that fell due meanwhile (R377)
      let s6 := w.due.foldl (fun (s : State) d => s.cpWrite part d.1.toNat (leBytes 4 d.2.toNat)) s5
      .next (w.groups.foldl (fun s e => s.settle e.1) s6)

/-! ## Errors (R193, R397) -/

/-- A group that holds failing bits is killed, or re-queued where it is idempotent, up to three times. -/
def State.groupError (s : State) (gid : Nat) : State :=
  match s.group? gid with
  | none => s
  | some g => if g.idem ∧ g.reruns < 3 then s.discard gid (g.reruns + 1) else s.killGroup gid
/-- CORE_UNCORRECTABLE_ERROR (R397). -/
def execCoreUncorrectableError (err : CoreError) (s : State) : Host.Outcome State Fault Refusal :=
  match err with
  | .team slot => match s.team? slot with
    | some t => .next (s.groupError t.group)
    | none => .next s
  | .group gid => .next (s.groupError gid)
  | .unheld core => .next (s.onDie (dieOf core) fun d => { d with uecc := d.uecc + 1 })
/-- MEMORY_UNCORRECTABLE_ERROR (R193): the 32-byte sector of device memory, of host memory or of a vault is marked. -/
def execMemoryUncorrectableError (key : Nat) (s : State) : Host.Outcome State Fault Refusal :=
  if keyPath key = 1 ∨ keyPath key = 2 ∨ keyPath key = 3 then
    .next ({ s with marks := sput false s.marks (key / 32) true }.onDie 0 fun d => { d with uecc := d.uecc + 1 })
  else .next s

end Sys2Proof.Machine
end

