-- ==== Sys2Proof/Machine/Management.lean ====
section
/-! DEFINITION. The management interface (R409): partitions and their limits (R185, R370), queues (R365), page tables and TLBs (R386,
R387), boot and attestation (R404 to R407), host accesses (R403), the status page (R410), loading of code objects (R68 to R74). -/

namespace Sys2Proof.Machine

/-- The state with the board changed. -/
def State.onBoard (s : State) (f : Board → Board) : State := { s with board := f s.board }
/-- A write of a group of the interface is refused: the error register records the group, 0 Boot to 7 Management (R409). -/
def State.refuse (s : State) (group : Nat) : State := s.onBoard fun b => { b with mgmtError := some group }
/-- A partition has groups on its cores, or saved. -/
def State.inUse (s : State) (part : Nat) : Bool := !(s.groupsIn part).isEmpty || (s.part part).swap.isSome

/-! ## Partitions (R31, R185, R370) -/

/-- The limit of D on a vault's die (R185). -/
def State.splitLimit (s : State) (vault : Nat) : Nat := if (s.die (vault / 16)).shadow then 6 else 8
/-- Every partition that has columns has a vault whose cache part is not empty (R185). -/
def State.cachesLeft (s : State) : Bool :=
  (List.range 8).all fun p => (s.part p).columns == 0 ||
    (List.range Config.vaults).any fun v => (s.part p).columns.getLsbD v && decide (sget 0 s.vaultSplit v < s.splitLimit v)
/-- A setting is made where the partition is idle and every partition keeps a cache part; else it is refused (R185, R370). -/
def State.setting (s : State) (ok : Bool) (next : State) : Host.Outcome State Fault Refusal :=
  .next (if ok && next.cachesLeft then next else s.refuse 2)
/-- The partition of a column. -/
def State.ownerOf (s : State) (column : Nat) : Option Nat := (List.range 8).find? fun p => (s.part p).columns.getLsbD column
/-- SET_VAULT_SPLIT (R185). -/
def execSetVaultSplit (vault d : Nat) (s : State) : Host.Outcome State Fault Refusal :=
  let busy := match s.ownerOf vault with | some p => s.inUse p | none => false
  s.setting (decide (vault < Config.vaults ∧ d ≤ s.splitLimit vault) && !busy) { s with vaultSplit := sput 0 s.vaultSplit vault d }
/-- SET_SHADOW_STORAGE (R185). -/
def execSetShadowStorage (die : Nat) (enable : Bool) (s : State) : Host.Outcome State Fault Refusal :=
  let fits := (List.range 16).all fun c => decide (sget 0 s.vaultSplit (16 * die + c) ≤ 6)
  s.setting (decide (die < 4) && (!enable || fits)) (s.onDie die fun d => { d with shadow := enable })
/-- SET_PARTITION_COLUMNS (R370, R406): ready columns that no other partition has, while no group of the partition is resident. -/
def execSetPartitionColumns (part : Nat) (columns : Dbl) (s : State) : Host.Outcome State Fault Refusal :=
  let free := (List.range 64).all fun c => !columns.getLsbD c || (s.functionUp (64 + c) && (match s.ownerOf c with | some p => p == part | none => true))
  s.setting (decide (part < 8) && free && !s.inUse part) (s.onPart part fun p => { p with columns := columns })
/-- SET_HBM_SHARE (R31, R370): a range of HBM that the journal's capacity leaves and no other partition has (R325; log entry 74). -/
def execSetHbmShare (part : Nat) (range : HbmRange) (s : State) : Host.Outcome State Fault Refusal :=
  s.setting (decide (part < 8 ∧ range.base + range.size ≤ Config.hbmBytes - s.journal.capacity * 2 ^ 20) && !s.inUse part && !s.hbmTaken part range.base range.size)
    (s.onPart part fun p => { p with hbmBase := range.base, hbmShare := range.size })
/-- SET_DETERMINISTIC_MODE (R31, R370). -/
def execSetDeterministicMode (part : Nat) (enable : Bool) (s : State) : Host.Outcome State Fault Refusal :=
  s.setting (decide (part < 8) && !s.inUse part) (s.onPart part fun p => { p with det := enable })
/-- SET_DEBUG (R138, R370). -/
def execSetDebug (part : Nat) (enable : Bool) (s : State) : Host.Outcome State Fault Refusal :=
  s.setting (decide (part < 8) && !s.inUse part) (s.onPart part fun p => { p with debug := enable })

/-! ## Queues (R365) -/

/-- QUEUE_CREATE (R365). -/
def execQueueCreate (part queue prio : Nat) (s : State) : Host.Outcome State Fault Refusal :=
  if part < 8 ∧ queue < 64 ∧ prio < 8 ∧ (sget none (s.part part).queues queue).isNone = true then
    .next (s.onPart part fun p => { p with queues := sput none p.queues queue (some { prio := prio, wake := 0, ring := [], errors := 0 }) })
  else .next (s.refuse 3)
/-- WAKE_BITS_WRITE (R365). -/
def execWakeBitsWrite (part queue : Nat) (bits : Word) (s : State) : Host.Outcome State Fault Refusal :=
  .next (s.onQueue part queue fun q => { q with wake := q.wake ||| bits })

/-! ## Memory group (R354, R386, R387) -/

/-- PAGE_TABLE_ROOT_SET (R386). -/
def execPageTableRootSet (part : Nat) (root : Dbl) (s : State) : Host.Outcome State Fault Refusal :=
  .next (s.onPart part fun p => { p with root := root })
/-- TLB_INVALIDATION (R387): under way until it completes. -/
def execTlbInvalidation (part : Nat) (va : Dbl) (s : State) : Host.Outcome State Fault Refusal :=
  .next (s.onPart part fun p => { p with invalidating := if p.invalidating.contains va.toNat then p.invalidating else va.toNat :: p.invalidating })
/-- The addresses of an operation's accesses. -/
def OpKind.vas : OpKind → List Dbl
  | .load l => l.accs.map (·.va) ++ (match l.buf with | some b => b.2.2.map (·.va) | none => [])
  | .store st => st.units.map (·.va)
  | .atom a => a.lanes.map (·.va)
  | .signal g => [g.va]
  | _ => []
/-- TLB_INVALIDATION_COMPLETE (R387): once every access that used a leaf of the address has been performed, those leaves are gone. -/
def execTlbInvalidationComplete (part : Nat) (va : Dbl) (s : State) : Host.Outcome State Fault Refusal :=
  let p := s.part part
  let old := p.tlb.filter fun e => e.covers va.toNat
  let pending := s.ops.any fun o => o.part == part && o.kind.vas.any fun a => old.any fun e => e.covers a.toNat
  if !p.invalidating.contains va.toNat || pending then .next s
  else .next (s.onPart part fun p => { p with tlb := p.tlb.filter fun e => !e.covers va.toNat, invalidating := p.invalidating.filter (· != va.toNat) })
/-- COLLECTIVE_LOG_BASE_SET (R354): the log lies in the partition's share of HBM, else the write is refused (R31, R408; log entry 93). -/
def execCollectiveLogBaseSet (part : Nat) (base : Dbl) (s : State) : Host.Outcome State Fault Refusal :=
  .next (if base = 0 ∨ s.inShare part base.toNat (64 * Config.logEntries) = true then s.onPart part fun p => { p with logBase := base }
    else s.refuse 6)
/-- TSW_BASE_SET (R382): by the die's management core (R405). -/
def execTswBaseSet (die : Nat) (base : Dbl) (s : State) : Host.Outcome State Fault Refusal :=
  .next (if s.coreUp die then s.onDie die fun d => { d with tsw := base } else s)
/-- REFERENCE_TIME_WRITE (R376): the host's time stands in the register, and every die's count is steered towards it. -/
def execReferenceTimeWrite (value : Dbl) (s : State) : Host.Outcome State Fault Refusal :=
  .next ((List.range 4).foldl (fun s d => s.onDie d fun x => { x with refGap := (value.toNat : Int) - x.refTime.toNat })
    (s.onBoard fun b => { b with refReg := value }))

/-! ## Registers without a row of their own (R337, R365, R403, R410) -/

/-- Some management core runs (R405, R406). -/
def State.anyCoreUp (s : State) : Bool := (List.range 4).any s.coreUp
/-- MANAGEMENT_REGISTER_WRITE (R409): the registers of the Management group by Beloft, the others by the host. The status page of a partition lies
in its share of HBM (R31, R408, R410; log entry 93). -/
def execManagementRegisterWrite (reg : MgmtWrite) (s : State) : Host.Outcome State Fault Refusal :=
  match reg with
  | .doorbell part queue e => .next (s.onQueue part queue fun q => { q with ring := q.ring ++ [e] })
  | .queuePrio part queue prio => .next (if prio < 8 then s.onQueue part queue fun q => { q with prio := prio } else s.refuse 3)
  | .importSet e => .next (s.onFabric fun f => { f with
      imports := e :: f.imports.filter fun i => !(i.src == e.src && i.srcPart == e.srcPart && i.page == e.page) })
  | .hostWindow base size => .next (s.onBoard fun b => { b with hostWindows := b.hostWindows ++ [(base, size)] })
  | .hostShare base size =>
    .next (if base + size ≤ Config.hbmBytes - s.journal.capacity * 2 ^ 20 ∧ s.hbmTaken 9 base size = false then s.onBoard fun b => { b with hostShare := (base, size) }
      else s.refuse 2)
  | .trapQueue die slots => .next (if s.coreUp die then s.onDie die fun d => { d with trapQueue := slots } else s)
  | .statusPage part base =>
    .next (if !s.anyCoreUp then s
      else if base = 0 ∨ s.inShare part base 4096 = true then s.onPart part fun p => { p with statusPage := BitVec.ofNat 64 base } else s.refuse 7)

/-! ## Boot (R404 to R406) and attestation (R407) -/

/-- POWER_UP (R404, R405): the device as it is at power-up, with its boot flash; the images are checked and their SM3 digests measured, the
identity key pair is derived, the configuration image sets fabric mode, device id, routes, stations and the journal port pairing, the
Beloft image brings its emulation set. -/
def execPowerUp (s : State) : Host.Outcome State Fault Refusal :=
  let b := s.board
  let good (i : Option BootImage) : Bool := match i with | some x => x.sigOk | none => false
  let status : BootStatus := if !good b.beloft then .badBeloft else if !good b.config then .badConfiguration else .running
  let digest (i : Option BootImage) : List Byte := match i with | some x => sm3 x.bytes | none => List.replicate 32 0
  let up := decide (status = .running)
  let board := { Board.reset with
    powered := true, boot := status, beloft := b.beloft, config := b.config, certificate := b.certificate
    beloftDigest := digest b.beloft
    configDigest := if good b.beloft then digest b.config else List.replicate 32 0
    identity := Config.identityKey 0
    fwVersion := if up then (b.beloft.map (·.version)).getD 0 else 0
    emulMin := if up then max 2 ((b.beloft.map (·.emulMin)).getD 2) else 2 }
  let fabric := match b.config, status with
    | some c, .running => { Fabric.reset with
        direct := c.direct, devid := c.devid, routes := c.routes, partnerPort := c.partnerPort, stations := c.stations, neighbours := c.neighbours }
    | _, _ => Fabric.reset
  let port := match b.config, status with | some c, .running => c.partnerPort % 2 | _, _ => 0
  .next { State.reset with
    journal := { Journal.reset with port := port }
    agenda := s.agenda, nextId := s.nextId, freeCount := s.freeCount + 1, hostLog := s.hostLog, board := board, fabric := fabric }
/-- FUNCTION_READY (R406): a function of the table, once, after the images have passed; the ports of a function come up with it (log entry 89); with a column come the results of its cores' tests. -/
def execFunctionReady (bit : Nat) (s : State) : Host.Outcome State Fault Refusal :=
  if s.board.boot ≠ .running ∨ ¬(bit < 29 ∨ (64 ≤ bit ∧ bit < 128)) ∨ s.functionUp bit = true then .next s
  else
    let s1 := s.onBoard fun b => { b with ready := b.ready ||| BitVec.ofNat 128 (2 ^ bit) }
    let ports := if bit = 25 then [34] else if bit = 26 then [35] else if bit = 27 then List.range 17 else if bit = 28 then (List.range 17).map (17 + ·)
      else []
    if bit < 64 then .next (ports.foldl (fun s p => s.onFabric fun f => f.onPort p fun q => { q with up := true }) s1)
    else .next ((List.range 4).foldl (fun s i => s.onCore (4 * (bit - 64) + i) fun c =>
      { c with unavailable := Config.coreFailed (4 * (bit - 64) + i) }) s1)
/-- BOOT_IMAGE_LOAD (R405): an image is written to boot flash. -/
def execBootImageLoad (kind : ImageKind) (image : BootImage) (s : State) : Host.Outcome State Fault Refusal :=
  .next (s.onBoard fun b => match kind with
    | .beloft => { b with beloft := some image }
    | .configuration => { b with config := some image })
/-- The signed part of an attestation report (R407): nonce, DEVID, boot ROM version (a free value, log entry 3), the two digests,
POWERCTL, and each partition's columns and mode. -/
def State.attested (s : State) (nonce : List Byte) : List Byte :=
  nonce ++ leBytes 2 s.fabric.devid ++ leBytes 4 (Config.openWord s.freeCount).toNat ++ s.board.beloftDigest ++
    s.board.configDigest ++ leBytes 8 s.board.powerctl.toNat ++
    (List.range 8).flatMap fun p => leBytes 8 (s.part p).columns.toNat ++ leBytes 1 (if (s.part p).det then 1 else 0)
/-- ATTESTATION_REQUEST (R407): answered once a management core is ready. -/
def execAttestationRequest (nonce : List Byte) (s : State) : Host.Outcome State Fault Refusal :=
  if nonce.length ≠ 32 ∨ s.board.boot ≠ .running ∨ s.anyCoreUp = false then .next s
  else .next ({ s with freeCount := s.freeCount + 1 }.tell (.attestation (s.attested nonce ++ Config.signature s.freeCount)))

/-! ## Host accesses (R403) and the status page (R410) -/

/-- HOST_CXL_MEM_ACCESS (R403, R406): to the share of HBM that the host assigned to itself, at the words' homes, as a party of its own; an access
to a stack that is not ready, one outside the share (log entry 74), or a read of a marked sector, ends with poison. -/
def execHostCxlMemAccess (key : Nat) (write : Option (List Byte)) (size : Nat) (s : State) : Host.Outcome State Fault Refusal :=
  let n := match write with | some bs => bs.length | none => size
  let keys := (List.range n).map (key + ·)
  if 2 ^ 48 < key + n then .next s
  else
    let up := keys.all fun k => inRanges [s.board.hostShare] k && s.stackUp k
    match write with
    | some bs => .next (if up then s.outsideWrite (keys.zip bs) else s)
    | none => .next (s.tell (.memRead key (if up && !(keys.any s.marked) then some (keys.map s.mem.byte) else none)))
/-- A saturating counter of 4 bytes. -/
def counter4 (n : Nat) : List Byte := leBytes 4 (min n 0xFFFFFFFF)
/-- The bytes of a partition's status page (R410): temperatures and draws are what sensors give, free values (log entry 3). -/
def State.statusBytes (s : State) (part : Nat) : List Byte :=
  let p := s.part part
  let dies := (List.range 4).map s.die
  let b := s.board
  let open_ (k : Nat) : List Byte := leBytes 8 ((Config.openWord (s.freeCount + k)).toNat + (Config.openWord (s.freeCount + k + 1)).toNat * 2 ^ 32)
  leBytes 4 b.fwVersion.toNat ++ leBytes 4 b.emulMin ++ leBytes 16 b.ready.toNat ++ leBytes 8 b.powerctl.toNat ++ open_ 0 ++ open_ 2 ++
    leBytes 32 (((List.range Config.cores).filter fun c => (s.core c).unavailable).map (2 ^ ·)).sum ++
    leBytes 8 (min ((dies.map (·.cecc)).sum) (2 ^ 64 - 1)) ++ leBytes 8 (min ((dies.map (·.uecc)).sum) (2 ^ 64 - 1)) ++ counter4 p.kills ++
    counter4 p.orphans ++ (dies.flatMap fun d => counter4 d.mboxOv) ++ counter4 (dies.map (·.tswIgn)).sum ++ counter4 b.pwrErr ++
    ((List.range 36).flatMap fun i => counter4 (s.fabric.port i).errors) ++ counter4 p.frlost ++ List.replicate 3820 0
/-- STATUS_PAGE_UPDATE (R410): rewritten by a management core that runs, with a release, in the partition's share and in stacks that are ready
(R31, R406; log entry 93). Corrected errors since the last update are a free number (log entry 3); a base of
0 is a base not set (log entry 8). -/
def execStatusPageUpdate (part : Nat) (s : State) : Host.Outcome State Fault Refusal :=
  let base := (s.part part).statusPage
  if base = 0 ∨ s.anyCoreUp = false ∨ s.inShare part base.toNat 4096 = false ∨ s.stacksUp base.toNat 4096 = false then .next s
  else
    let s1 := s.onDie 0 fun d => { d with cecc := d.cecc + Config.elapsed s.freeCount }
    let bs := s1.statusBytes part
    .next ({ s1 with freeCount := s1.freeCount + 5 }.outsideWrite (((List.range bs.length).map (base.toNat + ·)).zip bs))

/-! ## Code objects (R68 to R74) -/

/-- A relocation (R68, R71): the section it patches, offset there, kind, symbol, addend. -/
structure Reloc where
  sect : Nat
  off : Nat
  kind : Nat
  sym : Nat
  add : Int
/-- A relocation's patch: the bytes written at its place, or the loader's refusal (R68). `va` is the address of the section, `tab` that of the
code table, `base` the record base of the kernel that contains the place, `w` the word patched. For BRIDX the index n is the entry's
signed addend and its symbol is of no account: R71 names no other field for it, and the spec does not say which holds n (log entry 75). A kind
outside 1 to 7 and a branch target that is no word's address are refused, and a symbol beyond the list is address 0: the model's choice (log
entry 95). -/
def Reloc.patch (p : ObjectPlacing) (va tab : Nat) (base : Option Nat) (w : Nat) (r : Reloc) : Option (List Byte) :=
  let target : Int := (p.syms.getD r.sym 0 : Nat) + r.add
  let dist : Int := target - (va + r.off : Nat)
  let low (n : Nat) (v : Int) : List Byte := leBytes 4 (w / 2 ^ n * 2 ^ n + (v % (2 ^ n : Nat)).toNat)
  match r.kind with
  | 1 => some (leBytes 8 (target % (2 ^ 64 : Nat)).toNat)
  | 2 => if 0 ≤ target ∧ target < 2 ^ 32 then some (low 16 target) else none
  | 3 => if 0 ≤ target ∧ target < 2 ^ 32 then some (low 16 (target / 2 ^ 16)) else none
  | 4 => if dist % 4 = 0 ∧ -(2 ^ 25) ≤ dist ∧ dist < 2 ^ 25 then some (low 24 (dist / 4)) else none
  | 5 => if dist % 4 = 0 ∧ -(2 ^ 17) ≤ dist ∧ dist < 2 ^ 17 then some (low 16 (dist / 4)) else none
  | 6 => some (low 16 ((target - (tab : Nat)) / 32))
  | 7 => base.bind fun b =>
    let n : Int := r.add + (b : Nat)
    if 0 ≤ n ∧ n < 4096 then some (low 16 n) else none
  | _ => none
/-- The relocations of an object (R71). -/
def relocsOf (sections : List (List Byte)) (obj : List Byte) : List Reloc :=
  sections.flatMap fun s =>
    if recField s 0 4 ≠ 6 then []
    else (List.range (recField s 0x10 8 / 16)).map fun i =>
      let e := (obj.drop (recField s 8 8 + 16 * i)).take 16
      { sect := recField s 4 1, off := recField e 0 8, kind := recField e 8 1, sym := recField e 9 3, add := signedOf 32 (recField e 12 4) }
/-- A section of an object: its kind, its bytes, its alignment, where it is placed (virtual and physical). -/
structure Section where
  kind : Nat
  bytes : List Byte
  align : Nat
  va : Nat
  key : Nat
  deriving DecidableEq, Repr
/-- The sections of an object where the loader places them (R71). -/
def sectionsOf (p : ObjectPlacing) (obj : List Byte) (entries : List (List Byte)) : List Section :=
  (entries.zip (List.range entries.length)).map fun e =>
    let place := p.sections.getD e.2 (0, 0)
    { kind := recField e.1 0 4, bytes := (obj.drop (recField e.1 8 8)).take (recField e.1 0x10 8), align := recField e.1 0x18 4,
      va := place.1, key := place.2 }
/-- A place that the loader may choose (R71, R73): aligned as the section asks; a code table in device memory, its entries at multiples of 32. -/
def Section.placed (x : Section) : Bool :=
  decide (x.va % 2 ^ x.align = 0 ∧ x.key % 2 ^ x.align = 0 ∧ (x.kind = 9 → x.va % 32 = 0 ∧ x.key % 32 = 0 ∧ keyPath x.key = 2))
/-- What the loader writes of a section: a code table with STATE, WAITERS, SEM and ENTRY zero and SOURCE as the object gives it (R73; log entry
75). -/
def Section.image (x : Section) : List Byte :=
  if x.kind ≠ 9 then x.bytes else x.bytes.mapIdx fun i b => if i % 32 < 0x18 then 0 else b
/-- The byte offsets at which the object's kernels begin in its CODE section, in kernel order (R361, R71). -/
def kernelEntries (xs : List Section) : List Nat :=
  xs.flatMap fun x => if x.kind ≠ 3 then [] else (List.range (x.bytes.length / 1024)).map fun i => recField x.bytes (1024 * i + 0x18) 8
/-- The table index at which each kernel's template 0 lands: the templates stand kernel by kernel (R68). -/
def recordBases : Nat → List Nat → List Nat
  | _, [] => []
  | n, c :: cs => n :: recordBases (n + c) cs
/-- The record base of the kernel that contains an offset of the CODE section: the kernel that begins last at or before it. KERNELS gives entries
and no ends (R71), so which kernel contains an instruction, a .func behind it too, is the model's choice (R68; log entry 95). -/
def baseAt (entries bases : List Nat) (off : Nat) : Option Nat :=
  ((sortWhere (fun (a b : Nat × Nat) => decide (b.1 < a.1)) (entries.zip bases)).find? fun e => decide (e.1 ≤ off)).map (·.2)
/-- CODE_OBJECT_LOAD (R68 to R73): an object that the command processor rejects is reported with its status and placed nowhere; one that the
loader refuses is placed nowhere. Else its sections are placed with their relocations resolved, and its buffer-record table is built of
the templates of its RECORDS section, kernel by kernel. How many templates each kernel has, the placing says, one count for each kernel and
all templates of the section (log entry 75). A relocation of a section that the object has not, and a BRIDX that no kernel contains, are
refused (log entry 95). The object is read and placed in HBM stacks that are ready (R406). -/
def execCodeObjectLoad (placing : ObjectPlacing) (s : State) : Host.Outcome State Fault Refusal :=
  let obj := s.mem.bytes placing.src placing.size
  let h := obj.take 64
  let n := min (recField h 0xC 4) 64
  let entries := (List.range n).map fun i => (obj.drop (recField h 0x10 8 + 32 * i)).take 32
  match objectBad s.board.emulMin (some placing.size) h entries with
  | some w => .next (if s.functionUp 24 then s.tell (.objectRefused placing.part w) else s)
  | none =>
    let xs := sectionsOf placing obj entries
    let table := xs.find? fun x => x.kind == 9
    let tab := (table.map (·.va)).getD 0
    let code := xs.findIdx? fun x => x.kind == 1
    let bases := recordBases 0 placing.templates
    let templates := (xs.filter fun x => x.kind == 5).flatMap (·.bytes)
    let count := placing.templates.sum
    let patches := (relocsOf entries obj).mapM fun r =>
      (xs[r.sect]?).bind fun x =>
        let base := if some r.sect = code then baseAt (kernelEntries xs) bases r.off else none
        (r.patch placing x.va tab base (leNat ((x.bytes.drop r.off).take 4))).map fun b => (x.key + r.off, b)
    let up (k n : Nat) : Bool := keyPath k != 2 || s.stacksUp k n
    let reach := up placing.src placing.size && up placing.records (40 * count) && xs.all fun x => up x.key x.bytes.length
    let placeable := xs.all Section.placed && reach && decide (placing.templates.length = (kernelEntries xs).length) &&
      decide (count ≤ 4096 ∧ 40 * count = templates.length) &&
      (decide (count = 0) || decide (placing.records % 2 ^ 13 = 0 ∧ keyPath placing.records = 2))
    match patches with
    | none => .next s
    | some ps =>
      if !s.functionUp 24 || !placeable then .next s
      else
        let writes := (xs.map fun x => (x.key, x.image)) ++ ps ++ [(placing.records, templates.take (40 * count))]
        let s1 := writes.foldl (fun (s : State) (w : Nat × List Byte) =>
          s.outsideWrite (((List.range w.2.length).map (w.1 + ·)).zip w.2)) s
        .next { s1 with
          objects := { part := placing.part, header := BitVec.ofNat 64 placing.src, size := placing.size, major := recField h 4 2,
                       minor := recField h 6 2, codetab := tab, entries := ((table.map fun x => x.bytes.length).getD 0) / 32,
                       records := placing.records, recordCount := count } ::
            s1.objects.filter fun o => o.part != placing.part || o.header != BitVec.ofNat 64 placing.src }

end Sys2Proof.Machine
end

