-- ==== Sys2Proof/Machine/Dispatch.lean ====
section
/-! DEFINITION. The meaning of every instruction: one arm per constructor. -/

namespace Sys2Proof.Machine

def exec (i : Instr) (s : State) : Host.Outcome State Fault Refusal :=
  match i with
  | .sadd sd sa sb => Sys2Proof.Machine.execSadd sd sa sb s
  | .ssub sd sa sb => Sys2Proof.Machine.execSsub sd sa sb s
  | .smul sd sa sb => Sys2Proof.Machine.execSmul sd sa sb s
  | .smulhi sd sa sb => Sys2Proof.Machine.execSmulhi sd sa sb s
  | .smulhn sd sa sb => Sys2Proof.Machine.execSmulhn sd sa sb s
  | .sdivi sd sa sb => Sys2Proof.Machine.execSdivi sd sa sb s
  | .sdivn sd sa sb => Sys2Proof.Machine.execSdivn sd sa sb s
  | .sremi sd sa sb => Sys2Proof.Machine.execSremi sd sa sb s
  | .sremn sd sa sb => Sys2Proof.Machine.execSremn sd sa sb s
  | .sand sd sa sb => Sys2Proof.Machine.execSand sd sa sb s
  | .sor sd sa sb => Sys2Proof.Machine.execSor sd sa sb s
  | .sxor sd sa sb => Sys2Proof.Machine.execSxor sd sa sb s
  | .sshl sd sa sb => Sys2Proof.Machine.execSshl sd sa sb s
  | .sshrn sd sa sb => Sys2Proof.Machine.execSshrn sd sa sb s
  | .sshri sd sa sb => Sys2Proof.Machine.execSshri sd sa sb s
  | .smini sd sa sb => Sys2Proof.Machine.execSmini sd sa sb s
  | .sminn sd sa sb => Sys2Proof.Machine.execSminn sd sa sb s
  | .smaxi sd sa sb => Sys2Proof.Machine.execSmaxi sd sa sb s
  | .smaxn sd sa sb => Sys2Proof.Machine.execSmaxn sd sa sb s
  | .slti sd sa sb => Sys2Proof.Machine.execSlti sd sa sb s
  | .sltn sd sa sb => Sys2Proof.Machine.execSltn sd sa sb s
  | .seq sd sa sb => Sys2Proof.Machine.execSeq sd sa sb s
  | .ssel sd sa sb => Sys2Proof.Machine.execSsel sd sa sb s
  | .saddi sd imm => Sys2Proof.Machine.execSaddi sd imm s
  | .sli sd imm => Sys2Proof.Machine.execSli sd imm s
  | .slih sd imm => Sys2Proof.Machine.execSlih sd imm s
  | .sbitopPopc sd sa => Sys2Proof.Machine.execSbitopPopc sd sa s
  | .sbitopClz sd sa => Sys2Proof.Machine.execSbitopClz sd sa s
  | .sbitopCtz sd sa => Sys2Proof.Machine.execSbitopCtz sd sa s
  | .sbitopBrev sd sa => Sys2Proof.Machine.execSbitopBrev sd sa s
  | .sbfx sd sa sb => Sys2Proof.Machine.execSbfx sd sa sb s
  | .sbfi sd sa sb => Sys2Proof.Machine.execSbfi sd sa sb s
  | .sadd64 sd sa sb => Sys2Proof.Machine.execSadd64 sd sa sb s
  | .mode en imm => Sys2Proof.Machine.execMode en imm s
  | .modes en sa => Sys2Proof.Machine.execModes en sa s
  | .modeget sd => Sys2Proof.Machine.execModeget sd s
  | .bra off => Sys2Proof.Machine.execBra off s
  | .bany sa off => Sys2Proof.Machine.execBany sa off s
  | .ball sa off => Sys2Proof.Machine.execBall sa off s
  | .bnone sa off => Sys2Proof.Machine.execBnone sa off s
  | .bsz sa off => Sys2Proof.Machine.execBsz sa off s
  | .bsnz sa off => Sys2Proof.Machine.execBsnz sa off s
  | .bdiv tgt rcv => Sys2Proof.Machine.execBdiv tgt rcv s
  | .bdivl tgt rcv => Sys2Proof.Machine.execBdivl tgt rcv s
  | .call off => Sys2Proof.Machine.execCall off s
  | .calls sa => Sys2Proof.Machine.execCalls sa s
  | .brs sa => Sys2Proof.Machine.execBrs sa s
  | .loop sa off => Sys2Proof.Machine.execLoop sa off s
  | .mopNot sa sd => Sys2Proof.Machine.execMopNot sa sd s
  | .mopAnd sa sd => Sys2Proof.Machine.execMopAnd sa sd s
  | .mopOr sa sd => Sys2Proof.Machine.execMopOr sa sd s
  | .mopAndn sa sd => Sys2Proof.Machine.execMopAndn sa sd s
  | .mopLoad sa => Sys2Proof.Machine.execMopLoad sa s
  | .mopSave sd => Sys2Proof.Machine.execMopSave sd s
  | .mopPopc sa sd => Sys2Proof.Machine.execMopPopc sa sd s
  | .mopFirst sa sd => Sys2Proof.Machine.execMopFirst sa sd s
  | .msave sd => Sys2Proof.Machine.execMsave sd s
  | .mrest sa => Sys2Proof.Machine.execMrest sa s
  | .yield imm => Sys2Proof.Machine.execYield imm s
  | .probe sd reg vec => Sys2Proof.Machine.execProbe sd reg vec s
  | .brk imm => Sys2Proof.Machine.execBrk imm s
  | .stkq sd sel => Sys2Proof.Machine.execStkq sd sel s
  | .vmov vd va la lb keep => Sys2Proof.Machine.execVmov vd va la lb keep s
  | .vmovs vd sb la keep => Sys2Proof.Machine.execVmovs vd sb la keep s
  | .vli vd imm => Sys2Proof.Machine.execVli vd imm s
  | .vlih vd imm => Sys2Proof.Machine.execVlih vd imm s
  | .vand vd va vb la lb keep => Sys2Proof.Machine.execVand vd va vb la lb keep s
  | .vor vd va vb la lb keep => Sys2Proof.Machine.execVor vd va vb la lb keep s
  | .vxor vd va vb la lb keep => Sys2Proof.Machine.execVxor vd va vb la lb keep s
  | .vandn vd va vb la lb keep => Sys2Proof.Machine.execVandn vd va vb la lb keep s
  | .vshl vd va vb la lb keep => Sys2Proof.Machine.execVshl vd va vb la lb keep s
  | .vshrn vd va vb la lb keep => Sys2Proof.Machine.execVshrn vd va vb la lb keep s
  | .vshri vd va vb la lb keep => Sys2Proof.Machine.execVshri vd va vb la lb keep s
  | .vshli vd va la n => Sys2Proof.Machine.execVshli vd va la n s
  | .vshrni vd va la n => Sys2Proof.Machine.execVshrni vd va la n s
  | .vshrii vd va la n => Sys2Proof.Machine.execVshrii vd va la n s
  | .vrot vd va vb la lb keep => Sys2Proof.Machine.execVrot vd va vb la lb keep s
  | .vbitopPopc vd va la lb keep => Sys2Proof.Machine.execVbitopPopc vd va la lb keep s
  | .vbitopClz vd va la lb keep => Sys2Proof.Machine.execVbitopClz vd va la lb keep s
  | .vbitopCtz vd va la lb keep => Sys2Proof.Machine.execVbitopCtz vd va la lb keep s
  | .vbitopBrev vd va la lb keep => Sys2Proof.Machine.execVbitopBrev vd va la lb keep s
  | .vbfx vd va sb la keep => Sys2Proof.Machine.execVbfx vd va sb la keep s
  | .vbfi vd va sb la keep => Sys2Proof.Machine.execVbfi vd va sb la keep s
  | .vprmb vd va vb la lb keep => Sys2Proof.Machine.execVprmb vd va vb la lb keep s
  | .vsel vd va vb la lb keep => Sys2Proof.Machine.execVsel vd va vb la lb keep s
  | .vadda vd va vb la lb keep => Sys2Proof.Machine.execVadda vd va vb la lb keep s
  | .vmada vd va vb la lb keep => Sys2Proof.Machine.execVmada vd va vb la lb keep s
  | .vadda64 vd va vb la lb keep => Sys2Proof.Machine.execVadda64 vd va vb la lb keep s
  | .vlane vd sel la lb keep => Sys2Proof.Machine.execVlane vd sel la lb keep s
  | .vshfl vd va vb la lb keep => Sys2Proof.Machine.execVshfl vd va vb la lb keep s
  | .vshfliXor vd va la c => Sys2Proof.Machine.execVshfliXor vd va la c s
  | .vshfliUp vd va la c => Sys2Proof.Machine.execVshfliUp vd va la c s
  | .vshfliDown vd va la c => Sys2Proof.Machine.execVshfliDown vd va la c s
  | .vshfliRot vd va la c => Sys2Proof.Machine.execVshfliRot vd va la c s
  | .vbcast vd va sb la keep => Sys2Proof.Machine.execVbcast vd va sb la keep s
  | .vtest code va vb la lb keep => Sys2Proof.Machine.execVtest code va vb la lb keep s
  | .vpack vd va w la lb keep => Sys2Proof.Machine.execVpack vd va w la lb keep s
  | .vunpk vd va la sx w => Sys2Proof.Machine.execVunpk vd va la sx w s
  | .vtosIdx va sb la keep => Sys2Proof.Machine.execVtosIdx va sb la keep s
  | .vtosFirst va sb la keep => Sys2Proof.Machine.execVtosFirst va sb la keep s
  | .vtosLast va sb la keep => Sys2Proof.Machine.execVtosLast va sb la keep s
  | .vtosOr va sb la keep => Sys2Proof.Machine.execVtosOr va sb la keep s
  | .vtosAnd va sb la keep => Sys2Proof.Machine.execVtosAnd va sb la keep s
  | .vtosAdd va sb la keep => Sys2Proof.Machine.execVtosAdd va sb la keep s
  | .vtosMaxn va sb la keep => Sys2Proof.Machine.execVtosMaxn va sb la keep s
  | .vtosMinn va sb la keep => Sys2Proof.Machine.execVtosMinn va sb la keep s
  | .vadd vd va vb la lb keep => Sys2Proof.Machine.execVadd vd va vb la lb keep s
  | .vsub vd va vb la lb keep => Sys2Proof.Machine.execVsub vd va vb la lb keep s
  | .vmul vd va vb la lb keep => Sys2Proof.Machine.execVmul vd va vb la lb keep s
  | .vfma vd va vb la lb keep => Sys2Proof.Machine.execVfma vd va vb la lb keep s
  | .vfms vd va vb la lb keep => Sys2Proof.Machine.execVfms vd va vb la lb keep s
  | .vfnma vd va vb la lb keep => Sys2Proof.Machine.execVfnma vd va vb la lb keep s
  | .vmin vd va vb la lb keep => Sys2Proof.Machine.execVmin vd va vb la lb keep s
  | .vmax vd va vb la lb keep => Sys2Proof.Machine.execVmax vd va vb la lb keep s
  | .vminm vd va vb la lb keep => Sys2Proof.Machine.execVminm vd va vb la lb keep s
  | .vmaxm vd va vb la lb keep => Sys2Proof.Machine.execVmaxm vd va vb la lb keep s
  | .vabs vd va la lb keep => Sys2Proof.Machine.execVabs vd va la lb keep s
  | .vneg vd va la lb keep => Sys2Proof.Machine.execVneg vd va la lb keep s
  | .vdiv vd va vb la lb keep => Sys2Proof.Machine.execVdiv vd va vb la lb keep s
  | .vsqrt vd va la lb keep => Sys2Proof.Machine.execVsqrt vd va la lb keep s
  | .vrcp vd va la lb keep => Sys2Proof.Machine.execVrcp vd va la lb keep s
  | .vrsq vd va la lb keep => Sys2Proof.Machine.execVrsq vd va la lb keep s
  | .vexp2 vd va la lb keep => Sys2Proof.Machine.execVexp2 vd va la lb keep s
  | .vlog2 vd va la lb keep => Sys2Proof.Machine.execVlog2 vd va la lb keep s
  | .vsin vd va la lb keep => Sys2Proof.Machine.execVsin vd va la lb keep s
  | .vcos vd va la lb keep => Sys2Proof.Machine.execVcos vd va la lb keep s
  | .vtanh vd va la lb keep => Sys2Proof.Machine.execVtanh vd va la lb keep s
  | .vcmp code va vb la lb keep => Sys2Proof.Machine.execVcmp code va vb la lb keep s
  | .vclass cmask va la lb keep => Sys2Proof.Machine.execVclass cmask va la lb keep s
  | .vcvt vd va fs p la lb keep => Sys2Proof.Machine.execVcvt vd va fs p la lb keep s
  | .vrnd vd va la lb keep => Sys2Proof.Machine.execVrnd vd va la lb keep s
  | .vscalb vd va vb la lb keep => Sys2Proof.Machine.execVscalb vd va vb la lb keep s
  | .vmulhi vd va vb la lb keep => Sys2Proof.Machine.execVmulhi vd va vb la lb keep s
  | .vdot vd va vb la lb keep => Sys2Proof.Machine.execVdot vd va vb la lb keep s
  | .vqnt vd va sb la keep => Sys2Proof.Machine.execVqnt vd va sb la keep s
  | .vdqnt vd va sb la keep => Sys2Proof.Machine.execVdqnt vd va sb la keep s
  | .vredadd vd va la lb keep => Sys2Proof.Machine.execVredadd vd va la lb keep s
  | .vredmax vd va la lb keep => Sys2Proof.Machine.execVredmax vd va la lb keep s
  | .vredmin vd va la lb keep => Sys2Proof.Machine.execVredmin vd va la lb keep s
  | .vscanAdd vd va la lb keep => Sys2Proof.Machine.execVscanAdd vd va la lb keep s
  | .vscanAddx vd va la lb keep => Sys2Proof.Machine.execVscanAddx vd va la lb keep s
  | .vscanMax vd va la lb keep => Sys2Proof.Machine.execVscanMax vd va la lb keep s
  | .vscanMin vd va la lb keep => Sys2Proof.Machine.execVscanMin vd va la lb keep s
  | .vstat va la lb keep => Sys2Proof.Machine.execVstat va la lb keep s
  | .fdef n sa => Sys2Proof.Machine.execFdef n sa s
  | .fdefi n pair idx => Sys2Proof.Machine.execFdefi n pair idx s
  | .fget sd n => Sys2Proof.Machine.execFget sd n s
  | .stget sd sel => Sys2Proof.Machine.execStget sd sel s
  | .stclr co cn ca c1 n => Sys2Proof.Machine.execStclr co cn ca c1 n s
  | .stseed sa => Sys2Proof.Machine.execStseed sa s
  | .ld8 vd va sb la keep => Sys2Proof.Machine.execLd8 vd va sb la keep s
  | .ld16 vd va sb la keep => Sys2Proof.Machine.execLd16 vd va sb la keep s
  | .ld32 vd va sb la keep => Sys2Proof.Machine.execLd32 vd va sb la keep s
  | .ld64 vd va sb la keep => Sys2Proof.Machine.execLd64 vd va sb la keep s
  | .ld128 vd va sb la keep => Sys2Proof.Machine.execLd128 vd va sb la keep s
  | .lds8 vd va sb la keep => Sys2Proof.Machine.execLds8 vd va sb la keep s
  | .lds16 vd va sb la keep => Sys2Proof.Machine.execLds16 vd va sb la keep s
  | .lds32 vd va sb la keep => Sys2Proof.Machine.execLds32 vd va sb la keep s
  | .lds64 vd va sb la keep => Sys2Proof.Machine.execLds64 vd va sb la keep s
  | .lds128 vd va sb la keep => Sys2Proof.Machine.execLds128 vd va sb la keep s
  | .st8 vd va sb la keep => Sys2Proof.Machine.execSt8 vd va sb la keep s
  | .st16 vd va sb la keep => Sys2Proof.Machine.execSt16 vd va sb la keep s
  | .st32 vd va sb la keep => Sys2Proof.Machine.execSt32 vd va sb la keep s
  | .st64 vd va sb la keep => Sys2Proof.Machine.execSt64 vd va sb la keep s
  | .st128 vd va sb la keep => Sys2Proof.Machine.execSt128 vd va sb la keep s
  | .ldb vd va sb la keep => Sys2Proof.Machine.execLdb vd va sb la keep s
  | .ldbs vd va sb la keep => Sys2Proof.Machine.execLdbs vd va sb la keep s
  | .stb vd va sb la keep => Sys2Proof.Machine.execStb vd va sb la keep s
  | .sld32 sd sa sb => Sys2Proof.Machine.execSld32 sd sa sb s
  | .sld64 sd sa sb => Sys2Proof.Machine.execSld64 sd sa sb s
  | .sst32 sd sa sb => Sys2Proof.Machine.execSst32 sd sa sb s
  | .sst64 sd sa sb => Sys2Proof.Machine.execSst64 sd sa sb s
  | .chk va la lb keep => Sys2Proof.Machine.execChk va la lb keep s
  | .chkb vd off => Sys2Proof.Machine.execChkb vd off s
  | .ptest va la lb keep => Sys2Proof.Machine.execPtest va la lb keep s
  | .pclr vd la lb keep => Sys2Proof.Machine.execPclr vd la lb keep s
  | .waitp path sa => Sys2Proof.Machine.execWaitp path sa s
  | .prefL1 va sb la keep => Sys2Proof.Machine.execPrefL1 va sb la keep s
  | .prefL2 va sb la keep => Sys2Proof.Machine.execPrefL2 va sb la keep s
  | .cflushWb va sb la keep => Sys2Proof.Machine.execCflushWb va sb la keep s
  | .cflushInv va sb la keep => Sys2Proof.Machine.execCflushInv va sb la keep s
  | .aadd vd va vb la lb => Sys2Proof.Machine.execAadd vd va vb la lb s
  | .amin vd va vb la lb => Sys2Proof.Machine.execAmin vd va vb la lb s
  | .amax vd va vb la lb => Sys2Proof.Machine.execAmax vd va vb la lb s
  | .aand vd va vb la lb => Sys2Proof.Machine.execAand vd va vb la lb s
  | .aor vd va vb la lb => Sys2Proof.Machine.execAor vd va vb la lb s
  | .axor vd va vb la lb => Sys2Proof.Machine.execAxor vd va vb la lb s
  | .axch vd va vb la lb => Sys2Proof.Machine.execAxch vd va vb la lb s
  | .acas vd va vb la lb => Sys2Proof.Machine.execAcas vd va vb la lb s
  | .bar sd sa sb => Sys2Proof.Machine.execBar sd sa sb s
  | .semsig sa sb => Sys2Proof.Machine.execSemsig sa sb s
  | .semsigGen sg sa sb => Sys2Proof.Machine.execSemsigGen sg sa sb s
  | .semwait sd sa sb => Sys2Proof.Machine.execSemwait sd sa sb s
  | .rgarr sa sb => Sys2Proof.Machine.execRgarr sa sb s
  | .rgwait sd sa sb => Sys2Proof.Machine.execRgwait sd sa sb s
  | .sigx sa sb => Sys2Proof.Machine.execSigx sa sb s
  | .saopAdd sa sd => Sys2Proof.Machine.execSaopAdd sa sd s
  | .saopMini sa sd => Sys2Proof.Machine.execSaopMini sa sd s
  | .saopMinn sa sd => Sys2Proof.Machine.execSaopMinn sa sd s
  | .saopMaxi sa sd => Sys2Proof.Machine.execSaopMaxi sa sd s
  | .saopMaxn sa sd => Sys2Proof.Machine.execSaopMaxn sa sd s
  | .saopAnd sa sd => Sys2Proof.Machine.execSaopAnd sa sd s
  | .saopOr sa sd => Sys2Proof.Machine.execSaopOr sa sd s
  | .saopXor sa sd => Sys2Proof.Machine.execSaopXor sa sd s
  | .saopXch sa sd => Sys2Proof.Machine.execSaopXch sa sd s
  | .saopCas sa sd => Sys2Proof.Machine.execSaopCas sa sd s
  | .xcopy sd sa sb => Sys2Proof.Machine.execXcopy sd sa sb s
  | .xexp sd sa sb => Sys2Proof.Machine.execXexp sd sa sb s
  | .xfill sd sa sb => Sys2Proof.Machine.execXfill sd sa sb s
  | .xgath sd sa sb => Sys2Proof.Machine.execXgath sd sa sb s
  | .xtrn sd sa sb => Sys2Proof.Machine.execXtrn sd sa sb s
  | .layic sd sa sb => Sys2Proof.Machine.execLayic sd sa sb s
  | .xcancel sd st => Sys2Proof.Machine.execXcancel sd st s
  | .mma tile va j ra la ovw => Sys2Proof.Machine.execMma tile va j ra la ovw s
  | .mmal sd sa sb => Sys2Proof.Machine.execMmal sd sa sb s
  | .mmaw4 tile va j ra la ovw => Sys2Proof.Machine.execMmaw4 tile va j ra la ovw s
  | .mfmt imm => Sys2Proof.Machine.execMfmt imm s
  | .acalloc sd sa => Sys2Proof.Machine.execAcalloc sd sa s
  | .acfree sa sb => Sys2Proof.Machine.execAcfree sa sb s
  | .aczero sa sb => Sys2Proof.Machine.execAczero sa sb s
  | .acload sd sa sb => Sys2Proof.Machine.execAcload sd sa sb s
  | .acread vd sb la keep => Sys2Proof.Machine.execAcread vd sb la keep s
  | .acdrain sd sa sb => Sys2Proof.Machine.execAcdrain sd sa sb s
  | .atload sd sa => Sys2Proof.Machine.execAtload sd sa s
  | .gmask sd sa => Sys2Proof.Machine.execGmask sd sa s
  | .gadv sd sa => Sys2Proof.Machine.execGadv sd sa s
  | .sample sd sa sb => Sys2Proof.Machine.execSample sd sa sb s
  | .route sd sa => Sys2Proof.Machine.execRoute sd sa s
  | .emit sd sa => Sys2Proof.Machine.execEmit sd sa s
  | .jtrunc sd sa => Sys2Proof.Machine.execJtrunc sd sa s
  | .jreplay sd sa => Sys2Proof.Machine.execJreplay sd sa s
  | .jstat sd sa => Sys2Proof.Machine.execJstat sd sa s
  | .rsig sa sb => Sys2Proof.Machine.execRsig sa sb s
  | .rsigGen sg sa sb => Sys2Proof.Machine.execRsigGen sg sa sb s
  | .coll sd sa sb => Sys2Proof.Machine.execColl sd sa sb s
  | .peerq sd sa sb => Sys2Proof.Machine.execPeerq sd sa sb s
  | .trap imm => Sys2Proof.Machine.execTrap imm s
  | .pwreq sd sa => Sys2Proof.Machine.execPwreq sd sa s
  | .pwrel sa => Sys2Proof.Machine.execPwrel sa s
  | .taskq sd sa sb => Sys2Proof.Machine.execTaskq sd sa sb s
  | .launch sd sa => Sys2Proof.Machine.execLaunch sd sa s
  | .clkrd sd sel => Sys2Proof.Machine.execClkrd sd sel s
  | .srd sd num => Sys2Proof.Machine.execSrd sd num s
  | .swr sa num => Sys2Proof.Machine.execSwr sa num s
  | .ret => Sys2Proof.Machine.execRet s
  | .kill => Sys2Proof.Machine.execKill s
  | .exit => Sys2Proof.Machine.execExit s
  | .ifence => Sys2Proof.Machine.execIfence s
  | .fenceAcq => Sys2Proof.Machine.execFenceAcq s
  | .fenceRel => Sys2Proof.Machine.execFenceRel s
  | .fenceFull => Sys2Proof.Machine.execFenceFull s
  | .pmask => Sys2Proof.Machine.execPmask s
  | .punmask => Sys2Proof.Machine.execPunmask s
  | .sfuResultWritten op => Sys2Proof.Machine.execSfuResultWritten op s
  | .loadDataReturn op ret => Sys2Proof.Machine.execLoadDataReturn op ret s
  | .storePerformed op unit fail => Sys2Proof.Machine.execStorePerformed op unit fail s
  | .l1LineEviction core line => Sys2Proof.Machine.execL1LineEviction core line s
  | .atomicApplied op ret => Sys2Proof.Machine.execAtomicApplied op ret s
  | .engineCommandStart op => Sys2Proof.Machine.execEngineCommandStart op s
  | .copyCommandCompletion op fin => Sys2Proof.Machine.execCopyCommandCompletion op fin s
  | .matrixCommandCompletion op fin => Sys2Proof.Machine.execMatrixCommandCompletion op fin s
  | .grammarUnitCompletion op => Sys2Proof.Machine.execGrammarUnitCompletion op s
  | .generationUnitCompletion op => Sys2Proof.Machine.execGenerationUnitCompletion op s
  | .journalAckReceived op => Sys2Proof.Machine.execJournalAckReceived op s
  | .journalRecordReceived rec => Sys2Proof.Machine.execJournalRecordReceived rec s
  | .heartbeatSend => Sys2Proof.Machine.execHeartbeatSend s
  | .heartbeatReceived => Sys2Proof.Machine.execHeartbeatReceived s
  | .partnerLost => Sys2Proof.Machine.execPartnerLost s
  | .resynchronisationComplete => Sys2Proof.Machine.execResynchronisationComplete s
  | .routerAnswer op => Sys2Proof.Machine.execRouterAnswer op s
  | .collCompletion cid sq shares fin => Sys2Proof.Machine.execCollCompletion cid sq shares fin s
  | .peerPacketArrival pkt => Sys2Proof.Machine.execPeerPacketArrival pkt s
  | .fabricAckArrival part dest count => Sys2Proof.Machine.execFabricAckArrival part dest count s
  | .retransmitTimeout packet => Sys2Proof.Machine.execRetransmitTimeout packet s
  | .flitArrival port flit => Sys2Proof.Machine.execFlitArrival port flit s
  | .linkLaneFailure port persist => Sys2Proof.Machine.execLinkLaneFailure port persist s
  | .linkKeyLimit port => Sys2Proof.Machine.execLinkKeyLimit port s
  | .pwreqGrant op => Sys2Proof.Machine.execPwreqGrant op s
  | .pwreqTimeout op => Sys2Proof.Machine.execPwreqTimeout op s
  | .powerPermitGrant op => Sys2Proof.Machine.execPowerPermitGrant op s
  | .dieHotThreshold die => Sys2Proof.Machine.execDieHotThreshold die s
  | .dieCriticalThreshold die => Sys2Proof.Machine.execDieCriticalThreshold die s
  | .clkrdAnswer op => Sys2Proof.Machine.execClkrdAnswer op s
  | .illegalOpcode => Sys2Proof.Machine.execIllegalOpcode s
  | .reservedOpcodePark => Sys2Proof.Machine.execReservedOpcodePark s
  | .divergencePop => Sys2Proof.Machine.execDivergencePop s
  | .teamPromotion slot => Sys2Proof.Machine.execTeamPromotion slot s
  | .yieldExpiry slot => Sys2Proof.Machine.execYieldExpiry slot s
  | .teamLeaveQuadrant slot => Sys2Proof.Machine.execTeamLeaveQuadrant slot s
  | .groupCommit gid => Sys2Proof.Machine.execGroupCommit gid s
  | .launchStart lid => Sys2Proof.Machine.execLaunchStart lid s
  | .groupPlacement lid group core quads => Sys2Proof.Machine.execGroupPlacement lid group core quads s
  | .queueLaunch part queue => Sys2Proof.Machine.execQueueLaunch part queue s
  | .queueDrain part queue => Sys2Proof.Machine.execQueueDrain part queue s
  | .queueWrite part queue => Sys2Proof.Machine.execQueueWrite part queue s
  | .queueWaitwake part queue => Sys2Proof.Machine.execQueueWaitwake part queue s
  | .queueNop part queue => Sys2Proof.Machine.execQueueNop part queue s
  | .queueEntrySkipped part queue => Sys2Proof.Machine.execQueueEntrySkipped part queue s
  | .preemptionRequest gid src => Sys2Proof.Machine.execPreemptionRequest gid src s
  | .maskWatchdogExpiry gid => Sys2Proof.Machine.execMaskWatchdogExpiry gid s
  | .handlerWatchdogExpiry gid => Sys2Proof.Machine.execHandlerWatchdogExpiry gid s
  | .partitionRestore part => Sys2Proof.Machine.execPartitionRestore part s
  | .trapQueueTake take => Sys2Proof.Machine.execTrapQueueTake take s
  | .ctrlResume slot how => Sys2Proof.Machine.execCtrlResume slot how s
  | .ctrlKill slot => Sys2Proof.Machine.execCtrlKill slot s
  | .ctrlDetach slot => Sys2Proof.Machine.execCtrlDetach slot s
  | .teamStateWindowWrite die addr wide value => Sys2Proof.Machine.execTeamStateWindowWrite die addr wide value s
  | .pageServiceComplete service va leaf => Sys2Proof.Machine.execPageServiceComplete service va leaf s
  | .pageServiceRefusal service va => Sys2Proof.Machine.execPageServiceRefusal service va s
  | .coreUncorrectableError err => Sys2Proof.Machine.execCoreUncorrectableError err s
  | .memoryUncorrectableError key => Sys2Proof.Machine.execMemoryUncorrectableError key s
  | .powerUp => Sys2Proof.Machine.execPowerUp s
  | .functionReady bit => Sys2Proof.Machine.execFunctionReady bit s
  | .bootImageLoad kind image => Sys2Proof.Machine.execBootImageLoad kind image s
  | .attestationRequest nonce => Sys2Proof.Machine.execAttestationRequest nonce s
  | .powerctlWrite value => Sys2Proof.Machine.execPowerctlWrite value s
  | .referenceTimeWrite value => Sys2Proof.Machine.execReferenceTimeWrite value s
  | .setVaultSplit vault d => Sys2Proof.Machine.execSetVaultSplit vault d s
  | .setShadowStorage die enable => Sys2Proof.Machine.execSetShadowStorage die enable s
  | .setPartitionColumns part columns => Sys2Proof.Machine.execSetPartitionColumns part columns s
  | .setHbmShare part range => Sys2Proof.Machine.execSetHbmShare part range s
  | .setDeterministicMode part enable => Sys2Proof.Machine.execSetDeterministicMode part enable s
  | .setDebug part enable => Sys2Proof.Machine.execSetDebug part enable s
  | .queueCreate part queue prio => Sys2Proof.Machine.execQueueCreate part queue prio s
  | .wakeBitsWrite part queue bits => Sys2Proof.Machine.execWakeBitsWrite part queue bits s
  | .partnerAssign dev => Sys2Proof.Machine.execPartnerAssign dev s
  | .castlingCandidateName dev => Sys2Proof.Machine.execCastlingCandidateName dev s
  | .journalCapacitySet mib => Sys2Proof.Machine.execJournalCapacitySet mib s
  | .deviceFence dev => Sys2Proof.Machine.execDeviceFence dev s
  | .linkKeyInstall port kslot key => Sys2Proof.Machine.execLinkKeyInstall port kslot key s
  | .unreachableClear dest => Sys2Proof.Machine.execUnreachableClear dest s
  | .collectiveAbort cid sq => Sys2Proof.Machine.execCollectiveAbort cid sq s
  | .pageTableRootSet part root => Sys2Proof.Machine.execPageTableRootSet part root s
  | .tlbInvalidation part va => Sys2Proof.Machine.execTlbInvalidation part va s
  | .collectiveLogBaseSet part base => Sys2Proof.Machine.execCollectiveLogBaseSet part base s
  | .tswBaseSet die base => Sys2Proof.Machine.execTswBaseSet die base s
  | .restoreWrite part src => Sys2Proof.Machine.execRestoreWrite part src s
  | .hostPreemptionRequest gid => Sys2Proof.Machine.execHostPreemptionRequest gid s
  | .launchCancel lid => Sys2Proof.Machine.execLaunchCancel lid s
  | .codeObjectLoad placing => Sys2Proof.Machine.execCodeObjectLoad placing s
  | .hostCxlMemAccess key write size => Sys2Proof.Machine.execHostCxlMemAccess key write size s
  | .statusPageUpdate part => Sys2Proof.Machine.execStatusPageUpdate part s
  | .managementRegisterWrite reg => Sys2Proof.Machine.execManagementRegisterWrite reg s
  | .hotThresholdCleared die => Sys2Proof.Machine.execHotThresholdCleared die s
  | .tlbInvalidationComplete part va => Sys2Proof.Machine.execTlbInvalidationComplete part va s
  | .linkRetrainingComplete port up => Sys2Proof.Machine.execLinkRetrainingComplete port up s

end Sys2Proof.Machine
end

