-- ==== Sys2Proof/Machine/Fetch.lean ====
section
/-! DEFINITION. The run of one word of a team (R53), and the choice of the team that issues (R24, R372). -/

namespace Sys2Proof.Machine

/-! ## One word of a team -/

/-- What a word does: its instruction, ILLEGAL, or the park of a reserved opcode or form (R53, R55). -/
def State.runWord (s : State) (w : Word) : Host.Outcome State Fault Refusal :=
  match decode w with
  | .ok i => exec i s
  | .error .illegalOpcode => execIllegalOpcode s
  | .error .badField => execIllegalOpcode s
  | .error .reservedOpcode => execReservedOpcodePark s
  | .error .reservedForm => execReservedOpcodePark s

/-- Cycles for which the datapath is kept: one for each exec word that is not zero, at least one (R20, R24; log entry 6). -/
def Team.beatCycles (t : Team) : Nat := max 1 (t.execWindow.filter (· ≠ 0)).length

/-- The cycle count of a quadrant moved on (R19). -/
def State.tick (s : State) (core quad n : Nat) : State :=
  s.onCore core fun c => { c with cycles := sput 0 c.cycles quad (sget 0 c.cycles quad + BitVec.ofNat 64 n) }

/-- After an instruction has issued: the promotion of its team ends (R372), and its quadrant's cycles pass. -/
def State.issued (s : State) (slot : Nat) (t : Team) : State :=
  (s.onTeam slot fun u => { u with sched := { u.sched with promoted := false } }).tick t.core t.quad t.beatCycles

/-- An instruction that can leave every register and the PC as they are, by transferring control to itself. -/
def selfTarget : Instr → Bool
  | .bra _ => true
  | .bany _ _ => true
  | .ball _ _ => true
  | .bnone _ _ => true
  | .bsz _ _ => true
  | .bsnz _ _ => true
  | .bdiv _ _ => true
  | .bdivl _ _ => true
  | .brs _ => true
  | .chkb _ _ => true
  | .loop _ _ => true
  | _ => false

/-- The word is a transfer of control whose operands are full: it issues, whatever it changes. -/
def State.transfers (s : State) (t : Team) (w : Word) : Bool :=
  match decode w with
  | .ok i => selfTarget i && decide (t.gate (s.mxsel t) i = .go)
  | .error _ => false

/-- The operand cache after an instruction that issues has read its vector registers: what it holds of them counts as used last (R46). -/
def State.readOperands (s : State) (slot : Nat) (t : Team) (w : Word) : State :=
  match decode w with
  | .error _ => s
  | .ok i =>
    let rs := (needOf t (s.mxsel t) i).vr
    let es := sget [] (s.core t.core).opcache t.quad
    let used := es.filter fun e => e.1 == slot && rs.contains e.2
    if used.isEmpty || decide (t.gate (s.mxsel t) i ≠ .go) then s
    else s.onCore t.core fun c => { c with opcache := sput [] c.opcache t.quad (used ++ es.filter fun e => !used.contains e) }

/-- The issue of the team of a slot: the pops of R124 first, then the word at PC. None where the team is not ready: it is parked, asleep or
held by YIELD, or its instruction waits and changes nothing (R48, R372). -/
def State.attempt (s : State) (slot : Nat) (held : Bool) : Option (Host.Outcome State Fault Refusal) :=
  match s.team? slot with
  | none => none
  | some t =>
    if !t.canIssue then none
    else
      let s0 := { s with cur := some slot }
      if t.pc = t.ctl.rpc then
        match execDivergencePop s0 with
        | .next s1 => if s1 = s0 then none else some (.next s1)
        | o => some o
      else match s0.fetch slot t held with
        | (s1, .error code) => some (.next (s1.trap slot { Report.precise code t.allLanes with vaddr := t.pc }))
        | (s1, .ok w) =>
          let s2 := s1.readOperands slot t w
          match s2.runWord w with
          | .next s3 => if s3 = s2 && !s0.transfers t w then none else some (.next ((s3.fillLoop slot t held).issued slot t))
          | o => some o

/-! ## The scheduler of a quadrant (R24, R372) -/

/-- The class of a team: its group's priority, or 4 once it is promoted (R372). -/
def State.classOf (s : State) (t : Team) : Nat :=
  if t.sched.promoted then 4 else match s.group? t.group with | some g => g.prio | none => 0

/-- Team a comes before team b: a higher class, then the older. -/
def State.before (s : State) (a b : Nat × Team) : Bool :=
  decide (s.classOf b.2 < s.classOf a.2 ∨ (s.classOf a.2 = s.classOf b.2 ∧
    (a.2.sched.age < b.2.sched.age ∨ (a.2.sched.age = b.2.sched.age ∧ a.1 < b.1))))

/-- The teams of a quadrant in the order in which its scheduler considers them. -/
def State.ranked (s : State) (core quad : Nat) : List Nat :=
  let ts := s.teams.filterMap fun (e : Nat × Option Team) => match e.2 with
    | some t => if t.core = core ∧ t.quad = quad then some (e.1, t) else none
    | none => none
  (sortWhere s.before ts).map (·.1)

/-- The issue slot of a quadrant: the oldest ready team of the highest class. None where no team is ready. -/
def State.pick (s : State) (core quad : Nat) (held : Bool) : Option (Host.Outcome State Fault Refusal) :=
  (s.ranked core quad).findSome? fun slot => s.attempt slot held

end Sys2Proof.Machine
end

