-- ==== Sys2Proof/Machine/Schedule.lean ====
section
/-! DEFINITION. What moves next (log entry 1): the agenda's entries, and where the agenda is empty the default schedule; the bench on
which a word is put for its fetch (log entry 15). -/

namespace Sys2Proof.Machine

/-! ## Entries of the agenda -/

/-- An event may stand in the agenda: it is no word instruction, and none of the three that only a team's own issue brings. -/
def mayHappen (i : Instr) : Bool :=
  match i with
  | .illegalOpcode => false
  | .reservedOpcodePark => false
  | .divergencePop => false
  | _ => (encode i).isNone

/-- An event of the agenda; only a ready team is promoted: one whose issue would go on (R372). -/
def State.happen (s : State) (i : Instr) : Host.Outcome State Fault Refusal :=
  match i with
  | .teamPromotion slot => if (s.attempt slot true).isSome then exec i s else .next s
  | _ => if mayHappen i then exec i s else .next s
/-- One entry performed. A quadrant whose scheduler finds no ready team spends a cycle; an entry that may not happen changes nothing. -/
def State.perform (s : State) : Entry → Host.Outcome State Fault Refusal
  | .issue core quad held => (s.pick core quad held).getD (.next (s.tick core quad 1))
  | .event i => s.happen i
  | .idle core quad n => .next (s.tick core quad n)

/-! ## The default schedule -/

/-- The first of some moves that changes the state. -/
def firstChange (s : State) : List (State → Host.Outcome State Fault Refusal) → Option State
  | [] => none
  | f :: fs => match f s with
    | .next s1 => if s1 = s then firstChange s fs else some s1
    | _ => firstChange s fs

/-- The moves by which an operation goes on without anything from outside the device. -/
def Op.moves (o : Op) : List (State → Host.Outcome State Fault Refusal) :=
  match o.kind with
  | .sfu _ => [execSfuResultWritten o.id]
  | .load _ => [execLoadDataReturn o.id { useCopies := false, peer := [], fails := [] }]
  | .touch _ _ _ _ => [execLoadDataReturn o.id { useCopies := false, peer := [], fails := [] }]
  | .store st =>
    if st.pend.isSome then [execLoadDataReturn o.id { useCopies := false, peer := [], fails := [] }]
    else (List.range st.units.length).map fun u => execStorePerformed o.id u none
  | .atom _ => [execAtomicApplied o.id { peer := [], fails := [] }]
  | .signal _ => [execAtomicApplied o.id { peer := [], fails := [] }]
  | .ask (.clock _ _ _) => [execClkrdAnswer o.id]
  | .ask (.peer _ _ _) => [execRouterAnswer o.id]
  | .ask (.power _ _) => [execPwreqGrant o.id]
  | .ask (.wake _ _ _ _ _) => []
  | .command _ => [execPowerPermitGrant o.id, execEngineCommandStart o.id, execCopyCommandCompletion o.id { units := 0, part := 0 },
      execMatrixCommandCompletion o.id { units := 0, part := 0 }, execGrammarUnitCompletion o.id, execGenerationUnitCompletion o.id]

/-- The moves of teams that have exited and of groups that may commit. -/
def State.leaving (s : State) : List (State → Host.Outcome State Fault Refusal) :=
  (s.teams.filterMap fun (e : Nat × Option Team) => match e.2 with
    | some t => if t.status = .exited then some (execTeamLeaveQuadrant e.1) else none
    | none => none) ++ s.groups.map fun (e : Nat × Option Group) => execGroupCommit e.1

/-- The moves of the command processor and the distributor (R247, R365, R368): queue entries in order, launches that may start, groups that fit. -/
def State.commandMoves (s : State) : List (State → Host.Outcome State Fault Refusal) :=
  (s.parts.flatMap fun (p : Nat × Partition) => p.2.queues.flatMap fun (q : Nat × Option Queue) =>
    [execQueueLaunch p.1 q.1, execQueueDrain p.1 q.1, execQueueWrite p.1 q.1, execQueueWaitwake p.1 q.1, execQueueNop p.1 q.1,
      execQueueEntrySkipped p.1 q.1]) ++
  (s.launches.map fun (l : Nat × Option Launch) => execLaunchStart l.1) ++
  (s.parts.flatMap fun (p : Nat × Partition) => (s.waitingGroups p.1).flatMap fun x => (List.range Config.cores).flatMap fun c =>
    ((s.quadLoads c).plans ((x.2.1.recordOf x.2.2.2).decls.map TeamDecl.cost)).map fun qs =>
      execGroupPlacement x.1 ⟨x.2.2.2.child, x.2.2.2.index⟩ c qs)
/-- The moves of Beloft that need no decision of its own or of the host's (R380, R381): it takes a trap that is no lazy function to be bound,
and resumes a team whose service is over. -/
def State.handlerMoves (s : State) : List (State → Host.Outcome State Fault Refusal) :=
  let lazy_ (d : Nat) : Bool := match (s.die d).trapQueue.head?.bind s.team? with
    | some t => t.cause == 0x13 && t.report.tcode == 0x0100
    | none => true
  ((List.range 4).filter fun d => !lazy_ d).map (fun d => execTrapQueueTake ⟨d, none⟩) ++
  s.teams.filterMap fun (e : Nat × Option Team) => match e.2 with
    | some t =>
      if t.status = .inHandler && (match t.service with | some .ready | some .bound | some (.unlock _) => true | _ => false) then
        some (execCtrlResume e.1 ⟨none, none⟩) else none
    | none => none
/-- The quadrants that hold teams, beginning after that of the team that issued last. -/
def State.quadsInTurn (s : State) : List (Nat × Nat) :=
  let place (slot : Nat) : Option (Nat × Nat) := (s.team? slot).map fun t => (t.core, t.quad)
  let qs := (s.teams.filterMap fun (e : Nat × Option Team) => place e.1).eraseDups
  match s.cur.bind place with
  | some c => (qs.dropWhile fun q => q != c).drop 1 ++ (qs.takeWhile fun q => q != c) ++ [c]
  | none => qs

/-- The machine with nothing in the agenda: a move of the oldest operation that has one, else of an exited team or a committing group, else of
a handler, of the command processor or of the distributor, else the issue slot of the next quadrant with a ready team, else nothing. -/
def State.byDefault (s : State) : Host.Outcome State Fault Refusal :=
  match firstChange s ((s.ops.map Op.moves).flatten ++ s.leaving ++ s.handlerMoves ++ s.commandMoves) with
  | some s1 => .next s1
  | none => ((s.quadsInTurn).findSome? fun q => s.pick q.1 q.2 true).getD (.next s)

/-! ## A word where the next step fetches -/

/-- The launch record of the bench: one level of one team, k = 1, 128 registers, role GEN, no scratchpad beyond 4 KiB (R361). -/
def benchRecord : LaunchRec :=
  { levels := [{ extent := 1, domain := 4, home := 2 }], gteams := 1, teams := [{ beats := 1, nvregs := 128, role := 0 }], rings := [],
    coop := false, idem := false, mxsel := false, prio := 0, tiles := 0, spilld := 0, frlog2 := 1, scratch := 4096, fsidx := 0,
    entry := 0x10000, ctab := 0, brtab := 0, frbase := 0x8000, plybase := 0, plystep := 0, args := [], fmts := [], handles := [],
    minor := 0 }

/-- The bench's launch: its one group is resident. -/
def benchLaunch (gid : Nat) : Launch :=
  { part := 0, queue := 0, qprio := 0, record := benchRecord, dest := .none, parent := none, started := true, waiting := [], resident := [gid],
    begun := 1, ended := 0, killed := 0, cancelled := false, complete := false, children := [], units := [] }

/-- A powered device, every function ready, with one partition that has the first GiB of HBM, its first 1 GiB of addresses mapped to device memory with every permission by tables at 0x1000
and 0x2000, and one group of one team on core 0. -/
def State.bench (s : State) : State :=
  let lid := s.nextId
  let gid := s.nextId + 1
  let m := (s.mem.setBytes 0x1000 (leBytes 8 0x2001)).setBytes 0x2000 (leBytes 8 0xF3)
  let s1 := { s with
    nextId := s.nextId + 2, mem := m
    board := { s.board with powered := true, removed := false, boot := .running, ready := 0xFFFFFFFFFFFFFFFF000000001FFFFFFF#128 }
    parts := sput Partition.reset s.parts 0 { Partition.reset with columns := 1, root := 0x1000, hbmShare := 2 ^ 30 }
    cores := sdel s.cores 0,
    teams := s.teams.filter fun (e : Nat × Option Team) => decide (Config.slotsPerCore ≤ e.1) }
  ((s1.setLaunch lid (benchLaunch gid)).setGroup gid
    (newGroup (benchLaunch gid) lid { child := none, index := 0, reruns := 0, again := false } 0 0 gid [])).setTeam 0
      (newTeam benchRecord 0 0 gid 0 0 0)

/-- Where a team that can issue fetches its next word from memory, by the tables alone. -/
def State.fetchKey (s : State) (t : Team) : Option Nat :=
  if !t.canIssue || decide (t.pc = t.ctl.rpc) then none
  else match windowOf t.pc.toNat, s.walkNow (s.partOf t) t.pc.toNat with
    | .translated, .leaf d sz => 
      if leafAllows d .fetch && decide (leafPath d ≠ 4) && s.leafInside (s.partOf t) d sz t.pc.toNat &&
          (decide (leafPath d ≠ 2) || s.stackUp (leafKey d sz t.pc.toNat)) then some (leafKey d sz t.pc.toNat) else none
    | _, _ => none

/-- The team that issued last, where it can fetch from memory: its slot, itself and the key of its word. -/
def State.fetcher (s : State) : Option (Nat × Team × Nat) :=
  match s.cur with
  | none => none
  | some slot => match s.team? slot with
    | none => none
    | some t => (s.fetchKey t).map fun k => (slot, t, k)

/-- A word stored where a team fetches: what the caches, the loop buffer and the TLB held of it goes, and the next step is the issue of that
team's quadrant, which considers it first. -/
def State.putWord (s : State) (slot : Nat) (t : Team) (key : Nat) (w : Word) : State :=
  let demote (e : Nat × Option Team) : Nat × Option Team := (e.1, e.2.map fun u =>
    if u.core = t.core ∧ u.quad = t.quad then { u with sched := { u.sched with promoted := false } } else u)
  let s1 := { s with
    mem := s.mem.setBytes key (leBytes 4 w.toNat), marks := sdel s.marks (key / 32), teams := s.teams.map demote,
    agenda := [.issue t.core t.quad true], board := { s.board with removed := false } }
  let s2 := (s1.onPart (s.partOf t) fun p => { p with tlb := [], stale := [] }).onCore t.core fun c => 
    { c with icache := c.icache.filter fun e => e.1 != key / 4 }
  s2.setTeam slot { t with
    sched := { t.sched with promoted := true }, ctl := { t.ctl with loop := { t.ctl.loop with buffer := [] } } }

end Sys2Proof.Machine
end

