-- ==== Sys2Proof/Machine/Step.lean ====
section
/-! DEFINITION. One step of the machine, and the state in which the next step runs a given word. -/

namespace Sys2Proof.Machine

/-- The state with the power on: removed power lets only a power-up happen (R399, R406). -/
def State.dark (s : State) : Bool :=
  s.board.removed && (match s.agenda with
    | .event .powerUp :: _ => false
    | _ => true)

/-- One step: the first entry of the agenda, or the default schedule (log entry 1). -/
def step (s : State) : Host.Outcome State Fault Refusal :=
  if s.dark then .fault .powerRemoved
  else match s.agenda with
    | e :: rest => { s with agenda := rest }.perform e
    | [] => s.byDefault

/-- The state in which the next step fetches and runs the instruction with the table bits w (log entry 15): the word stands where the
current team fetches, or on the bench where no team can fetch. -/
def State.withFetchWord (s : State) (nbits w : Nat) : State :=
  let v : Word := BitVec.ofNat 32 (w % 2 ^ min nbits 32)
  match s.fetcher with
  | some (slot, t, key) => s.putWord slot t key v
  | none =>
    let b := { s.bench with cur := some 0 }
    match b.fetcher with
    | some (slot, t, key) => b.putWord slot t key v
    | none => b

end Sys2Proof.Machine
end

