-- ==== Sys2Proof/Safety.lean ====
section
/-! DEFINITION. What claims are stated in: a team that runs an instruction, what a run leaves unchanged, and the values that the rules give,
written with numbers and bits apart from the meanings. -/

namespace Sys2Proof.Machine

/-- The team of a slot runs an instruction now: it is the current team, it can issue, and every check and wait of R48, R53, R198 and R299 lets
the instruction's body run (the statements about the gate say when each of them does not). -/
def Runs (s : State) (slot : Nat) (t : Team) (i : Instr) : Prop :=
  s.cur = some slot ∧ s.team? slot = some t ∧ t.canIssue = true ∧ t.gate (s.mxsel t) i = .go

/-- The byte of memory at a key, as every party reads it at its home. -/
def memByte (s : State) (k : Nat) : Byte := s.mem.byte k

/-- Memory reads the same at every address. -/
def SameMemory (s s' : State) : Prop := ∀ k, memByte s' k = memByte s k

/-- Memory reads the same at every address outside a list. -/
def SameBut (s s' : State) (keys : List Nat) : Prop := ∀ k, k ∉ keys → memByte s' k = memByte s k

/-- Only the team of a slot and the operand caches of its core may have changed: memory, the other teams, the groups, the outstanding
operations, locks, partitions, dies, launches, journal, fabric and board are as before. -/
def OnlyTeam (s s' : State) (slot : Nat) (t : Team) : Prop :=
  { s' with teams := s.teams, cores := s.cores } = s ∧ (∀ n, n ≠ slot → s'.team? n = s.team? n) ∧
    (∀ c, c ≠ t.core → s'.core c = s.core c) ∧ { s'.core t.core with opcache := (s.core t.core).opcache } = s.core t.core

/-- The scalar registers outside a list hold what they held. -/
def SameScalars (t t' : Team) (rs : List Nat) : Prop := ∀ r, r ∉ rs → t'.rs r = t.rs r

/-- The vector registers outside a list hold the data and tags they held. -/
def SameVectors (t t' : Team) (rs : List Nat) : Prop :=
  ∀ r, r ∉ rs → ∀ l, l < t.lanes → (t'.lane r l).data = (t.lane r l).data ∧ (t'.lane r l).tag = (t.lane r l).tag

/-- The special registers of a team, its trap report, fault-record cursor, power and in-flight counters are as before. -/
def SameSpecial (t t' : Team) : Prop :=
  t'.mode = t.mode ∧ t'.akind = t.akind ∧ t'.pmcount = t.pmcount ∧ t'.mxm = t.mxm ∧ t'.brtab = t.brtab ∧ t'.report = t.report ∧
    t'.frcur = t.frcur ∧ t'.power = t.power ∧ t'.flight = t.flight ∧ t'.latch = t.latch ∧ t'.status = t.status

/-- Beside its registers, its control state, its format state and its PC a team is as before: its mode and special registers, report, failures,
drains, counters, schedule and all the rest. -/
def SameRest (t t' : Team) : Prop := { t' with pc := t.pc, regs := t.regs, ctl := t.ctl, fmt := t.fmt } = t

/-- The divergence stack, RPC and the live mask are as before, and the loop is as the move of the PC to the next instruction leaves it: of the
control state only poison bits and tokens of the cond window may differ. -/
def SameControl (t t' : Team) : Prop := { t'.ctl with cpois := t.ctl.cpois, ctok := t.ctl.ctok } = t.advance.ctl

/-- Every register is full or empty as before. -/
def SameFilled (t t' : Team) : Prop := t'.regs.sEmpty = t.regs.sEmpty ∧ t'.regs.vEmpty = t.regs.vEmpty

/-- The format definitions, statistics, seed and count are as before. -/
def SameFormats (t t' : Team) : Prop := t'.fmt = t.fmt

end Sys2Proof.Machine

namespace Sys2Proof.Claim

open Sys2Proof.Machine

/-! ## Scalar results (R111 to R113) -/

/-- The register a scalar instruction writes and the word the rules give it, by integer arithmetic. -/
def scalarWrite (t : Team) (i : Instr) : Option (SReg × Word) :=
  let x (r : SReg) : Word := t.rs r.toNat
  let u (r : SReg) : Nat := (x r).toNat
  let z (r : SReg) : Int := (x r).toInt
  match i with
  | .sadd sd sa sb => some (sd, word (u sa + u sb))
  | .ssub sd sa sb => some (sd, BitVec.ofInt 32 ((u sa : Int) - u sb))
  | .smul sd sa sb => some (sd, word (u sa * u sb))
  | .smulhi sd sa sb => some (sd, BitVec.ofInt 32 (z sa * z sb / 2 ^ 32))
  | .smulhn sd sa sb => some (sd, word (u sa * u sb / 2 ^ 32))
  | .sdivi sd sa sb => some (sd, if u sb = 0 then 0xFFFFFFFF else BitVec.ofInt 32 ((z sa).tdiv (z sb)))
  | .sdivn sd sa sb => some (sd, if u sb = 0 then 0xFFFFFFFF else word (u sa / u sb))
  | .sremi sd sa sb => some (sd, if u sb = 0 then x sa else BitVec.ofInt 32 ((z sa).tmod (z sb)))
  | .sremn sd sa sb => some (sd, if u sb = 0 then x sa else word (u sa % u sb))
  | .sand sd sa sb => some (sd, x sa &&& x sb)
  | .sor sd sa sb => some (sd, x sa ||| x sb)
  | .sxor sd sa sb => some (sd, x sa ^^^ x sb)
  | .sshl sd sa sb => some (sd, word (u sa * 2 ^ u sb))
  | .sshrn sd sa sb => some (sd, word (u sa / 2 ^ u sb))
  | .sshri sd sa sb => some (sd, BitVec.ofInt 32 (z sa / 2 ^ u sb))
  | .smini sd sa sb => some (sd, if z sa < z sb then x sa else x sb)
  | .sminn sd sa sb => some (sd, if u sa < u sb then x sa else x sb)
  | .smaxi sd sa sb => some (sd, if z sa < z sb then x sb else x sa)
  | .smaxn sd sa sb => some (sd, if u sa < u sb then x sb else x sa)
  | .slti sd sa sb => some (sd, if z sa < z sb then 1 else 0)
  | .sltn sd sa sb => some (sd, if u sa < u sb then 1 else 0)
  | .seq sd sa sb => some (sd, if u sa = u sb then 1 else 0)
  | .ssel sd sa sb => some (sd, if u sd = 0 then x sb else x sa)
  | .saddi sd imm => some (sd, BitVec.ofInt 32 (z sd + imm.toInt))
  | .sli sd imm => some (sd, BitVec.ofInt 32 imm.toInt)
  | .slih sd imm => some (sd, word (imm.toNat * 2 ^ 16 + u sd % 2 ^ 16))
  | _ => none

/-! ## Lane results (R142, R147 to R150) -/

/-- The register a lane-local instruction writes and what lane l of it receives: a word, or the token of the first poisoned source in
operand order (R10). -/
def laneWrite (t : Team) (l : Nat) (i : Instr) : Option (VReg × Except Word Word) :=
  let v (r : VReg) : Except Word Word := t.rv r.toNat l
  let one (r : VReg) (f : Word → Word) : Except Word Word := (v r).map f
  let two (a b : VReg) (f : Word → Word → Word) : Except Word Word := (v a).bind fun x => (v b).map fun y => f x y
  match i with
  | .vmov vd va _ _ _ => some (vd, v va)
  | .vmovs vd sb _ _ => some (vd, .ok (t.rs sb.toNat))
  | .vli vd imm => some (vd, .ok (BitVec.ofInt 32 imm.toInt))
  | .vlih vd imm => some (vd, one vd fun d => word (imm.toNat * 2 ^ 16 + d.toNat % 2 ^ 16))
  | .vand vd va vb _ _ _ => some (vd, two va vb fun a b => a &&& b)
  | .vor vd va vb _ _ _ => some (vd, two va vb fun a b => a ||| b)
  | .vxor vd va vb _ _ _ => some (vd, two va vb fun a b => a ^^^ b)
  | .vandn vd va vb _ _ _ => some (vd, two va vb fun a b => a &&& ~~~b)
  | .vshl vd va vb _ _ _ => some (vd, two va vb fun a b => word (a.toNat * 2 ^ b.toNat))
  | .vshrn vd va vb _ _ _ => some (vd, two va vb fun a b => word (a.toNat / 2 ^ b.toNat))
  | .vshri vd va vb _ _ _ => some (vd, two va vb fun a b => BitVec.ofInt 32 (a.toInt / 2 ^ b.toNat))
  | .vshli vd va _ n => some (vd, one va fun a => word (a.toNat * 2 ^ n.toNat))
  | .vshrni vd va _ n => some (vd, one va fun a => word (a.toNat / 2 ^ n.toNat))
  | .vshrii vd va _ n => some (vd, one va fun a => BitVec.ofInt 32 (a.toInt / 2 ^ n.toNat))
  | .vrot vd va vb _ _ _ => some (vd, two va vb fun a b =>
      word (a.toNat * 2 ^ (b.toNat % 32) + a.toNat / 2 ^ (32 - b.toNat % 32)))
  | .vbitopPopc vd va _ _ _ => some (vd, one va fun a => word (popcount a))
  | .vbitopClz vd va _ _ _ => some (vd, one va fun a => word (leadingZeros a))
  | .vbitopCtz vd va _ _ _ => some (vd, one va fun a => word (trailingZeros a))
  | .vbitopBrev vd va _ _ _ => some (vd, one va bitReverse)
  | .vbfx vd va sb _ _ => some (vd, one va fun a => fieldExtract a (t.rs sb.toNat))
  | .vbfi vd va sb _ _ => some (vd, two va vd fun a d => fieldInsert d a (t.rs sb.toNat))
  | .vprmb vd va vb _ _ _ => some (vd, two va vb permuteBytes)
  | .vsel vd va vb _ _ _ => some (vd, (if t.cond l then v va else v vb).bind fun x =>
      if maskBit t.ctl.cpois l then .error (maskWord t.ctl.ctok (l / 32)) else .ok x)
  | .vadda vd va vb _ _ _ => some (vd, two va vb fun a b => word (a.toNat + b.toNat))
  | .vmada vd va vb _ _ _ => some (vd, (v va).bind fun a => (v vb).bind fun b => (v vd).map fun d => word (a.toNat * b.toNat + d.toNat))
  | .vlane vd sel _ _ _ => some (vd, .ok (word (if sel = 0 then l else if sel = 1 then l % 32 else l / 32)))
  | _ => none

/-- A finite value as a number (R81). -/
def number (neg : Bool) (m : Nat) (e : Int) : ℚ := (if neg then -1 else 1) * (m : ℚ) * (2 : ℚ) ^ e

/-- a < b as numbers, the infinities at the ends; false of a NaN (R172). -/
def below (a b : Val) : Prop :=
  match a, b with
  | .inf n, .inf m => n = true ∧ m = false
  | .inf n, .fin _ _ _ => n = true
  | .fin _ _ _, .inf m => m = false
  | .fin n m e, .fin n' m' e' => number n m e < number n' m' e'
  | .nan, _ | _, .nan => False

/-- a = b as numbers, so that the zeros are equal; false of a NaN (R172). -/
def equals (a b : Val) : Prop :=
  match a, b with
  | .inf n, .inf m => n = m
  | .fin n m e, .fin n' m' e' => number n m e = number n' m' e'
  | _, _ => False

/-- The predicates of VCMP by bits 2:0 of its code (R172). -/
def compares (code : Nat) (a b : Val) : Prop :=
  match code with
  | 0 => equals a b
  | 1 => ¬ equals a b
  | 2 => below a b
  | 3 => below a b ∨ equals a b
  | 4 => below b a
  | 5 => below b a ∨ equals a b
  | 6 => a ≠ .nan ∧ b ≠ .nan
  | _ => a = .nan ∨ b = .nan

/-- The class bit of a code of a format (R173): a float code with exponent field 0 is subnormal where the format has subnormals. -/
def classBit (f : Fmt) (code : Nat) : Nat :=
  match decodeVal f code with
  | .nan => 0
  | .inf _ => 1
  | .fin neg m _ =>
    if m = 0 then 4
    else if f.isInt = false ∧ f.sub = 0 ∧ code / 2 ^ f.m % 2 ^ f.e = 0 then (if neg then 3 else 5)
    else if neg then 2 else 6

/-! ## Numbers and rounding (R81 to R88, R174) -/

/-- The positive real number that a magnitude stands for: the floor of its base-2 logarithm, and the floor of its product with every power of two,
marked where that is exact. -/
def denotes (x : Mag) (v : ℝ) : Prop :=
  (2 : ℝ) ^ x.log ≤ v ∧ v < (2 : ℝ) ^ (x.log + 1) ∧ ∀ j : Int, ((x.scale j).1 : ℝ) ≤ v * (2 : ℝ) ^ j ∧
    v * (2 : ℝ) ^ j < (x.scale j).1 + 1 ∧ ((x.scale j).2 = true ↔ v * (2 : ℝ) ^ j = (x.scale j).1)

/-- A code of a format is finite and has the value v. -/
def finite (f : Fmt) (code : Nat) (v : ℝ) : Prop := ∃ n m e, decodeVal f code = .fin n m e ∧ v = (number n m e : ℝ)

/-- r is what rounding makes of x between the adjacent grid points lo < x < hi (R85). -/
def rounded (rnd draw : Nat) (x lo hi : ℝ) (loEven : Prop) (r : ℝ) : Prop :=
  match rnd with
  | 0 => (x - lo < hi - x → r = lo) ∧ (hi - x < x - lo → r = hi) ∧ (x - lo = hi - x → (loEven → r = lo) ∧ (¬ loEven → r = hi))
  | 1 => (|lo| < |hi| → r = lo) ∧ (|hi| < |lo| → r = hi)
  | 2 => r = hi
  | 3 => r = lo
  | 4 => (x - lo < hi - x → r = lo) ∧ (hi - x < x - lo → r = hi) ∧
      (x - lo = hi - x → (|lo| < |hi| → r = hi) ∧ (|hi| < |lo| → r = lo))
  | _ => (2 ^ 32 ≤ ⌊2 ^ 32 * ((x - lo) / (hi - lo))⌋ + (draw : Int) → r = hi) ∧
      (⌊2 ^ 32 * ((x - lo) / (hi - lo))⌋ + (draw : Int) < 2 ^ 32 → r = lo)

/-- The highest exponent field of a float format that holds finite values, and the greatest mantissa there (R83). -/
def topField (f : Fmt) : Nat × Nat :=
  let x := if f.inf = 1 ∨ (f.nan = 2 ∧ f.m = 0) then 2 ^ f.e - 2 else 2 ^ f.e - 1
  (x, if f.nan = 2 ∧ 1 ≤ f.m ∧ x = 2 ^ f.e - 1 then 2 ^ f.m - 2 else 2 ^ f.m - 1)

/-- The value of an exponent field and a mantissa in a float format without SUB = 1 (R81). -/
def fieldValue (f : Fmt) (x m : Nat) : ℚ :=
  if x = 0 ∧ f.sub = 0 then (2 : ℚ) ^ (1 - f.bias) * ((m : ℚ) / 2 ^ f.m) else (2 : ℚ) ^ ((x : Int) - f.bias) * (1 + (m : ℚ) / 2 ^ f.m)

/-- The least and the greatest integer of W bits of an integer or fixed kind (R84). -/
def intRange (f : Fmt) : Int × Int :=
  if f.kind = 1 ∨ (f.kind = 3 ∧ f.sign = true) then (-(2 : Int) ^ (f.w - 1), (2 : Int) ^ (f.w - 1) - 1) else (0, (2 : Int) ^ f.w - 1)

/-- r is the result of the pairwise tree of R174 over x 0, ..., x (n - 1): level t holds ceil(n / 2^t) nodes, and a last one without a partner is
carried. -/
def treeOf {α : Type} (node : Nat → Nat → α → α → α) (n : Nat) (x : Nat → α) (r : α) : Prop :=
  ∃ (y : Nat → Nat → α) (depth : Nat), (∀ i, y 0 i = x i) ∧
    (∀ t i, y (t + 1) i = if 2 * i + 1 < (n + 2 ^ t - 1) / 2 ^ t then node t i (y t (2 * i)) (y t (2 * i + 1)) else y t (2 * i)) ∧
    (n + 2 ^ depth - 1) / 2 ^ depth = 1 ∧ r = y depth 0

/-- The lane that a cross-lane move reads for active lane l, where it reads one (R153 to R155). -/
def crossSource (t : Team) (l : Nat) (i : Instr) : Option (VReg × VReg × Except Word (Option Nat)) :=
  match i with
  | .vshfl vd va vb _ _ _ => some (vd, va, (t.rv vb.toNat l).map fun x => some x.toNat)
  | .vshfliXor vd va _ c => some (vd, va, .ok (some (l ^^^ c.toNat)))
  | .vshfliUp vd va _ c => some (vd, va, .ok (if c.toNat ≤ l then some (l - c.toNat) else none))
  | .vshfliDown vd va _ c => some (vd, va, .ok (some (l + c.toNat)))
  | .vshfliRot vd va _ c => some (vd, va, .ok (some (l / 32 * 32 + (l % 32 + c.toNat) % 32)))
  | .vbcast vd va sb _ _ => some (vd, va, .ok (some (t.rs sb.toNat).toNat))
  | _ => none

/-- The token of a lane's first poisoned source in a slot, in operand order, of an active lane (R10, R117). -/
def badSource (t : Team) (l : Nat) (rs : List Nat) : Option Word :=
  if t.active l then rs.findSome? fun r => match t.readIn (t.fmtAt t.slot) r l with | .error k => some k | .ok _ => none else none

/-- The tokens of the cond window after an instruction that gives each lane l with `bad l = some k` the token k, and which lanes it poisoned and
cleared is to be read from the poison bits (R117). -/
def tokenRule (t t' : Team) (bad : Nat → Option Word) : Prop := ∀ b, b < t.beats →
  let was (l : Nat) : Bool := maskBit t.ctl.cpois l
  let now (l : Nat) : Bool := maskBit t'.ctl.cpois l
  let inWord (l : Nat) : Prop := 32 * b ≤ l ∧ l < 32 * b + 32
  let token : Word := maskWord t'.ctl.ctok b
  ((∀ l, inWord l → now l = false) → token = 0) ∧
  ((∃ l, inWord l ∧ now l = true) → (∀ l, inWord l → bad l = none) → token = maskWord t.ctl.ctok b) ∧
  ∀ m k, inWord m → bad m = some k → (∀ l, inWord l → l < m → bad l = none) →
    ((∃ l, inWord l ∧ l < m ∧ was l = true ∧ now l = true) → token = maskWord t.ctl.ctok b) ∧
    ((∀ l, inWord l → l < m → was l = true → now l = false) → token = k)

/-- The registers that lane and format instructions mark for last use, with the hint bits: la marks va, or both registers of a pair, lb marks vb
(R44). -/
def lastUses (t : Team) (i : Instr) : Option (List (Nat × Bool)) :=
  let one (r : VReg) (h : Bool) : List (Nat × Bool) := [(r.toNat, h)]
  let regs (n : Nat) (r : VReg) (h : Bool) : List (Nat × Bool) := (span r.toNat (if (t.fmtAt n).pack then 2 else 1)).map (·, h)
  let slot (r : VReg) (h : Bool) : List (Nat × Bool) := regs t.slot r h
  match i with
  | .vmov _ va la _ _ | .vbitopPopc _ va la _ _ | .vbitopClz _ va la _ _ | .vbitopCtz _ va la _ _ | .vbitopBrev _ va la _ _
  | .vshli _ va la _ | .vshrni _ va la _ | .vshrii _ va la _ | .vbfx _ va _ la _ | .vbfi _ va _ la _ | .vshfliXor _ va la _
  | .vshfliUp _ va la _ | .vshfliDown _ va la _ | .vshfliRot _ va la _ | .vbcast _ va _ la _ | .vpack _ va _ la _ _ | .vunpk _ va la _ _
  | .vqnt _ va _ la _ => some (one va la)
  | .vmovs .. | .vli .. | .vlih .. | .vlane .. => some []
  | .vand _ va vb la lb _ | .vor _ va vb la lb _ | .vxor _ va vb la lb _ | .vandn _ va vb la lb _ | .vshl _ va vb la lb _
  | .vshrn _ va vb la lb _ | .vshri _ va vb la lb _ | .vrot _ va vb la lb _ | .vprmb _ va vb la lb _ | .vsel _ va vb la lb _
  | .vadda _ va vb la lb _ | .vmada _ va vb la lb _ | .vtest _ va vb la lb _ | .vshfl _ va vb la lb _ => some (one va la ++ one vb lb)
  | .vadda64 _ va vb la lb _ => some ([(va.toNat, la), (va.toNat + 1, la)] ++ one vb lb)
  | .vadd _ va vb la lb _ | .vsub _ va vb la lb _ | .vmul _ va vb la lb _ | .vfma _ va vb la lb _ | .vfms _ va vb la lb _
  | .vfnma _ va vb la lb _ | .vmin _ va vb la lb _ | .vmax _ va vb la lb _ | .vminm _ va vb la lb _ | .vmaxm _ va vb la lb _
  | .vmulhi _ va vb la lb _ | .vcmp _ va vb la lb _ | .vdot _ va vb la lb _ | .vdiv _ va vb la lb _ => some (slot va la ++ slot vb lb)
  | .vscalb _ va vb la lb _ => some (slot va la ++ one vb lb)
  | .vabs _ va la _ _ | .vneg _ va la _ _ | .vrnd _ va la _ _ | .vclass _ va la _ _ | .vredadd _ va la _ _ | .vredmax _ va la _ _
  | .vredmin _ va la _ _ | .vscanAdd _ va la _ _ | .vscanAddx _ va la _ _ | .vscanMax _ va la _ _ | .vscanMin _ va la _ _
  | .vdqnt _ va _ la _ | .vstat va la _ _ | .vsqrt _ va la _ _ | .vrcp _ va la _ _ | .vrsq _ va la _ _ | .vexp2 _ va la _ _
  | .vlog2 _ va la _ _ | .vsin _ va la _ _ | .vcos _ va la _ _ | .vtanh _ va la _ _ => some (slot va la)
  | .vcvt _ va fs _ la _ _ => some (regs fs.toNat va la)
  | _ => none

/-! ## Format arithmetic (R164 to R167, R171) -/

/-- The destination of an element-wise format instruction and the codes that lane l receives in the slot, with their statistics. -/
def slotWrite (t : Team) (l : Nat) (i : Instr) : Option (VReg × LaneCodes) :=
  match i with
  | .vadd vd va vb _ _ _ => some (vd, t.map2 va.toNat vb.toNat l fun a b => (sumVals t.down [a, b]).exact)
  | .vsub vd va vb _ _ _ => some (vd, t.map2 va.toNat vb.toNat l fun a b => (sumVals t.down [a, b.negate]).exact)
  | .vmul vd va vb _ _ _ => some (vd, t.map2 va.toNat vb.toNat l fun a b => (mulVals a b).exact)
  | .vfma vd va vb _ _ _ => some (vd, t.map3 va.toNat vb.toNat vd.toNat l fun a b d => (sumVals t.down [mulVals a b, d]).exact)
  | .vfms vd va vb _ _ _ => some (vd, t.map3 va.toNat vb.toNat vd.toNat l fun a b d => (sumVals t.down [mulVals a b, d.negate]).exact)
  | .vfnma vd va vb _ _ _ => some (vd, t.map3 va.toNat vb.toNat vd.toNat l fun a b d => (sumVals t.down [d, (mulVals a b).negate]).exact)
  | .vmin vd va vb _ _ _ => some (vd, t.map2 va.toNat vb.toNat l fun a b => (minVal a b).exact)
  | .vmax vd va vb _ _ _ => some (vd, t.map2 va.toNat vb.toNat l fun a b => (maxVal a b).exact)
  | .vminm vd va vb _ _ _ => some (vd, t.map2 va.toNat vb.toNat l fun a b => (minMag a b).exact)
  | .vmaxm vd va vb _ _ _ => some (vd, t.map2 va.toNat vb.toNat l fun a b => (maxMag a b).exact)
  | .vabs vd va _ _ _ => some (vd, t.map1 va.toNat l fun a => a.abs.exact)
  | .vneg vd va _ _ _ => some (vd, t.map1 va.toNat l fun a => a.negate.exact)
  | .vrnd vd va _ _ _ => some (vd, t.elementwise [va.toNat] l fun q vs =>
      t.enc t.slot l q (roundWhole (t.rounding t.slot) (if t.rounding t.slot = 5 then t.draw l q else 0) (vs.getD 0 .nan)).exact)
  | .vscalb vd va vb _ _ _ => some (vd, (t.readIn (t.fmtAt t.slot) va.toNat l).bind fun _ => (t.rv vb.toNat l).bind fun k =>
      t.map1 va.toNat l fun a => (a.scale (scalePower k)).exact)
  | .vcvt vd va fs p _ _ _ => some (vd, t.convert vd.toNat va.toNat fs.toNat p.toNat l)
  | .vmulhi vd va vb _ _ _ =>
    let f := t.fmtAt t.slot
    some (vd, (t.readIn f va.toNat l).bind fun a => (t.readIn f vb.toNat l).map fun b =>
      let cs := (List.range f.count).map fun q => f.wrap ((f.element a q).intAt 0 * (f.element b q).intAt 0 / (2 ^ f.w : Nat))
      (cs, Stat.all (cs.map fun c => statOf f { code := c, ovc := false })))
  | _ => none

/-- The destination of a special-function instruction and the codes that lane l will receive (R168, R169). -/
def sfuWrite (t : Team) (l : Nat) (i : Instr) : Option (VReg × LaneCodes) :=
  match i with
  | .vdiv vd va vb _ _ _ => some (vd, t.map2 va.toNat vb.toNat l divVals)
  | .vsqrt vd va _ _ _ => some (vd, t.map1 va.toNat l sqrtVal)
  | .vrcp vd va _ _ _ => some (vd, t.map1 va.toNat l rcpVal)
  | .vrsq vd va _ _ _ => some (vd, t.map1 va.toNat l rsqVal)
  | .vexp2 vd va _ _ _ => some (vd, t.map1 va.toNat l exp2Val)
  | .vlog2 vd va _ _ _ => some (vd, t.map1 va.toNat l log2Val)
  | .vsin vd va _ _ _ => some (vd, t.map1 va.toNat l sinVal)
  | .vcos vd va _ _ _ => some (vd, t.map1 va.toNat l cosVal)
  | .vtanh vd va _ _ _ => some (vd, t.map1 va.toNat l tanhVal)
  | _ => none

/-- The lane of register vd + h (h = 1 the upper register of a pair) that a lane's codes make under a format: bits 32 h to 32 h + 31 of the
container, or the token (R92, R93, R96). -/
def slotLane (f : Fmt) (c : LaneCodes) (h : Nat) : Lane :=
  match c with
  | .ok r => { data := word (f.container r.1 / 2 ^ (32 * h)), tag := false, dead := false }
  | .error k => { data := k, tag := true, dead := false }

/-- The registers of a destination in the team's slot: one, or two under PACK (R93). -/
def slotWidth (t : Team) : Nat := if (t.fmtAt t.slot).pack then 2 else 1

/-! ## Instructions that change nothing beyond their team's registers -/

/-- Scalar, mask, lane, format and statistics instructions: what they may write beside the PC is a register of `needOf` and, for format
instructions, the statistics. -/
def registerOnly (i : Instr) : Bool :=
  match i with
  | .sadd .. | .ssub .. | .smul .. | .smulhi .. | .smulhn .. | .sdivi .. | .sdivn .. | .sremi .. | .sremn .. | .sand .. | .sor .. | .sxor ..
  | .sshl .. | .sshrn .. | .sshri .. | .smini .. | .sminn .. | .smaxi .. | .smaxn .. | .slti .. | .sltn .. | .seq .. | .ssel .. | .saddi ..
  | .sli .. | .slih .. | .sbitopPopc .. | .sbitopClz .. | .sbitopCtz .. | .sbitopBrev .. | .sbfx .. | .sbfi .. | .sadd64 .. | .modeget ..
  | .mopNot .. | .mopAnd .. | .mopOr .. | .mopAndn .. | .mopLoad .. | .mopSave .. | .mopPopc .. | .mopFirst .. | .msave .. | .mrest ..
  | .probe .. | .stkq .. | .vmov .. | .vmovs .. | .vli .. | .vlih .. | .vand .. | .vor .. | .vxor .. | .vandn .. | .vshl .. | .vshrn ..
  | .vshri .. | .vshli .. | .vshrni .. | .vshrii .. | .vrot .. | .vbitopPopc .. | .vbitopClz .. | .vbitopCtz .. | .vbitopBrev .. | .vbfx ..
  | .vbfi .. | .vprmb .. | .vsel .. | .vadda .. | .vmada .. | .vadda64 .. | .vlane .. | .vshfl .. | .vshfliXor .. | .vshfliUp ..
  | .vshfliDown .. | .vshfliRot .. | .vbcast .. | .vtest .. | .vpack .. | .vunpk .. | .vadd .. | .vsub .. | .vmul .. | .vfma .. | .vfms ..
  | .vfnma .. | .vmin .. | .vmax .. | .vminm .. | .vmaxm .. | .vabs .. | .vneg .. | .vrnd .. | .vscalb .. | .vmulhi .. | .vcvt .. | .vcmp ..
  | .vclass .. | .vdot .. | .vredadd .. | .vredmax .. | .vredmin .. | .vscanAdd .. | .vscanAddx .. | .vscanMax .. | .vscanMin .. | .vqnt ..
  | .vdqnt .. | .vstat .. | .fget .. => true
  | _ => false

/-- Instructions of format arithmetic among them, which add to the statistics and count stochastic roundings (R89, R97, R160). -/
def addsStatistics (i : Instr) : Bool :=
  match i with
  | .vadd .. | .vsub .. | .vmul .. | .vfma .. | .vfms .. | .vfnma .. | .vmin .. | .vmax .. | .vminm .. | .vmaxm .. | .vabs .. | .vneg ..
  | .vrnd .. | .vscalb .. | .vmulhi .. | .vcvt .. | .vcmp .. | .vclass .. | .vdot .. | .vredadd .. | .vredmax .. | .vredmin ..
  | .vscanAdd .. | .vscanAddx .. | .vscanMax .. | .vscanMin .. | .vqnt .. | .vdqnt .. | .vstat .. => true
  | _ => false

/-- The lanes of the team that VTOS reads, in order, and the word it makes of them (R158). -/
def vtosResult (t : Team) (i : Instr) : Option (VReg × SReg × List Nat × (List Word → Option Word)) :=
  match i with
  | .vtosIdx va sb _ _ => some (va, sb, if t.active (t.rs sb.toNat).toNat then [(t.rs sb.toNat).toNat] else [], List.head?)
  | .vtosFirst va sb _ _ => some (va, sb, t.activeLanes.head?.toList, List.head?)
  | .vtosLast va sb _ _ => some (va, sb, t.activeLanes.getLast?.toList, List.head?)
  | .vtosOr va sb _ _ => some (va, sb, t.activeLanes, fun ws => some (ws.foldl (fun a b => a ||| b) 0))
  | .vtosAnd va sb _ _ => some (va, sb, t.activeLanes, fun ws => some (ws.foldl (fun a b => a &&& b) 0xFFFFFFFF))
  | .vtosAdd va sb _ _ => some (va, sb, t.activeLanes, fun ws => some (word (ws.map BitVec.toNat).sum))
  | .vtosMaxn va sb _ _ => some (va, sb, t.activeLanes, fun ws => some (word (ws.foldl (fun a b => max a b.toNat) 0)))
  | .vtosMinn va sb _ _ => some (va, sb, t.activeLanes, fun ws => some (word (ws.foldl (fun a b => min a b.toNat) 0xFFFFFFFF)))
  | _ => none

/-! ## Branches (R120) -/

/-- The offset of a uniform branch, the scalar registers it reads, and whether it is taken. -/
def branch (t : Team) (i : Instr) : Option (Int × List Nat × Bool) :=
  let set (r : SReg) (l : Nat) : Bool := maskBit (t.window r.toNat) l
  match i with
  | .bra off => some (off.toInt, [], true)
  | .bany sa off => some (off.toInt, span sa.toNat t.beats, (List.range t.lanes).any fun l => t.exec l && set sa l)
  | .ball sa off => some (off.toInt, span sa.toNat t.beats, (List.range t.lanes).all fun l => !t.exec l || set sa l)
  | .bnone sa off => some (off.toInt, span sa.toNat t.beats, !(List.range t.lanes).any fun l => t.exec l && set sa l)
  | .bsz sa off => some (off.toInt, [sa.toNat], decide ((t.rs sa.toNat).toNat = 0))
  | .bsnz sa off => some (off.toInt, [sa.toNat], decide ((t.rs sa.toNat).toNat ≠ 0))
  | _ => none

/-- The mask words that MOP.not, and, or, andn and save write (R118), by word number. -/
def maskWrite (t : Team) (i : Instr) : Option (SReg × (Nat → Word)) :=
  let w (r : SReg) (b : Nat) : Word := t.rs (r.toNat + b)
  let c (b : Nat) : Word := t.rs (192 + b)
  match i with
  | .mopNot sa sd => some (sd, fun b => ~~~w sa b)
  | .mopAnd sa sd => some (sd, fun b => w sa b &&& c b)
  | .mopOr sa sd => some (sd, fun b => w sa b ||| c b)
  | .mopAndn sa sd => some (sd, fun b => w sa b &&& ~~~c b)
  | .mopSave sd => some (sd, fun b => t.rs (224 + b))
  | _ => none

end Sys2Proof.Claim

namespace Sys2Proof.Machine

/-! ## Memory accesses (R195 to R201, R233 to R236) -/

/-- A memory instruction of the team is not held by an atomic of its own: none is outstanding and none has failed (R235). -/
def MemoryReady (s : State) (slot : Nat) (t : Team) : Prop := (∀ f ∈ t.failures, f.atomic = false) ∧ s.atomPending slot = false

/-- The group is on its core, runs in ordinary mode, holds no speculative state and has not been told to leave (R249, R250, R371). -/
def Ordinary (s : State) (gid : Nat) : Prop :=
  ∃ g, s.group? gid = some g ∧ (s.part g.part).det = false ∧ g.leaving = false ∧ g.spec.held = [] ∧ g.spec.deferred = []

/-- A store or an atomic of the team raises no failed store as a release (R198). -/
def Releasable (t : Team) : Prop := t.orderRel = true → t.storeFailed = none

/-- A record read of the team waits for no acquire of its own, and no other team of its core has a store outstanding that must register before
the read (R218, R221). -/
def RecordReady (s : State) (slot : Nat) (t : Team) : Prop :=
  s.acquiring slot t.group = false ∧
    ∀ p ∈ s.ops, p.core = t.core → (p.slot ≠ slot ∨ p.gid ≠ t.group) → ∀ st, p.kind ≠ .store st

/-- Nothing else makes an access wait: every in-flight counter is below 1,024 (R190), the team's group holds no speculative state and is
not of a deterministic partition (R249, R252), the router has room for a release (R343), and operation numbers are fresh. -/
def Room (s : State) (t : Team) : Prop :=
  (∀ p, t.inflight p < Config.maxInFlight) ∧ s.routerFull (s.partOf t) = false ∧ (∀ o ∈ s.ops, o.id < s.nextId) ∧ Ordinary s t.group

/-- The team has no load, store, atomic, signal or command outstanding, and every store of its partition to a peer is acknowledged. -/
def Quiet (s : State) (slot : Nat) (t : Team) : Prop :=
  (∀ o ∈ s.ops, o.slot = slot → o.gid = t.group → False) ∧ t.fence = none ∧ s.snapshot (s.partOf t) = []

/-- The team that issued an operation still runs in its slot. -/
def Live (s : State) (o : Op) (t : Team) : Prop :=
  s.op? o.id = some o ∧ o.orphan = false ∧ s.team? o.slot = some t ∧ t.group = o.gid ∧ t.status ≠ .exited

/-- No store is outstanding and no team waits on a synchronisation word for units. -/
def Calm (s : State) : Prop := (∀ p ∈ s.ops, ∀ st, p.kind ≠ .store st) ∧ ∀ w ∈ s.semWaiters, w.units = none

/-- A team went on past an instruction that wrote no register: the PC is the next one, registers keep data and tags, memory is the same. -/
def WentOn (s s' : State) (slot : Nat) (t t' : Team) : Prop :=
  s'.team? slot = some t' ∧ t'.pc = t.advance.pc ∧ SameMemory s s' ∧ SameScalars t t' [] ∧ SameVectors t t' [] ∧ t'.status = t.status

/-- An instruction trapped: the team stays at its PC with its registers, and reports a cause and an address. -/
def Trapped (s' : State) (slot : Nat) (t t' : Team) (cause : Word) (va : Dbl) : Prop :=
  s'.team? slot = some t' ∧ t'.status = .trapped ∧ t'.pc = t.pc ∧ t'.regs = t.regs ∧ t'.report.cause = cause ∧ t'.report.vaddr = va

/-- An operation issued: it is the newest of the list, under the next number, of this team. -/
def Issued (s s' : State) (slot : Nat) (t : Team) (o : Op) : Prop :=
  s'.ops = s.ops ++ [o] ∧ s'.nextId = s.nextId + 1 ∧ o.id = s.nextId ∧ o.slot = slot ∧ o.gid = t.group ∧ o.pc = t.pc ∧ o.orphan = false

/-! ## The invariant -/

/-- A property of every team, those of a partition that is swapped out included. -/
def EveryTeam (s : State) (P : Team → Prop) : Prop :=
  (∀ e ∈ s.teams, ∀ t, e.2 = some t → P t) ∧
    ∀ p ∈ s.parts, ∀ w, p.2.swap = some w → ∀ e ∈ w.teams, ∀ t, e.2 = some t → P t

/-- At most 16 entries of a team's divergence stack are in hardware (R126), and no in-flight counter is above 1,024 (R190). -/
def TeamInv (t : Team) : Prop := t.ctl.stack.length ≤ 16 ∧ ∀ p, t.inflight p ≤ 1024

/-- The exec window of a team of at most 32 beats lies inside its live mask (R116). -/
def ExecLive (t : Team) : Prop := t.beats ≤ 32 → ∀ b, b < t.beats → t.rs (224 + b) &&& ~~~(maskWord t.ctl.live b) = 0

/-- Memory is in its canonical form; the numbers of the outstanding operations have been given out and differ; no partition has more than 512 entries
of its lock table in use, reserved ones included (R261); and every team meets `TeamInv`. -/
def MachineInv (s : State) : Prop :=
  s.mem.wf = true ∧ (∀ o ∈ s.ops, o.id < s.nextId) ∧ (s.ops.map (·.id)).Nodup ∧ (∀ part, s.lockUse part ≤ 512) ∧ EveryTeam s TeamInv

/-! ## What engines leave behind (R258, R264 to R270, R283, R300, R307) -/

/-- An address keeps its key while bytes at some keys are written: in every state that differs from this one only there, in what cores own, in the
count of choices, and in the table entries remembered because those bytes were written over them (R387). -/
def Steady (s : State) (o : Op) (perm : Perm) (va key : Nat) (written : List Nat) : Prop :=
  ∀ s' : State, { s' with mem := s.mem, freeCount := s.freeCount, cores := s.cores, parts := s.parts } = s → SameBut s s' written →
    (∀ p, { s'.part p with stale := (s.part p).stale } = s.part p) →
    (∀ p, ∀ e ∈ (s'.part p).stale, e ∈ (s.part p).stale ∨ ∃ k ∈ written, e.1 = k / 8 * 8) → s'.engineKey o perm va = .ok key

end Sys2Proof.Machine

namespace Sys2Proof.Claim

open Sys2Proof.Machine

/-- What a command moves: `units` of `size` bytes each; byte j of unit u goes to the address `dst u j` and is the byte at an address, or a value. -/
structure Moved where
  units : Nat
  size : Nat
  dst : Nat → Nat → Nat
  src : Nat → Nat → Nat ⊕ Byte

/-- The keys that a command writes. -/
def Moved.keys (x : Moved) (key : Nat → Nat) : List Nat := (List.range x.units).flatMap fun u => (List.range x.size).map fun j => key (x.dst u j)

/-- The first n units of a command. -/
def Moved.first (x : Moved) (n : Nat) : Moved := { x with units := n }

/-- Every address that a command reads or writes has its key, whatever the command has written before. -/
def Moved.reached (x : Moved) (s : State) (o : Op) (key : Nat → Nat) : Prop := ∀ u j, u < x.units → j < x.size →
  Steady s o .write (x.dst u j) (key (x.dst u j)) (x.keys key) ∧
    ∀ a, x.src u j = .inl a → Steady s o .read a (key a) (x.keys key)

/-- The bytes have landed in the order of the units (R258): a byte that no later write of the command covers holds its value, or what its source held
where no earlier unit has written there; no other byte of memory has changed. -/
def Moved.landed (x : Moved) (s s' : State) (key : Nat → Nat) : Prop :=
  (∀ u j, u < x.units → j < x.size →
    (∀ v i, v < x.units → i < x.size → u < v ∨ (u = v ∧ j < i) → key (x.dst v i) ≠ key (x.dst u j)) →
    match x.src u j with
    | .inl a => (∀ v i, v < u → i < x.size → key (x.dst v i) ≠ key a) → memByte s' (key (x.dst u j)) = memByte s (key a)
    | .inr b => memByte s' (key (x.dst u j)) = b) ∧
  SameBut s s' (x.keys key)

/-- An address modulo 2^64. -/
def place (x : Int) : Nat := (x % 2 ^ 64).toNat

/-- What XCOPY, XFILL, XTRN and LAYIC move (R264 to R266, R270). -/
def copied (c : CommandOp) : Option Moved :=
  let ps := c.params
  let p4 := (pw ps 4).toNat
  let p5 := (pw ps 5).toNat
  let p6 := (pw ps 6).toNat
  let p7 := (pw ps 7).toNat
  let n := p4 % 2 ^ 24
  match c.cmd with
  | .xcopy => some ⟨c.valid, n, fun r j => place (pd ps 2 + r * (pw ps 7).toInt + j), fun r j => .inl (place (pd ps 0 + r * (pw ps 6).toInt + j))⟩
  | .xfill => some ⟨c.valid, n, fun r j => place (pd ps 0 + r * (pw ps 7).toInt + j), fun _ j => .inr (BitVec.ofNat 8 (pd ps 2 / 256 ^ (j % 8)))⟩
  | .xtrn =>
    let e := 2 ^ (p4 % 4)
    let cols := p5 / 2 ^ 16
    let rows := p5 % 2 ^ 16
    some ⟨(p4 / 2 ^ 16 % 256 + 1) * c.valid, cols * e,
      fun u j => place ((pd ps 2 + u / c.valid * cols * p7 + j / e * p7 + u % c.valid * e + j % e : Nat) : Int),
      fun u j => .inl (place ((pd ps 0 + u / c.valid * rows * p6 + u % c.valid * p6 + j / e * e + j % e : Nat) : Int))⟩
  | .layic =>
    let w : Nat := p4 / 2 ^ 16
    let h : Nat := p4 % 2 ^ 16
    let ch : Nat := p5 % 2 ^ 16
    let e : Nat := 2 ^ (p5 / 2 ^ 16 % 4)
    let kw : Nat := p6 / 16 % 16
    let k : Nat := p6 % 16 * kw * ch
    let pitch : Nat := 128 * ((k * e + 127) / 128)
    let ow : Nat := p7 / 2 ^ 16
    some ⟨c.valid, pitch, fun m j => place ((pd ps 2 + m * pitch + j : Nat) : Int), fun m j =>
      let col : Nat := j / e
      let ih : Int := ((m / ow * (p6 / 256 % 16) + col / ch / kw * (p6 / 2 ^ 24 % 16) : Nat) : Int) - ((p6 / 2 ^ 16 % 16 : Nat) : Int)
      let iw : Int := ((m % ow * (p6 / 4096 % 16) + col / ch % kw * (p6 / 2 ^ 28) : Nat) : Int) - ((p6 / 2 ^ 20 % 16 : Nat) : Int)
      if j < k * e ∧ 0 ≤ ih ∧ ih < h ∧ 0 ≤ iw ∧ iw < w then .inl (place (pd ps 0 + ((ih * w + iw) * ch + ((col % ch : Nat) : Int)) * e + ((j % e : Nat) : Int)))
      else .inr 0⟩
  | _ => none

/-- The bytes that extend a length beyond the 15 of a nibble (R268). -/
def lz4Extra (n : Nat) : List Byte := if n < 15 then [] else List.replicate ((n - 15) / 255) 255 ++ [BitVec.ofNat 8 ((n - 15) % 255)]

/-- The bytes of an LZ4 block: sequences of literals, a match offset and a match length, and last literals alone under any match nibble (R268). -/
def lz4Bytes : List (List Byte × Nat × Nat) → Option (List Byte × Nat) → List Byte
  | [], none => []
  | [], some (ls, q) => BitVec.ofNat 8 (16 * min 15 ls.length + q % 16) :: (lz4Extra ls.length ++ ls)
  | (ls, off, n) :: rest, last =>
    BitVec.ofNat 8 (16 * min 15 ls.length + min 15 (n - 4)) ::
      (lz4Extra ls.length ++ ls ++ [BitVec.ofNat 8 off, BitVec.ofNat 8 (off / 256)] ++ lz4Extra (n - 4) ++ lz4Bytes rest last)

/-- What a block expands to after the bytes `acc`: literals as they stand, a match byte by byte from `off` bytes back (R268). -/
def lz4Expands : List Byte → List (List Byte × Nat × Nat) → Option (List Byte × Nat) → List Byte → Prop
  | acc, [], last, out => out = acc ++ (last.map (·.1)).getD []
  | acc, (ls, off, n) :: rest, last, out =>
    let sofar := acc ++ ls
    1 ≤ off ∧ off ≤ sofar.length ∧ off < 2 ^ 16 ∧ 4 ≤ n ∧
      ∃ m : List Byte, m.length = n ∧ (∀ i, i < n → m[i]? = (sofar ++ m)[sofar.length + i - off]?) ∧ lz4Expands (sofar ++ m) rest last out

/-- An exact value rounded to binary32, ties to even (R85). -/
def rne32 (v : Val) : Word := word (toF32 0 false 0 v.exact).code

/-- One K-block at one element (R283). -/
def blockResult (ovw : Bool) (old : Word) (a b : List Val) : Word :=
  let s := rne32 (sumVals false ((List.range 32).map fun q => mulVals (a.getD q .nan) (b.getD q .nan)))
  if ovw then s else rne32 (sumVals false [ofF32 old, ofF32 s])

/-- An element after a K-block (R283, R284): the token of A's row, else of the old element where it counts, else the sum. -/
def blockLane (ovw : Bool) (old : Lane) (a : Except Word (List Val)) (b : List Val) : Lane :=
  match a with
  | .error k => { data := k, tag := true, dead := false }
  | .ok x => if old.tag && !ovw then { old with dead := false } else { data := blockResult ovw old.data x b, tag := false, dead := false }

/-- The 32 values of a segment whose bytes make the number x, low byte first (R279, R282). -/
def segmentValues (p : Operand) (x : Nat) : List Val :=
  (List.range 32).map fun q =>
    if p.code = 0 then decodeVal p.fmt (x / 2 ^ (q * p.fmt.w) % 2 ^ p.fmt.w)
    else
      let c := if p.data then x % 256 else p.code
      let z := x / 256 % 256
      if c = 0 ∨ 6 < c ∨ z = 255 then .nan
      else (decodeVal (mxFmt c) (x / 2 ^ (16 + q * mxWidth c) % 2 ^ mxWidth c)).scale ((z : Int) - 127)

/-- The value of an activation table at x (R300). -/
def tableValue (lo hi : Val) (slope icept : Nat → Val) (x : Val) (y : Word) : Prop :=
  let at' (g : Nat) : Word := rne32 (if x.isInf false || x.isInf true then (if (slope g).isZero then icept g else mulVals (slope g) x)
    else sumVals false [mulVals (slope g) x, icept g])
  (x = .nan → y = 0x7FC00000) ∧
  (∀ n m e n' m' e', lo = .fin n m e → hi = .fin n' m' e' → number n m e < number n' m' e' →
    (∀ b, x = .inf b → y = at' (if b then 0 else 255)) ∧
    ∀ b k d, x = .fin b k d →
      y = at' (max 0 (min 255 ⌊256 * (number b k d - number n m e) / (number n' m' e' - number n m e)⌋)).toNat) ∧
  (x ≠ .nan → (∀ n m e n' m' e', lo = .fin n m e → hi = .fin n' m' e' → ¬ number n m e < number n' m' e') → y = at' 0)

/-- The number that n bytes from an address make, the lowest byte first. -/
def numAt (s : State) (key : Nat → Nat) (a n : Nat) : Nat := leNat ((List.range n).map fun j => memByte s (key (place ((a + j : Nat) : Int))))

/-- A unit reaches the n bytes from an address on one of some paths, each by its key (R304). -/
def reaches (s : State) (o : Op) (key : Nat → Nat) (perm : Perm) (paths : List Nat) (a n : Nat) : Prop :=
  ∀ j, j < n → s.unitKey o paths perm (place ((a + j : Nat) : Int)) = .ok (key (place ((a + j : Nat) : Int)))

/-- The keys of some ranges. -/
def keysAt (key : Nat → Nat) (rs : List (Nat × Nat)) : List Nat :=
  rs.flatMap fun r => (List.range r.2).map fun j => key (place ((r.1 + j : Nat) : Int))

/-- A control block that a unit reaches and finds valid, of a sequence that is not in replay (R307). -/
def controlBlock (s : State) (o : Op) (key : Nat → Nat) (scb : Nat) : Prop :=
  scb % 128 = 0 ∧ (∀ x, windowOf scb ≠ .spad x) ∧ windowOf scb ≠ .none ∧ reaches s o key .read scbPath scb 2176 ∧
    reaches s o key .write scbPath scb 2176 ∧ numAt s key (scb + 0x6A) 6 = 0 ∧ numAt s key (scb + 0x44) 4 < 64 ∧
    numAt s key (scb + 0x36) 2 < 2 ^ 11 ∧ numAt s key (scb + 0x34) 2 ≤ 1024 ∧ numAt s key (scb + 0x68) 2 ≤ 64 ∧
    numAt s key (scb + 0x44) 4 / 8 % 2 = 0

/-- The stack of a control block, its bottom first (R307). -/
def stackAt (s : State) (key : Nat → Nat) (scb : Nat) : List Nat :=
  (List.range (numAt s key (scb + 0x34) 2)).map fun i => numAt s key (scb + 128 + 2 * i) 2

/-- A started command of a live team stands alone in its effect: no store is outstanding, no mark stands, its key names each address once. -/
def unitRuns (s : State) (o : Op) (t : Team) (c : CommandOp) (key : Nat → Nat) : Prop :=
  Live s o t ∧ Calm s ∧ Ordinary s o.gid ∧ o.kind = .command c ∧ c.started = true ∧ c.cancel = [] ∧ s.marks = [] ∧ Function.Injective key

/-- An event ends a command with a STATE and an INFO in its status register (R306), and what else holds then. -/
def ended (s : State) (o : Op) (c : CommandOp) (e : Instr) (st info : Nat) (P : State → Team → Prop) : Prop :=
  ∃ s' t', exec e s = .next s' ∧ s'.op? o.id = none ∧ s'.team? o.slot = some t' ∧ P s' t' ∧
    (0 < c.sd → c.sd + c.sdCount ≤ 192 → t'.rs c.sd = word (st * 2 ^ 24 + info % 2 ^ 24))

/-! ## Memory instructions (R195 to R201, R213 to R215, R233 to R236) -/

/-- A vector load: vd, va, sb, bytes, whether it is speculative. -/
def vectorLoad (i : Instr) : Option (VReg × VReg × SReg × Nat × Bool) :=
  match i with
  | .ld8 vd va sb _ _ => some (vd, va, sb, 1, false)
  | .ld16 vd va sb _ _ => some (vd, va, sb, 2, false)
  | .ld32 vd va sb _ _ => some (vd, va, sb, 4, false)
  | .ld64 vd va sb _ _ => some (vd, va, sb, 8, false)
  | .ld128 vd va sb _ _ => some (vd, va, sb, 16, false)
  | .lds8 vd va sb _ _ => some (vd, va, sb, 1, true)
  | .lds16 vd va sb _ _ => some (vd, va, sb, 2, true)
  | .lds32 vd va sb _ _ => some (vd, va, sb, 4, true)
  | .lds64 vd va sb _ _ => some (vd, va, sb, 8, true)
  | .lds128 vd va sb _ _ => some (vd, va, sb, 16, true)
  | _ => none

/-- The line that a lane of a prefetch names, where the lane is not dropped (R214): its address is not poisoned, passes the checks of a read,
lies outside the scratchpad and in no range locked for writing. -/
def prefLine (s : State) (t : Team) (va : VReg) (sb : SReg) (l : Nat) : Option Nat :=
  match laneAddr t sb.toNat va.toNat l with
  | .error _ => none
  | .ok a =>
    match s.resolve (s.partOf t) t.group .read 0 a l with
    | .error _ => none
    | .ok k => if k.2 = 0 ∨ s.locked (s.partOf t) t.group (a / 128 * 128) 128 false = true then none else some (k.1 / 128)

/-- The line that a lane of CFLUSH names, where the lane is not dropped (R215): its address is not poisoned and lies in no range locked for
writing. -/
def flushLine (s : State) (t : Team) (va : VReg) (sb : SReg) (l : Nat) : Option Nat :=
  match laneAddr t sb.toNat va.toNat l with
  | .error _ => none
  | .ok a =>
    match s.resolve (s.partOf t) t.group .write 0 a l with
    | .error _ => none
    | .ok k => if s.locked (s.partOf t) t.group (a / 128 * 128) 128 false = true then none else some (k.1 / 128)

/-- A vector store: vd, va, sb, bytes. -/
def vectorStore (i : Instr) : Option (VReg × VReg × SReg × Nat) :=
  match i with
  | .st8 vd va sb _ _ => some (vd, va, sb, 1)
  | .st16 vd va sb _ _ => some (vd, va, sb, 2)
  | .st32 vd va sb _ _ => some (vd, va, sb, 4)
  | .st64 vd va sb _ _ => some (vd, va, sb, 8)
  | .st128 vd va sb _ _ => some (vd, va, sb, 16)
  | _ => none

/-- A scalar access: sd, sa, sb, bytes, whether it is a store. -/
def scalarAccess (i : Instr) : Option (SReg × SReg × SReg × Nat × Bool) :=
  match i with
  | .sld32 sd sa sb => some (sd, sa, sb, 4, false)
  | .sld64 sd sa sb => some (sd, sa, sb, 8, false)
  | .sst32 sd sa sb => some (sd, sa, sb, 4, true)
  | .sst64 sd sa sb => some (sd, sa, sb, 8, true)
  | _ => none

/-- A vector atomic: its function under the team's AKIND, vd, va, vb, data registers. -/
def vectorAtomic (t : Team) (i : Instr) : Option (AtomFn × VReg × VReg × VReg × Nat) :=
  let kind (n u f : AtomFn) : AtomFn := if t.akind = 0 then n else if t.akind = 1 then u else f
  match i with
  | .aadd vd va vb _ _ => some (kind .addI .addI .addF, vd, va, vb, 1)
  | .amin vd va vb _ _ => some (kind .minI .minN .minF, vd, va, vb, 1)
  | .amax vd va vb _ _ => some (kind .maxI .maxN .maxF, vd, va, vb, 1)
  | .aand vd va vb _ _ => some (.and, vd, va, vb, 1)
  | .aor vd va vb _ _ => some (.or, vd, va, vb, 1)
  | .axor vd va vb _ _ => some (.xor, vd, va, vb, 1)
  | .axch vd va vb _ _ => some (.xch, vd, va, vb, 1)
  | .acas vd va vb _ _ => some (.cas, vd, va, vb, 2)
  | _ => none

/-- A scalar atomic: its function, sa, sd. -/
def scalarAtomic (i : Instr) : Option (AtomFn × SReg × SReg) :=
  match i with
  | .saopAdd sa sd => some (.addI, sa, sd)
  | .saopMini sa sd => some (.minI, sa, sd)
  | .saopMinn sa sd => some (.minN, sa, sd)
  | .saopMaxi sa sd => some (.maxI, sa, sd)
  | .saopMaxn sa sd => some (.maxN, sa, sd)
  | .saopAnd sa sd => some (.and, sa, sd)
  | .saopOr sa sd => some (.or, sa, sd)
  | .saopXor sa sd => some (.xor, sa, sd)
  | .saopXch sa sd => some (.xch, sa, sd)
  | .saopCas sa sd => some (.cas, sa, sd)
  | _ => none

/-- The new word of an atomic (R234), by integer and bit arithmetic; the binary32 forms through the format arithmetic. -/
def atomWord (fn : AtomFn) (m b c : Word) : Word :=
  match fn with
  | .addI => word (m.toNat + b.toNat)
  | .minI => if b.toInt < m.toInt then b else m
  | .minN => if b.toNat < m.toNat then b else m
  | .maxI => if m.toInt < b.toInt then b else m
  | .maxN => if m.toNat < b.toNat then b else m
  | .and => m &&& b
  | .or => m ||| b
  | .xor => m ^^^ b
  | .xch => b
  | .cas => if m = b then c else m
  | .addF | .minF | .maxF => atomNew fn m b c

/-- The lanes of an atomic applied one after another to words: the words afterwards and the old word of each lane (R224, R235). -/
def atomRun (fn : AtomFn) : (Nat → Word) → List AtomLane → (Nat → Word) × List Word
  | m, [] => (m, [])
  | m, x :: xs =>
    let r := atomRun fn (fun k => if k = x.key then atomWord fn (m x.key) x.b x.c else m k) xs
    (r.1, m x.key :: r.2)

/-! ## Commands of engines (R245, R255, R264 to R270, R304) -/

/-- What the issue of a command is judged by: the command, its status register and how many it has, its parameters, its valid count, what
it reads and writes, whether its parameters pass the checks of its rule, whether its queue is full. -/
structure EngineIssue where
  cmd : Command
  sd : SReg
  count : Nat
  params : List Word
  valid : Nat
  reads : List (Nat × Nat)
  writes : List (Nat × Nat)
  good : Bool
  full : Bool

/-- The issue of a copy or layout command, with its valid count B where sb is s0 and else the lesser of sb and B (R256). -/
def copyIssue (s : State) (t : Team) (cmd : Command) (sd sa sb : SReg) (x : CopyShape) : EngineIssue :=
  let v := if sb = 0 then x.bound else min (t.rs sb.toNat).toNat x.bound
  { cmd := cmd, sd := sd, count := 1, params := t.params sa, valid := v, reads := x.reads v, writes := x.writes v, good := x.good,
    full := s.queueFull (sameCopyEngine t.core (decide (cmd = .layic))) 64 }

/-- The issue of a generation command (R304, R305): one unit, of the grammar unit, the core's generation unit or the journal engine. -/
def genIssue (s : State) (t : Team) (cmd : Command) (u cap count : Nat) (sd : SReg) (ps : List Word) (good : Bool)
    (reads writes : List (Nat × Nat)) : EngineIssue :=
  { cmd := cmd, sd := sd, count := count, params := ps, valid := 1, reads := reads, writes := writes, good := good,
    full := s.queueFull (sameGenUnit t.core s.journal.port u) cap }

/-- The instructions of the matrix unit (R275). -/
def matrixUnit (i : Instr) : Bool :=
  match i with
  | .mma .. | .mmal .. | .mmaw4 .. | .mfmt .. | .acalloc .. | .acfree .. | .aczero .. | .acload .. | .acread .. | .acdrain .. | .atload .. => true
  | _ => false

/-- The command that an instruction issues. -/
def engine (s : State) (t : Team) (i : Instr) : Option EngineIssue :=
  let p (sa : SReg) : List Word := t.params sa
  let scb (ps : List Word) : Nat × Nat := (pd ps 0, 2176)
  match i with
  | .xcopy sd sa sb => some (copyIssue s t .xcopy sd sa sb (xcopyShape (p sa)))
  | .xexp sd sa sb => some (copyIssue s t .xexp sd sa sb (xexpShape (p sa)))
  | .xfill sd sa sb => some (copyIssue s t .xfill sd sa sb (xfillShape (p sa)))
  | .xgath sd sa sb => some (copyIssue s t .xgath sd sa sb (xgathShape (p sa)))
  | .xtrn sd sa sb => some (copyIssue s t .xtrn sd sa sb (xtrnShape (p sa)))
  | .layic sd sa sb => some (copyIssue s t .layic sd sa sb (layicShape (p sa)))
  | .gmask sd sa => some (genIssue s t .gmask 0 64 1 sd (p sa) true [scb (p sa)] [])
  | .gadv sd sa => some (genIssue s t .gadv 0 64 1 sd (p sa) true [] [scb (p sa)])
  | .sample sd sa sb =>
    let v := pf (p sa) 6 0 21
    some (genIssue s t .sample 1 16 2 sd (p sa ++ [t.rs sb.toNat, t.rs (sb.toNat + 1)])
      (decide (pf (p sa) 6 30 2 ≠ 3 ∧ pf (p sa) 6 21 8 = 0 ∧ pw (p sa) 7 = 0 ∧ 1 ≤ v ∧ v ≤ 2 ^ 20))
      ((pd (p sa) 2, 4 * v) :: if pf (p sa) 6 29 1 = 1 then [] else [(pd (p sa) 4, 4 * ((v + 31) / 32))]) [scb (p sa)])
  | .route sd sa =>
    some (genIssue s t .route 1 16 1 sd (p sa)
      (decide (pf (p sa) 4 20 12 = 0 ∧ pf (p sa) 4 11 5 = 0 ∧ pf (p sa) 5 16 16 = 0 ∧ pf (p sa) 4 16 4 ≤ pf (p sa) 4 0 11))
      [(pd (p sa) 0, 4 * (pf (p sa) 4 0 11 + 1))]
      ((pd (p sa) 2, 8 * (pf (p sa) 4 16 4 + 1)) :: if pd (p sa) 6 = 0 then [] else [(pd (p sa) 6, 2176)]))
  | .emit sd sa =>
    some (genIssue s t .emit 2 256 1 sd (p sa)
      (decide (pf (p sa) 2 0 2 ≠ 3 ∧ pf (p sa) 2 2 6 = 0 ∧ pf (p sa) 2 16 16 = 0 ∧ (pf (p sa) 2 0 2 = 0 → (pw (p sa) 3).toNat ≤ 2 ^ 20)))
      [] [scb (p sa)])
  | .jtrunc sd sa => some (genIssue s t .jtrunc 2 256 1 sd (p sa) true [] [scb (p sa)])
  | .jreplay sd sa =>
    some (genIssue s t .jreplay 2 256 1 sd (p sa) (decide (pf (p sa) 4 11 21 = 0)) [] [scb (p sa), (pd (p sa) 6, 4 * (pw (p sa) 5).toNat)])
  | .jstat sd sa => some (genIssue s t .jstat 2 256 2 sd (p sa) (decide ((pw (p sa) 0).toNat ≤ 8)) [] [])
  | .coll sd sa sb =>
    some { cmd := .coll, sd := sd, count := 1, params := p sa, valid := (t.rs sb.toNat).toNat,
           reads := if sb ≠ 0 ∧ (t.rs sb.toNat).toNat = 0 then [] else [(pd (p sa) 0, 128)], writes := [],
           good := decide (pd (p sa) 0 % 128 = 0 ∧ pf (p sa) 6 12 20 = 0), full := false }
  | .launch sd sa =>
    let q := (pw (p sa) 2).toNat
    some { cmd := .launch, sd := sd, count := 1, params := p sa, valid := 0, reads := [], writes := [],
           good := decide (q < 64) && (sget none (s.part (s.partOf t)).queues q).isSome, full := false }
  | .atload sd sa =>
    let ps := (List.range 3).map fun n => t.rs (sa.toNat + n)
    some { cmd := .atload, sd := sd, count := 1, params := ps, valid := 1, reads := [(pd ps 0, 2064)], writes := [],
           good := decide (pf ps 2 2 30 = 0), full := s.queueFull (onMatrix t.core) 16 }
  | .acload sd sa sb =>
    let ps := (List.range 4).map fun n => t.rs (sa.toNat + n)
    let mt := pf ps 3 16 5 + 1
    let nt := pf ps 3 8 4 + 1
    let v := if sb = 0 then 32 * mt else min (t.rs sb.toNat).toNat (32 * mt)
    some { cmd := .acload, sd := sd, count := 1, params := ps, valid := v, reads := [rowRange (pd ps 0) (ps32 ps 2) v (128 * nt)], writes := [],
           good := decide (pf ps 3 7 1 = 0 ∧ pf ps 3 12 4 = 0 ∧ pf ps 3 21 11 = 0) &&
             (s.tilesOf t.group ((List.range (mt * nt)).map (pf ps 3 0 7 + ·))).isSome, full := s.queueFull (onMatrix t.core) 16 }
  | .mmal sd sa sb =>
    let ps := p sa
    let mt := pf ps 5 15 5 + 1
    let nt := pf ps 5 8 4 + 1
    let v := if sb = 0 then 32 * mt else min (t.rs sb.toNat).toNat (32 * mt)
    let a := operandOf t.mxm 0 (t.fdr (t.mx 8)) (s.mxsel t)
    let b := operandOf t.mxm 4 (t.fdr (t.mx 12)) (s.mxsel t)
    some { cmd := .mmal, sd := sd, count := 1, params := ps, valid := v,
           reads := [segmentRange (pd ps 0) (ps32 ps 6) (pf ps 5 20 12) (pf ps 4 16 16) v a.bytes,
             segmentRange (pd ps 2) (ps32 ps 7) (pf ps 5 20 12) (pf ps 4 0 16) (if v = 0 then 0 else 32 * nt) b.bytes], writes := [],
           good := decide (pf ps 5 20 12 ≠ 0 ∧ pf ps 5 13 2 = 0 ∧ pf ps 5 7 1 = 0) &&
             (s.tilesOf t.group ((List.range (mt * nt)).map (pf ps 5 0 7 + ·))).isSome, full := s.queueFull (onMatrix t.core) 16 }
  | _ => none

end Sys2Proof.Claim
end

