-- ==== Sys2Proof/Certificates/Slice0/Obligations.lean ====
section
/-! DEFINITION. The statements for the provers, from the rules of the spec: one definition each. -/

open Sys2Proof Sys2Proof.Machine

/-! ## Registers and the gate -/

/-- R37: s0 reads zero and a write to it changes nothing. R37, R116, R117: what the write of a scalar register does: the register reads the
value (under the live mask in the exec window; a write to a cond word clears its poison bits and token), and every other scalar register,
every vector register and the PC stay. -/
def Obligations.ZeroAndScalarWrite : Prop :=
  (∀ (t : Team) (v : Word), t.rs 0 = 0 ∧ t.ws 0 v = t) ∧
  (∀ (t : Team) (r : Nat) (v : Word), r ≠ 0 → r < 256 → t.beats ≤ 32 →
    (t.ws r v).rs r = (if 224 ≤ r ∧ r < 224 + t.beats then v &&& maskWord t.ctl.live (r - 224) else v) ∧
    SameScalars t (t.ws r v) [r] ∧ (∀ q l, (t.ws r v).lane q l = t.lane q l) ∧ (t.ws r v).pc = t.pc ∧
    (192 ≤ r ∧ r < 192 + t.beats →
      maskWord (t.ws r v).ctl.cpois (r - 192) = 0 ∧ maskWord (t.ws r v).ctl.ctok (r - 192) = 0))

/-- R53, R54, R378: where a check of R54 fails a word instruction has no effect but a precise ILLEGAL trap that names every lane; its PC
stays. R23, R53: an instruction that is not among those of the team's role takes a precise ROLE trap and has no other effect. R47, R48,
R20: while a register it needs is empty a word instruction changes nothing; with every exec word zero an instruction that is not one of
those that act all the same only moves the PC on. R198, R299: one that needs a register that a failed access left empty, or that holds a
drain's fault, raises that instead. R20, R29, R48, R53, R54, R136, R141: when the gate stops an instruction, in terms of its needs:
ill-formed fields, a field condition or an undeclared vector register give ILLEGAL, a foreign role ROLE, then a drain's fault in a register
it needs, a failure that left one empty, an empty register a wait, in this order; a guarded instruction waits for the cond window too, and
so do RET and KILL where they pop an entry; PROBE waits for its destination alone. One that nothing stops is skipped while every exec word
is zero, unless it acts all the same, and else goes. -/
def Obligations.GateTraps : Prop :=
  (∀ (i : Instr) (w : Word) (s : State) (slot : Nat) (t : Team), encode i = some w →
    s.cur = some slot → s.team? slot = some t → t.canIssue = true → t.gate (s.mxsel t) i = .illegal →
    exec i s = .next (s.illegal slot) ∧
    ∃ s' t', exec i s = .next s' ∧ s'.team? slot = some t' ∧ t'.status = .trapped ∧ t'.pc = t.pc ∧ t'.regs = t.regs ∧ t'.ctl = t.ctl ∧
      t'.report.cause = 0x10 ∧ t'.report.flw = List.replicate t.beats 0xFFFFFFFF ∧ SameMemory s s' ∧
      (s'.die (dieOf t.core)).trapQueue = (s.die (dieOf t.core)).trapQueue ++ [slot]) ∧
  (∀ (i : Instr) (w : Word) (s : State) (slot : Nat) (t : Team), encode i = some w →
    s.cur = some slot → s.team? slot = some t → t.canIssue = true → t.gate (s.mxsel t) i = .role →
    exec i s = .next (s.trap slot (Report.precise 0x11 t.allLanes)) ∧
    ∃ s' t', exec i s = .next s' ∧ s'.team? slot = some t' ∧ t'.status = .trapped ∧ t'.pc = t.pc ∧ t'.regs = t.regs ∧ t'.ctl = t.ctl ∧
      t'.report.cause = 0x11 ∧ t'.report.flw = List.replicate t.beats 0xFFFFFFFF ∧ SameMemory s s') ∧
  (∀ (i : Instr) (w : Word) (s : State) (slot : Nat) (t : Team), encode i = some w →
    s.cur = some slot → s.team? slot = some t → t.canIssue = true →
    (t.gate (s.mxsel t) i = .wait → exec i s = .next s) ∧
    (t.gate (s.mxsel t) i = .skip → exec i s = .next (s.setTeam slot t.advance)) ∧
    (∀ f, t.gate (s.mxsel t) i = .failed f → exec i s = .next (s.trap slot (f.report t))) ∧
    (∀ d, t.gate (s.mxsel t) i = .drained d → exec i s = .next (s.raiseDrain slot t d))) ∧
  (∀ (i : Instr) (t : Team) (mx : Bool),
    let n := needOf t mx i
    let needs (r : Nat) : Prop := r ∈ n.sr ++ n.sw ∨ (n.own = false ∧ r ∈ t.execRegs) ∨ (n.lanes = true ∧ t.guard ≠ 0 ∧ r ∈ t.condRegs)
    let hits (f : Failure) : Prop := (∃ r ∈ f.sregs, needs r) ∨ ∃ r ∈ f.vregs, r ∈ n.vr ++ n.vw
    let stops : Prop := (∃ r, needs r ∧ t.sEmpty r = true) ∨ ∃ r, r ∈ n.vr ++ n.vw ∧ t.vEmpty r = true
    (i.wf = false → t.gate mx i = .illegal) ∧
    (∀ r, r ∈ n.vr ++ n.vw → t.nvregs ≤ r → t.gate mx i = .illegal) ∧
    (t.gate mx i ≠ .illegal → t.role ∉ n.roles → t.gate mx i = .role) ∧
    (t.gate mx i ≠ .illegal → t.gate mx i ≠ .role →
      (∀ d, t.drains.find? (fun d => decide (d.reg ∈ n.scalars t)) = some d → t.gate mx i = .drained d) ∧
      ((∀ d ∈ t.drains, ¬ needs d.reg) →
        (∀ f rest, t.failures = f :: rest → hits f → t.gate mx i = .failed f) ∧
        ((∀ f ∈ t.failures, ¬ hits f) → (stops → t.gate mx i = .wait) ∧
          (¬ stops → t.gate mx i = if t.noExec = true ∧ n.always = false then .skip else .go)))) ∧
    (∀ r, r ∈ n.scalars t ↔ needs r) ∧
    (t.drains = [] → t.failures = [] →
      (i = .ret ∨ i = .kill → t.depth ≠ 0 → t.gate mx i ≠ .illegal → t.gate mx i ≠ .role → (∃ r ∈ t.condRegs, t.sEmpty r = true) →
        t.gate mx i = .wait) ∧
      (∀ sd reg vec, i = .probe sd reg vec → i.wf = true → t.role ≤ 3 → (vec = true → reg.toNat < t.nvregs) → t.sEmpty sd.toNat = false →
        t.gate mx i = .go)))

/-- R48, R53, R54 and log entry 64: every instruction and event answers a next state in every state, whatever its fields and operands, with
no refusal anywhere; the one fault is noTeam, the model's choice, and comes only where no team is current, which no rule of the spec
describes. -/
def Obligations.NeverRefused : Prop := ∀ (i : Instr) (s : State),
  (∃ s', exec i s = .next s') ∨ (exec i s = .fault .noTeam ∧ ∀ slot t, s.cur = some slot → s.team? slot = some t → False)

/-! ## Scalar instructions -/

/-- R111 to R113: the word each scalar instruction writes, by integer arithmetic; the whole next state. R114: SBITOP counts set bits,
leading and trailing zeros (32 for zero), and reverses the bits; its other forms are reserved. R114: SBFX and SBFI by bits, with position
c[4:0] and width c[13:8] cut at 32 bits and at the top of the word. R115: SADD64 adds two register pairs modulo 2^64. -/
def Obligations.ScalarResults : Prop :=
  (∀ (i : Instr) (s : State) (slot : Nat) (t : Team) (sd : SReg) (v : Word),
    Runs s slot t i → Claim.scalarWrite t i = some (sd, v) → exec i s = .next (s.setTeam slot (t.ws sd.toNat v).advance)) ∧
  (∀ (s : State) (slot : Nat) (t : Team) (sd sa : SReg),
    let a := t.rs sa.toNat
    (Runs s slot t (.sbitopPopc sd sa) → ∃ v : Word, exec (.sbitopPopc sd sa) s = .next (s.setTeam slot (t.ws sd.toNat v).advance) ∧
      v.toNat = ((List.range 32).filter fun n => a.getLsbD n).length) ∧
    (Runs s slot t (.sbitopClz sd sa) → ∃ v : Word, exec (.sbitopClz sd sa) s = .next (s.setTeam slot (t.ws sd.toNat v).advance) ∧
      v.toNat ≤ 32 ∧ (∀ n, n < v.toNat → a.getLsbD (31 - n) = false) ∧ (v.toNat < 32 → a.getLsbD (31 - v.toNat) = true)) ∧
    (Runs s slot t (.sbitopCtz sd sa) → ∃ v : Word, exec (.sbitopCtz sd sa) s = .next (s.setTeam slot (t.ws sd.toNat v).advance) ∧
      v.toNat ≤ 32 ∧ (∀ n, n < v.toNat → a.getLsbD n = false) ∧ (v.toNat < 32 → a.getLsbD v.toNat = true)) ∧
    (Runs s slot t (.sbitopBrev sd sa) → ∃ v : Word, exec (.sbitopBrev sd sa) s = .next (s.setTeam slot (t.ws sd.toNat v).advance) ∧
      ∀ n, n < 32 → v.getLsbD n = a.getLsbD (31 - n)) ∧
    (∀ w : Word, w.extractLsb' 24 8 = 0x1B → 4 ≤ (w.extractLsb' 0 8).toNat → decode w = .error .reservedForm)) ∧
  (∀ (s : State) (slot : Nat) (t : Team) (sd sa sb : SReg),
    let a := t.rs sa.toNat
    let c := t.rs sb.toNat
    let p := (c.extractLsb' 0 5).toNat
    let w := min (min (c.extractLsb' 8 6).toNat 32) (32 - p)
    (Runs s slot t (.sbfx sd sa sb) → ∃ v : Word, exec (.sbfx sd sa sb) s = .next (s.setTeam slot (t.ws sd.toNat v).advance) ∧
      ∀ n, n < 32 → v.getLsbD n = if n < w then a.getLsbD (p + n) else (c.getLsbD 16 && decide (0 < w) && a.getLsbD (p + w - 1))) ∧
    (Runs s slot t (.sbfi sd sa sb) → ∃ v : Word, exec (.sbfi sd sa sb) s = .next (s.setTeam slot (t.ws sd.toNat v).advance) ∧
      ∀ n, n < 32 → v.getLsbD n = if p ≤ n ∧ n < p + w then a.getLsbD (n - p) else (t.rs sd.toNat).getLsbD n)) ∧
  (∀ (s : State) (slot : Nat) (t : Team) (sd sa sb : SReg), Runs s slot t (.sadd64 sd sa sb) →
    let pair (r : SReg) : Nat := (t.rs r.toNat).toNat + 2 ^ 32 * (t.rs (r.toNat + 1)).toNat
    let sum := pair sa + pair sb
    exec (.sadd64 sd sa sb) s =
      .next (s.setTeam slot (((t.ws sd.toNat (word sum)).ws (sd.toNat + 1) (word (sum / 2 ^ 32))).advance)))

/-- R111, R142, R160 and the rules of each: a scalar, mask, lane or format instruction of the list completes, moves the PC on and the loop
with it, and changes only the data and tags of the registers it writes, dead marks, for format arithmetic the statistics and the count of
stochastic roundings, and the operand cache; the poison bits and tokens of the cond window only where it writes a cond register. The stack,
RPC, the live mask, full and empty bits, failures, drains, mode, schedule and every other field of the team are as before, and so is
everything beside the team. -/
def Obligations.RegisterFrame : Prop := ∀ (i : Instr) (s : State) (slot : Nat) (t : Team),
  Claim.registerOnly i = true → Runs s slot t i →
  ∃ s' t', exec i s = .next s' ∧ s'.team? slot = some t' ∧ t'.pc = t.advance.pc ∧ OnlyTeam s s' slot t ∧ SameMemory s s' ∧
    SameScalars t t' (needOf t (s.mxsel t) i).sw ∧ SameVectors t t' (needOf t (s.mxsel t) i).vw ∧ SameRest t t' ∧ SameControl t t' ∧
    SameFilled t t' ∧ ((∀ r ∈ t.condRegs, r ∉ (needOf t (s.mxsel t) i).sw) → t'.ctl.cpois = t.ctl.cpois ∧ t'.ctl.ctok = t.ctl.ctok) ∧
    t'.fmt.fdr = t.fmt.fdr ∧ t'.fmt.seed = t.fmt.seed ∧ (Claim.addsStatistics i = false → SameFormats t t')

/-! ## Lane and format instructions -/

/-- R9, R10, R142, R147 to R150: in each active lane a lane-local instruction writes its word, or the token of its first poisoned source;
in every other lane vd keeps data, tag and dead mark. R147: VADDA64 adds a sign-extended word to a pair of vector registers in each active
lane; a token poisons both words of the result, that of va before that of va+1 before that of vb; another lane keeps both registers. Which
operand lanes contribute in VBFX at width 0 and VBFI at width 32, and so poison, is log entry 84; sources marked last-use are in the
statement on dead marks. -/
def Obligations.LaneResults : Prop :=
  (∀ (i : Instr) (s : State) (slot : Nat) (t : Team) (vd : VReg) (v : Nat → Except Word Word),
    Runs s slot t i → (∀ l, Claim.laneWrite t l i = some (vd, v l)) →
    ∃ s' t', exec i s = .next s' ∧ s'.team? slot = some t' ∧
      ∀ l, l < t.lanes → t'.lane vd.toNat l = if t.active l then laneOf (v l) else t.lane vd.toNat l) ∧
  (∀ (s : State) (slot : Nat) (t : Team) (vd va vb : VReg) (la lb keep : Bool),
    Runs s slot t (.vadda64 vd va vb la lb keep) → ∃ s' t', exec (.vadda64 vd va vb la lb keep) s = .next s' ∧ s'.team? slot = some t' ∧
      ∀ l, l < t.lanes →
        let both (x y : Lane) : Prop := t'.lane vd.toNat l = x ∧ t'.lane (vd.toNat + 1) l = y
        (t.active l = false → both (t.lane vd.toNat l) (t.lane (vd.toNat + 1) l)) ∧
        (t.active l = true →
          (∀ lo hi b, t.rv va.toNat l = .ok lo → t.rv (va.toNat + 1) l = .ok hi → t.rv vb.toNat l = .ok b →
            let sum := (lo.toNat + 2 ^ 32 * hi.toNat : Int) + b.toInt
            both (laneOf (.ok (BitVec.ofInt 32 sum))) (laneOf (.ok (BitVec.ofInt 32 (sum / 2 ^ 32))))) ∧
          (∀ k, t.rv va.toNat l = .error k → both (laneOf (.error k)) (laneOf (.error k))) ∧
          (∀ lo k, t.rv va.toNat l = .ok lo → t.rv (va.toNat + 1) l = .error k → both (laneOf (.error k)) (laneOf (.error k))) ∧
          (∀ lo hi k, t.rv va.toNat l = .ok lo → t.rv (va.toNat + 1) l = .ok hi → t.rv vb.toNat l = .error k →
            both (laneOf (.error k)) (laneOf (.error k)))))

/-- R152 to R155: a cross-lane move. An active lane whose source lane is active receives that lane's word or token; one with no such source
keeps vd; the cond bit of each active lane says whether a value came, and a token in the index register or the source lane poisons the lane
and its cond bit; a lane that is not active keeps vd and its cond bit. What becomes of vd's dead marks is in the statement on marks and
tokens. R156, R157: VPACK and VUNPK. Bit b of the word that VPACK makes in an active lane j is bit b mod w of the word of source lane
32/w·j + b/w, or bit b of old vd(j) where that lane is not active; bits above the sub-elements are 0, and the cond bit says whether every
source lane is active; with none active vd stays. VUNPK gives lane l the w bits of its sub-element of source lane l/(32/w), extended with
zeros or with their top bit. A token among the contributors poisons the lane and its cond bit. R158: VTOS writes the word of the lanes it
reads into a scalar; where one of them is poisoned it takes the deferred fault of the first token, and where it reads no lane and has no
word it writes nothing. -/
def Obligations.CrossLaneResults : Prop :=
  (∀ (i : Instr) (s : State) (slot : Nat) (t : Team) (vd va : VReg)
      (src : Nat → Except Word (Option Nat)), Runs s slot t i →
    (∀ l, Claim.crossSource t l i = some (vd, va, src l)) →
    ∃ s' t', exec i s = .next s' ∧ s'.team? slot = some t' ∧
      (∀ l, l < t.lanes → t.active l = false → t'.lane vd.toNat l = t.lane vd.toNat l ∧ t'.cond l = t.cond l) ∧
      ∀ l, l < t.lanes → t.active l = true →
      (∀ k, src l = .error k → t'.lane vd.toNat l = laneOf (.error k) ∧ maskBit t'.ctl.cpois l = true) ∧
      (∀ x, src l = .ok x → (∀ n, x = some n → t.active n = false) → t'.cond l = false ∧ maskBit t'.ctl.cpois l = false ∧
        (t'.lane vd.toNat l).data = (t.lane vd.toNat l).data ∧ (t'.lane vd.toNat l).tag = (t.lane vd.toNat l).tag) ∧
      (∀ x, src l = .ok (some x) → t.active x = true → t'.lane vd.toNat l = laneOf (t.rv va.toNat x) ∧
        (∀ w, t.rv va.toNat x = .ok w → t'.cond l = true ∧ maskBit t'.ctl.cpois l = false) ∧
        (∀ k, t.rv va.toNat x = .error k → maskBit t'.ctl.cpois l = true))) ∧
  (∀ (s : State) (slot : Nat) (t : Team) (vd va : VReg) (la lb keep sx : Bool) (w7 : BitVec 7)
      (w6 : BitVec 6),
    let stays (t' : Team) (l : Nat) : Prop := (t'.lane vd.toNat l).data = (t.lane vd.toNat l).data ∧
      (t'.lane vd.toNat l).tag = (t.lane vd.toNat l).tag ∧ t'.cond l = false ∧ maskBit t'.ctl.cpois l = false
    let poisoned (t' : Team) (l : Nat) (k : Word) : Prop := t'.lane vd.toNat l = laneOf (.error k) ∧ maskBit t'.ctl.cpois l = true
    (Runs s slot t (.vpack vd va w7 la lb keep) →
      ∃ s' t', exec (.vpack vd va w7 la lb keep) s = .next s' ∧ s'.team? slot = some t' ∧ ∀ j, j < t.lanes →
        let w := w7.toNat
        let n := 32 / w
        let valid (q : Nat) : Bool := t.active (j * n + q)
        let got (q : Nat) : Except Word Word := t.rv va.toNat (j * n + q)
        (t.active j = false → t'.lane vd.toNat j = t.lane vd.toNat j ∧ t'.cond j = t.cond j) ∧
        (t.active j = true →
          ((∀ q, q < n → valid q = false) → stays t' j) ∧
          (∀ (x : Nat → Word) (d : Word), (∃ q, q < n ∧ valid q = true) → (∀ q, q < n → valid q = true → got q = .ok (x q)) →
            ((∃ q, q < n ∧ valid q = false) → t.rv vd.toNat j = .ok d) →
            (t'.lane vd.toNat j).tag = false ∧ (t'.lane vd.toNat j).dead = false ∧
            (∀ b, b < 32 → (t'.lane vd.toNat j).data.getLsbD b =
              (decide (b / w < n) && if valid (b / w) then (x (b / w)).getLsbD (b % w) else d.getLsbD b)) ∧
            (t'.cond j = true ↔ ∀ q, q < n → valid q = true) ∧ maskBit t'.ctl.cpois j = false) ∧
          (∀ q k, q < n → valid q = true → got q = .error k → (∀ p, p < q → valid p = true → ∃ x, got p = .ok x) → poisoned t' j k) ∧
          (∀ k, (∃ q, q < n ∧ valid q = true) → (∃ q, q < n ∧ valid q = false) → (∀ q, q < n → valid q = true → ∃ x, got q = .ok x) →
            t.rv vd.toNat j = .error k → poisoned t' j k))) ∧
    (Runs s slot t (.vunpk vd va la sx w6) →
      ∃ s' t', exec (.vunpk vd va la sx w6) s = .next s' ∧ s'.team? slot = some t' ∧ ∀ l, l < t.lanes →
        let w := w6.toNat
        let n := 32 / w
        (t.active l = false → t'.lane vd.toNat l = t.lane vd.toNat l ∧ t'.cond l = t.cond l) ∧
        (t.active l = true →
          (t.active (l / n) = false → stays t' l) ∧
          (∀ a, t.active (l / n) = true → t.rv va.toNat (l / n) = .ok a →
            (t'.lane vd.toNat l).tag = false ∧ (t'.lane vd.toNat l).dead = false ∧
            (∀ b, b < 32 → (t'.lane vd.toNat l).data.getLsbD b =
              if b < w then a.getLsbD (l % n * w + b) else (sx && a.getLsbD (l % n * w + w - 1))) ∧
            t'.cond l = true ∧ maskBit t'.ctl.cpois l = false) ∧
          (∀ k, t.active (l / n) = true → t.rv va.toNat (l / n) = .error k → poisoned t' l k)))) ∧
  (∀ (i : Instr) (s : State) (slot : Nat) (t : Team) (va : VReg) (sb : SReg) (ls : List Nat)
      (f : List Word → Option Word), Runs s slot t i → Claim.vtosResult t i = some (va, sb, ls, f) →
    ((∀ l ∈ ls, ∃ w, t.rv va.toNat l = .ok w) →
      ∃ s' t', exec i s = .next s' ∧ s'.team? slot = some t' ∧ t'.pc = t.advance.pc ∧ SameMemory s s' ∧ SameScalars t t' [sb.toNat] ∧
        t'.rs sb.toNat = (match f (ls.map fun l => (t.lane va.toNat l).data) with
          | some w => (t.ws sb.toNat w).rs sb.toNat
          | none => t.rs sb.toNat)) ∧
    (∀ l k, ls.find? (fun l => (t.lane va.toNat l).dead || (t.lane va.toNat l).tag) = some l → t.rv va.toNat l = .error k →
      ∃ s' t', exec i s = .next s' ∧ s'.team? slot = some t' ∧ t'.status = .trapped ∧ t'.pc = t.pc ∧ t'.report.token = k ∧
        t'.report.cause = word (k.toNat / 2 ^ 24 + 256) ∧ t'.regs = t.regs))

/-- R117, R151, R172, R173, R211: an instruction that writes the cond window writes, in each active lane, its predicate, or 0 with the
poison bit where a source is poisoned; the bits of the other lanes stay. Here: VTEST by its eight codes; VCMP by its predicates on numbers,
true of every sub-element or of some, with NAN set (R98) where an element it read is a NaN and no other statistic changed; VCLASS by the
classes of the codes; PTEST. -/
def Obligations.CondResults : Prop := ∀ (s : State) (slot : Nat) (t : Team) (va vb : VReg) (la lb keep : Bool) (code : BitVec 7),
  let f := t.fmtAt t.slot
  let slotted (i : Instr) (ok : Nat → Option Prop) (bad : Nat → Prop) : Prop := Runs s slot t i → ∃ s' t', exec i s = .next s' ∧
    s'.team? slot = some t' ∧ ∀ l, l < t.lanes → (t.active l = false → t'.cond l = t.cond l) ∧
      (∀ p, t.active l = true → ok l = some p → (t'.cond l = true ↔ p) ∧ maskBit t'.ctl.cpois l = false) ∧
      (t.active l = true → bad l → t'.cond l = false ∧ maskBit t'.ctl.cpois l = true)
  (Runs s slot t (.vtest code va vb la lb keep) →
    ∃ s' t', exec (.vtest code va vb la lb keep) s = .next s' ∧ s'.team? slot = some t' ∧ ∀ l, l < t.lanes →
      (t.active l = false → t'.cond l = t.cond l) ∧
      (∀ a b, t.active l = true → t.rv va.toNat l = .ok a → t.rv vb.toNat l = .ok b → t'.cond l = (match code.toNat with
        | 0 => decide (a &&& b ≠ 0)
        | 1 => decide (a &&& b = 0)
        | 2 => decide (a = b)
        | 3 => decide (a ≠ b)
        | 4 => decide (a.toInt < b.toInt)
        | 5 => decide (a.toNat < b.toNat)
        | 6 => decide (a.toInt ≤ b.toInt)
        | _ => decide (a.toNat ≤ b.toNat)) ∧ maskBit t'.ctl.cpois l = false) ∧
      (∀ k, t.active l = true → t.rv va.toNat l = .error k ∨ t.rv vb.toNat l = .error k → t'.cond l = false ∧ maskBit t'.ctl.cpois l = true)) ∧
  slotted (.vcmp code va vb la lb keep)
    (fun l => match t.readIn f va.toNat l, t.readIn f vb.toNat l with
      | .ok a, .ok b =>
        let p (q : Nat) : Prop := Claim.compares (code.toNat % 8) (f.element a q) (f.element b q)
        some (if code.getLsbD 3 then ∃ q, q < f.count ∧ p q else ∀ q, q < f.count → p q)
      | _, _ => none)
    (fun l => ∃ k, t.readIn f va.toNat l = .error k ∨ t.readIn f vb.toNat l = .error k) ∧
  (Runs s slot t (.vcmp code va vb la lb keep) →
    let bad : Prop := ∃ l q a b, t.active l = true ∧ l < t.lanes ∧ q < f.count ∧ t.readIn f va.toNat l = .ok a ∧ t.readIn f vb.toNat l = .ok b ∧
      (f.element a q = .nan ∨ f.element b q = .nan)
    ∃ s' t', exec (.vcmp code va vb la lb keep) s = .next s' ∧ s'.team? slot = some t' ∧ (bad → t'.fmt.flags = t.fmt.flags ||| 4) ∧
      (¬ bad → t'.fmt.flags = t.fmt.flags) ∧ ∀ n, sget 0 t'.fmt.amax n = sget 0 t.fmt.amax n) ∧
  slotted (.vclass code va la lb keep)
    (fun l => match t.readIn f va.toNat l with
      | .ok a => some (∃ q, q < f.count ∧ code.getLsbD (Claim.classBit f (f.part a q)) = true)
      | .error _ => none)
    (fun l => ∃ k, t.readIn f va.toNat l = .error k) ∧
  (Runs s slot t (.ptest va la lb keep) → MemoryReady s slot t →
    ∃ s' t', exec (.ptest va la lb keep) s = .next s' ∧ s'.team? slot = some t' ∧ ∀ l, l < t.lanes →
      (t.active l = false → t'.cond l = t.cond l) ∧
      (t.active l = true → (t'.cond l = true ↔ (t.lane va.toNat l).dead = true ∨ (t.lane va.toNat l).tag = true) ∧
        maskBit t'.ctl.cpois l = false))

/-- R44, R117: the last-use bits and the tokens of the cond window. A lane or format instruction marks the registers that its hint bits
name dead in the active lanes and leaves the mark of every other register as it was; a register it writes keeps lane and mark where the
lane is not active. The word of tokens that VTEST, VCMP, VCLASS and the cross-lane moves store is that of the lowest lane they poison,
unless a lane below it was poisoned and still is; a word with no new poison keeps its token, and one with none left has 0. -/
def Obligations.MarksAndTokens : Prop := ∀ (i : Instr) (s : State) (slot : Nat) (t : Team),
  let tokens (bad : Nat → Option Word) : Prop := ∃ s' t', exec i s = .next s' ∧ s'.team? slot = some t' ∧ Claim.tokenRule t t' bad
  Runs s slot t i →
  (∀ ms, Claim.lastUses t i = some ms → ∃ s' t', exec i s = .next s' ∧ s'.team? slot = some t' ∧ ∀ r l, l < t.lanes →
    (r ∉ (needOf t (s.mxsel t) i).vw → ((t'.lane r l).dead = true ↔ (t.lane r l).dead = true ∨ (t.active l = true ∧ (r, true) ∈ ms))) ∧
    (r ∈ (needOf t (s.mxsel t) i).vw → t.active l = false → t'.lane r l = t.lane r l)) ∧
  (∀ code va vb la lb keep, i = .vtest code va vb la lb keep → tokens fun l => if t.active l then
    (match t.rv va.toNat l, t.rv vb.toNat l with | .error k, _ => some k | .ok _, .error k => some k | _, _ => none) else none) ∧
  (∀ code va vb la lb keep, i = .vcmp code va vb la lb keep → tokens fun l => Claim.badSource t l [va.toNat, vb.toNat]) ∧
  (∀ code va la lb keep, i = .vclass code va la lb keep → tokens fun l => Claim.badSource t l [va.toNat]) ∧
  ∀ (vd va : VReg) (src : Nat → Except Word (Option Nat)), (∀ l, Claim.crossSource t l i = some (vd, va, src l)) → tokens fun l =>
    if t.active l then (match src l with
      | .error k => some k
      | .ok (some n) => if t.active n then (match t.rv va.toNat n with | .error k => some k | .ok _ => none) else none
      | .ok none => none) else none

/-- R92, R93, R96, R160, R164 to R167, R171: an element-wise format instruction. Each active lane of vd, or of the pair under PACK,
receives the container of its codes with the tag clear, or the token of the first poisoned source; other lanes keep vd. R97, R98: the same
instructions OR the flags of their active lanes into the flags and raise AMAX of the slot to the greatest magnitude pattern of those lanes;
AMAX of every other slot stays. R176: VREDADD, VREDMAX and VREDMIN give every active lane the token of the first poisoned element, or, with
none poisoned, one code in every sub-element: for VREDMAX and VREDMIN that of the tree of R174 over the values. R180: VSTAT writes no lane;
it ORs the flags of the infinities and NaNs among the elements that are not poisoned and raises AMAX of the slot to the greatest finite
magnitude. -/
def Obligations.FormatResults : Prop :=
  (∀ (i : Instr) (s : State) (slot : Nat) (t : Team) (vd : VReg) (c : Nat → LaneCodes) (h : Nat),
    Runs s slot t i → (∀ l, Claim.slotWrite t l i = some (vd, c l)) → h < Claim.slotWidth t →
    ∃ s' t', exec i s = .next s' ∧ s'.team? slot = some t' ∧
      ∀ l, l < t.lanes → t'.lane (vd.toNat + h) l =
        if t.active l then Claim.slotLane (t.fmtAt t.slot) (c l) h else t.lane (vd.toNat + h) l) ∧
  (∀ (i : Instr) (s : State) (slot : Nat) (t : Team) (vd : VReg) (c : Nat → LaneCodes),
    Runs s slot t i → (∀ l, Claim.slotWrite t l i = some (vd, c l)) →
    let stats := t.activeLanes.map fun l => (c l).stat
    ∃ s' t', exec i s = .next s' ∧ s'.team? slot = some t' ∧
      (∀ b, b < 4 → t'.fmt.flags.getLsbD b = (t.fmt.flags.getLsbD b || stats.any fun x => x.flags.getLsbD b)) ∧
      (sget 0 t'.fmt.amax t.slot).toNat = stats.foldl (fun m x => max m x.amax.toNat) (sget 0 t.fmt.amax t.slot).toNat ∧
      (∀ n, n ≠ t.slot → sget 0 t'.fmt.amax n = sget 0 t.fmt.amax n) ∧
      t'.fmt.srcnt = if t.rounding t.slot = 5 then t.fmt.srcnt + 1 else t.fmt.srcnt) ∧
  ((∀ (s : State) (slot : Nat) (t : Team) (vd va : VReg) (la lb keep : Bool) (i : Instr), Runs s slot t i →
      let f := t.fmtAt t.slot
      let es := t.elements va.toNat
      let all (i : Instr) (c : LaneCodes) : Prop := ∃ s' t', exec i s = .next s' ∧ s'.team? slot = some t' ∧ ∀ h l, h < Claim.slotWidth t →
        l < t.lanes → t'.lane (vd.toNat + h) l = if t.active l then Claim.slotLane f c h else t.lane (vd.toNat + h) l
      (i = .vredadd vd va la lb keep ∨ i = .vredmax vd va la lb keep ∨ i = .vredmin vd va la lb keep →
        (∀ k, firstToken es = some k → all i (.error k)) ∧
        (firstToken es = none → ∃ c x, all i (.ok (List.replicate f.count c, x)))) ∧
      (firstToken es = none →
        let best (op : Val → Val → Val) : Option Nat :=
          (tree (fun _ _ a b => op a b) (es.map elementVal)).map fun v => (encodeVal f 0 false 0 v.exact).code
        (i = .vredmax vd va la lb keep → ∀ c, best maxVal = some c → ∃ x, all i (.ok (List.replicate f.count c, x))) ∧
        (i = .vredmin vd va la lb keep → ∀ c, best minVal = some c → ∃ x, all i (.ok (List.replicate f.count c, x))))) ∧
    (∀ (s : State) (slot : Nat) (t : Team) (va : VReg) (la lb keep : Bool), Runs s slot t (.vstat va la lb keep) →
      let vs := ((t.elements va.toNat).filterMap fun e => e.2.2.toOption)
      ∃ s' t', exec (.vstat va la lb keep) s = .next s' ∧ s'.team? slot = some t' ∧ SameScalars t t' [] ∧ SameVectors t t' [] ∧
        (∀ b, b < 4 → t'.fmt.flags.getLsbD b = (t.fmt.flags.getLsbD b || vs.any fun v => match v with
          | .nan => flagNan.getLsbD b
          | .inf neg => (if neg then flagNinf else flagPinf).getLsbD b
          | .fin _ _ _ => false)) ∧
        (sget 0 t'.fmt.amax t.slot).toNat = vs.foldl (fun m v => match v with
          | .fin n x e => max m (magPattern (.fin n x e)).toNat
          | _ => m) (sget 0 t.fmt.amax t.slot).toNat ∧
        ∀ n, n ≠ t.slot → sget 0 t'.fmt.amax n = sget 0 t.fmt.amax n))

/-- R174, R175: VDOT. In an integer slot an active lane of vd receives the exact sum of the products and its old integer, clamped under SAT
and else modulo 2^32, and a sum outside 32 bits sets OVC; in a float or fixed slot the pairwise tree of the products, each product and node
rounded to binary32, plus its old value under the effective rounding. A token poisons the lane, that of va before vb before vd. AMAX does
not change. R98, R174, R176: VREDADD, VREDMAX and VREDMIN with no poisoned element. VREDADD gives every sub-element the pairwise tree of
the elements, node i of level t encoded into the slot with a draw for position i and sub-element t. All three raise AMAX of the slot to the
magnitude of a finite result; an infinite result sets its flag, and a NaN result or source NAN; OVC is the only other flag that may change.
R177: the scans run over the elements of the active lanes from left to right: out(e) is the running sum, maximum or minimum up to element
e, and for .addx that before it, a zero at first. A lane whose results depend on a poisoned element takes the token of the first one. R178,
R179: VQNT packs as VPACK does: sub-element q of active lane j is the product of the binary32 word of lane nj + q and sb encoded into the
slot, or the old bits where that lane is not active; the cond bit says whether every source lane is. VDQNT gives lane l the product of
sub-element l mod n of lane l/n and sb in binary32. A token among the contributors poisons the lane and its cond bit. -/
def Obligations.DotsAndScans : Prop :=
  (∀ (s : State) (slot : Nat) (t : Team) (vd va vb : VReg) (la lb keep : Bool),
    let f := t.fmtAt t.slot
    Runs s slot t (.vdot vd va vb la lb keep) → ∃ s' t', exec (.vdot vd va vb la lb keep) s = .next s' ∧ s'.team? slot = some t' ∧
      (∀ n, sget 0 t'.fmt.amax n = sget 0 t.fmt.amax n) ∧
      (∀ l, l < t.lanes → t.active l = false → t'.lane vd.toNat l = t.lane vd.toNat l) ∧
      (∀ l k, l < t.lanes → t.active l = true →
        (t.readIn f va.toNat l = .error k → t'.lane vd.toNat l = laneOf (.error k)) ∧
        (∀ a, t.readIn f va.toNat l = .ok a → t.readIn f vb.toNat l = .error k → t'.lane vd.toNat l = laneOf (.error k)) ∧
        (∀ a b, t.readIn f va.toNat l = .ok a → t.readIn f vb.toNat l = .ok b → t.rv vd.toNat l = .error k →
          t'.lane vd.toNat l = laneOf (.error k))) ∧
      (∀ l a b d, l < t.lanes → t.active l = true → t.readIn f va.toNat l = .ok a → t.readIn f vb.toNat l = .ok b → t.rv vd.toNat l = .ok d →
        (f.kind = 1 ∨ f.kind = 2 →
          let x : Int := ((List.range f.count).map fun q => (f.element a q).intAt 0 * (f.element b q).intAt 0).sum + d.toInt
          t'.lane vd.toNat l = laneOf (.ok (BitVec.ofInt 32 (if t.sat then max (-2 ^ 31) (min (2 ^ 31 - 1) x) else x))) ∧
          (x < -2 ^ 31 ∨ 2 ^ 31 ≤ x → t'.fmt.flags.getLsbD 3 = true)) ∧
        (f.kind ≠ 1 → f.kind ≠ 2 → 0 < f.count →
          let r32 (x : Val) : Val := decodeVal binary32 (encodeVal binary32 0 false 0 x.exact).code
          ∃ sum, Claim.treeOf (fun _ _ x y => r32 (sumVals false [x, y])) f.count (fun q => r32 (mulVals (f.element a q) (f.element b q))) sum ∧
            t'.lane vd.toNat l = laneOf (.ok (word (encodeVal binary32 (t.rounding t.slot) t.sat
              (if t.rounding t.slot = 5 then t.draw l 0 else 0) (sumVals t.down [sum, ofF32 d]).exact).code))))) ∧
  (∀ (i : Instr) (s : State) (slot : Nat) (t : Team) (vd va : VReg) (la lb keep : Bool),
    let f := t.fmtAt t.slot
    let es := t.elements va.toNat
    let x (n : Nat) : Val := ((es[n]?).map elementVal).getD .nan
    i = .vredadd vd va la lb keep ∨ i = .vredmax vd va la lb keep ∨ i = .vredmin vd va la lb keep → Runs s slot t i →
    firstToken es = none → es ≠ [] →
    ∃ s' t' y, exec i s = .next s' ∧ s'.team? slot = some t' ∧
      (i = .vredadd vd va la lb keep →
        Claim.treeOf (fun lv n a b => decodeVal f (t.enc t.slot n lv (sumVals t.down [a, b]).exact).1) es.length x y) ∧
      (i ≠ .vredadd vd va la lb keep → (∃ n, n < es.length ∧ y = x n) ∧ ∀ n, n < es.length → x n ≠ .nan → y ≠ .nan ∧
        if i = .vredmax vd va la lb keep then ¬ Claim.below y (x n) else ¬ Claim.below (x n) y) ∧
      let c := (encodeVal f 0 false 0 y.exact).code
      let z := decodeVal f c
      (∀ h l, h < Claim.slotWidth t → l < t.lanes → t.active l = true →
        t'.lane (vd.toNat + h) l = Claim.slotLane f (.ok (List.replicate f.count c, Stat.none)) h) ∧
      (∀ n m e, z = .fin n m e → (sget 0 t'.fmt.amax t.slot).toNat = max (sget 0 t.fmt.amax t.slot).toNat (magPattern z).toNat) ∧
      ((∀ n m e, z ≠ .fin n m e) → sget 0 t'.fmt.amax t.slot = sget 0 t.fmt.amax t.slot) ∧
      (∀ n, n ≠ t.slot → sget 0 t'.fmt.amax n = sget 0 t.fmt.amax n) ∧
      (t'.fmt.flags.getLsbD 0 = true ↔ t.fmt.flags.getLsbD 0 = true ∨ z = .inf false) ∧
      (t'.fmt.flags.getLsbD 1 = true ↔ t.fmt.flags.getLsbD 1 = true ∨ z = .inf true) ∧
      (t'.fmt.flags.getLsbD 2 = true ↔ t.fmt.flags.getLsbD 2 = true ∨ z = .nan ∨ ∃ n, n < es.length ∧ x n = .nan) ∧
      (t.fmt.flags.getLsbD 3 = true → t'.fmt.flags.getLsbD 3 = true)) ∧
  (∀ (s : State) (slot : Nat) (t : Team) (vd va : VReg) (la lb keep : Bool),
    let f := t.fmtAt t.slot
    let es := t.elements va.toNat
    let scan (i : Instr) (before : Bool) (step : Nat → Nat → Val → Val → Val) : Prop := Runs s slot t i →
      ∃ (s' : State) (t' : Team) (acc : Nat → Val), exec i s = .next s' ∧ s'.team? slot = some t' ∧ (∀ l q v, es[0]? = some (l, q, .ok v) → acc 0 = v) ∧
        (∀ e l q v, es[e + 1]? = some (l, q, .ok v) → acc (e + 1) = step l q (acc e) v) ∧
        ∀ l h, l < t.lanes → h < Claim.slotWidth t →
          (t.active l = false → t'.lane (vd.toNat + h) l = t.lane (vd.toNat + h) l) ∧
          (t.active l = true →
            let first := f.count * ((List.range l).filter t.active).length
            let out (e : Nat) : Val := if before = false then acc e else if e = 0 then .fin false 0 0 else acc (e - 1)
            let bad : Prop := ∃ e l' q k, es[e]? = some (l', q, .error k) ∧ (if before then e + 1 else e) < first + f.count
            (¬ bad → t'.lane (vd.toNat + h) l = Claim.slotLane f
              (.ok ((List.range f.count).map fun q => (encodeVal f 0 false 0 (out (first + q)).exact).code, Stat.none)) h) ∧
            (∀ k, bad → firstToken es = some k → t'.lane (vd.toNat + h) l = Claim.slotLane f (.error k) h))
    let add (l q : Nat) (a b : Val) : Val := decodeVal f (t.enc t.slot l q (sumVals t.down [a, b]).exact).1
    scan (.vscanAdd vd va la lb keep) false add ∧ scan (.vscanAddx vd va la lb keep) true add ∧
    scan (.vscanMax vd va la lb keep) false (fun _ _ a b => maxVal a b) ∧ scan (.vscanMin vd va la lb keep) false (fun _ _ a b => minVal a b)) ∧
  (∀ (s : State) (slot : Nat) (t : Team) (vd va : VReg) (sb : SReg) (la keep : Bool),
    let f := t.fmtAt t.slot
    let n := f.count
    let k := ofF32 (t.rs sb.toNat)
    let stays (t' : Team) (l w : Nat) : Prop := (∀ h, h < w → (t'.lane (vd.toNat + h) l).data = (t.lane (vd.toNat + h) l).data ∧
      (t'.lane (vd.toNat + h) l).tag = (t.lane (vd.toNat + h) l).tag) ∧ t'.cond l = false ∧ maskBit t'.ctl.cpois l = false
    let inactive (t' : Team) (l w : Nat) : Prop := t.active l = false →
      (∀ h, h < w → t'.lane (vd.toNat + h) l = t.lane (vd.toNat + h) l) ∧ t'.cond l = t.cond l
    let poisoned (t' : Team) (l w : Nat) (k : Word) : Prop :=
      (∀ h, h < w → t'.lane (vd.toNat + h) l = laneOf (.error k)) ∧ maskBit t'.ctl.cpois l = true
    (Runs s slot t (.vqnt vd va sb la keep) →
      ∃ s' t', exec (.vqnt vd va sb la keep) s = .next s' ∧ s'.team? slot = some t' ∧ ∀ j, j < t.lanes →
        let valid (q : Nat) : Bool := t.active (j * n + q)
        let got (q : Nat) : Except Word Word := t.rv va.toNat (j * n + q)
        let code (w : Word) (q : Nat) : Nat := (t.enc t.slot j q (mulVals (ofF32 w) k).exact).1
        inactive t' j (Claim.slotWidth t) ∧ (t.active j = true →
          ((∀ q, q < n → valid q = false) → stays t' j (Claim.slotWidth t)) ∧
          (∀ (x : Nat → Word) (d : Nat), (∃ q, q < n ∧ valid q = true) → (∀ q, q < n → valid q = true → got q = .ok (x q)) →
            ((∃ q, q < n ∧ valid q = false) → t.readIn f vd.toNat j = .ok d) →
            (∀ h, h < Claim.slotWidth t → (t'.lane (vd.toNat + h) j).tag = false ∧ (t'.lane (vd.toNat + h) j).dead = false ∧
              ∀ b, b < 32 → (t'.lane (vd.toNat + h) j).data.getLsbD b = (decide ((32 * h + b) / f.w < n) &&
                if valid ((32 * h + b) / f.w) then (code (x ((32 * h + b) / f.w)) ((32 * h + b) / f.w)).testBit ((32 * h + b) % f.w)
                else d.testBit (32 * h + b))) ∧
            (t'.cond j = true ↔ ∀ q, q < n → valid q = true) ∧ maskBit t'.ctl.cpois j = false) ∧
          (∀ q e, q < n → valid q = true → got q = .error e → (∀ p, p < q → valid p = true → ∃ x, got p = .ok x) →
            poisoned t' j (Claim.slotWidth t) e) ∧
          (∀ e, (∃ q, q < n ∧ valid q = true) → (∃ q, q < n ∧ valid q = false) → (∀ q, q < n → valid q = true → ∃ x, got q = .ok x) →
            t.readIn f vd.toNat j = .error e → poisoned t' j (Claim.slotWidth t) e))) ∧
    (Runs s slot t (.vdqnt vd va sb la keep) →
      ∃ s' t', exec (.vdqnt vd va sb la keep) s = .next s' ∧ s'.team? slot = some t' ∧ ∀ l, l < t.lanes →
        inactive t' l 1 ∧ (t.active l = true → (t.active (l / n) = false → stays t' l 1) ∧
          (∀ c, t.active (l / n) = true → t.readIn f va.toNat (l / n) = .ok c →
            t'.lane vd.toNat l = laneOf (.ok (word (encodeVal binary32 (t.rounding t.slot) t.sat
              (if t.rounding t.slot = 5 then t.draw l 0 else 0) (mulVals (f.element c (l % n)) k).exact).code)) ∧
            t'.cond l = true ∧ maskBit t'.ctl.cpois l = false) ∧
          (∀ e, t.active (l / n) = true → t.readIn f va.toNat (l / n) = .error e → poisoned t' l 1 e))))

/-- R81 to R84, R161, R165: the value of every code of a valid format as a number, or an infinity or a NaN; sums, products, quotients and
roots of finite values as numbers, with the special operands of R161; the minimum and maximum with their signed zeros and NaNs. -/
def Obligations.NumberValues : Prop :=  (∀ (d : Dbl) (c : Nat), fmtValid d = true → c < 2 ^ (fmtOf d).w →
    let f := fmtOf d
    let S : Bool := f.sign && c.testBit (f.w - 1)
    let X := c / 2 ^ f.m % 2 ^ f.e
    let F := c % 2 ^ f.m
    let is (v : ℚ) : Prop := ∃ n m e, decodeVal f c = .fin n m e ∧ Claim.number n m e = v ∧ (f.kind = 0 → n = S)
    let nan : Prop := (f.nan = 1 ∧ X = 2 ^ f.e - 1 ∧ F ≠ 0) ∨ (f.nan = 2 ∧ X = 2 ^ f.e - 1 ∧ F = 2 ^ f.m - 1) ∨
      (f.nan = 3 ∧ S = true ∧ X = 0 ∧ F = 0)
    let inf : Prop := f.inf = 1 ∧ X = 2 ^ f.e - 1 ∧ F = 0
    (f.kind = 0 → (nan → decodeVal f c = .nan) ∧ (inf → decodeVal f c = .inf S) ∧ (¬ nan → ¬ inf →
      is (if X = 0 ∧ f.sub = 1 then 0 else (if S then -1 else 1) * Claim.fieldValue f X F))) ∧
    (f.kind ≠ 0 → is (((if (Claim.intRange f).2 < c then (c : Int) - 2 ^ f.w else c : Int) : ℚ) / 2 ^ f.frac))) ∧
  (∀ (down : Bool) (vs : List Val), let has (v : Val) : Prop := v ∈ vs
    (has .nan ∨ (has (.inf true) ∧ has (.inf false)) → sumVals down vs = .nan) ∧
    (∀ n, ¬ has .nan → has (.inf n) → ¬ has (.inf !n) → sumVals down vs = .inf n) ∧
    (vs ≠ [] → (∀ v, has v → ∃ n m e, v = .fin n m e) → ∃ n m e, sumVals down vs = .fin n m e ∧
      Claim.number n m e = (vs.map fun v => match v with | .fin n m e => Claim.number n m e | _ => 0).sum ∧
      (m = 0 → ((∀ v, has v → v.isZero = true ∧ v.neg = false) → n = false) ∧ ((∀ v, has v → v.isZero = true ∧ v.neg = true) → n = true) ∧
        (¬ (∀ v, has v → v.isZero = true ∧ v.neg = false) → ¬ (∀ v, has v → v.isZero = true ∧ v.neg = true) → n = down)))) ∧
  (∀ (a b : Val) (n k : Bool) (m p : Nat) (e q : Int),
    (a = .nan ∨ b = .nan → mulVals a b = .nan ∧ divVals a b = .nan) ∧
    (mulVals (.inf n) (.inf k) = .inf (n != k) ∧ divVals (.inf n) (.inf k) = .nan) ∧
    (mulVals (.inf n) (.fin k p q) = (if p = 0 then .nan else .inf (n != k)) ∧ divVals (.inf n) (.fin k p q) = .inf (n != k)) ∧
    (mulVals (.fin n m e) (.inf k) = (if m = 0 then .nan else .inf (n != k)) ∧ divVals (.fin n m e) (.inf k) = .zero (n != k)) ∧
    (∃ m' e', mulVals (.fin n m e) (.fin k p q) = .fin (n != k) m' e' ∧
      Claim.number (n != k) m' e' = Claim.number n m e * Claim.number k p q) ∧
    (p = 0 → divVals (.fin n m e) (.fin k p q) = if m = 0 then .nan else .inf (n != k)) ∧
    (p ≠ 0 → m = 0 → divVals (.fin n m e) (.fin k p q) = .zero (n != k)) ∧
    (p ≠ 0 → m ≠ 0 → ∃ x, divVals (.fin n m e) (.fin k p q) = .real (n != k) x ∧
      Claim.denotes x ((Claim.number false m e / Claim.number false p q : ℚ) : ℝ)) ∧
    (m ≠ 0 → (∃ x, rcpVal (.fin n m e) = .real n x ∧ Claim.denotes x ((1 / Claim.number false m e : ℚ) : ℝ)) ∧
      (∃ x, sqrtVal (.fin false m e) = .real false x ∧ Claim.denotes x (Real.sqrt (Claim.number false m e : ℝ))) ∧
      (∃ x, rsqVal (.fin false m e) = .real false x ∧ Claim.denotes x (1 / Real.sqrt (Claim.number false m e : ℝ))) ∧
      ∃ x, Val.exact (.fin n m e) = .real n x ∧ Claim.denotes x (Claim.number false m e : ℝ))) ∧
  (∀ (a b : Val),
    (a = .nan → minVal a b = b ∧ maxVal a b = b ∧ minMag a b = b ∧ maxMag a b = b) ∧
    (b = .nan → minVal a b = a ∧ maxVal a b = a ∧ minMag a b = a ∧ maxMag a b = a) ∧
    (a ≠ .nan → b ≠ .nan →
      (Claim.below a b → minVal a b = a ∧ maxVal a b = b) ∧ (Claim.below b a → minVal a b = b ∧ maxVal a b = a) ∧
      (Claim.equals a b → (minVal a b = a ∨ minVal a b = b) ∧ (minVal a b).neg = (a.neg || b.neg) ∧
        (maxVal a b = a ∨ maxVal a b = b) ∧ (maxVal a b).neg = (a.neg && b.neg)) ∧
      (Claim.below a.abs b.abs → minMag a b = a ∧ maxMag a b = b) ∧ (Claim.below b.abs a.abs → minMag a b = b ∧ maxMag a b = a) ∧
      (Claim.equals a.abs b.abs → minMag a b = minVal a b ∧ maxMag a b = maxVal a b)))

/-- R83, R85 to R88: what encoding gives, in terms of the values of codes. A number y between adjacent finite values becomes one of them by
the rounding; an integer kind rounds to an integer that saturates or wraps outside W bits; above the largest finite value the next step of
its spacing is an overflow, which gives the largest value, an infinity or a NaN; SUB = 1 flushes below 2^(1-B), SUB = 2 has no zero;
infinities and NaNs of a format without them give what R88 says. Left out: a format with NAN = 3 and SUB = 2, whose negative smallest code
is NaN. -/
def Obligations.Rounding : Prop := ∀ (d : Dbl) (rnd draw : Nat) (sat neg : Bool) (x : Mag) (v : ℝ),
  fmtValid d = true → rnd ≤ 5 → draw < 2 ^ 32 → Claim.denotes x v → ¬ ((fmtOf d).nan = 3 ∧ (fmtOf d).sub = 2) →
  let f := fmtOf d
  let y : ℝ := if neg then -v else v
  let r := encodeVal f rnd sat draw (.real neg x)
  let gives (e : Enc) (w : ℝ) : Prop := Claim.finite f e.code w
  let lim (i : Int) : Int := if i < (Claim.intRange f).1 then (Claim.intRange f).1 else (Claim.intRange f).2
  let fits (i : Int) : Prop := (Claim.intRange f).1 ≤ i ∧ i ≤ (Claim.intRange f).2
  let wrap (i : Int) : Nat := (i % 2 ^ f.w).toNat
  let field := (Claim.topField f).1
  let L : ℝ := (Claim.fieldValue f field (Claim.topField f).2 : ℝ)
  let U : ℝ := (2 : ℝ) ^ ((if field = 0 ∧ f.sub = 0 then 1 - f.bias else (field : Int) - f.bias) - f.m)
  let even : Prop := (field * 2 ^ f.m + (Claim.topField f).2) % 2 = 0
  let least : Nat := if neg then 2 ^ (f.w - 1) else 0
  let signed (e : Enc) : Prop := if neg then gives e (-L) else gives e L
  (f.kind ≠ 0 → ∃ i : Int, (∀ k : Int, y * 2 ^ f.frac = k → i = k) ∧
    (∀ k : Int, (k : ℝ) < y * 2 ^ f.frac → y * 2 ^ f.frac < k + 1 → Claim.rounded rnd draw (y * 2 ^ f.frac) k (k + 1) (k % 2 = 0) i) ∧
    (fits i → r = ⟨wrap i, false⟩) ∧ (¬ fits i → r = ⟨if sat = true ∨ f.ovf = true then wrap (lim i) else wrap i, true⟩)) ∧
  (f.kind = 0 → neg = true → f.sign = false → r = ⟨0, true⟩) ∧
  (f.kind = 0 → f.sub = 1 → ∀ w, (neg = true → f.sign = true) →
    let k := encodeVal { f with sub := 0 } rnd sat draw (.real neg x)
    k.ovc = true ∨ Claim.finite { f with sub := 0 } k.code w →
    r = if k.ovc = false ∧ |w| < (2 : ℝ) ^ (1 - f.bias) then ⟨if neg = true ∧ f.nan ≠ 3 then least else 0, false⟩ else k) ∧
  (f.kind = 0 → f.sub = 2 → (neg = true → f.sign = true) → v < (2 : ℝ) ^ (-f.bias) → r = ⟨least, false⟩ ∧
    gives r (if neg then -(2 : ℝ) ^ (-f.bias) else (2 : ℝ) ^ (-f.bias))) ∧
  (f.kind = 0 → f.sub ≠ 1 → (neg = true → f.sign = true) → (f.sub = 2 → (2 : ℝ) ^ (-f.bias) ≤ v) →
    (v ≤ L → (∀ w c, c < 2 ^ f.w → Claim.finite f c w → y = w → r.ovc = false ∧ gives r w) ∧
      ∀ lo hi cl ch, cl < 2 ^ f.w → ch < 2 ^ f.w → Claim.finite f cl lo → Claim.finite f ch hi → lo < y → y < hi →
        (∀ c w, c < 2 ^ f.w → Claim.finite f c w → w ≤ lo ∨ hi ≤ w) → r.ovc = false ∧ ∃ w, gives r w ∧ Claim.rounded rnd draw y lo hi (cl % 2 = 0) w ∧
          (w = 0 → r.code = if neg = true ∧ f.nan ≠ 3 then least else 0)) ∧
    (L < v →
      let stays : Prop := v < L + U ∧
        if neg then Claim.rounded rnd draw y (-(L + U)) (-L) (¬ even) (-L) else Claim.rounded rnd draw y L (L + U) even L
      (stays → r.ovc = false ∧ signed r) ∧
      (¬ stays → r.ovc = true ∧
        (sat = true ∨ f.ovf = true ∨ f.inf = 2 → signed r) ∧
        (sat = false → f.ovf = false → f.inf = 1 →
          if rnd = 1 ∨ (rnd = 2 ∧ neg = true) ∨ (rnd = 3 ∧ neg = false) then signed r else decodeVal f r.code = .inf neg) ∧
        (sat = false → f.ovf = false → f.inf = 0 → decodeVal f r.code = .nan)))) ∧
  (let z := encodeVal f rnd sat draw (.zero neg)
   let i := encodeVal f rnd sat draw (.inf neg)
   let n := encodeVal f rnd sat draw .nan
   (f.kind ≠ 0 → z = ⟨0, false⟩ ∧ n = ⟨0, true⟩ ∧ i = ⟨wrap (if neg then (Claim.intRange f).1 else (Claim.intRange f).2), true⟩) ∧
   (f.kind = 0 → z = ⟨if neg = true ∧ f.sign = true ∧ f.nan ≠ 3 then least else 0, false⟩ ∧ (f.nan = 0 → n = ⟨0, true⟩) ∧
     (f.nan ≠ 0 → decodeVal f n.code = .nan ∧ n = ⟨if f.nan = 1 then (2 ^ f.e - 1) * 2 ^ f.m + 2 ^ (f.m - 1)
       else if f.nan = 2 then 2 ^ (f.e + f.m) - 1 else 2 ^ (f.w - 1), false⟩) ∧
     (neg = true → f.sign = false → i = ⟨0, true⟩) ∧
     ((neg = true → f.sign = true) → (f.inf = 1 → decodeVal f i.code = .inf neg ∧ i.ovc = false) ∧ (f.inf ≠ 1 → i.ovc = true ∧
       (f.inf = 2 ∨ sat = true ∨ f.ovf = true → f.sub ≠ 1 → signed i) ∧ (f.inf = 0 → sat = false → f.ovf = false → decodeVal f i.code = .nan)))))

/-- R99, R168 to R170: a special function leaves vd empty and goes on; its result, of the operands read at issue, is one outstanding
operation that writes nothing yet. R49, R170: when the result of a special function is written its registers fill and hold its lanes, and
the operation is gone. Stated for an operation with one destination register, with no earlier special function on its core, whose team
still holds its slot. -/
def Obligations.SpecialFunctions : Prop :=
  (∀ (i : Instr) (s : State) (slot : Nat) (t : Team) (vd : VReg) (c : Nat → LaneCodes),
    Runs s slot t i → (∀ l, Claim.sfuWrite t l i = some (vd, c l)) →
    ∃ s' t' f, exec i s = .next s' ∧ s'.team? slot = some t' ∧ t'.pc = t.advance.pc ∧ SameMemory s s' ∧
      (∀ h, h < Claim.slotWidth t → t'.vEmpty (vd.toNat + h) = true) ∧ SameScalars t t' [] ∧ SameVectors t t' [] ∧
      t'.fmt.flags = t.fmt.flags ∧ t'.fmt.amax = t.fmt.amax ∧
      (∃ o, s'.ops = s.ops ++ [o] ∧ o.id = s.nextId ∧ o.slot = slot ∧ o.kind = .sfu f) ∧
      ∀ h, h < Claim.slotWidth t → ∃ ls, f.vd[h]? = some (vd.toNat + h, ls) ∧
        ∀ l, l < t.lanes → ls[l]? = some (if t.active l then some (Claim.slotLane (t.fmtAt t.slot) (c l) h) else none)) ∧
  (∀ (s : State) (o : Op) (t : Team) (r : Nat) (ls : List (Option Lane)) (n : Nat)
      (am : Word) (fl : BitVec 4), s.op? o.id = some o → o.orphan = false → s.team? o.slot = some t → t.group = o.gid → t.status ≠ .exited →
    o.kind = .sfu { vd := [(r, ls)], slot := n, amax := am, flags := fl } →
    (∀ p ∈ s.ops, p.id < o.id → p.core = o.core → ∀ f, p.kind ≠ .sfu f) →
    ∃ s' t', exec (.sfuResultWritten o.id) s = .next s' ∧ s'.team? o.slot = some t' ∧ s'.op? o.id = none ∧ t'.vEmpty r = false ∧
      (∀ l, l < t.lanes → t'.lane r l = (ls.getD l none).getD (t.lane r l)) ∧ t'.fmt.flags = t.fmt.flags ||| fl ∧
      t'.pc = t.pc ∧ SameMemory s s' ∧ SameScalars t t' [])

/-- R102 to R107: FDEF writes a valid definition and takes ILLEGAL for another; FDEFI writes a built-in one; FGET reads a definition; STGET
reads a statistic and STCLR clears the chosen ones once no special function of the team is outstanding, and waits till then; STSEED sets
the seed and the count. R41 to R43: MODE and MODES replace the enabled fields of the mode register and leave the others; MODES takes
ILLEGAL for a value that MODE could not hold; MODEGET reads the register. -/
def Obligations.FormatState : Prop :=
  (∀ (s : State) (slot : Nat) (t : Team) (n : BitVec 4) (sa sd : SReg) (pair co cn ca c1 : Bool)
      (idx sel : BitVec 8),
    (Runs s slot t (.fdef n sa) → fmtValid (t.rd64 sa.toNat) = true → ∃ t', exec (.fdef n sa) s = .next (s.setTeam slot t') ∧
      t'.fdr n.toNat = t.rd64 sa.toNat ∧ (∀ m, m ≠ n.toNat → t'.fdr m = t.fdr m) ∧ t'.pc = t.advance.pc ∧ t'.regs = t.regs) ∧
    (Runs s slot t (.fdef n sa) → fmtValid (t.rd64 sa.toNat) = false →
      exec (.fdef n sa) s = .next (s.trap slot (Report.precise 0x10 t.allLanes))) ∧
    (Runs s slot t (.fdefi n pair idx) → ∃ t', exec (.fdefi n pair idx) s = .next (s.setTeam slot t') ∧
      t'.fdr n.toNat = (if pair then builtin idx.toNat ||| (1 <<< 40) else builtin idx.toNat) ∧ t'.regs = t.regs) ∧
    (Runs s slot t (.fget sd n) → exec (.fget sd n) s = .next (s.setTeam slot
      ((t.ws sd.toNat ((t.fdr n.toNat).extractLsb' 0 32)).ws (sd.toNat + 1) ((t.fdr n.toNat).extractLsb' 32 32)).advance)) ∧
    (Runs s slot t (.stget sd sel) → s.statsPending slot t.group = false →
      exec (.stget sd sel) s = .next (s.setTeam slot (t.ws sd.toNat (
        if sel.toNat < 16 then sget 0 t.fmt.amax sel.toNat else if sel.toNat = 16 then t.fmt.flags.zeroExtend 32
        else if sel.toNat = 17 then t.fmt.seed.extractLsb' 0 32 else if sel.toNat = 18 then t.fmt.seed.extractLsb' 32 32
        else if sel.toNat = 19 then t.fmt.srcnt.extractLsb' 0 32 else t.fmt.srcnt.extractLsb' 32 32)).advance)) ∧
    (s.statsPending slot t.group = true → (Runs s slot t (.stget sd sel) → exec (.stget sd sel) s = .next s) ∧
      (Runs s slot t (.stclr co cn ca c1 n) → exec (.stclr co cn ca c1 n) s = .next s)) ∧
    (Runs s slot t (.stclr co cn ca c1 n) → s.statsPending slot t.group = false →
      ∃ t', exec (.stclr co cn ca c1 n) s = .next (s.setTeam slot t') ∧ t'.regs = t.regs ∧ t'.fmt.fdr = t.fmt.fdr ∧
        t'.fmt.flags.getLsbD 3 = (t.fmt.flags.getLsbD 3 && !co) ∧ (∀ b, b < 3 → t'.fmt.flags.getLsbD b = (t.fmt.flags.getLsbD b && !cn)) ∧
        (∀ m, m < 16 → sget 0 t'.fmt.amax m = if ca ∨ (c1 ∧ m = n.toNat) then 0 else sget 0 t.fmt.amax m)) ∧
    (Runs s slot t (.stseed sa) → ∃ t', exec (.stseed sa) s = .next (s.setTeam slot t') ∧ t'.fmt.seed = t.rd64 sa.toNat ∧ t'.fmt.srcnt = 0 ∧
      t'.regs = t.regs ∧ t'.fmt.fdr = t.fmt.fdr ∧ t'.fmt.flags = t.fmt.flags ∧ t'.pc = t.advance.pc)) ∧
  (∀ (s : State) (slot : Nat) (t : Team) (en : BitVec 5) (imm : BitVec 12) (sa sd : SReg),
    let set (v : Half) (t' : Team) : Prop := t'.regs = t.regs ∧ t'.pc = t.advance.pc ∧ t'.fmt = t.fmt ∧ ∀ b, b < 16 →
      t'.mode.getLsbD b = if (b < 4 ∧ en.getLsbD 0 = true) ∨ (4 ≤ b ∧ b < 7 ∧ en.getLsbD 1 = true) ∨ (b = 7 ∧ en.getLsbD 2 = true) ∨
        ((b = 8 ∨ b = 9) ∧ en.getLsbD 3 = true) ∨ ((b = 10 ∨ b = 11) ∧ en.getLsbD 4 = true) then v.getLsbD b else t.mode.getLsbD b
    (Runs s slot t (.mode en imm) → ∃ t', exec (.mode en imm) s = .next (s.setTeam slot t') ∧ set (imm.zeroExtend 16) t') ∧
    (Runs s slot t (.modes en sa) → (t.rs sa.toNat).extractLsb' 12 4 = 0 → modeOk en ((t.rs sa.toNat).extractLsb' 0 12) = true →
      ∃ t', exec (.modes en sa) s = .next (s.setTeam slot t') ∧ set ((t.rs sa.toNat).extractLsb' 0 16) t') ∧
    (Runs s slot t (.modes en sa) → (t.rs sa.toNat).extractLsb' 12 4 ≠ 0 ∨ modeOk en ((t.rs sa.toNat).extractLsb' 0 12) = false →
      exec (.modes en sa) s = .next (s.trap slot (Report.precise 0x10 t.allLanes))) ∧
    (Runs s slot t (.modeget sd) → exec (.modeget sd) s = .next (s.setTeam slot (t.ws sd.toNat (t.mode.zeroExtend 32)).advance)))

/-! ## Control -/

/-- R36, R120, R131: a uniform branch whose cond registers carry no poison goes to its own address plus 4 times its offset when taken, else
on as any instruction does. When taken nothing of the team but the PC changes, and, where the PC leaves the body of the active loop, the
loop, which is then inactive with count 0. R121: a branch that reads a cond word with a poison bit in a lane whose exec bit is 1 takes the
deferred fault of that word's token, the lowest such word first, and moves nothing. -/
def Obligations.UniformBranch : Prop :=
  (∀ (i : Instr) (s : State) (slot : Nat) (t : Team) (off : Int) (rs : List Nat) (taken : Bool),
    Runs s slot t i → Claim.branch t i = some (off, rs, taken) → t.condFault rs = none →
    (taken = false → exec i s = .next (s.setTeam slot t.advance)) ∧
    (taken = true → ∃ t', exec i s = .next (s.setTeam slot t') ∧ t'.pc = t.pc + BitVec.ofInt 64 (4 * off) ∧
      { t' with pc := t.pc, ctl := t.ctl } = t ∧ { t'.ctl with loop := t.ctl.loop } = t.ctl ∧
      let inside : Prop := t.ctl.loop.start.toNat ≤ t'.pc.toNat ∧ t'.pc.toNat ≤ t.ctl.loop.last.toNat
      (t.ctl.loop.active = false ∨ inside → t'.ctl = t.ctl) ∧
      (t.ctl.loop.active = true → ¬ inside → t'.ctl.loop.active = false ∧ t'.ctl.loop.lc = 0 ∧ t'.ctl.loop.start = t.ctl.loop.start ∧
        t'.ctl.loop.last = t.ctl.loop.last))) ∧
  (∀ (i : Instr) (s : State) (slot : Nat) (t : Team) (off : Int) (rs : List Nat) (taken : Bool) (l : Nat),
    Runs s slot t i → Claim.branch t i = some (off, rs, taken) → l < t.lanes → 192 + l / 32 ∈ rs → t.exec l = true →
    maskBit t.ctl.cpois l = true →
    (∀ m, m < t.lanes → m / 32 < l / 32 → 192 + m / 32 ∈ rs → t.exec m = true → maskBit t.ctl.cpois m = false) →
    ∃ s' t', exec i s = .next s' ∧ s'.team? slot = some t' ∧ t'.status = .trapped ∧ t'.pc = t.pc ∧
      t'.report.token = maskWord t.ctl.ctok (l / 32) ∧ maskBit t'.report.flw l = true)

/-- R125: BDIV and BDIVL. With no lane taken the team goes on; with every lane taken it goes to the target; else a join entry with the
address R and the whole mask is pushed where RPC is not R, a path entry for the side that waits where that side does not begin at R, RPC
becomes R, and the first side runs: the taken one for BDIV, the other for BDIVL. R121: a poisoned cond bit of an executing lane is the
deferred fault of its word's token. R124: while PC = RPC the team pops before it issues: the exec window becomes the entry's mask under the
live lanes, and PC and RPC the entry's. -/
def Obligations.DivergentBranch : Prop :=
  (∀ (s : State) (slot : Nat) (t : Team) (tgt rcv : BitVec 12) (first : Bool),
    let i : Instr := if first then .bdiv tgt rcv else .bdivl tgt rcv
    let tA := t.pc + BitVec.ofInt 64 (4 * tgt.toInt)
    let rA := t.pc + BitVec.ofInt 64 (4 * rcv.toInt)
    let tk : List Word := (List.range t.beats).map fun b => t.rs (224 + b) &&& t.rs (192 + b)
    let nt : List Word := (List.range t.beats).map fun b => t.rs (224 + b) &&& ~~~t.rs (192 + b)
    let one := if first then (tA, tk) else (t.pc + 4, nt)
    let two := if first then (t.pc + 4, nt) else (tA, tk)
    (∀ l, Runs s slot t i → l < t.lanes → t.exec l = true → maskBit t.ctl.cpois l = true →
      (∀ m, m < t.lanes → m / 32 < l / 32 → t.exec m = true → maskBit t.ctl.cpois m = false) → ∃ s' t', exec i s = .next s' ∧
      Trapped s' slot t t' (word ((maskWord t.ctl.ctok (l / 32)).toNat / 2 ^ 24 + 256)) 0 ∧ t'.ctl = t.ctl ∧
      t'.report.token = maskWord t.ctl.ctok (l / 32) ∧ maskBit t'.report.flw l = true ∧ SameMemory s s') ∧
    (Runs s slot t i → t.condFault t.condRegs = none → t.beats ≤ 32 →
    ((∀ w ∈ tk, w = 0) → exec i s = .next (s.setTeam slot t.advance)) ∧
    ((∃ w ∈ tk, w ≠ 0) → (∀ w ∈ nt, w = 0) → ∃ t', exec i s = .next (s.setTeam slot t') ∧ t'.pc = tA ∧ t'.regs = t.regs ∧
      t'.ctl.stack = t.ctl.stack ∧ t'.ctl.rpc = t.ctl.rpc) ∧
    ((∃ w ∈ tk, w ≠ 0) → (∃ w ∈ nt, w ≠ 0) → t.ctl.stack.length + 2 ≤ Config.hardwareStack →
      t.ctl.spilled ≤ t.ctl.spillDepth →
      ∃ t', exec i s = .next (s.setTeam slot t') ∧ t'.pc = one.1 ∧
        (∀ b, b < t.beats → t'.rs (224 + b) = one.2.getD b 0 &&& maskWord t.ctl.live b) ∧
        t'.ctl.rpc = rA ∧
        t'.ctl.stack =
          (if two.1 = rA then [] else [{ kind := .path, pc := two.1, mask := two.2, rpc := rA }]) ++
          (if t.ctl.rpc = rA then [] else [{ kind := .join, pc := rA, mask := t.execWindow, rpc := t.ctl.rpc }]) ++ t.ctl.stack))) ∧
  (∀ (s : State) (slot : Nat) (t : Team) (e : DivEntry) (rest : List DivEntry),
    s.cur = some slot → s.team? slot = some t → t.canIssue = true → t.pc = t.ctl.rpc → t.beats ≤ 32 →
    (∀ r ∈ t.execRegs ++ t.condRegs, t.sEmpty r = false) → t.ctl.stack = e :: rest →
    (∃ b, b < t.beats ∧ maskWord e.mask b &&& maskWord t.ctl.live b ≠ 0) →
    ∃ t', exec .divergencePop s = .next (s.setTeam slot t') ∧ t'.pc = e.pc ∧ t'.ctl.rpc = e.rpc ∧ t'.ctl.stack = rest ∧
      (∀ b, b < t.beats → t'.rs (224 + b) = maskWord e.mask b &&& maskWord t.ctl.live b) ∧ SameScalars t t' t.execRegs ∧
      t'.status = t.status)

/-- R130: LOOP with a count of 0 goes past the body; else the body begins, active, with that count. At the last word of an active body an
instruction that does not transfer control goes back to its start while LC is above 1, lowering LC, and leaves the loop otherwise. R116,
R118, R119: the windows that MOP, MSAVE and MREST write, word by word: every source word is read before any word is written, and what is
written to an exec word keeps only live lanes. Popcount and first lane of a window go to a scalar. -/
def Obligations.CountedLoop : Prop :=
  (∀ (s : State) (slot : Nat) (t : Team) (sa : SReg) (off : BitVec 16),
    let last := t.pc + BitVec.ofInt 64 (4 * off.toInt)
    (Runs s slot t (.loop sa off) → t.rs sa.toNat = 0 → ∃ t', exec (.loop sa off) s = .next (s.setTeam slot t') ∧ t'.pc = last + 4 ∧
      t'.regs = t.regs) ∧
    (Runs s slot t (.loop sa off) → t.rs sa.toNat ≠ 0 → ∃ t', exec (.loop sa off) s = .next (s.setTeam slot t') ∧ t'.pc = t.pc + 4 ∧
      t'.ctl.loop.active = true ∧ t'.ctl.loop.lc = t.rs sa.toNat ∧ t'.ctl.loop.start = t.pc + 4 ∧ t'.ctl.loop.last = last ∧
      t'.regs = t.regs) ∧
    (t.ctl.loop.active = true → t.pc = t.ctl.loop.last → 1 < t.ctl.loop.lc.toNat →
      t.advance.pc = t.ctl.loop.start ∧ t.advance.ctl.loop.lc.toNat = t.ctl.loop.lc.toNat - 1 ∧ t.advance.ctl.loop.active = true) ∧
    (t.ctl.loop.active = true → t.pc = t.ctl.loop.last → t.ctl.loop.lc.toNat ≤ 1 →
      t.advance.pc = t.pc + 4 ∧ t.advance.ctl.loop.active = false) ∧
    (t.ctl.loop.active = false ∨ t.pc ≠ t.ctl.loop.last → t.advance.pc = t.pc + 4)) ∧
  (∀ (i : Instr) (s : State) (slot : Nat) (t : Team) (sa sd : SReg) (w : Nat → Word), t.beats ≤ 32 →
    let reads (t' : Team) (r b : Nat) (x : Word) : Prop :=
      t'.rs (r + b) = if r + b = 0 then 0 else if t.inExec (r + b) then x &&& maskWord t.ctl.live (r + b - 224) else x
    (Runs s slot t i → Claim.maskWrite t i = some (sd, w) → ∃ t', exec i s = .next (s.setTeam slot t') ∧
      (∀ b, b < t.beats → reads t' sd.toNat b (w b)) ∧ SameScalars t t' (span sd.toNat t.beats)) ∧
    (Runs s slot t (.mopLoad sa) → ∃ t', exec (.mopLoad sa) s = .next (s.setTeam slot t') ∧
      (∀ b, b < t.beats → reads t' 224 b (t.rs (sa.toNat + b))) ∧ SameScalars t t' (span 224 t.beats)) ∧
    (Runs s slot t (.msave sd) → ∃ t', exec (.msave sd) s = .next (s.setTeam slot t') ∧
      (∀ b, b < t.beats → reads t' sd.toNat b (t.rs (224 + b)) ∧ reads t' (sd.toNat + t.beats) b (t.rs (192 + b))) ∧
      SameScalars t t' (span sd.toNat (2 * t.beats))) ∧
    (Runs s slot t (.mrest sa) → ∃ t', exec (.mrest sa) s = .next (s.setTeam slot t') ∧
      (∀ b, b < t.beats → reads t' 224 b (t.rs (sa.toNat + b)) ∧ reads t' 192 b (t.rs (sa.toNat + t.beats + b))) ∧
      SameScalars t t' (span 224 t.beats ++ span 192 t.beats)) ∧
    (Runs s slot t (.mopPopc sa sd) → ∃ v : Word, exec (.mopPopc sa sd) s = .next (s.setTeam slot (t.ws sd.toNat v).advance) ∧
      v.toNat = ((List.range t.lanes).filter fun l => maskBit (t.window sa.toNat) l).length) ∧
    (Runs s slot t (.mopFirst sa sd) → ∃ v : Word, exec (.mopFirst sa sd) s = .next (s.setTeam slot (t.ws sd.toNat v).advance) ∧
      ((∀ l, l < t.lanes → maskBit (t.window sa.toNat) l = false) → v = 0xFFFFFFFF) ∧
      ∀ l, l < t.lanes → maskBit (t.window sa.toNat) l = true → (∀ m, m < l → maskBit (t.window sa.toNat) m = false) → v = word l))

/-- R122, R126, R129: CALL and CALLS push the return address, the exec window and RPC, set RPC to none and go to the function; BRS goes to
an address; an address that is not word-aligned takes MISALIGNED at the branch; RET pops a call entry, and takes ILLEGAL without one. With
16 entries in hardware a push writes the oldest of them to the team's spill area, 4 bytes for the kind at 16, the mask from 32; a return
with none in hardware takes the entry that was spilled last. R127: a push beyond 16 entries and the spill depth, by CALL, CALLS, BDIV or
BDIVL, takes a precise DIVERGENCE_OVERFLOW trap, with no push and no change of RPC. That the report of a misaligned target of BRS or CALLS
has it as its address and names every lane is log entry 56, that it comes before an overflow log entry 84. -/
def Obligations.CallsAndReturns : Prop :=
  (∀ (s : State) (slot : Nat) (t : Team) (off : BitVec 24) (sa : SReg),
    let target := (t.rs (sa.toNat + 1)) ++ (t.rs sa.toNat)
    let called (a : Dbl) (t' : Team) : Prop := t'.pc = a ∧ t'.regs = t.regs ∧ t'.ctl.rpc = 1 ∧
      t'.ctl.stack = { kind := .call, pc := t.pc + 4, mask := t.execWindow, rpc := t.ctl.rpc } :: t.ctl.stack
    let size := 32 + 16 * ((t.beats + 3) / 4)
    let area := spadKey t.group (t.ctl.spillOff + t.ctl.spilled * size)
    (Runs s slot t (.call off) → t.depth < Config.hardwareStack →
      ∃ t', exec (.call off) s = .next (s.setTeam slot t') ∧ called (t.pc + BitVec.ofInt 64 (4 * off.toInt)) t') ∧
    (∀ e : DivEntry, Runs s slot t (.call off) → t.ctl.stack.length = Config.hardwareStack → t.ctl.stack.getLast? = some e →
      t.depth < Config.hardwareStack + t.ctl.spillDepth → ∃ s' t', exec (.call off) s = .next s' ∧ s'.team? slot = some t' ∧
        t'.pc = t.pc + BitVec.ofInt 64 (4 * off.toInt) ∧ t'.regs = t.regs ∧ t'.ctl.rpc = 1 ∧ t'.ctl.spilled = t.ctl.spilled + 1 ∧
        t'.ctl.stack = { kind := .call, pc := t.pc + 4, mask := t.execWindow, rpc := t.ctl.rpc } :: t.ctl.stack.dropLast ∧
        s'.mem.nat area 8 = e.pc.toNat ∧ s'.mem.nat (area + 8) 8 = e.rpc.toNat ∧
        s'.mem.nat (area + 16) 4 = (match e.kind with | .join => 1 | .path => 2 | .call => 3) ∧
        (∀ b, b < t.beats → s'.mem.nat (area + 32 + 4 * b) 4 = (maskWord e.mask b).toNat) ∧
        SameBut s s' ((List.range size).map (area + ·))) ∧
    (Runs s slot t (.calls sa) → t.depth < Config.hardwareStack → target.toNat % 4 = 0 →
      ∃ t', exec (.calls sa) s = .next (s.setTeam slot t') ∧ called target t') ∧
    (Runs s slot t (.calls sa) → target.toNat % 4 ≠ 0 → ∃ s' t', exec (.calls sa) s = .next s' ∧ Trapped s' slot t t' 0x07 target ∧
      t'.ctl = t.ctl ∧ t'.report.flw = t.allLanes ∧ SameMemory s s') ∧
    (Runs s slot t (.brs sa) → target.toNat % 4 = 0 → ∃ t', exec (.brs sa) s = .next (s.setTeam slot t') ∧ t'.pc = target ∧
      t'.regs = t.regs ∧ t'.ctl.stack = t.ctl.stack ∧ t'.ctl.rpc = t.ctl.rpc) ∧
    (Runs s slot t (.brs sa) → target.toNat % 4 ≠ 0 → ∃ s' t', exec (.brs sa) s = .next s' ∧ s'.team? slot = some t' ∧
      t'.status = .trapped ∧ t'.report.cause = 0x07 ∧ t'.report.vaddr = target ∧ t'.pc = t.pc) ∧
    (∀ e rest, Runs s slot t .ret → t.ctl.stack = e :: rest → e.kind = .call → (∃ b, b < t.beats ∧ maskWord e.mask b &&& maskWord t.ctl.live b ≠ 0) →
      t.beats ≤ 32 → ∃ t', exec .ret s = .next (s.setTeam slot t') ∧ t'.pc = e.pc ∧ t'.ctl.rpc = e.rpc ∧ t'.ctl.stack = rest ∧
        t'.status = t.status ∧ ∀ b, b < t.beats → t'.rs (224 + b) = maskWord e.mask b &&& maskWord t.ctl.live b) ∧
    (∀ e rest, Runs s slot t .ret → t.ctl.stack = e :: rest → e.kind ≠ .call →
      exec .ret s = .next (s.trap slot (Report.precise 0x10 t.allLanes))) ∧
    (Runs s slot t .ret → t.ctl.stack = [] → t.ctl.spilled = 0 → exec .ret s = .next (s.trap slot (Report.precise 0x10 t.allLanes))) ∧
    (Runs s slot t .ret → t.ctl.stack = [] → 0 < t.ctl.spilled → s.mem.nat (area - size + 16) 4 = 3 →
      (∃ b, b < t.beats ∧ word (s.mem.nat (area - size + 32 + 4 * b) 4) &&& maskWord t.ctl.live b ≠ 0) → t.beats ≤ 32 →
      ∃ t', exec .ret s = .next (s.setTeam slot t') ∧ t'.pc = dbl (s.mem.nat (area - size) 8) ∧
        t'.ctl.rpc = dbl (s.mem.nat (area - size + 8) 8) ∧ t'.ctl.stack = [] ∧ t'.ctl.spilled = t.ctl.spilled - 1 ∧
        ∀ b, b < t.beats → t'.rs (224 + b) = word (s.mem.nat (area - size + 32 + 4 * b) 4) &&& maskWord t.ctl.live b)) ∧
  (∀ (s : State) (slot : Nat) (t : Team) (off : BitVec 24) (sa : SReg) (tgt rcv : BitVec 12) (first : Bool),
    let overflows (i : Instr) : Prop := ∃ s' t', exec i s = .next s' ∧ s'.team? slot = some t' ∧ t'.status = .trapped ∧ t'.report.cause = 0x12 ∧
      t'.pc = t.pc ∧ t'.ctl = t.ctl ∧ t'.regs = t.regs ∧ SameMemory s s'
    let room := Config.hardwareStack + t.ctl.spillDepth
    let i : Instr := if first then .bdiv tgt rcv else .bdivl tgt rcv
    let rA := t.pc + BitVec.ofInt 64 (4 * rcv.toInt)
    let second := if first then t.pc + 4 else t.pc + BitVec.ofInt 64 (4 * tgt.toInt)
    let pushes := (if t.ctl.rpc = rA then 0 else 1) + (if second = rA then 0 else 1)
    (Runs s slot t (.call off) → room ≤ t.depth → overflows (.call off)) ∧
    (Runs s slot t (.calls sa) → (t.rs (sa.toNat + 1) ++ t.rs sa.toNat).toNat % 4 = 0 → room ≤ t.depth → overflows (.calls sa)) ∧
    (Runs s slot t i → t.condFault t.condRegs = none → (∃ b, b < t.beats ∧ t.rs (224 + b) &&& t.rs (192 + b) ≠ 0) →
      (∃ b, b < t.beats ∧ t.rs (224 + b) &&& ~~~t.rs (192 + b) ≠ 0) → room < t.depth + pushes → overflows i))

/-- R133, R134, R135, R136, R138, R139: KILL clears the live and exec bits of the executing lanes, pops an entry of the stack and ends a
team whose stack is empty; EXIT raises what a failed access or a drain left and then ends the team once its accesses are performed; YIELD
goes on, not promoted, held for its cycles; PROBE reads a full or empty bit; BRK parks the team under debug and only passes otherwise; STKQ
reads the stack, the kind on its top, RPC, the loop and the live mask. R198, R299: a failure or a drain's fault that an EXIT raises. That
EXIT waits, and takes its effect once its accesses are performed, is log entry 19. -/
def Obligations.TeamControl : Prop := ∀ (s : State) (slot : Nat) (t : Team) (imm : BitVec 16) (sd : SReg) (reg sel : BitVec 8) (vec : Bool),
  t.beats ≤ 32 →
  (Runs s slot t .kill → t.depth = 0 → (∀ g, s.group? t.group = some g → g.request = none) →
    ∃ t', exec .kill s = .next (s.setTeam slot t') ∧ t'.status = .exited ∧ t'.noExec = true ∧
    ∀ b, b < t.beats → maskWord t'.ctl.live b = maskWord t.ctl.live b &&& ~~~t.rs (224 + b)) ∧
  (∀ e rest, Runs s slot t .kill → t.ctl.stack = e :: rest →
    (∃ b, b < t.beats ∧ maskWord e.mask b &&& maskWord t.ctl.live b &&& ~~~t.rs (224 + b) ≠ 0) →
    ∃ t', exec .kill s = .next (s.setTeam slot t') ∧ t'.status = t.status ∧ t'.pc = e.pc ∧ t'.ctl.rpc = e.rpc ∧ t'.ctl.stack = rest ∧
    ∀ b, b < t.beats → maskWord t'.ctl.live b = maskWord t.ctl.live b &&& ~~~t.rs (224 + b) ∧
      t'.rs (224 + b) = maskWord e.mask b &&& maskWord t'.ctl.live b) ∧
  (∀ f rest, Runs s slot t .exit → t.failures = f :: rest → exec .exit s = .next (s.trap slot (f.report t))) ∧
  (∀ d rest, Runs s slot t .exit → t.failures = [] → t.drains = d :: rest → exec .exit s = .next (s.raiseDrain slot t d)) ∧
  (Runs s slot t .exit → t.failures = [] → t.drains = [] → s.working slot t.group = true → exec .exit s = .next s) ∧
  (Runs s slot t .exit → t.failures = [] → t.drains = [] → s.working slot t.group = false → (∀ g, s.group? t.group = some g → g.request = none) →
    ∃ t', exec .exit s = .next (s.setTeam slot t') ∧ t'.status = .exited ∧ t'.ctl.stack = [] ∧ t'.ctl.spilled = 0 ∧ t'.regs = t.regs) ∧
  (Runs s slot t (.yield imm) → ∃ t', exec (.yield imm) s = .next (s.setTeam slot t') ∧ t'.pc = t.advance.pc ∧ t'.regs = t.regs ∧
    t'.sched.promoted = false ∧ (t'.sched.yielding = true ↔ imm ≠ 0) ∧
    ∀ n u, s.team? n = some u → (n, some u) ∈ s.teams → u.sched.age < t'.sched.age) ∧
  (Runs s slot t (.probe sd reg vec) → exec (.probe sd reg vec) s = .next (s.setTeam slot
    (t.ws sd.toNat (if (if vec then t.vEmpty reg.toNat else t.sEmpty reg.toNat) then 0 else 1)).advance)) ∧
  (Runs s slot t (.brk imm) → (s.part (s.partOf t)).debug = false → exec (.brk imm) s = .next (s.setTeam slot t.advance)) ∧
  (Runs s slot t (.brk imm) → (s.part (s.partOf t)).debug = true → ∃ s' t', exec (.brk imm) s = .next s' ∧ s'.team? slot = some t' ∧
    t'.status = .trapped ∧ t'.pc = t.pc ∧ t'.report.cause = 0x14 ∧ t'.report.tcode = imm.zeroExtend 32 ∧ SameMemory s s') ∧
  (Runs s slot t (.stkq sd sel) → ∃ v : Word, exec (.stkq sd sel) s = .next (s.setTeam slot (t.ws sd.toNat v).advance) ∧
    (sel = 0 → v = word (t.ctl.stack.length + t.ctl.spilled)) ∧ (sel = 1 → v = word t.ctl.stack.length) ∧
    (sel = 2 → v = t.ctl.rpc.extractLsb' 0 32) ∧ (sel = 3 → v = t.ctl.rpc.extractLsb' 32 32) ∧
    (∀ e rest, sel = 4 → t.ctl.stack = e :: rest → v = match e.kind with | .join => 1 | .path => 2 | .call => 3) ∧
    (sel = 4 → t.ctl.stack = [] → t.ctl.spilled = 0 → v = 0) ∧ (∀ b, b < t.beats → sel.toNat = 0x20 + b → v = maskWord t.ctl.live b) ∧
    (sel = 5 → v = if t.ctl.loop.active then t.ctl.loop.lc else 0) ∧ (sel = 6 → v = if t.ctl.loop.active then 1 else 0))

/-- R209, R210, R212: CHK goes on where no active lane of its register is poisoned, with its lanes dead where it says last use, and else
takes the deferred fault of the lowest poisoned active lane, naming all of them. CHKB goes on where no lane with exec = 1 is poisoned; else
it pushes a join entry for the whole mask at its own address, unless RPC is that address already, and goes to its target with the poisoned
lanes alone; a push beyond the stack takes DIVERGENCE_OVERFLOW. PCLR writes zero, untagged and alive, into the poisoned active lanes and
leaves every other lane. -/
def Obligations.PoisonTests : Prop := ∀ (s : State) (slot : Nat) (t : Team) (v : VReg) (off : BitVec 16) (la lb keep : Bool),
  let poisoned (l : Nat) : Prop := (t.lane v.toNat l).dead = true ∨ (t.lane v.toNat l).tag = true
  let hit (l : Nat) : Prop := l < t.lanes ∧ t.exec l = true ∧ poisoned l
  let branches (s' : State) (t' : Team) : Prop := exec (.chkb v off) s = .next s' ∧ s'.team? slot = some t' ∧
    t'.pc = t.pc + BitVec.ofInt 64 (4 * off.toInt) ∧ t'.ctl.rpc = t.pc ∧ SameScalars t t' t.execRegs ∧ SameVectors t t' [] ∧
    SameSpecial t t' ∧ SameFormats t t' ∧ ∀ l, l < t.lanes → (t'.exec l = true ↔ hit l ∧ maskBit t.ctl.live l = true)
  MemoryReady s slot t →
  (Runs s slot t (.chk v la lb keep) → (∀ l ∈ t.activeLanes, ¬ poisoned l) → ∃ s' t', exec (.chk v la lb keep) s = .next s' ∧
    WentOn s s' slot t t' ∧ SameSpecial t t' ∧ SameFormats t t' ∧
    ∀ l, l < t.lanes → ((t'.lane v.toNat l).dead = true ↔ (t.lane v.toNat l).dead = true ∨ (la = true ∧ t.active l = true))) ∧
  (∀ l k, Runs s slot t (.chk v la lb keep) → l ∈ t.activeLanes → t.rv v.toNat l = .error k →
    (∀ m ∈ t.activeLanes, m < l → ¬ poisoned m) → ∃ s' t', exec (.chk v la lb keep) s = .next s' ∧
    Trapped s' slot t t' (word (k.toNat / 2 ^ 24 + 256)) 0 ∧ t'.report.token = k ∧ t'.ctl = t.ctl ∧ t'.fmt = t.fmt ∧ SameMemory s s' ∧
    ∀ m, m < t.lanes → (maskBit t'.report.flw m = true ↔ t.active m = true ∧ poisoned m)) ∧
  (Runs s slot t (.chkb v off) → (∀ l, ¬ hit l) → exec (.chkb v off) s = .next (s.setTeam slot t.advance)) ∧
  (Runs s slot t (.chkb v off) → t.beats ≤ 32 → (∃ l, hit l) →
    (t.ctl.rpc ≠ t.pc → t.depth + 1 ≤ Config.hardwareStack + t.ctl.spillDepth → ∃ s' t', branches s' t' ∧ t'.depth = t.depth + 1 ∧
      t'.ctl.stack.head? = some { kind := .join, pc := t.pc, mask := t.execWindow, rpc := t.ctl.rpc } ∧
      (t.ctl.stack.length < Config.hardwareStack → t'.ctl.stack.tail = t.ctl.stack ∧ SameMemory s s')) ∧
    (t.ctl.rpc ≠ t.pc → Config.hardwareStack + t.ctl.spillDepth < t.depth + 1 → ∃ s' t', exec (.chkb v off) s = .next s' ∧
      Trapped s' slot t t' 0x12 0 ∧ t'.ctl = t.ctl ∧ SameMemory s s') ∧
    (t.ctl.rpc = t.pc → ∃ s' t', branches s' t' ∧ t'.ctl.stack = t.ctl.stack ∧ t'.ctl.spilled = t.ctl.spilled ∧ SameMemory s s')) ∧
  (Runs s slot t (.pclr v la lb keep) → ∃ s' t', exec (.pclr v la lb keep) s = .next s' ∧ s'.team? slot = some t' ∧ t'.pc = t.advance.pc ∧
    SameMemory s s' ∧ SameScalars t t' [] ∧ SameVectors t t' [v.toNat] ∧ SameSpecial t t' ∧ SameFormats t t' ∧ ∀ l, l < t.lanes →
      ((t.active l = true ∧ poisoned l → t'.lane v.toNat l = { data := 0, tag := false, dead := false }) ∧
       (¬ (t.active l = true ∧ poisoned l) → t'.lane v.toNat l = t.lane v.toNat l)))

/-! ## Memory -/

/-- R190, R191, R194, R195, R196: a vector load goes on with its destination registers empty and one load outstanding, which holds in each
active lane the token of a poisoned address, or the bytes at sb:sb+1 plus the sign-extended offset where the checks pass; a speculative
load holds a token with the code of the check that a lane failed. With no failing lane memory is the same. R188: the scratchpad passes of
an instruction are those of its lane groups together, 128 / size lanes each; within a group, bytes counted as the words that hold them, no
bank has more distinct words than the group has passes, and where there is a word some bank has as many. -/
def Obligations.LoadIssue : Prop :=
  (∀ (i : Instr) (s : State) (slot : Nat) (t : Team) (vd va : VReg) (sb : SReg) (n : Nat) (spec : Bool),
    let check (l : Nat) (a : Nat) : Checked := s.checkAt (s.partOf t) t.group .read n a l
    let clear : Prop := ∀ l a, t.active l = true → l < t.lanes → laneAddr t sb.toNat va.toNat l = .ok a → ∃ ks p, check l a = .ok ks p
    Claim.vectorLoad i = some (vd, va, sb, n, spec) → Runs s slot t i → MemoryReady s slot t → Room s t → (spec = false → clear) →
    ∃ s' t' o ld, exec i s = .next s' ∧ s'.team? slot = some t' ∧ t'.pc = t.advance.pc ∧ SameScalars t t' [] ∧ SameVectors t t' [] ∧
      (clear → SameMemory s s') ∧ (∀ j, j < regsOf n → t'.vEmpty (vd.toNat + j) = true) ∧ Issued s s' slot t o ∧ o.kind = .load ld ∧
      ld.dest = .vec vd.toNat (regsOf n) ∧ ld.size = n ∧ ld.acquire = t.orderAcq ∧
      ∀ l, l < t.lanes → t.active l = true →
        (∀ k, laneAddr t sb.toNat va.toNat l = .error k → ∃ x ∈ ld.accs, x.lane = l ∧ x.token = some k) ∧
        (∀ a ks p, laneAddr t sb.toNat va.toNat l = .ok a → check l a = .ok ks p → ∃ x ∈ ld.accs, x.lane = l ∧ x.token = none ∧ x.keys = ks) ∧
        (∀ a c p, laneAddr t sb.toNat va.toNat l = .ok a → check l a = .fails c p → ∃ x ∈ ld.accs, ∃ k, x.lane = l ∧ x.token = some (tokenOf c k))) ∧
  (∀ (size : Nat) (lanes : List (Nat × Nat)),
    let n := 128 / max size 4
    let words (p : Nat × Nat) : List Nat := (List.range (max size 4 / 4)).map (p.2 / 4 + ·)
    let bank (b : Nat) : Finset Nat := (((lanes.map words).flatten).toFinset).filter fun w => w % 48 = b
    size ≤ 16 →
    (∀ g, spadPasses size lanes = spadPasses size (lanes.filter fun p => p.1 / n < g) + spadPasses size (lanes.filter fun p => ¬ p.1 / n < g)) ∧
    (∀ g, (∀ p ∈ lanes, p.1 / n = g) → (∀ b, (bank b).card ≤ spadPasses size lanes) ∧
      (lanes ≠ [] → 0 < spadPasses size lanes ∧ ∃ b, b < 48 ∧ (bank b).card = spadPasses size lanes)))

/-- R191, R195, R197, R233, R387: a plain vector load, a vector store or a vector atomic with a lane that fails a check traps precisely:
the code and the address of the lowest such lane, every failing lane named, no access made. -/
def Obligations.AccessFault : Prop := ∀ (i : Instr) (s : State) (slot : Nat) (t : Team) (vd va : VReg) (sb : SReg) (n l a c p : Nat)
    (perm : Perm) (addr : Nat → Except Word Nat),
  let check (m : Nat) (x : Nat) : Checked := s.checkAt (s.partOf t) t.group perm n x m
  (Claim.vectorLoad i = some (vd, va, sb, n, false) ∧ perm = .read ∧ addr = laneAddr t sb.toNat va.toNat) ∨
    (Claim.vectorStore i = some (vd, va, sb, n) ∧ perm = .write ∧ addr = laneAddr t sb.toNat va.toNat) ∨
    (∃ fn vb k, Claim.vectorAtomic t i = some (fn, vd, va, vb, k) ∧ perm = .atomic ∧ n = 4 ∧ addr = pairAddr t va.toNat) →
  Runs s slot t i → MemoryReady s slot t → Room s t → (perm ≠ .read → Releasable t) → l < t.lanes → t.active l = true →
  addr l = .ok a → check l a = .fails c p →
  (∀ m x, m < l → t.active m = true → addr m = .ok x → ∃ ks q, check m x = .ok ks q) →
  ∃ s' t', exec i s = .next s' ∧ Trapped s' slot t t' (word (c % 256)) (dbl a) ∧ s'.ops = s.ops ∧
    ∀ m, m < t.lanes → (maskBit t'.report.flw m = true ↔
      t.active m = true ∧ ∃ x d q, addr m = .ok x ∧ check m x = .fails d q)

/-- R190, R191, R194, R197, R198, R222, R343: a vector store whose lanes pass their checks with no poisoned address or data goes on with
one store outstanding and memory as it was. The store holds, for each byte that a lane addresses, byte j of that lane's data registers, the
highest lane's where two address one byte, and no other byte. A release store raises a failed store of its team, and waits while the router
is full. With no lane failing a check, a lane whose address or data is poisoned takes the deferred fault of the lowest such lane's first
token, which names all of them, and stores nothing. -/
def Obligations.StoreIssue : Prop := ∀ (i : Instr) (s : State) (slot : Nat) (t : Team) (vd va : VReg) (sb : SReg) (n : Nat)
    (keys : Nat → List Nat),
  let poison (l : Nat) : Option Word := match laneAddr t sb.toNat va.toNat l with
    | .error k => some k
    | .ok _ => (List.range (regsOf n)).findSome? fun j => match t.rv (vd.toNat + j) l with | .error k => some k | .ok _ => none
  Claim.vectorStore i = some (vd, va, sb, n) → Runs s slot t i → MemoryReady s slot t →
  (∀ f, t.orderRel = true → t.storeFailed = some f → exec i s = .next (s.trap slot (f.report t))) ∧
  (t.orderRel = true → t.storeFailed = none → s.routerFull (s.partOf t) = true → exec i s = .next s) ∧
  (∀ l k, Room s t → Releasable t → (∀ m a c p, t.active m = true → laneAddr t sb.toNat va.toNat m = .ok a →
      s.checkAt (s.partOf t) t.group .write n a m ≠ .fails c p) → l < t.lanes → t.active l = true → poison l = some k →
    (∀ m, m < l → t.active m = true → poison m = none) → ∃ s' t', exec i s = .next s' ∧
    Trapped s' slot t t' (word (k.toNat / 2 ^ 24 + 256)) (match laneAddr t sb.toNat va.toNat l with | .ok a => dbl a | .error _ => 0) ∧
    t'.report.token = k ∧ s'.ops = s.ops ∧ SameMemory s s' ∧
    ∀ m, m < t.lanes → (maskBit t'.report.flw m = true ↔ t.active m = true ∧ poison m ≠ none)) ∧
  (Room s t → Releasable t →
    (∀ l, l < t.lanes → t.active l = true → ∃ a p, laneAddr t sb.toNat va.toNat l = .ok a ∧
      s.checkAt (s.partOf t) t.group .write n a l = .ok (keys l) p ∧ ∀ j, j < regsOf n → ∃ w, t.rv (vd.toNat + j) l = .ok w) →
    ∃ s' t', exec i s = .next s' ∧ WentOn s s' slot t t' ∧ (t.activeLanes ≠ [] → ∃ o ∈ s'.ops, ∃ st, o.id = s.nextId ∧ o.slot = slot ∧
      o.kind = .store st ∧ st.release = t.orderRel ∧ ∀ k b, (∃ u ∈ st.units, (k, (0xFF : Byte), b) ∈ u.bytes) ↔
        ∃ l j, l < t.lanes ∧ t.active l = true ∧ (keys l)[j]? = some k ∧ b = (t.lane (vd.toNat + j / 4) l).data.extractLsb' (8 * (j % 4)) 8 ∧
          ∀ m, l < m → m < t.lanes → t.active m = true → k ∉ keys m))

/-- R190, R191, R198, R201, R343: a scalar load leaves its registers empty with one load outstanding, made once for the team; a scalar
store is outstanding with the bytes of its registers; an address that fails a check takes a precise trap that names every lane; a release
store raises a failed store of its team, and waits while the router is full. With sd = s0 a 64-bit load leaves s1 empty: log entry 91. -/
def Obligations.ScalarAccess : Prop := ∀ (i : Instr) (s : State) (slot : Nat) (t : Team) (sd sa sb : SReg) (n : Nat) (store : Bool),
  let a := (t.rd64 sa.toNat + (t.rs sb.toNat).signExtend 64).toNat
  let check : Checked := s.checkAt (s.partOf t) t.group (if store then .write else .read) n a 0
  Claim.scalarAccess i = some (sd, sa, sb, n, store) → Runs s slot t i → MemoryReady s slot t →
  (∀ f, store = true → t.orderRel = true → t.storeFailed = some f → exec i s = .next (s.trap slot (f.report t))) ∧
  (store = true → t.orderRel = true → t.storeFailed = none → s.routerFull (s.partOf t) = true → exec i s = .next s) ∧
  (Room s t → (store = true → Releasable t) →
  (∀ ks p, check = .ok ks p → store = false → ∃ s' t' o ld, exec i s = .next s' ∧ WentOn s s' slot t t' ∧
    (∀ j, j < n / 4 → sd.toNat + j ≠ 0 → t'.sEmpty (sd.toNat + j) = true) ∧ Issued s s' slot t o ∧ o.kind = .load ld ∧
    ld.dest = .scal sd.toNat (n / 4) ∧ ld.size = n ∧ ld.once = true ∧ ld.accs.map (·.keys) = [ks]) ∧
  (∀ ks p, check = .ok ks p → store = true → ∃ s' t', exec i s = .next s' ∧ WentOn s s' slot t t' ∧ ∃ o ∈ s'.ops, ∃ st, o.id = s.nextId ∧
    o.slot = slot ∧ o.kind = .store st ∧ st.once = true ∧ st.release = t.orderRel ∧
    ∀ k b, (∃ u ∈ st.units, (k, (0xFF : Byte), b) ∈ u.bytes) ↔
      ∃ j, ks[j]? = some k ∧ b = (t.rs (sd.toNat + j / 4)).extractLsb' (8 * (j % 4)) 8) ∧
  (∀ c p, check = .fails c p → ∃ s' t', exec i s = .next s' ∧ Trapped s' slot t t' (word (c % 256)) (dbl a) ∧ s'.ops = s.ops ∧
    t'.report.flw = List.replicate t.beats 0xFFFFFFFF))

/-- R190, R202, R203, R206, R207: LDB and LDBS of a valid record whose lanes pass their checks leave vd, or the pair where ENC is 3 under
PACK, empty with one load outstanding: it holds the record, the definition of its slot, and for each active lane of a record with ENC other
than 3 the element at the record's position of that lane's index. A record that is not valid, or a pair of registers that a DENSE record
under PACK cannot use, takes ILLEGAL. R197, R198, R205, R207: STB of a valid record goes on where its lanes pass their checks, hold no
poison, and no scale is read that is marked or awaits an acquire. Stated for what a raw byte record stores: each active lane's low byte at
the position of its index where no higher lane writes it. -/
def Obligations.BufferRecords : Prop :=
  (∀ (s : State) (slot : Nat) (t : Team) (vd va : VReg) (sb : SReg) (la keep spec : Bool) (x : Nat),
    let i : Instr := if spec then .ldbs vd va sb la keep else .ldb vd va sb la keep
    let b := recordOf x
    let pair : Bool := decide (b.enc = 3) && (t.fmtAt b.fslot).pack
    Runs s slot t i → MemoryReady s slot t → Room s t → RecordReady s slot t → s.readRecord slot t (t.rs sb.toNat).toNat = .bits x →
    (recordValid t x = false ∨ (pair = true ∧ (vd.toNat % 2 = 1 ∨ t.nvregs ≤ vd.toNat + 1)) → exec i s = .next (s.illegal slot)) ∧
    (recordValid t x = true →
    (pair = true → vd.toNat % 2 = 0 ∧ vd.toNat + 1 < t.nvregs ∧ t.vEmpty (vd.toNat + 1) = false ∧ t.failures = []) →
    (∀ l, t.active l = true → (s.bufLane t b false va.toNat l).check.failed = false) →
    ∃ s' t' o ld es, exec i s = .next s' ∧ WentOn s s' slot t t' ∧ t'.vEmpty vd.toNat = true ∧
      (pair = true → t'.vEmpty (vd.toNat + 1) = true) ∧ Issued s s' slot t o ∧ o.kind = .load ld ∧
      ld.buf = some (b, t.fdr b.fslot, es) ∧ ld.spec = spec ∧ ld.acquire = t.orderAcq ∧
      ∀ l w, l < t.lanes → t.active l = true → t.rv va.toNat l = .ok w → b.enc ≠ 3 → b.inside (b.position w.toNat) = true →
        ∃ e ∈ es, e.lane = l ∧ e.va = dbl (b.addr (b.position w.toNat)) ∧ e.bit = b.position w.toNat * b.ew % 8)) ∧
  (∀ (s : State) (slot : Nat) (t : Team) (vd va : VReg) (sb : SReg) (la keep : Bool) (x : Nat),
    let b := recordOf x
    let pair : Bool := decide (b.enc = 3) && (t.fmtAt b.fslot).pack
    Runs s slot t (.stb vd va sb la keep) → MemoryReady s slot t →
    (∀ f, t.orderRel = true → t.storeFailed = some f → exec (.stb vd va sb la keep) s = .next (s.trap slot (f.report t))) ∧
    (Room s t → Releasable t → RecordReady s slot t → s.readRecord slot t (t.rs sb.toNat).toNat = .bits x →
    (recordValid t x = false → exec (.stb vd va sb la keep) s = .next (s.illegal slot)) ∧
    (recordValid t x = true → Quiet s slot t → s.marks = [] →
    (pair = true → vd.toNat % 2 = 0 ∧ vd.toNat + 1 < t.nvregs ∧ t.vEmpty (vd.toNat + 1) = false ∧ t.failures = []) →
    (∀ l, t.active l = true → (∃ w, t.rv va.toNat l = .ok w) ∧ (s.bufLane t b true va.toNat l).check.failed = false ∧
      (∃ w, t.rv vd.toNat l = .ok w) ∧ (pair = true → ∃ w, t.rv (vd.toNat + 1) l = .ok w)) →
    ∃ s' t', exec (.stb vd va sb la keep) s = .next s' ∧ WentOn s s' slot t t' ∧
      ∀ l w k q, l < t.lanes → t.active l = true → t.rv va.toNat l = .ok w → b.enc = 0 → b.ew = 8 → b.inside (b.position w.toNat) = true →
        s.checkAt (s.partOf t) t.group .write 1 (b.addr (b.position w.toNat)) l = .ok [k] q →
        (∀ m z r, l < m → m < t.lanes → t.active m = true → t.rv va.toNat m = .ok z →
          s.checkAt (s.partOf t) t.group .write 1 (b.addr (b.position z.toNat)) m ≠ .ok [k] r) →
        ∃ o ∈ s'.ops, ∃ st, o.id = s.nextId ∧ o.kind = .store st ∧
          ∃ u ∈ st.units, (k, (0xFF : Byte), (t.lane vd.toNat l).data.extractLsb' 0 8) ∈ u.bytes)))

/-- R189, R190, R213, R214, R215: PREF never traps: it drops a lane that is poisoned, fails a check, meets a lock or names the scratchpad,
and goes on with exactly the lines of the others outstanding as a prefetch, or with none. CFLUSH drops the lanes that are poisoned or meet
a lock and goes on with exactly the lines of the others outstanding as a flush, or with none; a lane that fails its range or translation
check traps with its code and address. WAITP goes on while no more instructions than its limit are in flight on its path; else it waits, or
raises the failure of one whose return it waits for. -/
def Obligations.CacheInstructions : Prop := ∀ (s : State) (slot : Nat) (t : Team) (va : VReg) (sb sa : SReg) (la keep : Bool) (path : BitVec 8),
  let addr (l : Nat) : Except Word Nat := laneAddr t sb.toNat va.toNat l
  let place (l a : Nat) : Except (Nat × Nat) (Nat × Nat) := s.resolve (s.partOf t) t.group .write 0 a l
  let goes (i : Instr) (line : Nat → Option Nat) (flush inv l1 : Bool) : Prop :=
    ((∀ l ∈ t.activeLanes, line l = none) → ∃ s' t', exec i s = .next s' ∧ WentOn s s' slot t t' ∧ s'.ops = s.ops) ∧
    ((∃ l ∈ t.activeLanes, line l ≠ none) → ∃ s' t' o ls, exec i s = .next s' ∧ WentOn s s' slot t t' ∧ Issued s s' slot t o ∧
      o.kind = .touch ls flush inv l1 ∧ ∀ x, x ∈ ls ↔ ∃ l ∈ t.activeLanes, line l = some x)
  let prefetches (i : Instr) (l1 : Bool) : Prop :=
    Runs s slot t i → MemoryReady s slot t → Room s t → goes i (Claim.prefLine s t va sb) false false l1
  let flushes (i : Instr) (inv : Bool) : Prop := Runs s slot t i → MemoryReady s slot t → Room s t →
    ((∀ l a, l ∈ t.activeLanes → addr l = .ok a → ∃ k, place l a = .ok k) → goes i (Claim.flushLine s t va sb) true inv false) ∧
    (∀ l a e, l ∈ t.activeLanes → addr l = .ok a → place l a = .error e →
      (∀ m x, m ∈ t.activeLanes → m < l → addr m = .ok x → ∃ k, place m x = .ok k) →
      ∃ s' t', exec i s = .next s' ∧ Trapped s' slot t t' (word (e.1 % 256)) (dbl a) ∧ s'.ops = s.ops)
  prefetches (.prefL1 va sb la keep) true ∧ prefetches (.prefL2 va sb la keep) false ∧
  flushes (.cflushWb va sb la keep) false ∧ flushes (.cflushInv va sb la keep) true ∧
  (Runs s slot t (.waitp path sa) → MemoryReady s slot t →
    let fs := t.flight.filter fun f => f.path == path.toNat
    let n := (t.rs sa.toNat).toNat
    let due := (fs.take (fs.length - n)).map (·.op)
    (fs.length ≤ n → exec (.waitp path sa) s = .next (s.setTeam slot t.advance)) ∧
    (n < fs.length → (∀ f ∈ t.failures, f.op ∉ due) → exec (.waitp path sa) s = .next s) ∧
    (∀ f, n < fs.length → t.failures.find? (fun f => due.contains f.op) = some f →
      exec (.waitp path sa) s = .next (s.trap slot (f.report t))))

/-! ## Atomics, fences, synchronisation -/

/-- R190, R198, R233 to R236: an atomic whose addresses pass their checks goes on with one atomic outstanding: in each active lane, or once
for the team, its function, its word and its operands; its destination is empty, and a vector form with vd equal to va has none. As a
release it raises a failed store of its team and waits while the router is full. With no active lane it only goes on; a poisoned address or
operand is the deferred fault of the lowest such lane; a scalar atomic that fails its check traps. -/
def Obligations.AtomicIssue : Prop := ∀ (i : Instr) (s : State) (slot : Nat) (t : Team) (fn : AtomFn),
  let atomic : Prop := (Claim.vectorAtomic t i).isSome = true ∨ (Claim.scalarAtomic i).isSome = true
  let poison (va vb : VReg) (n l : Nat) : Option Word := match pairAddr t va.toNat l with
    | .error k => some k
    | .ok _ => (List.range n).findSome? fun j => match t.rv (vb.toNat + j) l with | .error k => some k | .ok _ => none
  Runs s slot t i → MemoryReady s slot t →
  (∀ f, atomic → t.orderRel = true → t.storeFailed = some f → exec i s = .next (s.trap slot (f.report t))) ∧
  (atomic → t.orderRel = true → t.storeFailed = none → s.routerFull (s.partOf t) = true → exec i s = .next s) ∧
  (Room s t → Releasable t →
  (∀ vd va vb n, Claim.vectorAtomic t i = some (fn, vd, va, vb, n) → t.activeLanes = [] → ∃ s' t', exec i s = .next s' ∧
    WentOn s s' slot t t' ∧ s'.ops = s.ops) ∧
  (∀ vd va vb n l k, Claim.vectorAtomic t i = some (fn, vd, va, vb, n) → (∀ m a c p, t.active m = true → pairAddr t va.toNat m = .ok a →
      s.checkAt (s.partOf t) t.group .atomic 4 a m ≠ .fails c p) → l < t.lanes → t.active l = true → poison va vb n l = some k →
    (∀ m, m < l → t.active m = true → poison va vb n m = none) → ∃ s' t', exec i s = .next s' ∧
    Trapped s' slot t t' (word (k.toNat / 2 ^ 24 + 256)) (match pairAddr t va.toNat l with | .ok a => dbl a | .error _ => 0) ∧
    t'.report.token = k ∧ s'.ops = s.ops ∧ SameMemory s s' ∧
    ∀ m, m < t.lanes → (maskBit t'.report.flw m = true ↔ t.active m = true ∧ poison va vb n m ≠ none)) ∧
  (∀ sa sd c p, Claim.scalarAtomic i = some (fn, sa, sd) → s.checkAt (s.partOf t) t.group .atomic 4 (t.rd64 sa.toNat).toNat 0 = .fails c p →
    ∃ s' t', exec i s = .next s' ∧ Trapped s' slot t t' (word (c % 256)) (t.rd64 sa.toNat) ∧ s'.ops = s.ops ∧
      t'.report.flw = List.replicate t.beats 0xFFFFFFFF) ∧
  (∀ (vd va vb : VReg) (n : Nat) (key : Nat → Nat), Claim.vectorAtomic t i = some (fn, vd, va, vb, n) → t.activeLanes ≠ [] →
    (∀ l, l < t.lanes → t.active l = true → ∃ lo hi ks p, t.rv va.toNat l = .ok lo ∧ t.rv (va.toNat + 1) l = .ok hi ∧
      s.checkAt (s.partOf t) t.group .atomic 4 (hi ++ lo).toNat l = .ok (key l :: ks) p ∧ ∀ j, j < n → ∃ w, t.rv (vb.toNat + j) l = .ok w) →
    ∃ s' t' a, exec i s = .next s' ∧ WentOn s s' slot t t' ∧ (vd ≠ va → t'.vEmpty vd.toNat = true) ∧
      (∃ o ∈ s'.ops, o.id = s.nextId ∧ o.slot = slot ∧ o.kind = .atom a) ∧ a.fn = fn ∧ a.dest = (if vd = va then .none else .vec vd.toNat 1) ∧
      a.acquire = t.orderAcq ∧ a.release = t.orderRel ∧
      ∀ l, l < t.lanes → t.active l = true → ∃ x ∈ a.lanes, x.lane = l ∧ x.key = key l ∧ x.b = (t.lane vb.toNat l).data ∧
        (n = 2 → x.c = (t.lane (vb.toNat + 1) l).data)) ∧
  (∀ sa sd k ks p, Claim.scalarAtomic i = some (fn, sa, sd) →
    s.checkAt (s.partOf t) t.group .atomic 4 (t.rd64 sa.toNat).toNat 0 = .ok (k :: ks) p →
    ∃ s' t' a, exec i s = .next s' ∧ WentOn s s' slot t t' ∧ (sd ≠ 0 → t'.sEmpty sd.toNat = true) ∧
      (∃ o ∈ s'.ops, o.id = s.nextId ∧ o.slot = slot ∧ o.kind = .atom a) ∧ a.fn = fn ∧
      a.dest = .scal sd.toNat (if fn = .cas then 2 else 1) ∧ a.once = true ∧
      a.lanes.map (fun x => (x.key, x.b)) = [(k, t.rs sd.toNat)] ∧ (fn = .cas → a.lanes.map (·.c) = [t.rs (sd.toNat + 1)])))

/-- R238, R242, R243, R246: a signal goes on at once, with one signal outstanding that names its word and generation, its ring and slot,
its queue or the mailbox (RSIG, whose signal names a peer, is with the requests); a ring or a queue that does not exist takes ILLEGAL.
R201, R241: SEMSIG, SEMWAIT and BAR of a word that fails its check trap once for the team, with its address. -/
def Obligations.Signals : Prop := ∀ (i : Instr) (s : State) (slot : Nat) (t : Team) (sa sb sg : SReg),
  let goes (g : Signal) : Prop := ∃ s' t', exec i s = .next s' ∧ WentOn s s' slot t t' ∧
    ∃ o ∈ s'.ops, o.id = s.nextId ∧ o.slot = slot ∧ o.kind = .signal g
  Runs s slot t i → MemoryReady s slot t → Room s t →
  (∀ k ks p, s.checkAt (s.partOf t) t.group .atomic 8 (t.rd64 sa.toNat).toNat 0 = .ok (k :: ks) p →
    (i = .semsig sa sb → goes (.sem k (t.rd64 sa.toNat) none (t.rs sb.toNat))) ∧
    (i = .semsigGen sg sa sb → goes (.sem k (t.rd64 sa.toNat) (some (t.rs sg.toNat)) (t.rs sb.toNat)))) ∧
  (∀ c p, s.checkAt (s.partOf t) t.group .atomic 8 (t.rd64 sa.toNat).toNat 0 = .fails c p →
    i = .semsig sa sb ∨ i = .semsigGen sg sa sb ∨ i = .semwait sg sa sb ∨ i = .bar sg sa sb → ∃ s' t', exec i s = .next s' ∧
      Trapped s' slot t t' (word (c % 256)) (t.rd64 sa.toNat) ∧ s'.ops = s.ops ∧ t'.report.flw = List.replicate t.beats 0xFFFFFFFF) ∧
  (i = .rgarr sa sb ∨ i = .rgwait sg sa sb → ∀ g, s.group? t.group = some g →
    let r := (t.rs sa.toNat).toNat % 8
    let x := (t.rs sa.toNat).toNat / 256 % 16
    (∀ ring, i = .rgarr sa sb → g.rings[r]? = some ring → x < ring.size → goes (.ring r x (t.rs sb.toNat))) ∧
    (g.rings[r]? = none → exec i s = .next (s.illegal slot)) ∧
    (∀ ring, g.rings[r]? = some ring → ring.size ≤ x → exec i s = .next (s.illegal slot))) ∧
  (i = .sigx sa sb →
    let n := (t.rs sa.toNat).toNat
    (∀ q, n < 64 → sget none (s.part (s.partOf t)).queues n = some q → goes (.wake n (t.rs sb.toNat))) ∧
    (n < 64 → sget none (s.part (s.partOf t)).queues n = none → exec i s = .next (s.illegal slot)) ∧
    (n = 0x100 → goes (.mail (t.rs sb.toNat))) ∧
    (64 ≤ n → n ≠ 0x100 → exec i s = .next (s.illegal slot)))

/-- R221, R222, R230, R235: FENCE.acq goes on once no load, atomic or release of the team is outstanding, plain stores or not, and its core
keeps no copy; FENCE.rel and FENCE.full go on once nothing of the team is outstanding and every counted store is acknowledged, and stay
till then; with a failed store they raise it. R137, R222, R230: IFENCE waits while a copy or layout command of the team has not written its
status, and while a load, an atomic, a signal or a store that is not on its way to peers is outstanding; where stores to peers are not
acknowledged it waits for what the router has counted. IFENCE of a team with nothing outstanding and every store of its partition to peers
acknowledged goes on: the instruction cache of its core is empty, the team's loop buffer too, and the core keeps no copy of a word it does
not own. -/
def Obligations.Fences : Prop :=
  (∀ (s : State) (slot : Nat) (t : Team),
    MemoryReady s slot t →
    (Runs s slot t .fenceAcq → (∀ o ∈ s.ops, o.slot = slot → o.gid = t.group → ∃ st, o.kind = .store st ∧ st.release = false) → ∃ s', exec .fenceAcq s = .next s' ∧
      WentOn s s' slot t t.advance ∧ (s'.core t.core).copies = [] ∧ (s'.core t.core).recCache = []) ∧
    (Runs s slot t .fenceAcq → (∃ o ∈ s.ops, o.slot = slot ∧ o.gid = t.group ∧ ((∃ l, o.kind = .load l) ∨ (∃ g, o.kind = .signal g) ∨
      ∃ st, o.kind = .store st ∧ st.release = true)) → exec .fenceAcq s = .next s) ∧
    (∀ i, (i = .fenceRel ∨ i = .fenceFull) → Runs s slot t i → t.storeFailed = none →
      ((∃ o ∈ s.ops, o.slot = slot ∧ o.gid = t.group ∧ ((∃ l, o.kind = .load l) ∨ (∃ g, o.kind = .signal g) ∨
        ∃ st, o.kind = .store st ∧ (st.release = true ∨ ∃ u ∈ st.units, u.sent = none))) → exec i s = .next s) ∧
      (t.fence = none → s.snapshot (s.partOf t) ≠ [] → (∀ o ∈ s.ops, o.slot = slot → o.gid = t.group → False) → ∃ t',
        exec i s = .next (s.setTeam slot t') ∧ t'.pc = t.pc ∧ t'.regs = t.regs ∧ t'.fence = some (s.snapshot (s.partOf t)))) ∧
    (Runs s slot t .fenceRel → t.storeFailed = none → Quiet s slot t → exec .fenceRel s = .next (s.setTeam slot t.advance)) ∧
    (Runs s slot t .fenceFull → t.storeFailed = none → Quiet s slot t → ∃ s', exec .fenceFull s = .next s' ∧
      WentOn s s' slot t t.advance ∧ (s'.core t.core).copies = [] ∧ (s'.core t.core).recCache = []) ∧
    (∀ f, t.storeFailed = some f → (Runs s slot t .fenceRel → exec .fenceRel s = .next (s.trap slot (f.report t))) ∧
      (Runs s slot t .fenceFull → exec .fenceFull s = .next (s.trap slot (f.report t))))) ∧
  (∀ (s : State) (slot : Nat) (t : Team), Runs s slot t .ifence → t.storeFailed = none →
    ((∃ o ∈ s.ops, o.slot = slot ∧ o.gid = t.group ∧ ((∃ c, o.kind = .command c ∧ c.cmd.copies = true) ∨ (∃ l, o.kind = .load l) ∨ (∃ a, o.kind = .atom a) ∨
      (∃ g, o.kind = .signal g) ∨ ∃ st, o.kind = .store st ∧ (st.release = true ∨ ∃ u ∈ st.units, u.sent = none))) → exec .ifence s = .next s) ∧
    (t.fence = none → (∀ o ∈ s.ops, o.slot = slot → o.gid = t.group → False) → s.snapshot (s.partOf t) ≠ [] → ∃ t',
      exec .ifence s = .next (s.setTeam slot t') ∧ t'.pc = t.pc ∧ t'.regs = t.regs ∧ t'.fence = some (s.snapshot (s.partOf t))) ∧
    (t.fence = none → (∀ o ∈ s.ops, o.slot = slot → o.gid = t.group → False) → s.snapshot (s.partOf t) = [] →
    ∃ s' t', exec .ifence s = .next s' ∧ s'.team? slot = some t' ∧ t'.pc = t.advance.pc ∧ t'.regs = t.regs ∧ t'.ctl.loop.buffer = [] ∧
      (s'.core t.core).icache = [] ∧ (s'.core t.core).copies = [] ∧ (s'.core t.core).recCache = [] ∧
      (s'.core t.core).owned = (s.core t.core).owned ∧ SameMemory s s'))

/-- R239, R240, R242, R244: at a word in no marked sector (log entry 80) SEMWAIT takes its units where COUNT holds them and no other team
waits, and sleeps where it does not or where an older waiter still does; BAR raises COUNT and sleeps, or as the last party clears COUNT,
raises the generation, receives it and goes on; RGWAIT receives the ring's phase and count where the phase is the one it asks, and sleeps
else. -/
def Obligations.Waits : Prop := ∀ (s : State) (slot : Nat) (t : Team) (sd sa sb : SReg) (k p : Nat) (ks : List Nat),
  let count := s.wordAt k
  let units := t.rs sb.toNat
  let word4 (j : Nat) : List Nat := (List.range 4).map fun n => k + j + n
  let asks (i : Instr) : Prop := Runs s slot t i ∧ keyPath k ≠ 4 ∧ s.marked k = false ∧
    s.checkAt (s.partOf t) t.group .atomic 8 (t.rd64 sa.toNat).toNat 0 = .ok (k :: ks) p
  let alone : Prop := ∀ w ∈ s.semWaiters, w.key ≠ k
  MemoryReady s slot t → Room s t → Quiet s slot t →
  (asks (.semwait sd sa sb) → alone → units.toNat ≤ count.toNat → ∃ s' t', exec (.semwait sd sa sb) s = .next s' ∧
    s'.team? slot = some t' ∧ t'.pc = t.advance.pc ∧ t'.request = none ∧ t'.rs sd.toNat = (t.ws sd.toNat (count - units)).rs sd.toNat ∧
    SameScalars t t' [sd.toNat] ∧ s'.wordAt k = count - units ∧ SameBut s s' (word4 0)) ∧
  (asks (.semwait sd sa sb) → units ≠ 0 → (alone ∧ count.toNat < units.toNat) ∨ (∃ w c, s.semWaiters.find? (fun w => w.key == k && w.units.isSome) = some w ∧
      w.units = some c ∧ count.toNat < c.toNat) → ∃ s' t', exec (.semwait sd sa sb) s = .next s' ∧
    s'.team? slot = some t' ∧ t'.pc = t.pc ∧ t'.regs = t.regs ∧ t'.request = some (.sem k) ∧ t'.canIssue = false ∧ SameMemory s s' ∧
    ∃ w, s'.semWaiters = s.semWaiters ++ [w] ∧ w.slot = slot ∧ w.key = k ∧ w.units = some units) ∧
  (asks (.bar sd sa sb) → alone → max units.toNat 1 ≤ count.toNat + 1 → ∃ s' t', exec (.bar sd sa sb) s = .next s' ∧
    s'.team? slot = some t' ∧ t'.pc = t.advance.pc ∧ t'.rs sd.toNat = (t.ws sd.toNat (s.wordAt (k + 4) + 1)).rs sd.toNat ∧
    s'.wordAt k = 0 ∧ s'.wordAt (k + 4) = s.wordAt (k + 4) + 1 ∧ SameBut s s' (word4 0 ++ word4 4)) ∧
  (asks (.bar sd sa sb) → alone → count.toNat + 1 < max units.toNat 1 → ∃ s' t', exec (.bar sd sa sb) s = .next s' ∧
    s'.team? slot = some t' ∧ t'.pc = t.pc ∧ t'.request = some (.bar k) ∧ t'.canIssue = false ∧ s'.wordAt k = count + 1 ∧
    SameBut s s' (word4 0)) ∧
  (∀ g ring, s.group? t.group = some g → g.rings[(t.rs sa.toNat).toNat % 8]? = some ring → (t.rs sa.toNat).toNat / 256 % 16 < ring.size →
    Runs s slot t (.rgwait sd sa sb) →
    let x := (t.rs sa.toNat).toNat / 256 % 16
    let phase := sget false ring.phase x
    (phase = units.getLsbD 0 → ∃ s' t', exec (.rgwait sd sa sb) s = .next s' ∧ s'.team? slot = some t' ∧ t'.pc = t.advance.pc ∧
      t'.rs sd.toNat = (t.ws sd.toNat ((if phase then 0x80000000 else 0) ||| word (sget 0 ring.count x))).rs sd.toNat ∧ SameMemory s s') ∧
    (phase ≠ units.getLsbD 0 → ∃ s' t', exec (.rgwait sd sa sb) s = .next s' ∧ s'.team? slot = some t' ∧ t'.pc = t.pc ∧ t'.regs = t.regs ∧
      t'.request = some (.ring ((t.rs sa.toNat).toNat % 8) x (units.getLsbD 0)) ∧ SameMemory s s'))

/-! ## What returns -/

/-- R47, R49, R96, R190, R194, R201: when a load of device memory, a vault or the scratchpad, whose requests its core could make, returns
with no lane failing, it fills its registers: each lane of its accesses receives the token it holds, or the bytes of its address, lowest
first; the other lanes keep theirs. R49, R190, R204: when a load through a buffer record returns with no lane failing, each lane of its
accesses receives its token or the value of its element: zero where it is read from no position; for RAW and PACKED the EW bits from the
element's first bit, extended; for an integer FORMAT without a scale I - ZP; for any other FORMAT (v - ZP) s rounded once to binary32; for
DENSE the container of its elements. -/
def Obligations.LoadReturns : Prop :=
  (∀ (s : State) (o : Op) (t : Team) (ld : LoadOp) (r : Nat),
    let ret : LoadReturn := { useCopies := false, fails := [], peer := [] }
    let value (a : Access) (j : Nat) : Word := word (leNat (a.keys.map (memByte s)) / 2 ^ (32 * j))
    Live s o t → s.free o = true → s.takeSlots o = none → Calm s → Ordinary s o.gid → o.kind = .load ld → ld.buf = none → s.marks = [] →
    (∀ a ∈ ld.accs, ∀ k ∈ a.keys, keyPath k ≠ 4) → (ld.accs.map (·.lane)).Nodup →
    (ld.dest = .vec r (regsOf ld.size) → r + regsOf ld.size ≤ 256 → ∃ s' t', exec (.loadDataReturn o.id ret) s = .next s' ∧
      s'.team? o.slot = some t' ∧ s'.op? o.id = none ∧ SameMemory s s' ∧ t'.pc = t.pc ∧ SameScalars t t' [] ∧
      ∀ j, j < regsOf ld.size → t'.vEmpty (r + j) = false ∧ ∀ l, l < t.lanes →
        ((∀ a ∈ ld.accs, a.lane ≠ l) → t'.lane (r + j) l = t.lane (r + j) l) ∧
        ∀ a ∈ ld.accs, a.lane = l → t'.lane (r + j) l = laneOf (match a.token with | some k => .error k | none => .ok (value a j))) ∧
    (∀ a, ld.dest = .scal r (regsOf ld.size) → ld.accs = [a] → a.token = none → 0 < r → r + regsOf ld.size ≤ 192 →
      ∃ s' t', exec (.loadDataReturn o.id ret) s = .next s' ∧ s'.team? o.slot = some t' ∧ s'.op? o.id = none ∧ SameMemory s s' ∧ t'.pc = t.pc ∧
        ∀ j, j < regsOf ld.size → t'.sEmpty (r + j) = false ∧ t'.rs (r + j) = value a j)) ∧
  (∀ (s : State) (o : Op) (t : Team) (ld : LoadOp) (r n : Nat) (b : BufRec) (fd : Dbl) (es : List Elem),
    let ret : LoadReturn := { useCopies := false, fails := [], peer := [] }
    let f := fmtOf fd
    let bytes (e : Elem) : Nat := leNat (e.keys.map (memByte s))
    let code (e : Elem) : Nat := bytes e / 2 ^ e.bit % 2 ^ b.ew
    let scale (e : Elem) : Val :=
      let z := leNat (e.scale.map (memByte s))
      if b.smode = 1 then (if z = 255 then .nan else .fin false 1 ((z : Int) - 127)) else ofF32 (word z)
    Live s o t → s.free o = true → s.takeSlots o = none → Calm s → Ordinary s o.gid → o.kind = .load ld → ld.buf = some (b, fd, es) → s.marks = [] →
    (∀ x ∈ ld.reads, keyPath x.2 ≠ 4) → (ld.accs.map (·.lane)).Nodup → ld.dest = .vec r n → r + n ≤ 256 → n = 1 ∨ n = 2 →
    ∃ s' t', exec (.loadDataReturn o.id ret) s = .next s' ∧ s'.team? o.slot = some t' ∧ s'.op? o.id = none ∧ SameMemory s s' ∧ t'.pc = t.pc ∧
      SameScalars t t' [] ∧ ∀ j, j < n → t'.vEmpty (r + j) = false ∧ ∀ l, l < t.lanes →
        let gets (w : Word) : Prop := t'.lane (r + j) l = laneOf (.ok w)
        ((∀ a ∈ ld.accs, a.lane ≠ l) → t'.lane (r + j) l = t.lane (r + j) l) ∧
        (∀ a k, a ∈ ld.accs → a.lane = l → a.token = some k → t'.lane (r + j) l = laneOf (.error k)) ∧
        ∀ a ∈ ld.accs, a.lane = l → a.token = none →
          (b.enc = 3 → gets (word (f.container ((es.filter fun e => e.lane == l).map fun e => if e.keys = [] then 0 else code e) / 2 ^ (32 * j)))) ∧
          ∀ e more, j = 0 → b.enc ≠ 3 → es.filter (fun e => e.lane == l) = e :: more →
            (e.keys = [] → gets 0) ∧
            (e.keys ≠ [] → b.enc ≠ 2 → 1 ≤ b.ew → b.ew ≤ 32 → ∃ w : Word, gets w ∧ ∀ i, i < 32 →
              w.getLsbD i = if i < b.ew then (bytes e).testBit (e.bit + i) else (b.sx && (bytes e).testBit (e.bit + b.ew - 1))) ∧
            (e.keys ≠ [] → b.enc = 2 → f.kind = 1 ∨ f.kind = 2 → b.smode = 0 → gets (BitVec.ofInt 32 ((decodeVal f (code e)).intAt 0 - b.zp))) ∧
            (e.keys ≠ [] → b.enc = 2 → ¬ ((f.kind = 1 ∨ f.kind = 2) ∧ b.smode = 0) →
              let v := decodeVal f (code e)
              let d := if b.zp = 0 then v else sumVals false [v, (Val.ofInt b.zp (-(f.frac : Int))).negate]
              gets (word (encodeVal binary32 0 false 0 (if b.smode = 0 then d else mulVals d (scale e)).exact).code)))

/-- R190, R217, R218, R222: a store, a release too, that nothing holds back registers its words unit by unit: the bytes of the unit change
under their masks and no other byte does; the registering core, whose L1 has room, owns the words and no other core does; the other units
stay outstanding, and with the last one the store is gone. An evicted line leaves neither copy nor ownership. -/
def Obligations.StoreRegisters : Prop := ∀ (s : State) (o : Op) (t : Team) (st : StoreOp) (n : Nat) (u : StoreUnit) (core line : Nat),
  (Live s o t → s.ready o = true → Ordinary s o.gid → o.kind = .store st → st.units[n]? = some u → s.unitRequested o u = true →
    (∀ v ∈ st.units, v.peer = false) → (∀ e ∈ u.bytes, keyPath e.1 ≠ 4) → u.bytes ≠ [] → (u.bytes.map (·.1)).Nodup → (∀ w ∈ s.semWaiters, w.units = none) →
    (s.core o.core).copies.length + (s.core o.core).owned.length + u.bytes.length ≤ Config.l1Sectors →
    ∃ s' t', exec (.storePerformed o.id n none) s = .next s' ∧ s'.team? o.slot = some t' ∧ t'.pc = t.pc ∧ t'.regs = t.regs ∧
      (s'.op? o.id).map Op.kind = (if st.units.length = 1 then none else some (.store { st with units := st.units.eraseIdx n })) ∧
      (∀ e ∈ u.bytes, memByte s' e.1 = (memByte s e.1 &&& ~~~e.2.1) ||| (e.2.2 &&& e.2.1)) ∧ SameBut s s' (u.bytes.map (·.1)) ∧
      ∀ e ∈ u.bytes, (keyPath (e.1 / 4 * 4) ≠ 0 → sget false (s'.core o.core).owned (e.1 / 4) = true) ∧
        ∀ c, c ≠ o.core → sget false (s'.core c).owned (e.1 / 4) = false) ∧
  (∃ s', exec (.l1LineEviction core line) s = .next s' ∧ ∀ w, w / 32 = line →
    sget none (s'.core core).copies w = none ∧ sget false (s'.core core).owned w = false)

/-- R224, R233 to R236, R238, R243, R246: an atomic or a signal that nothing holds back takes effect at once. The word of an atomic becomes
its function's and the destination receives the old word, with 1 or 0 in sd+1 of a scalar cas; SEMSIG adds to COUNT up to 2^32 − 1 or,
where the generation differs, is dropped and counted; a wake is ORed into the queue's wake register; a mail is appended to the mailbox, or
counted where it is full. -/
def Obligations.AtomicApplies : Prop := ∀ (s : State) (o : Op) (t : Team) (a : AtomOp) (x : AtomLane) (k q : Nat) (va : Dbl) (gen : Option Word)
    (n v : Word) (qu : Queue),
  let ret : AtomReturn := { fails := [], peer := [] }
  let e : Instr := .atomicApplied o.id ret
  let word4 (k : Nat) : List Nat := (List.range 4).map (k + ·)
  let old := s.wordAt x.key
  Live s o t → s.free o = true → s.takeSlots o = none → o.handed = true → o.snapshot = [] → o.sent = [] → Calm s → s.semWaiters = [] → Ordinary s o.gid → s.marks = [] →
  (o.kind = .atom a → a.lanes = [x] → keyPath x.key ≠ 4 → x.lane < t.lanes → ∃ s' t', exec e s = .next s' ∧ s'.team? o.slot = some t' ∧
    s'.op? o.id = none ∧ t'.pc = t.pc ∧ s'.wordAt x.key = Claim.atomWord a.fn old x.b x.c ∧ SameBut s s' (word4 x.key) ∧
    (∀ r, a.dest = .vec r 1 → a.cas2 = false → r < 256 → t'.vEmpty r = false ∧ t'.lane r x.lane = laneOf (.ok old) ∧
      ∀ l, l < t.lanes → l ≠ x.lane → t'.lane r l = t.lane r l) ∧
    (∀ r, a.dest = .scal r 2 → a.cas2 = true → 0 < r → r + 1 < 192 → t'.rs r = old ∧ t'.rs (r + 1) = if x.b = old then 1 else 0) ∧
    (∀ r, a.dest = .scal r 1 → a.cas2 = false → 0 < r → r < 192 → t'.rs r = old)) ∧
  (o.kind = .signal (.sem k va gen n) → keyPath k ≠ 4 → (gen = none ∨ gen = some (s.wordAt (k + 4))) → ∃ s', exec e s = .next s' ∧
    s'.op? o.id = none ∧ (s'.wordAt k).toNat = min ((s.wordAt k).toNat + n.toNat) 0xFFFFFFFF ∧ SameBut s s' (word4 k)) ∧
  (∀ g, o.kind = .signal (.sem k va gen n) → keyPath k ≠ 4 → gen = some g → g ≠ s.wordAt (k + 4) → ∃ s', exec e s = .next s' ∧
    s'.op? o.id = none ∧ (s'.part o.part).orphans = (s.part o.part).orphans + 1 ∧ SameMemory s s') ∧
  (o.kind = .signal (.wake q v) → sget none (s.part o.part).queues q = some qu → ∃ s', exec e s = .next s' ∧ s'.op? o.id = none ∧
    sget none (s'.part o.part).queues q = some { qu with wake := qu.wake ||| v } ∧ SameMemory s s') ∧
  (o.kind = .signal (.mail v) → ∃ s', exec e s = .next s' ∧ s'.op? o.id = none ∧ SameMemory s s' ∧
    let m := s.die (dieOf o.core)
    let m' := s'.die (dieOf o.core)
    if m.mailbox.length < 256 then m'.mailbox = m.mailbox ++ [(o.slot, v)] ∧ m'.mboxOv = m.mboxOv
    else m'.mailbox = m.mailbox ∧ m'.mboxOv = m.mboxOv + 1)

/-- R218, R224, R233 to R235: an atomic of several lanes applies them in ascending order, each on what the lanes before it left; lane by
lane the destination receives the old word. R239, R240, R243, R244: n arrivals at a slot of a ring raise its count, which falls by the
target at each flip of the phase, and a team that sleeps for the new phase wakes with phase and count; a signal that brings COUNT to what
the oldest sleeper asks grants it, and else leaves it asleep; the last party of a barrier wakes the teams that sleep there with the new
generation. A team that wakes goes on past its instruction, and its core keeps no copy. -/
def Obligations.RingsAndWakes : Prop := ∀ (s : State) (o : Op) (t t1 : Team) (a : AtomOp) (g : Group) (ring : Ring) (w : SemWaiter) (rw : RingWaiter)
    (r x k : Nat) (va : Dbl) (n c : Word),
  let e : Instr := .atomicApplied o.id { fails := [], peer := [] }
  let word4 (k : Nat) : List Nat := (List.range 4).map (k + ·)
  let awake (s' : State) (slot sd : Nat) (v : Word) : Prop := ∃ t1', s'.team? slot = some t1' ∧ t1'.request = none ∧ t1'.pc = t1.advance.pc ∧
    t1'.rs sd = (t1.ws sd v).rs sd ∧ SameScalars t1 t1' [sd] ∧ SameVectors t1 t1' [] ∧ (s'.core t1.core).copies = [] ∧ (s'.core t1.core).recCache = []
  let goes : Prop := Live s o t ∧ s.free o = true ∧ s.takeSlots o = none ∧ o.handed = true ∧ o.snapshot = [] ∧ o.sent = [] ∧ o.lost = [] ∧
    (∀ p ∈ s.ops, ∀ st, p.kind ≠ .store st) ∧ Ordinary s o.gid ∧ s.marks = []
  let other (slot gid : Nat) : Prop := slot ≠ o.slot ∧ s.team? slot = some t1 ∧ t1.group = gid ∧ t1.status ≠ .exited
  (goes → s.semWaiters = [] → o.kind = .atom a → a.cas2 = false → a.dest = .vec r 1 → r < 256 →
    (∀ y ∈ a.lanes, keyPath y.key ≠ 4 ∧ y.key % 4 = 0 ∧ y.lane < t.lanes) → (a.lanes.map (·.lane)).Nodup →
    let run := Claim.atomRun a.fn s.wordAt a.lanes
    ∃ s' t', exec e s = .next s' ∧ s'.team? o.slot = some t' ∧ s'.op? o.id = none ∧ t'.pc = t.pc ∧ t'.vEmpty r = false ∧
      (∀ y ∈ a.lanes, s'.wordAt y.key = run.1 y.key) ∧ SameBut s s' (a.lanes.map fun y => word4 y.key).flatten ∧
      (∀ (i : Nat) (y : AtomLane) (v : Word), a.lanes[i]? = some y → run.2[i]? = some v → t'.lane r y.lane = laneOf (.ok v)) ∧
      ∀ l, l < t.lanes → (∀ y ∈ a.lanes, y.lane ≠ l) → t'.lane r l = t.lane r l) ∧
  (goes → s.semWaiters = [] → o.kind = .signal (.ring r x n) → s.group? o.gid = some g → g.rings[r]? = some ring → 0 < ring.target →
    let sum := sget 0 ring.count x + n.toNat
    let p := sget false ring.phase x
    (g.waiters = [] → ∃ s' g' ring', exec e s = .next s' ∧ s'.op? o.id = none ∧ SameMemory s s' ∧ s'.group? o.gid = some g' ∧
      g'.rings[r]? = some ring' ∧ sget 0 ring'.count x = sum % ring.target ∧ sget false ring'.phase x = (p != decide (sum / ring.target % 2 = 1)) ∧
      (∀ y, y ≠ x → sget 0 ring'.count y = sget 0 ring.count y ∧ sget false ring'.phase y = sget false ring.phase y) ∧
      ∀ q, q ≠ r → g'.rings[q]? = g.rings[q]?) ∧
    (g.waiters = [rw] → rw.ring = r → rw.rslot = x → rw.phase = !p → other rw.slot o.gid → ring.target ≤ sum → sum < 2 * ring.target →
      ∃ s' g', exec e s = .next s' ∧ s'.group? o.gid = some g' ∧ g'.waiters = [] ∧
        awake s' rw.slot rw.sd ((if p then 0 else 0x80000000) ||| word (sum - ring.target)))) ∧
  (goes → o.kind = .signal (.sem k va none n) → keyPath k ≠ 4 → s.semWaiters = [w] → w.key = k → w.units = some c → w.remote = none →
    other w.slot w.gid →
    let count := min ((s.wordAt k).toNat + n.toNat) 0xFFFFFFFF
    (c.toNat ≤ count → ∃ s', exec e s = .next s' ∧ s'.op? o.id = none ∧ s'.semWaiters = [] ∧ (s'.wordAt k).toNat = count - c.toNat ∧
      SameBut s s' (word4 k) ∧ awake s' w.slot w.sd (word (count - c.toNat))) ∧
    (count < c.toNat → ∃ s', exec e s = .next s' ∧ s'.op? o.id = none ∧ s'.semWaiters = [w] ∧ (s'.wordAt k).toNat = count ∧
      s'.team? w.slot = some t1 ∧ SameBut s s' (word4 k))) ∧
  (∀ slot sd sa sb ks p, Runs s slot t (.bar sd sa sb) → MemoryReady s slot t → Room s t → Quiet s slot t → keyPath k ≠ 4 → s.marked k = false →
    s.checkAt (s.partOf t) t.group .atomic 8 (t.rd64 sa.toNat).toNat 0 = .ok (k :: ks) p → s.semWaiters = [w] → w.key = k → w.units = none →
    w.remote = none → w.slot ≠ slot → s.team? w.slot = some t1 → t1.group = w.gid → t1.status ≠ .exited →
    max (t.rs sb.toNat).toNat 1 ≤ (s.wordAt k).toNat + 1 → ∃ s', exec (.bar sd sa sb) s = .next s' ∧ s'.semWaiters = [] ∧
      s'.wordAt k = 0 ∧ s'.wordAt (k + 4) = s.wordAt (k + 4) + 1 ∧ awake s' w.slot w.sd (s.wordAt (k + 4) + 1))

/-! ## Engines -/

/-- R190, R245, R255, R256, R258, R261, R262, R275, R304, R305: a command waits while its queue is full, takes ILLEGAL where its parameters
fail its rule or it would read what it writes, and else issues: the team goes on with the status register empty and one command outstanding
that holds its parameters and its valid count, and the locks of what it reads and writes stand. That R262 holds for every command, and that
a queue counts what is accepted and not complete, is log entry 58; the 34-byte segments in the lock of MMAL log entry 60. -/
def Obligations.EngineIssue : Prop := ∀ (i : Instr) (s : State) (slot : Nat) (t : Team) (e : Claim.EngineIssue),
  let meets : Bool := e.reads.any fun r => e.writes.any fun w => rangesMeet t.group r w
  let locks := locksOf t.group e.reads e.writes
  Runs s slot t i → Claim.engine s t i = some e →
  (e.full = true → exec i s = .next s) ∧
  (e.full = false → e.good = false ∨ meets = true → exec i s = .next (s.illegal slot)) ∧
  (e.full = false → e.good = true → meets = false → Room s t → s.lockUse (s.partOf t) + locks.length + 5 ≤ Config.lockEntries →
    ∃ s' t' c, exec i s = .next s' ∧ WentOn s s' slot t t' ∧
      (∀ j, j < e.count → e.sd.toNat + j ≠ 0 → t'.sEmpty (e.sd.toNat + j) = true) ∧
      (∃ o ∈ s'.ops, o.id = s.nextId ∧ o.slot = slot ∧ o.gid = t.group ∧ o.kind = .command c) ∧ c.cmd = e.cmd ∧ c.params = e.params ∧
      c.valid = e.valid ∧ c.sd = e.sd.toNat ∧ c.started = false ∧ s'.locks = s.locks ++ locks.map fun l => (s.partOf t, s.nextId, l))

/-- R275 to R277, R280, R293: every matrix instruction waits while the unit of its core is full. MFMT sets MXM. ACALLOC takes ILLEGAL for a
count of 0 or above 128, gives 0xFFFFFFFF where the core has too few free tiles or the group no run of unmapped indices, and else maps the
lowest run to the lowest free tiles of the core, zero with clear tags. ACFREE takes ILLEGAL beyond index 127 or at an unmapped one, and
else unmaps its run; a tile that no command uses is free at once. -/
def Obligations.MatrixTiles : Prop := ∀ (s : State) (slot : Nat) (t : Team) (i : Instr) (imm : BitVec 16) (sd sa sb : SReg) (g : Group),
  let core (s : State) : CoreState := s.core t.core
  s.group? t.group = some g →
  (Claim.matrixUnit i = true → Runs s slot t i → s.queueFull (onMatrix t.core) 16 = true → exec i s = .next s) ∧
  (s.queueFull (onMatrix t.core) 16 = false →
  (Runs s slot t (.mfmt imm) → exec (.mfmt imm) s = .next (s.setTeam slot { t with mxm := imm }.advance)) ∧
  (Runs s slot t (.acalloc sd sa) →
    let c := (t.rs sa.toNat).toNat
    let free := (core s).freeTiles
    let clear (r : Nat) : Prop := r + c ≤ 128 ∧ ∀ x, x < c → sget 0 g.tileMap (r + x) = 0
    (c = 0 ∨ 128 < c → exec (.acalloc sd sa) s = .next (s.illegal slot)) ∧
    (0 < c → c ≤ 128 → (free.length < c ∨ ∀ r, ¬ clear r) →
      exec (.acalloc sd sa) s = .next (s.setTeam slot (t.ws sd.toNat 0xFFFFFFFF).advance)) ∧
    (∀ r, 0 < c → c ≤ free.length → clear r → (∀ q, q < r → ¬ clear q) → ∃ s' g', exec (.acalloc sd sa) s = .next s' ∧
      s'.team? slot = some (t.ws sd.toNat (word r)).advance ∧ SameMemory s s' ∧ s'.ops = s.ops ∧ s'.group? t.group = some g' ∧
      (∀ x, x < c → ∃ f, free[x]? = some f ∧ sget 0 g'.tileMap (r + x) = f + 1 ∧ f ∉ (core s').freeTiles ∧
        ∀ k, 1024 * f ≤ k → k < 1024 * (f + 1) → (core s').element k = Lane.zero) ∧
      ∀ n, n < r ∨ r + c ≤ n → sget 0 g'.tileMap n = sget 0 g.tileMap n)) ∧
  (Runs s slot t (.acfree sa sb) →
    let lo := (t.rs sa.toNat).toNat
    let n := (t.rs sb.toNat).toNat
    let mapped (x : Nat) : Prop := lo + x < 128 ∧ sget 0 g.tileMap (lo + x) ≠ 0
    ((∃ x, x < n ∧ ¬ mapped x) → exec (.acfree sa sb) s = .next (s.illegal slot)) ∧
    ((∀ x, x < n → mapped x) → ∃ s' g', exec (.acfree sa sb) s = .next s' ∧ s'.team? slot = some t.advance ∧ SameMemory s s' ∧
      s'.ops = s.ops ∧ s'.group? t.group = some g' ∧ (∀ x, sget 0 g'.tileMap x = if lo ≤ x ∧ x < lo + n then 0 else sget 0 g.tileMap x) ∧
      ∀ x f, x < n → sget 0 g.tileMap (lo + x) = f + 1 → f < Config.tiles →
        (∀ o ∈ s.ops, ∀ c, onMatrix t.core o = true → o.kind = .command c → f ∉ c.extra) → f ∈ (core s').freeTiles)))

/-- R245, R255, R262, R275, R277, R285 to R290, R293, R295 to R298: the commands of the matrix unit that do not read their parameters from
memory, while the unit is not full. MMA and MMAW4 take ILLEGAL for a pitch or a count with reserved bits set or an unmapped tile, and else
go on with one command that holds their tiles, their captured A block (the latched one, or the registers), the formats, the exec window and
the range that B is read from as a lock; RA sets the latch and its absence clears it, and last use marks the rows computed. ACZERO and
ACREAD go on with their command on mapped tiles, ACREAD with its registers empty. ACDRAIN without packing goes on with its status empty;
with packing it holds its record's words, the definition of its slot and the locks of what it writes. Each takes ILLEGAL for reserved bits,
an unmapped tile or a record it cannot use. That R262 holds for ACDRAIN too is log entry 58; the lock of B by segment bytes is log entry
60. -/
def Obligations.MatrixIssue : Prop := ∀ (s : State) (slot : Nat) (t : Team) (sd sa sb : SReg) (va : VReg) (tile : BitVec 7)
    (j : BitVec 5) (ra la ovw keep : Bool) (g : Group),
  let mapped (n : Nat) : Prop := n < 128 ∧ sget 0 g.tileMap n ≠ 0
  let issues (i : Instr) (cmd : Command) (ns : List Nat) (locks : List Lock) (also : State → Team → CommandOp → Prop) : Prop :=
    s.lockUse (s.partOf t) + locks.length ≤ Config.lockEntries → ∃ s' t' c, exec i s = .next s' ∧ WentOn s s' slot t t' ∧
      (∃ o ∈ s'.ops, o.id = s.nextId ∧ o.slot = slot ∧ o.kind = .command c) ∧ c.cmd = cmd ∧ c.started = false ∧
      c.extra = ns.map (fun n => sget 0 g.tileMap n - 1) ∧ s'.locks = s.locks ++ locks.map (fun l => (s.partOf t, s.nextId, l)) ∧ also s' t' c
  let illegal (i : Instr) : Prop := exec i s = .next (s.illegal slot)
  let p (n : Nat) : Word := t.rs (8 * j.toNat + n)
  let mma (i : Instr) (w4 : Bool) : Prop := Runs s slot t i →
    let ps := (List.range 8).map fun n => if n < (if w4 then 6 else 4) then p n else 0
    let nt := (p 3).toNat % 16 + 1
    let ns := (List.range (t.beats * nt)).map (tile.toNat + ·)
    let n := if w4 then 16 else t.aCount (s.mxsel t)
    let fmt := if w4 then w4Format else t.aFormat
    let rows := if t.latched va.toNat fmt then (t.latch.map (·.rows)).getD [] else t.aBlock va.toNat n
    let seg := if w4 then 16 else (operandOf t.mxm 4 (t.fdr (t.mx 12)) (s.mxsel t)).bytes
    let locks := locksOf t.group ([(pd ps 0, (32 * nt - 1) * (p 2).toNat + seg)] ++ if w4 then [(pd ps 4, 128 * nt)] else []) []
    (2 ^ 24 ≤ (p 2).toNat ∨ 16 ≤ (p 3).toNat ∨ (∃ n ∈ ns, ¬ mapped n) → illegal i) ∧
    ((p 2).toNat < 2 ^ 24 → (p 3).toNat < 16 → (∀ n ∈ ns, mapped n) → issues i (if w4 then .mmaw4 else .mma) ns locks fun _ t' c =>
      c.params = ps ++ t.execWindow ∧ c.valid = nt ∧ c.rows = rows ∧ c.unit = (if ovw then 1 else 0) ∧ c.mxm = t.mxm ∧
      c.defs = [t.fdr (t.mx 8), t.fdr (t.mx 12)] ∧
      t'.latch = (if ra then some { va := va.toNat, fmt := fmt.1, slotDef := fmt.2, rows := rows } else none) ∧
      ∀ x l, x < n → l < t.lanes → ((t'.lane (va.toNat + x) l).dead = true ↔
        (t.lane (va.toNat + x) l).dead = true ∨ (la = true ∧ t.exec l = true)))
  s.group? t.group = some g → s.queueFull (onMatrix t.core) 16 = false → Room s t →
  mma (.mma tile va j ra la ovw) false ∧ mma (.mmaw4 tile va j ra la ovw) true ∧
  (Runs s slot t (.aczero sa sb) →
    let ns := (List.range (t.rs sb.toNat).toNat).map ((t.rs sa.toNat).toNat + ·)
    ((∃ n ∈ ns, ¬ mapped n) → illegal (.aczero sa sb)) ∧
    (ns = [] → exec (.aczero sa sb) s = .next (s.setTeam slot t.advance)) ∧
    (ns ≠ [] → (∀ n ∈ ns, mapped n) → issues (.aczero sa sb) .aczero ns [] fun _ _ _ => True)) ∧
  (Runs s slot t (.acread va sb la keep) →
    let w := (t.rs sb.toNat).toNat
    let n := w / 2 ^ 21 % 32 + 1
    let c0 := w / 2 ^ 16 % 32
    let ns := ((t.activeLanes.map (· / 32)).eraseDups).map fun b => w % 128 + b * (w / 2 ^ 8 % 128)
    ((∃ x ∈ ns, ¬ mapped x) ∨ 32 < c0 + n ∨ t.nvregs < va.toNat + n → illegal (.acread va sb la keep)) ∧
    ((∀ x ∈ ns, mapped x) → c0 + n ≤ 32 → va.toNat + n ≤ t.nvregs → t.failures = [] →
      ((∃ x, x < n ∧ t.vEmpty (va.toNat + x) = true) → exec (.acread va sb la keep) s = .next s) ∧
      ((∀ x, x < n → t.vEmpty (va.toNat + x) = false) → issues (.acread va sb la keep) .acread ns [] fun _ t' c =>
        c.params = [word va.toNat, word n, word c0] ++ List.replicate 5 0 ++ t.lanesMask t.activeLanes ∧ c.valid = n ∧
        ∀ x, x < n → t'.vEmpty (va.toNat + x) = true))) ∧
  (Runs s slot t (.acdrain sd sa sb) →
    let i : Instr := .acdrain sd sa sb
    let ps := t.params sa
    let q := (t.rs sa.toNat).toNat
    let r := (t.rs (sa.toNat + 1)).toNat
    let mt := q / 2 ^ 16 % 32 + 1
    let nt := q / 2 ^ 8 % 16 + 1
    let ns := (List.range (mt * nt)).map (q % 128 + ·)
    let v := if sb = 0 then 32 * mt else min (t.rs sb.toNat).toNat (32 * mt)
    let bias := if q / 2 ^ 28 % 2 = 1 ∧ v ≠ 0 then [(pd ps 2, 128 * nt)] else []
    let fields : Prop := q / 2 ^ 21 % 8 = 0 ∧ q / 2 ^ 12 % 16 = 0 ∧ q / 2 ^ 7 % 2 = 0 ∧ r < 2 ^ 12 ∧ (q < 2 ^ 31 → q / 2 ^ 26 % 4 = 0)
    (¬ fields → illegal i) ∧
    (fields → q < 2 ^ 31 →
      ((∃ n ∈ ns, ¬ mapped n) → illegal i) ∧
      ((∀ n ∈ ns, mapped n) → issues i .acdrain ns (locksOf t.group bias []) fun _ t' c =>
        c.params = ps ∧ c.valid = v ∧ c.sd = sd.toNat ∧ (sd ≠ 0 → t'.sEmpty sd.toNat = true))) ∧
    (∀ x, fields → 2 ^ 31 ≤ q → RecordReady s slot t → s.readRecord slot t r = .bits x →
      let b := recordOf x
      let writes := if v = 0 then [] else (b.base.toNat, b.len) :: scaleRange b
      let meets : Bool := bias.any fun a => writes.any fun w => rangesMeet t.group a w
      (recordValid t x = false ∨ b.enc = 3 → illegal i) ∧
      (recordValid t x = true → b.enc ≠ 3 → (∃ n ∈ ns, ¬ mapped n) ∨ meets = true →
        ∃ s' t', exec i s = .next s' ∧ Trapped s' slot t t' 0x10 0 ∧ SameMemory s s') ∧
      (recordValid t x = true → b.enc ≠ 3 → (∀ n ∈ ns, mapped n) → meets = false →
        issues i .acdrain ns (locksOf t.group bias writes) fun _ t' c =>
          c.params = ps ++ (List.range 10).map (fun k => word (x / 2 ^ (32 * k))) ∧ c.valid = v ∧ c.sd = sd.toNat ∧
          c.defs = [t.fdr b.fslot] ∧ (sd ≠ 0 → t'.sEmpty sd.toNat = true))))

/-- R245, R252, R261, R399, R406: ENGINE_COMMAND_START begins a command whose issue is performed, whose unit is ready, which no lock stands
against and whose permit it holds or does not need; one that a lock stands against stays as it is. Here the commands that have no late lock
and no start of their own. R245, R258 to R260, R264, R275, R293, R306: when the unit of a started command completes it, the command is gone
with its locks and its status register holds a value, whatever the outcome. XCOPY of one row copies its bytes, and no other byte changes;
ACZERO leaves every element of its tiles zero. -/
def Obligations.CommandEnds : Prop :=
  (∀ (s : State) (o : Op) (c : CommandOp),
    s.op? o.id = some o → o.kind = .command c → c.released = true → c.started = false → Ordinary s o.gid → s.unitUp o.core c.cmd = true →
    (c.cmd ∈ [Command.xcopy, .xfill, .xgath, .xtrn, .layic, .mma, .mmal, .mmaw4, .acload, .acdrain, .atload, .gadv, .sample, .route] →
      (c.need = 0 ∨ c.permit ≠ none) → s.lockHeld o c.locks = false →
      exec (.engineCommandStart o.id) s = .next (s.setOp { o with kind := .command { c with started := true } })) ∧
    (s.lockHeld o c.locks = true → exec (.engineCommandStart o.id) s = .next s)) ∧
  (∀ (s : State) (o : Op) (t : Team) (c : CommandOp) (fin : EngineEnd) (src dst : Nat → Nat),
    let ends (e : Instr) : Prop := ∃ s' t', exec e s = .next s' ∧ s'.op? o.id = none ∧ (∀ l ∈ s'.locks, l.2.1 ≠ o.id) ∧
      s'.team? o.slot = some t' ∧ (0 < c.sdCount → 0 < c.sd → c.cmd ∉ [Command.mma, .mmaw4, .aczero, .acread] → t'.sEmpty c.sd = false) ∧ t'.pc = t.pc
    let n := (pw c.params 4).toNat % 2 ^ 24
    Live s o t → Calm s → Ordinary s o.gid → o.kind = .command c → c.started = true → c.cancel = [] →
    (c.cmd = .gmask ∨ c.cmd = .gadv → ends (.grammarUnitCompletion o.id)) ∧
    (c.cmd = .sample ∨ c.cmd = .route → ends (.generationUnitCompletion o.id)) ∧
    (c.cmd.copies = true → c.pgin = false → ends (.copyCommandCompletion o.id fin)) ∧
    (c.cmd ∈ [Command.mma, .mmaw4, .mmal, .aczero, .acload, .acread, .acdrain, .atload] → s.matrixReady o c = true →
      ends (.matrixCommandCompletion o.id fin)) ∧
    (c.cmd = .xcopy → c.valid = 1 → s.marks = [] →
      (∀ x, x < n → Steady s o .read ((pd c.params 0 + x) % 2 ^ 64) (src x) ((List.range n).map dst) ∧
        Steady s o .write ((pd c.params 2 + x) % 2 ^ 64) (dst x) ((List.range n).map dst)) →
      (∀ x y, x < n → y < n → dst x = dst y → x = y) → ∃ s' t', exec (.copyCommandCompletion o.id fin) s = .next s' ∧ s'.team? o.slot = some t' ∧
        (∀ x, x < n → memByte s' (dst x) = memByte s (src x)) ∧ SameBut s s' ((List.range n).map dst) ∧
        (0 < c.sd → c.sd < 192 → c.sdCount = 1 → t'.rs c.sd = 1)) ∧
    (c.cmd = .aczero → s.matrixReady o c = true → c.failed = none → ∃ s', exec (.matrixCommandCompletion o.id fin) s = .next s' ∧ SameMemory s s' ∧
      ∀ x ∈ c.extra, ∀ k, 1024 * x ≤ k → k < 1024 * (x + 1) → (s'.core o.core).element k = Lane.zero))

/-- R258 to R260, R264 to R270: what the copy and layout commands do, with no failing access and no marked sector. The completion of XCOPY,
XFILL, XTRN or LAYIC leaves exactly the bytes of its rule changed, in the order of its units, and DONE with its valid count. XGATH takes
its rows by the index list, zero rows for indices outside the table under ZERO, and else stops there with OUT_OF_BOUNDS, the rows before it
moved. XEXP leaves 4,096 bytes for each chunk: zeros, the stored bytes, or what an LZ4 block expands to; a chunk whose offsets fall or are
more than 4,096 apart stops it with DECODE. The status of such a stop names no record where the team's ring holds none. -/
def Obligations.CopyEffects : Prop := ∀ (s : State) (o : Op) (t : Team) (c : CommandOp) (fin : EngineEnd) (key : Nat → Nat),
  let ps := c.params
  let done (x : Claim.Moved) (status : Word) : Prop := ∃ s' t', exec (.copyCommandCompletion o.id fin) s = .next s' ∧
    s'.team? o.slot = some t' ∧ x.landed s s' key ∧ s'.op? o.id = none ∧ (0 < c.sd → c.sd < 192 → c.sdCount = 1 → t'.rs c.sd = status)
  let spad (x : Nat) : Nat := 2 ^ 64 - 2 ^ 20 + x
  let nsrc := (pw ps 5).toNat
  let index (i : Nat) : Nat := Claim.numAt s key (spad ((pw ps 4).toNat + 4 * i)) 4
  let gath : Claim.Moved := ⟨c.valid, (pw ps 6).toNat % 2 ^ 24,
    fun i j => Claim.place ((pd ps 2 + i * ((pw ps 6).toNat % 2 ^ 24) + j : Nat) : Int),
    fun i j => if index i < nsrc then .inl (Claim.place ((pd ps 0 + index i * ((pw ps 6).toNat % 2 ^ 24) + j : Nat) : Int)) else .inr 0⟩
  let entry (n : Nat) : Nat := Claim.place ((pd ps 4 + 4 * ((pw ps 6).toNat + n) : Nat) : Int)
  let at' (n : Nat) : Nat := Claim.numAt s key (entry n) 4
  let packed (n j : Nat) : Nat := Claim.place ((pd ps 0 + at' n + j : Nat) : Int)
  let expand (out : Nat → List Byte) : Claim.Moved := ⟨c.valid, 4096, fun n j => Claim.place ((pd ps 2 + 4096 * n + j : Nat) : Int),
    fun n j => if at' (n + 1) - at' n = 4096 then .inl (packed n j) else .inr ((out n).getD j 0)⟩
  let kept (x : Claim.Moved) (a : Nat) : Prop := Steady s o .read a (key a) (x.keys key) ∧ key a ∉ x.keys key
  let block (n : Nat) (out : List Byte) : Prop :=
    if at' (n + 1) = at' n then out = List.replicate 4096 0
    else at' (n + 1) - at' n < 4096 → ∃ seqs last, out.length = 4096 ∧ Claim.lz4Expands [] seqs last out ∧
      (List.range (at' (n + 1) - at' n)).map (fun j => memByte s (key (packed n j))) = Claim.lz4Bytes seqs last
  Live s o t → Calm s → Ordinary s o.gid → o.kind = .command c → c.started = true → c.cancel = [] → s.marks = [] → c.valid < 2 ^ 24 →
  (∀ x, Claim.copied c = some x → x.reached s o key → done x (word c.valid)) ∧
  (c.cmd = .xgath → gath.reached s o key → (pw ps 4).toNat % 4 = 0 →
    (∀ i, i < c.valid → (pw ps 4).toNat + 4 * i < 2 ^ 20 ∧ ∀ b, b < 4 → kept gath (spad ((pw ps 4).toNat + 4 * i + b))) →
    ((∀ i, i < c.valid → index i < nsrc ∨ (pw ps 6).toNat / 2 ^ 25 % 2 = 1) → done gath (word c.valid)) ∧
    (∀ i, i < c.valid → (pw ps 6).toNat / 2 ^ 25 % 2 = 0 → nsrc ≤ index i → (∀ n, n < i → index n < nsrc) → t.frcur = 0 →
      done (gath.first i) (word (0x03 * 2 ^ 24)))) ∧
  (c.cmd = .xexp → ∀ (out : Nat → List Byte) (n : Nat), n ≤ c.valid → ((expand out).first n).reached s o key → pd ps 4 % 4 = 0 →
    (∀ m b, m < min (n + 1) c.valid + 1 → b < 4 → kept (expand out) (Claim.place ((entry m + b : Nat) : Int))) →
    (∀ m, m < n → at' m ≤ at' (m + 1) ∧ at' (m + 1) - at' m ≤ 4096 ∧ block m (out m) ∧
      ∀ j, j < at' (m + 1) - at' m → kept (expand out) (packed m j)) →
    (n = c.valid → done (expand out) (word c.valid)) ∧
    (n < c.valid → at' (n + 1) < at' n ∨ at' n + 4096 < at' (n + 1) → t.frcur = 0 → done ((expand out).first n) (word (0x08 * 2 ^ 24))))

/-- R259, R275, R279, R282 to R286, R290 to R302: what the matrix commands do, with every byte they read in the scratchpad or a vault under
no lock of another, or for ACLOAD, the bias and ATLOAD anywhere. MMA, MMAW4 and MMAL add their K-blocks in order to the rows that they
compute, with one rounding for the block and one for the sum; a poisoned row of A, or else a poisoned element that is not overwritten,
gives its token; no other element changes. ACLOAD fills its rows with words of memory; ACREAD moves its slice into the active lanes. A
drain runs its stages over its rows, and writes them back or, with a record without scales, packs them as codes of whole bytes; a poisoned
element stops it. ATLOAD fills the inactive bank, makes it active and counts the generation. -/
def Obligations.MatrixEffects : Prop := ∀ (s : State) (o : Op) (t : Team) (c : CommandOp) (fin : EngineEnd) (key : Nat → Nat),
  let ps := c.params
  let core := s.core o.core
  let readable (a : Nat) : Prop := Steady s o .read a (key a) []
  let segment (a n : Nat) : Prop := ∀ j, j < n → readable (Claim.place ((a + j : Nat) : Int)) ∧
    windowOf (Claim.place ((a + j : Nat) : Int)) ≠ .translated ∧
    ∀ l ∈ s.locks, l.2.2.write = true → l.1 = o.part → l.2.1 ≠ o.id → l.2.2.meets o.gid (Claim.place ((a + j : Nat) : Int)) 1 = false
  let bytes (a n : Nat) : Nat := leNat ((List.range n).map fun j => memByte s (key (Claim.place ((a + j : Nat) : Int))))
  let place (nt m n : Nat) : Nat := 1024 * c.extra.getD (m / 32 * nt + n / 32) 0 + 32 * (m % 32) + n % 32
  let finishes (P : State → Team → Prop) : Prop := ∃ s' t', exec (.matrixCommandCompletion o.id fin) s = .next s' ∧ s'.op? o.id = none ∧
    s'.team? o.slot = some t' ∧ P s' t'
  let status (t' : Team) (w : Word) : Prop := 0 < c.sd → c.sd < 192 → c.sdCount = 1 → t'.rs c.sd = w
  let only (s' : State) (nt : Nat) (row : Nat → Prop) : Prop :=
    ∀ k, (∀ m n, row m → n < 32 * nt → place nt m n ≠ k) → (s'.core o.core).element k = core.element k
  let tiles (mt nt : Nat) : Prop := c.extra.length = mt * nt ∧ c.extra.Nodup
  let data := (s.group? o.gid).any (·.mxsel)
  let a := operandOf c.mxm 0 (c.defs.getD 0 0) data
  let b := operandOf c.mxm 4 (c.defs.getD 1 0) data
  Live s o t → Calm s → Ordinary s o.gid → o.kind = .command c → c.started = true → c.failed = none → c.cancel = [] → s.marks = [] →
  s.matrixReady o c = true →
  (c.cmd = .mma ∨ c.cmd = .mmaw4 →
    let w4 : Bool := c.cmd == .mmaw4
    let nt := (pw ps 3).toNat % 16 + 1
    let row (m : Nat) : Prop := maskBit (ps.drop 8) m = true
    let va (n : Nat) : Nat := pd ps 0 + n * ((pw ps 2).toNat % 2 ^ 24)
    let weight (n q : Nat) : Val := decodeVal (fmtOf (builtin 2)) (encodeVal (fmtOf (builtin 2)) 0 false 0
      (mulVals (Val.ofInt (((bytes (va n) 16 / 16 ^ q % 16 : Nat) : Int) - ((bytes (pd ps 4 + 4 * n) 4 / 2 ^ 16 % 256 : Nat) : Int)) 0)
        (decodeVal (fmtOf (builtin 2)) (bytes (pd ps 4 + 4 * n) 4 % 2 ^ 16))).exact).code
    let x (m : Nat) : Except Word (List Val) := (if w4 then w4Operand else a).row (c.rows.map fun r => r.getD m Lane.zero)
    let y (n : Nat) : List Val := if w4 then (List.range 32).map (weight n) else Claim.segmentValues b (bytes (va n) b.bytes)
    tiles (ps.length - 8) nt →
    (∀ n, n < 32 * nt → segment (va n) (if w4 then 16 else b.bytes) ∧ (w4 = true → segment (pd ps 4 + 4 * n) 4)) →
    finishes fun s' _ => SameMemory s s' ∧ only s' nt (fun m => m < 32 * (ps.length - 8) ∧ row m) ∧
      ∀ m n, m < 32 * (ps.length - 8) → row m → n < 32 * nt →
        (s'.core o.core).element (place nt m n) = Claim.blockLane (c.unit == 1) (core.element (place nt m n)) (x m) (y n)) ∧
  (c.cmd = .mmal →
    let nt := (pw ps 5).toNat / 2 ^ 8 % 16 + 1
    let ksteps := (pw ps 5).toNat / 2 ^ 20
    let ovw (k : Nat) : Bool := (pw ps 5).toNat / 2 ^ 12 % 2 == 1 && k == 0
    let av (k m : Nat) : Nat := Claim.place (pd ps 0 + k * (pw ps 6).toInt + ((m * ((pw ps 4).toNat / 2 ^ 16) : Nat) : Int))
    let bv (k n : Nat) : Nat := Claim.place (pd ps 2 + k * (pw ps 7).toInt + ((n * ((pw ps 4).toNat % 2 ^ 16) : Nat) : Int))
    tiles ((pw ps 5).toNat / 2 ^ 15 % 32 + 1) nt → c.valid ≤ 32 * ((pw ps 5).toNat / 2 ^ 15 % 32 + 1) → 0 < ksteps →
    (∀ k, k < ksteps → (∀ m, m < c.valid → segment (av k m) a.bytes) ∧ ∀ n, n < 32 * nt → segment (bv k n) b.bytes) →
    ∀ E : Nat → Nat → Nat → Lane, (∀ m n, E 0 m n = core.element (place nt m n)) →
      (∀ k m n, E (k + 1) m n = Claim.blockLane (ovw k) (E k m n) (.ok (Claim.segmentValues a (bytes (av k m) a.bytes)))
        (Claim.segmentValues b (bytes (bv k n) b.bytes))) →
      finishes fun s' t' => SameMemory s s' ∧ only s' nt (· < c.valid) ∧
        (∀ m n, m < c.valid → n < 32 * nt → (s'.core o.core).element (place nt m n) = E ksteps m n) ∧
        ((∀ m n, m < c.valid → n < 32 * nt → (E ksteps m n).tag = false) → status t' (word c.valid)) ∧
        ((∃ m n, m < c.valid ∧ n < 32 * nt ∧ (E ksteps m n).tag = true) → status t' (word (2 ^ 23 + c.valid)))) ∧
  (c.cmd = .acload →
    let nt := (pw ps 3).toNat / 2 ^ 8 % 16 + 1
    let va (m n : Nat) : Nat := Claim.place (pd ps 0 + m * (pw ps 2).toInt + ((4 * n : Nat) : Int))
    tiles ((pw ps 3).toNat / 2 ^ 16 % 32 + 1) nt → c.valid ≤ 32 * ((pw ps 3).toNat / 2 ^ 16 % 32 + 1) →
    (∀ m n j, m < c.valid → n < 32 * nt → j < 4 → readable (Claim.place ((va m n + j : Nat) : Int))) →
    finishes fun s' t' => SameMemory s s' ∧ only s' nt (· < c.valid) ∧ status t' (word c.valid) ∧
      ∀ m n, m < c.valid → n < 32 * nt → (s'.core o.core).element (place nt m n) = ⟨word (bytes (va m n) 4), false, false⟩) ∧
  (c.cmd = .acread → ∀ vd nc c0 : Nat, ps.take 3 = [word vd, word nc, word c0] → vd < 128 → nc ≤ 32 → c0 < 32 → vd + nc ≤ t.nvregs →
    let lanes := (List.range t.lanes).filter fun l => maskBit (ps.drop 8) l
    let beats := (lanes.map (· / 32)).eraseDups
    (∀ l, t.lanes ≤ l → maskBit (ps.drop 8) l = false) → ps.length ≤ 40 →
    finishes fun s' t' => SameMemory s s' ∧ (∀ k, (s'.core o.core).element k = core.element k) ∧ SameScalars t t' [] ∧
      (∀ r, (∀ j, j < nc → r ≠ vd + j) → ∀ l, l < t.lanes → t'.lane r l = t.lane r l) ∧
      ∀ j l, j < nc → l < t.lanes → t'.vEmpty (vd + j) = false ∧
        (l ∉ lanes → t'.lane (vd + j) l = t.lane (vd + j) l) ∧
        ∀ i f : Nat, beats[i]? = some (l / 32) → c.extra[i]? = some f → l ∈ lanes →
          t'.lane (vd + j) l = core.element (1024 * f + 32 * (l % 32) + c0 + j)) ∧
  (c.cmd = .acdrain →
    let p0 := (pw ps 0).toNat
    let bit (n : Nat) : Bool := p0 / 2 ^ n % 2 == 1
    let nt := p0 / 2 ^ 8 % 16 + 1
    let r := recordOf (leNat (((ps.drop 8).map fun w => leBytes 4 w.toNat).flatten))
    let f := fmtOf (c.defs.getD 0 0)
    let tab := p0 / 2 ^ 24 % 4
    let old (m n : Nat) : Lane := core.element (place nt m n)
    let at' (m n : Nat) : Nat := r.position ((pw ps 6).toNat + if bit 26 then n * (pw ps 7).toNat + m else m * (pw ps 7).toNat + n)
    let stored (m n i : Nat) : Nat := Claim.place ((r.addr (at' m n) + i : Nat) : Int)
    let code (y : Word) : Nat := if r.enc = 2 then (r.formatEnc f (ofF32 y) (.fin false 1 0)).code else y.toNat % 2 ^ r.ew
    tiles (p0 / 2 ^ 16 % 32 + 1) nt → c.valid ≤ 32 * (p0 / 2 ^ 16 % 32 + 1) → c.valid < 2 ^ 20 →
    (bit 28 = true → ∀ j, j < 128 * nt → readable (Claim.place ((pd ps 2 + j : Nat) : Int))) →
    ∀ (v : Nat) (res : Nat → Nat → Word), v ≤ c.valid →
      (∀ m n, m < v → n < 32 * nt → (old m n).tag = false ∧
        let x1 := if bit 28 then Claim.rne32 (sumVals false [ofF32 (old m n).data, ofF32 (word (bytes (pd ps 2 + 4 * n) 4))]) else (old m n).data
        let x2 := if bit 29 then core.evalTable tab (c.bank core tab) x1 else x1
        res m n = if bit 30 then Claim.rne32 (sumVals false [mulVals (ofF32 x2) (ofF32 (pw ps 4)), ofF32 (pw ps 5)]) else x2) →
      let class' (p : Val → Bool) : Bool := (List.range v).any fun m => (List.range (32 * nt)).any fun n => p (ofF32 (res m n))
      let flags := (if class' (·.isInf false) then 2 ^ 20 else 0) + (if class' (·.isInf true) then 2 ^ 21 else 0) +
        (if class' Val.isNan then 2 ^ 22 else 0)
      let stop : Prop := v < c.valid ∧ ∃ n, n < 32 * nt ∧ (old v n).tag = true
      let token (w : Word) : Prop := ∃ n, n < 32 * nt ∧ (old v n).tag = true ∧ (∀ i, i < n → (old v i).tag = false) ∧ w = (old v n).data
      let ends (P : State → Prop) (more : Nat) : Prop :=
        (v = c.valid → finishes fun s' t' => P s' ∧ status t' (word (more + flags + v))) ∧
        (stop → finishes fun s' t' => P s' ∧ ∀ w, token w → status t' w ∧ ∃ d ∈ t'.drains, d.reg = c.sd ∧ d.token = w)
      (bit 31 = false → bit 27 = false →
        ends (fun s' => SameMemory s s' ∧ only s' nt (· < min (v + 1) c.valid) ∧
          ∀ m n, m < v → n < 32 * nt → (s'.core o.core).element (place nt m n) = ⟨res m n, false, false⟩) 0) ∧
      (bit 31 = true → r.smode = 0 → r.enc ≠ 3 → r.ew = 8 ∨ r.ew = 16 ∨ r.ew = 32 → v = c.valid →
        (∀ m n, m < v → n < 32 * nt → r.inside (at' m n) = true ∧ ∀ i, i < r.ew / 8 → s.engineKey o .write (stored m n i) = .ok (key (stored m n i))) →
        (∀ m n i m' n' i', m < v → n < 32 * nt → i < r.ew / 8 → m' < v → n' < 32 * nt → i' < r.ew / 8 →
          key (stored m n i) = key (stored m' n' i') → m = m' ∧ n = n' ∧ i = i') →
        finishes fun s' t' => (∀ m n i, m < v → n < 32 * nt → i < r.ew / 8 →
            memByte s' (key (stored m n i)) = BitVec.ofNat 8 (code (res m n) / 256 ^ i)) ∧
          SameBut s s' ((List.range v).flatMap fun m => (List.range (32 * nt)).flatMap fun n => (List.range (r.ew / 8)).map fun i => key (stored m n i)) ∧
          (∀ m n, m < v → n < 32 * nt → (s'.core o.core).element (place nt m n) = if bit 27 then Lane.zero else old m n) ∧
          only s' nt (· < v) ∧ ((r.enc = 0 ∨ r.enc = 1) → status t' (word (flags + v))))) ∧
  (c.cmd = .atload →
    let tab := (pw ps 2).toNat % 4
    let was := sget false core.atabBank tab
    let cell (core : CoreState) (tab : Nat) (bank : Bool) (j : Nat) : Byte := sget 0 core.atab ((2 * tab + if bank then 1 else 0) * 2064 + j)
    (∀ j, j < 2064 → readable (Claim.place ((pd ps 0 + j : Nat) : Int))) →
    finishes fun s' t' => SameMemory s s' ∧ sget false (s'.core o.core).atabBank tab = !was ∧
      sget 0 (s'.core o.core).atabGen tab = sget 0 core.atabGen tab + 1 ∧
      status t' (word ((sget 0 core.atabGen tab + 1).toNat % 2 ^ 24)) ∧
      (∀ j, j < 2064 → cell (s'.core o.core) tab (!was) j = memByte s (key (Claim.place ((pd ps 0 + j : Nat) : Int)))) ∧
      ∀ u bank j, j < 2064 → u ≠ tab ∨ bank = was → cell (s'.core o.core) u bank j = cell core u bank j) ∧
  (∀ (x : CoreState) (tab : Nat) (bank : Bool) (v : Word), Claim.tableValue (x.tableWord tab bank 0) (x.tableWord tab bank 4)
    (fun g => x.tableWord tab bank (16 + 8 * g)) (fun g => x.tableWord tab bank (20 + 8 * g)) (ofF32 v) (x.evalTable tab bank v))

/-- R306, R307, R311 to R313: GMASK on a valid control block not in replay writes the case's bitmap, with EOS where the state accepts, and
counts its tokens. Of GMASK, GADV, SAMPLE, ROUTE and EMIT the parts here say what they do where all they read and write is reached, by one
key an address. R311, R312, R314: GADV takes the transition of its token or refuses it, and writes the step, the token, and the new state,
stack and digest, or at an accepted EOS the end. R315 to R318: SAMPLE chooses the largest legal logit, or by weight in the prefix that is
drawn from, and counts its draw. R319, R320: ROUTE chooses the k largest logits, writes them with their weights and, given a control block,
logs them. R309, R322 to R324: EMIT of a STEP whose sequence admits it sends and keeps one record of the sequence and changes no byte; a
sequence that does not admit it gives SEQERR; at the acknowledgement the control block and the result buffer change, and nothing else. -/
def Obligations.GenerationEffects : Prop :=
  (∀ (s : State) (o : Op) (t : Team) (c : CommandOp) (key : Nat → Nat) (img : Image) (acc : Bool)
      (case' : Option Case),
    let scb := pd c.params 0
    let dst := pd c.params 2
    let n := 4 * ((img.vocab + 31) / 32)
    let listed (x : Nat) : Bool := case'.any fun k => decide (Claim.numAt s key (img.base + k.maskoff + x / 8) 1 / 2 ^ (x % 8) % 2 = 1)
    let legal (x : Nat) : Bool := listed x || (acc && decide (Claim.numAt s key (scb + 0x34) 2 = 0 ∧ x = img.eos))
    let count := ((List.range img.vocab).filter legal).length
    Claim.unitRuns s o t c key → c.cmd = .gmask → c.sdCount = 1 → Claim.controlBlock s o key scb →
    s.readImage o (Claim.numAt s key (scb + 8) 8) = .ok img →
    s.readCase o img (Claim.numAt s key (scb + 0x30) 4) ((Claim.stackAt s key scb).getLast?.getD 0) = .ok (acc, case') →
    (∀ k, case' = some k → k.maskoff + n ≤ img.len ∧ Claim.reaches s o key .read [2] (img.base + k.maskoff) n) →
    Claim.reaches s o key .write [0, 1] dst n →
    Claim.ended s o c (.grammarUnitCompletion o.id) (if count = 0 then 0x41 else 0) count fun s' _ => SameBut s s' (Claim.keysAt key [(dst, n)]) ∧
      ∀ x, x < 8 * n → (Claim.numAt s' key (dst + x / 8) 1 / 2 ^ (x % 8) % 2 = 1 ↔ x < img.vocab ∧ legal x = true)) ∧
  (∀ (s : State) (o : Op) (t : Team) (c : CommandOp) (key : Nat → Nat) (img : Image) (acc : Bool)
      (case' : Option Case) (ts : List Trans),
    let scb := pd c.params 0
    let at' (s : State) (off n : Nat) : Nat := Claim.numAt s key (scb + off) n
    let flags := at' s 0x44 4
    let tok := (pw c.params 2).toNat
    let depth := at' s 0x34 2
    let step := (at' s 0x38 4 + 1) % 2 ^ 32
    let stack := Claim.stackAt s key scb
    let refuses (st : Nat) : Prop := Claim.ended s o c (.grammarUnitCompletion o.id) st 0 fun s' _ => SameMemory s s'
    let ending : Prop := tok = img.eos ∧ acc = true ∧ depth = 0
    Claim.unitRuns s o t c key → c.cmd = .gadv → c.sdCount = 1 → Claim.controlBlock s o key scb →
    (flags / 4 % 2 = 1 → refuses 0x47) ∧
    (flags / 4 % 2 = 0 → s.readImage o (at' s 8 8) = .ok img →
      (img.vocab ≤ tok → refuses 0x42) ∧
      (tok < img.vocab → s.readCase o img (at' s 0x30 4) (stack.getLast?.getD 0) = .ok (acc, case') →
        (∀ k, case' = some k → s.readTrans o img k = .ok ts) → (case' = none → ts = []) →
        (ending → Claim.ended s o c (.grammarUnitCompletion o.id) 0x45 step fun s' _ =>
          at' s' 0x38 4 = step ∧ at' s' 0x40 4 = tok ∧ at' s' 0x44 4 = flags + 4 ∧
            SameBut s s' (Claim.keysAt key [(scb + 0x38, 4), (scb + 0x40, 4), (scb + 0x44, 4)])) ∧
        (¬ ending → (∀ x ∈ ts, x.token ≠ tok) → refuses 0x42) ∧
        ∀ x : Trans, ¬ ending → ts.find? (fun y => y.token == tok) = some x → x.next < img.nstates →
          let bad : Prop := depth < x.pop ∨ 1024 < depth - x.pop + x.push.length ∨ 0 ∈ x.push ∨ 0xFFFF ∈ x.push
          let after := stack.take (depth - x.pop) ++ x.push
          (bad → refuses 0x46) ∧
          (¬ bad → Claim.ended s o c (.grammarUnitCompletion o.id) 0 step fun s' _ =>
            at' s' 0x38 4 = step ∧ at' s' 0x40 4 = tok ∧ at' s' 0x30 4 = x.next ∧ at' s' 0x34 2 = after.length ∧
              Claim.stackAt s' key scb = after ∧ at' s' 0x48 8 = grammarDigest x.next after ∧
              SameBut s s' (Claim.keysAt key [(scb + 0x38, 4), (scb + 0x40, 4), (scb + 0x30, 6), (scb + 0x48, 8),
                (scb + 128 + 2 * (depth - x.pop), 2 * x.push.length)]))))) ∧
  (∀ (s : State) (o : Op) (t : Team) (c : CommandOp) (key : Nat → Nat) (order : List Nat) (p : Nat),
    let ps := c.params
    let scb := pd ps 0
    let at' (off n : Nat) : Nat := Claim.numAt s key (scb + off) n
    let mode := (pw ps 6).toNat / 2 ^ 30
    let n := (pw ps 6).toNat % 2 ^ 21
    let nomask : Bool := (pw ps 6).toNat / 2 ^ 29 % 2 == 1
    let legal : List Nat := (List.range n).filter fun x => nomask || decide (Claim.numAt s key (pd ps 4 + x / 8) 1 / 2 ^ (x % 8) % 2 = 1)
    let raw (x : Nat) : Word := word (Claim.numAt s key (pd ps 2 + 4 * x) 4)
    let val (x : Nat) : Val := logit (raw x)
    let nan : Nat := if legal.any fun x => (ofF32 (raw x)).isNan then 1 else 0
    let good : Prop := ∃ m e, ofF32 (word (at' 0x28 4)) = .fin false m e ∧ 0 < m
    let ctr := at' 0x20 8
    let draw := philox (dbl (at' 0x18 8)) (ctr % 2 ^ 32) (ctr / 2 ^ 32) (at' 0 8 % 2 ^ 32) (at' 0 8 / 2 ^ 32)
    let u : Nat := if mode = 0 then draw.getD 1 0 * 2 ^ 32 + draw.getD 0 0 else pd ps 8
    let counted (s' : State) : Prop := (mode = 0 → Claim.numAt s' key (scb + 0x20) 8 = (ctr + 1) % 2 ^ 64 ∧
      SameBut s s' (Claim.keysAt key [(scb + 0x20, 8)])) ∧ (mode ≠ 0 → SameMemory s s')
    let ends (st info : Nat) (P : State → Prop) (Q : Word → Prop) : Prop :=
      Claim.ended s o c (.generationUnitCompletion o.id) st info fun s' t' => P s' ∧ (0 < c.sd → c.sd + 2 ≤ 192 → Q (t'.rs (c.sd + 1)))
    let largest (w : Word) : Prop := ∃ k ∈ legal, w = word k ∧ ∀ x ∈ legal, ¬ Claim.below (val k) (val x) ∧ (x < k → Claim.below (val x) (val k))
    Claim.unitRuns s o t c key → c.cmd = .sample → c.sdCount = 2 → Claim.controlBlock s o key scb → mode < 3 → 1 ≤ n → n ≤ 2 ^ 20 →
    (nomask = false → Claim.reaches s o key .read anyPath (pd ps 4) (4 * ((n + 31) / 32))) →
    (∀ x ∈ legal, Claim.reaches s o key .read anyPath (pd ps 2 + 4 * x) 4) →
    (mode ≠ 1 → ¬ good → ends 0x48 0 (SameMemory s) fun _ => True) ∧
    (mode = 1 ∨ good → legal = [] → ends 0x43 0 (SameMemory s) fun w => w = 0xFFFFFFFF) ∧
    (mode = 1 → legal ≠ [] → ends 0 nan (SameMemory s) largest) ∧
    (mode ≠ 1 → good → legal ≠ [] → ∃ m, (∃ x ∈ legal, val x = m) ∧ (∀ x ∈ legal, ¬ Claim.below m (val x)) ∧
      let W (x : Nat) : Nat := sampleWeight (word (at' 0x28 4)) m (val x)
      let sum (xs : List Nat) : Nat := (xs.map W).sum
      let k1 : List Nat := if at' 0x2C 2 ≠ 0 ∧ at' 0x2C 2 < legal.length then order.take (at' 0x2C 2) else order
      let k2 : List Nat := if at' 0x2E 2 ≠ 0 then k1.take p else k1
      (order.Perm legal → order.Pairwise (fun a b => W b < W a ∨ (W a = W b ∧ a < b)) →
        (at' 0x2E 2 ≠ 0 → p ≤ k1.length ∧ at' 0x2E 2 * sum k1 ≤ 65536 * sum k2 ∧ ∀ q, q < p → 65536 * sum (k1.take q) < at' 0x2E 2 * sum k1) →
        (sum k2 = 0 → ends 0 (nan + 2) counted largest) ∧
        (0 < sum k2 → ends 0 nan counted fun w => ∃ k ∈ k2, w = word k ∧ sum (k2.filter fun x => decide (x < k)) ≤ u * sum k2 / 2 ^ 64 ∧
          u * sum k2 / 2 ^ 64 < sum (k2.filter fun x => decide (x ≤ k)))))) ∧
  (∀ (s : State) (o : Op) (t : Team) (c : CommandOp) (key : Nat → Nat),
    let ps := c.params
    let num (s : State) (a n : Nat) : Nat := Claim.numAt s key a n
    let k := (pw ps 4).toNat / 2 ^ 16 % 16 + 1
    let n := (pw ps 4).toNat % 2 ^ 11 + 1
    let val (e : Nat) : Val := logit (word (num s (pd ps 0 + 4 * e) 4))
    let before (a b : Nat) : Prop := Claim.below (val b) (val a) ∨ (¬ Claim.below (val a) (val b) ∧ a < b)
    let scb := pd ps 6
    let count := num s (scb + 0x68) 2
    let logged := num s (scb + 0x60) 8 + 36 * count
    let written : List (Nat × Nat) := (pd ps 2, 8 * k) :: if scb = 0 then [] else [(scb + 0x68, 2), (logged, 36)]
    Claim.unitRuns s o t c key → c.cmd = .route → c.sdCount = 1 → k ≤ n →
    (∀ e, e < n → Claim.reaches s o key .read anyPath (pd ps 0 + 4 * e) 4) → Claim.reaches s o key .write anyPath (pd ps 2) (8 * k) →
    (scb ≠ 0 → Claim.controlBlock s o key scb ∧ Claim.reaches s o key .write anyPath logged 36) → (Claim.keysAt key written).Nodup →
    (scb ≠ 0 → count = 64 → Claim.ended s o c (.generationUnitCompletion o.id) 0x47 0 fun s' _ => SameMemory s s') ∧
    (scb = 0 ∨ count < 64 → Claim.ended s o c (.generationUnitCompletion o.id) 0 k fun s' _ => ∃ ch : List Nat,
      ch.length = k ∧ (∀ e ∈ ch, e < n) ∧ ch.Pairwise before ∧ (∀ e, e < n → e ∉ ch → ∀ x ∈ ch, before x e) ∧
      (∀ i, i < k → num s' (pd ps 2 + 8 * i) 4 = ch.getD i 0 ∧ word (num s' (pd ps 2 + 8 * i + 4) 4) = (routeWeights (ch.map val)).getD i 0) ∧
      (scb ≠ 0 → num s' (scb + 0x68) 2 = count + 1 ∧ num s' logged 2 = (pw ps 5).toNat % 2 ^ 16 ∧ num s' (logged + 2) 1 = k ∧
        num s' (logged + 3) 1 = 0 ∧ ∀ i, i < 16 → num s' (logged + 4 + 2 * i) 2 = ch.getD i 0) ∧
      SameBut s s' (Claim.keysAt key written))) ∧
  (∀ (s : State) (o : Op) (t : Team) (c : CommandOp) (key : Nat → Nat),
    let ps := c.params
    let scb := pd ps 0
    let num (s : State) (a n : Nat) : Nat := Claim.numAt s key a n
    let kind := (pw ps 2).toNat % 4
    let reason := (pw ps 2).toNat / 2 ^ 8 % 2 ^ 8
    let flags := num s (scb + 0x44) 4
    let rbuf := num s (scb + 0x10) 8
    let step := num s (scb + 0x38) 4
    let cell := rbuf + 8 + 4 * (step - 1)
    let admits : Prop := (kind = 0 → flags % 2 = 0) ∧ (kind ≠ 0 → flags % 4 = 1) ∧ (kind = 1 → step = (num s (scb + 0x3C) 4 + 1) % 2 ^ 32)
    let partner := s.journal.partner.getD 0
    Live s o t → Calm s → Ordinary s o.gid → o.kind = .command c → c.cancel = [] → s.marks = [] → Function.Injective key → c.cmd = .emit →
    c.sdCount = 1 → Claim.controlBlock s o key scb → kind < 3 → partner < 2 ^ 11 → rbuf + 2 ^ 35 < 2 ^ 64 →
    (∀ a b, a < 2 ^ 35 → b < 2176 → rbuf + a ≠ scb + b) → (kind = 0 → Claim.reaches s o key .write [2, 3] rbuf 8) →
    (kind = 1 → Claim.reaches s o key .write [2, 3] cell 4 ∧ Claim.reaches s o key .write [2, 3] rbuf 4) →
    (kind = 2 → Claim.reaches s o key .write [2, 3] (rbuf + 4) 4) →
    (c.started = false → c.released = true → c.need = 0 → s.canStart o c = true → (∀ l ∈ s.locks, l.2.1 = o.id) →
      (¬ admits → Claim.ended s o c (.engineCommandStart o.id) 0x47 0 fun s' _ => SameMemory s s') ∧
      (admits → kind = 1 → 0 < step → s.journal.reach = true → Claim.reaches s o key .read anyPath (num s (scb + 0x60) 8) (36 * num s (scb + 0x68) 2) →
        ∃ (s' : State) (r : JRecord), exec (.engineCommandStart o.id) s = .next s' ∧ SameMemory s s' ∧ s'.journal.held = s.journal.held ++ [r] ∧
          s'.journal.sends = s.journal.sends ++ [⟨some o.id, true, decide (flags / 16 % 2 = 1), r⟩] ∧ r.kind = .step ∧
          r.srcdev = s.fabric.devid ∧ r.seqid.toNat = num s scb 8 ∧ r.step.toNat = step ∧ r.token.toNat = num s (scb + 0x40) 4 ∧
          r.ctr.toNat = num s (scb + 0x20) 8 ∧ r.digest.toNat = num s (scb + 0x48) 8 ∧ r.routes.length = num s (scb + 0x68) 2)) ∧
    (∀ x, c.started = true → s.journal.sends = [x] → x.op = some o.id → x.sent = true → s.journal.link = 0 → s.journalCarries = true → admits →
      (kind = 0 → Claim.ended s o c (.journalAckReceived o.id) 0 0 fun s' _ => num s' (scb + 0x44) 4 = flags + 1 ∧
        num s' (scb + 0x3C) 4 = 0 ∧ num s' (scb + 0x36) 2 = partner ∧ num s' rbuf 8 = 0 ∧
        SameBut s s' (Claim.keysAt key [(scb + 0x44, 4), (scb + 0x3C, 4), (scb + 0x36, 2), (rbuf, 8)])) ∧
      (kind = 1 → 0 < step → Claim.ended s o c (.journalAckReceived o.id) 0 step fun s' _ => num s' (scb + 0x3C) 4 = step ∧
        num s' (scb + 0x68) 2 = 0 ∧ num s' cell 4 = num s (scb + 0x40) 4 ∧ num s' rbuf 4 = step ∧
        SameBut s s' (Claim.keysAt key [(scb + 0x3C, 4), (scb + 0x68, 2), (cell, 4), (rbuf, 4)])) ∧
      (kind = 2 → Claim.ended s o c (.journalAckReceived o.id) 0 (num s (scb + 0x3C) 4) fun s' _ => num s' (scb + 0x44) 4 = flags + 2 ∧
        num s' (rbuf + 4) 4 = 1 + 2 ^ 8 * reason ∧ SameBut s s' (Claim.keysAt key [(scb + 0x44, 4), (rbuf + 4, 4)]))))

/-! ## Answers, power, special registers -/

/-- R201, R345, R347, R376, R400: RSIG goes on with one signal to its device and address, or takes MISALIGNED or PROTECTION with that
address, naming every lane; PEERQ, CLKRD and PWREQ leave their registers empty with one question outstanding; PWREQ of more than the die
can ever give answers at once; PWREL gives units back; TASKQ of a record that passes its checks issues with its valid count and the
record's words. R256, R373, R374: TASKQ's record, read at execution with the team's own stores (log entry 33). RSIG tests alignment before
its own DEVID (log entry 24). -/
def Obligations.RequestIssue : Prop := ∀ (s : State) (slot : Nat) (t : Team) (sd sa sb sg : SReg) (sel : BitVec 8) (gen : Bool),
  let v := (t.rd64 sa.toNat).toNat
  let asks (i : Instr) (q : Question) (n : Nat) : Prop := ∃ s' t' o, exec i s = .next s' ∧ WentOn s s' slot t t' ∧ Issued s s' slot t o ∧
    o.kind = .ask q ∧ ∀ j, j < n → sd.toNat + j ≠ 0 → t'.sEmpty (sd.toNat + j) = true
  let traps (i : Instr) (cause : Word) : Prop := ∃ s' t', exec i s = .next s' ∧ Trapped s' slot t t' cause (dbl v) ∧
    t'.report.flw = List.replicate t.beats 0xFFFFFFFF ∧ s'.ops = s.ops
  let a := (t.rs sa.toNat).toNat
  let b := (t.rs sb.toNat).toNat
  (let i : Instr := if gen then .rsigGen sg sa sb else .rsig sa sb
   Runs s slot t i →
   (v % 8 = 0 → v / 2 ^ 53 ≠ s.fabric.devid → Room s t → ∃ s' t', exec i s = .next s' ∧ WentOn s s' slot t t' ∧
     ∃ o ∈ s'.ops, o.id = s.nextId ∧ o.slot = slot ∧
       o.kind = .signal (.remote (v / 2 ^ 53) (v % 2 ^ 53) (if gen then some (t.rs sg.toNat) else none) (t.rs sb.toNat))) ∧
   (v % 8 ≠ 0 → traps i 0x07) ∧ (v % 8 = 0 → v / 2 ^ 53 = s.fabric.devid → traps i 0x02)) ∧
  (Runs s slot t (.peerq sd sa sb) →
    ((b ≤ 10 ∧ a < 2 ^ 11) ∨ (b = 11 ∧ a ≤ 35) → asks (.peerq sd sa sb) (.peer sd.toNat (t.rs sa.toNat) (t.rs sb.toNat)) 1) ∧
    (¬ ((b ≤ 10 ∧ a < 2 ^ 11) ∨ (b = 11 ∧ a ≤ 35)) → exec (.peerq sd sa sb) s = .next (s.illegal slot))) ∧
  (Runs s slot t (.clkrd sd sel) → asks (.clkrd sd sel) (.clock sd.toNat sel.toNat (sget 0 (s.core t.core).cycles t.quad)) 2) ∧
  (Runs s slot t (.pwreq sd sa) →
    let room := s.dcap (dieOf t.core) - s.floorUnits (dieOf t.core)
    (room < t.power + a → exec (.pwreq sd sa) s = .next (s.setTeam slot (t.ws sd.toNat (word (0x70 * 2 ^ 24 + t.power % 2 ^ 24))).advance)) ∧
    (t.power + a ≤ room → a = 0 → exec (.pwreq sd sa) s = .next (s.setTeam slot (t.ws sd.toNat (word (t.power % 2 ^ 24))).advance)) ∧
    (t.power + a ≤ room → a ≠ 0 → asks (.pwreq sd sa) (.power sd.toNat a) 1)) ∧
  (Runs s slot t (.pwrel sa) → ∃ s' t', exec (.pwrel sa) s = .next s' ∧ s'.team? slot = some t' ∧ t'.pc = t.advance.pc ∧ t'.regs = t.regs ∧
    t'.power = (if a = 0 then 0 else t.power - a) ∧
    (s'.die (dieOf t.core)).aboveHeld = (s.die (dieOf t.core)).aboveHeld - (t.power - t'.power) ∧ SameMemory s s') ∧
  (∀ bs r, Runs s slot t (.taskq sd sa sb) → Room s t → RecordReady s slot t → s.lockUse (s.partOf t) ≤ Config.lockEntries →
    readLaunchRec s.board.emulMin (s.objectSize (s.partOf t)) (fun x n => (s.cpKeys (s.partOf t) .read x n).map fun ks =>
      ks.map fun k => s.loadByte slot t.group t.core s.nextId false k) (s.pathAt (s.partOf t)) v = .ok (bs, r) →
    let first := (t.rs (sa.toNat + 2)).toNat
    (first < r.groups → r.coop = false → ∃ s' t' c, exec (.taskq sd sa sb) s = .next s' ∧ WentOn s s' slot t t' ∧
      (sd ≠ 0 → t'.sEmpty sd.toNat = true) ∧ (∃ o ∈ s'.ops, o.id = s.nextId ∧ o.slot = slot ∧ o.kind = .command c) ∧ c.cmd = .taskq ∧
      c.valid = (if sb = 0 then r.groups - first else min b (r.groups - first)) ∧ c.params = t.params sa ++ bytesWords bs) ∧
    (r.groups ≤ first ∨ r.coop = true → exec (.taskq sd sa sb) s = .next (s.illegal slot)))

/-- R271, R347, R376, R399, R400: an answer fills its register and the question is gone: a router's word, both halves of a cycle count or
of a reference time that does not step back, a grant that raises the team's reservation and the die's units, a timeout with status 0x71.
XCANCEL ends the commands of its status register that have not started, and answers their number. A command that asks for its permit takes
it from its team's own reservation where that covers it, and else joins the asks of its die; the first ask of a die that is not hot is
served from the floor where that covers it, else from above it. -/
def Obligations.Answers : Prop := ∀ (s : State) (o : Op) (t : Team) (sd : Nat),
  let filled (e : Instr) (ws : List Word) (s' : State) (t' : Team) : Prop := exec e s = .next s' ∧ s'.team? o.slot = some t' ∧
    s'.op? o.id = none ∧ t'.pc = t.pc ∧ SameMemory s s' ∧ ∀ j w, ws[j]? = some w → t'.sEmpty (sd + j) = false ∧ t'.rs (sd + j) = w
  (Live s o t → 0 < sd → sd + 1 < 192 →
    (∀ a b, o.kind = .ask (.peer sd a b) → ∃ s' t', filled (.routerAnswer o.id) [s.routerWord o.part a.toNat b.toNat] s' t') ∧
    (∀ n, o.kind = .ask (.clock sd 0 n) → ∃ s' t', filled (.clkrdAnswer o.id) [n.extractLsb' 0 32, n.extractLsb' 32 32] s' t') ∧
    (∀ sel n, o.kind = .ask (.clock sd sel n) → sel ≠ 0 → ∃ s' t', 
      let now := (s'.die (dieOf o.core)).refTime
      filled (.clkrdAnswer o.id) [now.extractLsb' 0 32, now.extractLsb' 32 32] s' t' ∧
        (s.die (dieOf o.core)).refTime.toNat ≤ now.toNat) ∧
    (∀ n, o.kind = .ask (.power sd n) → (s.powerQueue (dieOf o.core)).head?.map (·.id) = some o.id → (s.die (dieOf o.core)).hot = false →
      s.askHolds (dieOf o.core) = false → n ≤ s.aboveFree (dieOf o.core) → ∃ s' t',
      filled (.pwreqGrant o.id) [word ((t.power + n) % 2 ^ 24)] s' t' ∧ t'.power = t.power + n ∧
        (s'.die (dieOf o.core)).aboveHeld = (s.die (dieOf o.core)).aboveHeld + n) ∧
    (∀ n, o.kind = .ask (.power sd n) → (s.powerQueue (dieOf o.core)).head?.map (·.id) = some o.id →
      ∃ s' t', filled (.pwreqTimeout o.id) [word (0x71 * 2 ^ 24 + t.power % 2 ^ 24)] s' t' ∧ t'.power = t.power)) ∧
  (∀ c, o.kind = .command c →
    let d := dieOf o.core
    let permitted (s' : State) (f : PermitFrom) : Prop := s'.op? o.id = some { o with kind := .command { c with permit := some f } }
    (Live s o t → s.asksPermit o = true → c.need ≤ t.power → ∃ s' t', exec (.engineCommandStart o.id) s = .next s' ∧
      s'.team? o.slot = some t' ∧ t'.power = t.power - c.need ∧ permitted s' .team ∧ s'.dies = s.dies) ∧
    (Live s o t → s.asksPermit o = true → t.power < c.need → ∃ s', exec (.engineCommandStart o.id) s = .next s' ∧
      s'.ops = s.ops ∧ o.id ∈ (s'.die d).asks) ∧
    (s.op? o.id = some o → (s.firstAsk d).map (·.id) = some o.id → (s.die d).hot = false →
      (c.need ≤ s.floorFree d → ∃ s', exec (.powerPermitGrant o.id) s = .next s' ∧ permitted s' .floor ∧ o.id ∉ (s'.die d).asks ∧
        (s'.die d).floorHeld = (s.die d).floorHeld + c.need) ∧
      (s.floorFree d < c.need → c.need ≤ s.aboveFree d → ∃ s', exec (.powerPermitGrant o.id) s = .next s' ∧ permitted s' .above ∧
        o.id ∉ (s'.die d).asks ∧ (s'.die d).aboveHeld = (s.die d).aboveHeld + c.need) ∧
      (s.floorFree d < c.need → s.aboveFree d < c.need → exec (.powerPermitGrant o.id) s = .next s))) ∧
  (∀ slot (rd st : SReg), Runs s slot t (.xcancel rd st) → Room s t → s.queueFull (sameCopyEngine t.core false) 64 = false →
    ((∀ p ∈ s.ops, p.command? = none) → ∃ s' t', exec (.xcancel rd st) s = .next s' ∧ s'.team? slot = some t' ∧ t'.pc = t.advance.pc ∧
      t'.rs rd.toNat = 0 ∧ SameScalars t t' [rd.toNat] ∧ SameMemory s s') ∧
    (∀ c, s.ops = [o] → o.slot = slot → o.gid = t.group → o.orphan = false → o.kind = .command c → c.cmd.copies = true → c.sd = st.toNat →
      c.started = false → c.cancel = [] → c.permit = none → rd.toNat ≠ c.sd → ∃ s' t', exec (.xcancel rd st) s = .next s' ∧ s'.team? slot = some t' ∧ t'.pc = t.advance.pc ∧
      s'.op? o.id = none ∧ (0 < rd.toNat → rd.toNat < 192 → t'.rs rd.toNat = 1) ∧
      (0 < c.sd → c.sd < 192 → t'.rs c.sd = word (0x40 * 2 ^ 24))))

/-- R37, R232, R361, R375: SRD reads each special register; SWR writes AKIND and the halves of BRTAB, and takes ILLEGAL for a value that
the register does not take and for a register that cannot be written. -/
def Obligations.SpecialRegisters : Prop := ∀ (s : State) (slot : Nat) (t : Team) (sd sa : SReg) (num : BitVec 16),
  let reads (v : Word) : Prop := exec (.srd sd num) s = .next (s.setTeam slot (t.ws sd.toNat v).advance)
  let v := t.rs sa.toNat
  let ring : Dbl := t.frBase + dbl t.frLog2
  (Runs s slot t (.srd sd num) →
    (num = 0 → reads (word t.tidx)) ∧ (∀ g, s.group? t.group = some g → num = 1 → reads (word g.index)) ∧ (num = 2 → reads (word t.beats)) ∧
    (num = 3 → reads (word t.nvregs)) ∧ (num = 4 → reads (word t.role)) ∧ (num = 5 → reads (word (s.partOf t))) ∧
    (num = 6 → reads (word s.fabric.devid)) ∧ (num = 7 → reads ((sget 0 (s.core t.core).cycles t.quad).extractLsb' 0 32)) ∧
    (num = 8 → reads (t.akind.zeroExtend 32)) ∧ (num = 9 → reads (word (t.core + 256 * t.quad))) ∧
    (∀ n, n < 8 → num = BitVec.ofNat 16 (0x10 + n) → reads (t.lvidx.getD n 0)) ∧
    (∀ n, n < 8 → num = BitVec.ofNat 16 (0x18 + n) → reads (t.lvext.getD n 0)) ∧
    (∀ g, s.group? t.group = some g → (s.part g.part).det = true →
      (num = 0x20 → reads (g.ply.extractLsb' 0 32)) ∧ (num = 0x21 → reads (g.ply.extractLsb' 32 32))) ∧
    (∀ g, s.group? t.group = some g → (s.part g.part).det = false → num = 0x20 ∨ num = 0x21 → reads 0) ∧
    (num = 0x22 → reads (t.brtab.extractLsb' 0 32)) ∧ (num = 0x23 → reads (t.brtab.extractLsb' 32 32)) ∧
    (num = 0x24 → reads (ring.extractLsb' 0 32)) ∧ (num = 0x25 → reads (ring.extractLsb' 32 32))) ∧
  (Runs s slot t (.swr sa num) →
    (num = 8 → v.toNat ≤ 2 → exec (.swr sa num) s = .next (s.setTeam slot { t with akind := v.extractLsb' 0 2 }.advance)) ∧
    (num = 0x22 → v.toNat % 2 ^ 13 ≤ 4096 → exec (.swr sa num) s =
      .next (s.setTeam slot { t with brtab := t.brtab.extractLsb' 32 32 ++ v }.advance)) ∧
    (num = 0x23 → exec (.swr sa num) s = .next (s.setTeam slot { t with brtab := v ++ t.brtab.extractLsb' 0 32 }.advance)) ∧
    ((num = 8 ∧ 2 < v.toNat) ∨ (num = 0x22 ∧ 4096 < v.toNat % 2 ^ 13) ∨ (num ≠ 8 ∧ num ≠ 0x22 ∧ num ≠ 0x23) →
      exec (.swr sa num) s = .next (s.illegal slot)))

/-! ## Traps -/

/-- R55, R378, R379, R390: TRAP of a team with nothing outstanding takes its trap with its code and the exec window; PMASK and PUNMASK
count, and take ILLEGAL at their ends; an illegal word takes ILLEGAL and a reserved one EMULATE. R73 to R75, R390: a binding whose team is
gone is completed by Beloft. An entry that is bound or failed stays; of another STATE becomes FAILED where no code is placed, or the entry
is of no placed object, and BOUND, after ENTRY, with the code at its address; WAITERS becomes 0 and SEM grows by what it held. Binding in
one step, FAILED with no code or no placed object, is log entry 41; that a reserved word names every lane log entry 37. R378, R379: taking
a trap leaves the PC at its instruction, writes the report, stops the team and appends it to the trap queue of its die; R380: the return
makes it run at the PC given, or at its own, and is an acquire. -/
def Obligations.TrapInstructions : Prop :=
  (∀ (s : State) (slot : Nat) (t : Team) (code : BitVec 16),
    (Runs s slot t (.trap code) → Quiet s slot t → ∃ s' t', exec (.trap code) s = .next s' ∧ Trapped s' slot t t' 0x13 0 ∧
      t'.report.tcode = code.zeroExtend 32 ∧ t'.report.flw = t.execWindow ∧ SameMemory s s') ∧
    (Runs s slot t .pmask → t.pmcount < 255 → exec .pmask s = .next (s.setTeam slot { t with pmcount := t.pmcount + 1 }.advance)) ∧
    (Runs s slot t .pmask → t.pmcount = 255 → exec .pmask s = .next (s.illegal slot)) ∧
    (Runs s slot t .punmask → 0 < t.pmcount → (∀ g, s.group? t.group = some g → g.request = none) →
      exec .punmask s = .next (s.setTeam slot { t with pmcount := t.pmcount - 1 }.advance)) ∧
    (Runs s slot t .punmask → t.pmcount = 0 → exec .punmask s = .next (s.illegal slot)) ∧
    (s.cur = some slot → s.team? slot = some t → t.canIssue = true →
      (∃ s' t', exec .illegalOpcode s = .next s' ∧ Trapped s' slot t t' 0x10 0 ∧ t'.report.flw = List.replicate t.beats 0xFFFFFFFF) ∧
      (∃ s' t', exec .reservedOpcodePark s = .next s' ∧ Trapped s' slot t t' 0x15 0 ∧ t'.report.flw = List.replicate t.beats 0xFFFFFFFF))) ∧
  (∀ (s : State) (die part k : Nat) (e : Dbl) (rest : List (Nat × Dbl)) (place : Option LazyPlace),
    let i : Instr := .trapQueueTake ⟨die, place⟩
    let bound (s' : State) (state : Word) : Prop := exec i s = .next s' ∧ (s'.die die).binds = rest ∧ s'.wordAt k = state ∧ s'.wordAt (k + 4) = 0 ∧
      (s'.wordAt (k + 8)).toNat = min ((s.wordAt (k + 8)).toNat + (s.wordAt (k + 4)).toNat) 0xFFFFFFFF
    (s.die die).trapQueue = [] → (s.die die).binds = (part, e) :: rest → s.functionUp (12 + die) = true → s.semWaiters = [] →
    s.cpKeys part .write e.toNat 32 = .ok ((List.range 32).map (k + ·)) →
    (2 ≤ (s.wordAt k).toNat → ∃ s', exec i s = .next s' ∧ (s'.die die).binds = rest ∧ SameMemory s s') ∧
    ((s.wordAt k).toNat < 2 →
      (place = none ∨ s.lazyEntry part e = false → ∃ s', bound s' 3 ∧ SameBut s s' ((List.range 12).map (k + ·))) ∧
      (∀ (p : LazyPlace) (ks : List Nat), place = some p → s.lazyEntry part e = true → p.code ≠ [] → p.entry % 4 = 0 →
        s.cpKeys part .fetch p.entry p.code.length = .ok ks → ks.Nodup → (∀ x ∈ ks, x < k ∨ k + 32 ≤ x) → ∃ s', bound s' 2 ∧
          s'.mem.nat (k + 16) 8 = p.entry % 2 ^ 64 ∧ (∀ (n x : Nat) (b : Byte), ks[n]? = some x → p.code[n]? = some b → memByte s' x = b) ∧
          SameBut s s' (ks ++ (List.range 24).map (k + ·))))) ∧
  (∀ (s : State) (slot : Nat) (t : Team) (r : Report) (pc : Option Dbl), s.team? slot = some t →
    (∃ t', (s.trap slot r).team? slot = some t' ∧ t'.status = .trapped ∧ t'.pc = t.pc ∧ t'.regs = t.regs ∧ t'.ctl = t.ctl ∧ t'.fmt = t.fmt ∧
      t'.report.cause.toNat = r.cause % 256 + (if r.deferred then 256 else 0) + (if r.earlier then 512 else 0) ∧ t'.report.vaddr = r.vaddr ∧
      t'.report.recpc = r.recpc ∧ t'.report.token = r.token ∧ t'.report.tcode = r.tcode ∧ t'.report.flw = r.flw ∧ t'.canIssue = false ∧
      ((s.trap slot r).die (dieOf t.core)).trapQueue = (s.die (dieOf t.core)).trapQueue ++ [slot] ∧ SameMemory s (s.trap slot r)) ∧
    (∃ t', (s.resume slot pc).team? slot = some t' ∧ t'.status = .running ∧ t'.pc = pc.getD t.pc ∧ t'.regs = t.regs ∧ t'.ctl = t.ctl ∧
      ((s.resume slot pc).core t.core).copies = [] ∧ ((s.resume slot pc).core t.core).recCache = [] ∧ SameMemory s (s.resume slot pc)))

/-- R34, R55, R56, R138, R380 to R383, R390, R397, R406: a ready management core takes the oldest entry of its trap queue. A fatal cause is
reported, and kills the group or, with debug enabled, leaves the team to the host; a precise NOT_PRESENT starts the page's service; a host
code and BRK are reported; 0x0100 binds, 0x0101 to 0x0FFF are fatal; a word that a routine emulates runs it, another is fatal. RESUME makes
a stopped team run at the word given, or behind its instruction where nothing moved a TRAP or BRK, once its page is there, its locks are
released, the host decides; a routine commits as one step or fails. DETACH leaves the team awaiting service; KILL ends every team of its
group. A team's window lies at its place: a read gives its state, a write changes the stopped team, and of a running one only the count of
ignored writes. The model's readings: a reserved word without a routine becomes ILLEGAL (log entry 37), PC + 4 after the host's resume
(38), the reports of 0x0102 to 0x0FFF (39), CTRL and the window (40, 72), one-step binding and page service (41), a routine's commit (94).
R388: a completed page service of a die makes every team of the partition on that die that awaits the page run at its PC, and the service
is over; a team on another die, which its own die serves, waits on, and so do the services of the other dies; a refused one is reported and
kills the groups of the die's teams that wait for the page, detached or in their handlers. -/
def Obligations.HandlerEvents : Prop :=
  (∀ (s : State) (slot : Nat) (t : Team) (g : Group) (pc : Option Dbl) (value : Dbl) (die n r : Nat)
      (rest : List Nat) (bind : Option LazyPlace) (w : Word),
    let part := s.partOf t
    let gone (s' : State) : Prop := (∀ m u, s'.team? m = some u → u.group ≠ t.group) ∧
      ((∀ o ∈ s.ops, o.gid ≠ t.group) → s'.group? t.group = none)
    let takes (also : State → Team → Prop) : Prop := ∃ s' t', exec (.trapQueueTake ⟨die, bind⟩) s = .next s' ∧ s'.team? slot = some t' ∧
      t'.pc = t.pc ∧ t'.regs = t.regs ∧ (s'.die die).trapQueue = rest ∧ also s' t'
    let routineOf (r : Nat) (w : Word) (m : Half) : RoutineCommit := ⟨[], [(r, w)], [], m, [], [], [], 0, 0, none⟩
    let place (off : Nat) : Nat := (s.die die).tsw.toNat + 2 ^ 20 * n + off
    s.team? slot = some t → s.group? t.group = some g → g.request = none → g.leaving = false →
    ((s.die die).trapQueue = slot :: rest → s.functionUp (12 + die) = true → t.status = .trapped →
      (t.report.cause = 0x10 → (s.part part).debug = false → ∃ s', exec (.trapQueueTake ⟨die, bind⟩) s = .next s' ∧ gone s' ∧
        HostEvent.trapReport slot 0x10 t.pc ∈ s'.hostLog ∧ HostEvent.killed g.part t.group ∈ s'.hostLog) ∧
      (t.report.cause = 0x10 → (s.part part).debug = true → takes fun s' t' => t'.status = .awaiting ∧ s'.mayResume t' = true ∧
        s'.hostLog = s.hostLog ++ [.trapReport slot 0x10 t.pc]) ∧
      (∀ c x, t.report.cause = 0x01 → s.walkNow part t.report.vaddr.toNat = .fail c x → takes fun s' t' => t'.status = .inHandler ∧
        t'.service = some (.page (dbl (pageOf t.report.vaddr.toNat))) ∧
        (part, pageOf t.report.vaddr.toNat) ∈ (s'.die (dieOf t.core)).services) ∧
      (t.report.cause = 0x13 → t.report.tcode.toNat < 0x100 ∨ 0x1000 ≤ t.report.tcode.toNat → takes fun s' t' => t'.status = .inHandler ∧
        t'.service = some .host ∧ s'.hostLog = s.hostLog ++ [.trapCode slot t.report.tcode]) ∧
      (t.report.cause = 0x13 → t.report.tcode = 0x100 → takes fun _ t' => t'.status = .inHandler ∧ t'.service = some .bound) ∧
      (t.report.cause = 0x13 → 0x101 ≤ t.report.tcode.toNat → t.report.tcode.toNat < 0x1000 → t.report.tcode = 0x101 ∨ (s.part part).debug = false →
        ∃ s', exec (.trapQueueTake ⟨die, bind⟩) s = .next s' ∧ gone s' ∧ HostEvent.killed g.part t.group ∈ s'.hostLog ∧
          (if t.report.tcode = 0x101 then HostEvent.bindFailed slot (t.rd64 190) else HostEvent.trapReport slot 0x10 t.pc) ∈ s'.hostLog) ∧
      (t.report.cause = 0x14 → takes fun s' t' => t'.status = .parked ∧ t'.service = some .host ∧
        s'.hostLog = s.hostLog ++ [.brk slot t.report.tcode]) ∧
      (t.report.cause = 0x15 → (s.part part).debug = false → if s.emulates t then takes fun _ t' => t'.status = .inHandler ∧ t'.service = some .routine
        else ∃ s', exec (.trapQueueTake ⟨die, bind⟩) s = .next s' ∧ gone s' ∧ HostEvent.trapReport slot 0x10 t.pc ∈ s'.hostLog)) ∧
    (t.status = .inHandler ∨ t.status = .awaiting ∨ t.status = .parked →
      (s.mayResume t = true → t.service ≠ some .routine →
        ∃ s' t', exec (.ctrlResume slot ⟨pc, none⟩) s = .next s' ∧ s'.team? slot = some t' ∧ t'.status = .running ∧ t'.regs = t.regs ∧ t'.ctl = t.ctl ∧
          t'.pc = pc.getD (if t.service = some .host ∨ t.service = some .bound then t.pc + 4 else t.pc) &&& ~~~3) ∧
      (∀ va, t.service = some (.page va) → exec (.ctrlResume slot ⟨pc, none⟩) s = .next s) ∧
      (∀ ids l, t.service = some (.unlock ids) → l ∈ s.locks → l.2.1 ∈ ids → exec (.ctrlResume slot ⟨pc, none⟩) s = .next s) ∧
      (t.service = some .host → t.status = .inHandler → exec (.ctrlResume slot ⟨pc, none⟩) s = .next s) ∧
      (t.service = some .routine → 4 ≤ r → r < 192 → t.sEmpty r = false →
        (∃ s' t', exec (.ctrlResume slot ⟨pc, some (.commit (routineOf r w t.mode))⟩) s = .next s' ∧ s'.team? slot = some t' ∧
          t'.status = .running ∧ t'.pc = t.advance.pc ∧ t'.rs r = w ∧ SameScalars t t' [r] ∧ t'.mode = t.mode ∧ SameMemory s s') ∧
        (∃ s' t', exec (.ctrlResume slot ⟨pc, some (.failed none)⟩) s = .next s' ∧ Trapped s' slot t t' 0x0E 0 ∧ SameMemory s s')) ∧
      (∃ s', exec (.ctrlKill slot) s = .next s' ∧ gone s')) ∧
    (t.status = .inHandler → ∃ s' t', exec (.ctrlDetach slot) s = .next s' ∧ s'.team? slot = some t' ∧ t'.status = .awaiting ∧ t'.pc = t.pc) ∧
    (n < 4096 → slot = 4096 * die + n →
      (s.windowRead die (place 0x08) = some (t.pc.extractLsb' 0 32) ∧ s.windowRead die (place 0x0C) = some (t.pc.extractLsb' 32 32) ∧
        s.windowRead die (place 0x04) = some t.report.cause ∧
        s.windowRead die (place 0x28) = some (word (t.tidx + t.beats * 2 ^ 8 + t.nvregs * 2 ^ 16 + t.role * 2 ^ 24 + if g.idem then 2 ^ 26 else 0)) ∧
        ∀ r, r < 256 → s.windowRead die (place (0x400 + 4 * r)) = some (t.rs r)) ∧
      (s.functionUp (12 + die) = true →
        (t.status ≠ .running → t.status ≠ .exited →
          (∃ t', exec (.teamStateWindowWrite die (place 0x08) true value) s = .next (s.setTeam slot t') ∧ t'.pc = value &&& ~~~3 ∧
            t'.regs = t.regs ∧ t'.status = t.status) ∧
          (4 ≤ r → r < 192 → t.sEmpty r = false → ∃ t', exec (.teamStateWindowWrite die (place (0x400 + 4 * r)) false value) s =
            .next (s.setTeam slot t') ∧ t'.rs r = value.extractLsb' 0 32 ∧ SameScalars t t' [r])) ∧
        (t.status = .running → ∃ s', exec (.teamStateWindowWrite die (place 0x08) true value) s = .next s' ∧ s'.team? slot = some t ∧
          (s'.die (dieOf t.core)).tswIgn = (s.die (dieOf t.core)).tswIgn + 1)))) ∧
  (∀ (s : State) (die part slot : Nat) (va leaf : Dbl) (t : Team) (g : Group),
    s.serving ⟨die, part⟩ va.toNat = true → s.team? slot = some t → s.group? t.group = some g → g.part = part →
    (dieOf t.core = die → t.awaitsPage va.toNat = true → ∃ s' t', exec (.pageServiceComplete ⟨die, part⟩ va leaf) s = .next s' ∧
      s'.team? slot = some t' ∧ t'.status = .running ∧ t'.pc = t.pc ∧ t'.regs = t.regs ∧
      (s'.die die).services.contains (part, pageOf va.toNat) = false) ∧
    (dieOf t.core ≠ die → t.awaitsPage va.toNat = true → ∃ s' t', exec (.pageServiceComplete ⟨die, part⟩ va leaf) s = .next s' ∧
      s'.team? slot = some t' ∧ t'.status = t.status ∧ t'.service = t.service ∧ t'.pc = t.pc ∧
      ∀ d, d ≠ die → (s'.die d).services = (s.die d).services) ∧
    (dieOf t.core = die → t.wantsPage va.toNat = true → g.leaving = false → ∃ s', exec (.pageServiceRefusal ⟨die, part⟩ va) s = .next s' ∧ s'.team? slot = none ∧
      (∀ m u, s'.team? m = some u → u.group ≠ t.group) ∧ ((∀ o ∈ s.ops, o.gid ≠ t.group) → s'.group? t.group = none) ∧
      HostEvent.pageRefused part va ∈ s'.hostLog))

/-! ## Scheduling, launches, queues -/

/-- R24, R134, R135, R249, R372: a promotion and the end of a YIELD mark their team; a team that has exited leaves once no operation keeps
it; a group of a deterministic partition with no team left commits when no group of its partition on a core or waiting for one has a lower
ply, and is gone. R247, R363, R368, R374: a launch that no earlier one orders starts; its only waiting group is placed where it fits: a
group of its index on that core whose new teams run from the entry point; a cancelled launch has no waiting group. Placement is log entry
32, cancelling 34, commit 35, waiting groups 77. -/
def Obligations.LaunchEvents : Prop :=
  (∀ (s : State) (slot : Nat) (t : Team) (gid : Nat) (g : Group),
    (s.team? slot = some t →
      (t.canIssue = true → exec (.teamPromotion slot) s = .next (s.setTeam slot { t with sched := { t.sched with promoted := true } })) ∧
      exec (.yieldExpiry slot) s = .next (s.setTeam slot { t with sched := { t.sched with yielding := false } }) ∧
      (t.status = .exited → (∀ o ∈ s.ops, o.slot = slot → o.gid = t.group → o.orphan = false → o.kind.stays = false) →
        ∃ s', exec (.teamLeaveQuadrant slot) s = .next s' ∧ s'.team? slot = none)) ∧
    (s.group? gid = some g → (s.part g.part).det = true → (s.part g.part).swap = none → g.leaving = false → (∀ e ∈ s.teams, ∀ u, e.2 = some u → u.group ≠ gid) →
      (∀ e ∈ s.groups, ∀ x, e.2 = some x → x.part = g.part → g.ply.toNat ≤ x.ply.toNat) →
      (∀ e ∈ s.launches, ∀ l, e.2 = some l → l.part = g.part → l.started = true → l.complete = false → ∀ w ∈ l.waiting,
        g.ply.toNat ≤ ((l.recordOf w).ply w.index).toNat) →
      ∃ s', exec (.groupCommit gid) s = .next s' ∧ s'.group? gid = none)) ∧
  (∀ (s : State) (lid : Nat) (l : Launch) (core : Nat) (quads : List Nat), s.launch? lid = some l →
    (l.started = false → l.complete = false → l.record.coop = false →
      (∀ e ∈ s.launches, ∀ x, e.2 = some x → e.1 < lid → x.orders l = false) →
      ∃ s' l', exec (.launchStart lid) s = .next s' ∧ s'.launch? lid = some l' ∧ l'.started = true ∧
        (l'.waiting = l.waiting ∨ l'.complete = true)) ∧
    (∀ w x, s.waitingGroups l.part = [(lid, l, 0, w)] → (s.part l.part).swap = none → (∀ e ∈ s.launches, ∀ c, e.2 = some c → c.whole = false) →
      s.placeGroup lid l w core quads = some x → exec (.groupPlacement lid ⟨w.child, w.index⟩ core quads) s = .next x ∧
      ∃ g, x.group? s.nextId = some g ∧ g.core = core ∧ g.index = w.index ∧ g.launch = lid ∧
        ∀ n u, s.team? n = none → x.team? n = some u → u.core = core ∧ u.group = s.nextId ∧ u.status = .running ∧
          u.pc = (l.recordOf w).entry ∧ u.ctl.stack = [] ∧ u.mode = 0) ∧
    (l.complete = false → ∃ s' l', exec (.launchCancel lid) s = .next s' ∧ s'.launch? lid = some l' ∧ l'.cancelled = true ∧ l'.waiting = []))

/-- R365: the head of a queue, by its OP: NOP is taken off; LAUNCH is taken off and its record accepted; DRAIN and WRITE wait for the
queue's launches, WRITE then stores eight bytes; WAITWAKE waits for a bit of its mask and clears the mask's bits; another OP or a reserved
field is taken off and counted. R361, R364: the record, read and checked when its entry is taken (log entry 31). -/
def Obligations.QueueEvents : Prop := ∀ (s : State) (part queue : Nat) (q : Queue) (e : QEntry) (rest : List QEntry) (bs : List Byte) (r : LaunchRec)
    (ks : List Nat),
  let m : Word := e.value.extractLsb' 0 32
  let popped (s' : State) (wake : Word) (errors : Nat) : Prop :=
    sget none (s'.part part).queues queue = some { q with ring := rest, wake := wake, errors := errors }
  s.functionUp 24 = true → sget none (s.part part).queues queue = some q → q.ring = e :: rest →
  (e.reserved = false →
    (e.op = 0 → ∃ s', exec (.queueNop part queue) s = .next s' ∧ popped s' q.wake q.errors ∧ SameMemory s s') ∧
    (e.op = 1 → readLaunchRec s.board.emulMin (s.objectSize part) (s.cpRead part) (s.pathAt part) e.addr.toNat = .ok (bs, r) → ∃ s' l, exec (.queueLaunch part queue) s = .next s' ∧
      popped s' q.wake q.errors ∧ s'.launch? s.nextId = some l ∧ l.record = r ∧ l.part = part ∧ l.queue = queue ∧ l.qprio = q.prio ∧
      l.started = false ∧ l.waiting.length = r.groups) ∧
    (e.op = 2 → s.drained part queue = true → ∃ s', exec (.queueDrain part queue) s = .next s' ∧ popped s' q.wake q.errors) ∧
    (e.op = 2 → s.drained part queue = false → exec (.queueDrain part queue) s = .next s) ∧
    (e.op = 3 → s.drained part queue = true → s.semWaiters = [] → s.cpKeys part .write e.addr.toNat 8 = .ok ks → ks.Nodup →
      ∃ s', exec (.queueWrite part queue) s = .next s' ∧ popped s' q.wake q.errors ∧ SameBut s s' ks ∧
        ∀ j k, ks[j]? = some k → memByte s' k = e.value.extractLsb' (8 * j) 8) ∧
    (e.op = 4 → q.wake &&& m ≠ 0 → ∃ s', exec (.queueWaitwake part queue) s = .next s' ∧ popped s' (q.wake &&& ~~~m) q.errors) ∧
    (e.op = 4 → q.wake &&& m = 0 → exec (.queueWaitwake part queue) s = .next s)) ∧
  (4 < e.op.toNat ∨ e.reserved = true → ∃ s', exec (.queueEntrySkipped part queue) s = .next s' ∧ popped s' q.wake (q.errors + 1))

/-! ## Pre-emption and errors -/

/-- R193, R391 to R397: a request for a group with a team that has not executed EXIT is pending and starts the mask watchdog while the
group is masked, or takes an idempotent group off its core; a watchdog that expires is reported, or swaps its partition out where there is
shadow storage; a restore that was asked brings the saved teams back; an uncorrectable error of a core kills the group it hits or is
counted, and one of memory marks its sector. An ended group's request is log entry 18, the swap 42, errors that no group holds and the die
that counts 44. -/
def Obligations.PreemptionEvents : Prop := ∀ (s : State) (gid key core : Nat) (g : Group) (src : PreSource),
  let gone (s' : State) : Prop := (∀ n u, s'.team? n = some u → u.group ≠ gid) ∧ ((∀ o ∈ s.ops, o.gid ≠ gid) → s'.group? gid = none)
  (s.group? gid = some g → g.request = none → g.leaving = false → src ≠ .distributor → s.allEnded gid = false →
    (g.idem = false → s.masked gid = true →
      let g' := { g with request := some { src := src, maskDog := true, handlerDog := false } }
      (∃ s', exec (.preemptionRequest gid src) s = .next s' ∧ s'.group? gid = some g') ∧
      (src = .host → ∃ s', exec (.hostPreemptionRequest gid) s = .next s' ∧ s'.group? gid = some g')) ∧
    (g.idem = true → (∃ s', exec (.preemptionRequest gid src) s = .next s' ∧ gone s') ∧
      ∃ s', exec (.hostPreemptionRequest gid) s = .next s' ∧ gone s')) ∧
  (∀ r, s.group? gid = some g → g.request = some r → s.allEnded gid = false →
    (s.shadowed g.part = false → (r.maskDog = true → ∃ s', exec (.maskWatchdogExpiry gid) s = .next s' ∧
        s'.group? gid = some { g with request := some { r with maskDog := false, maskPast := true } } ∧ s'.hostLog = s.hostLog ++ [.watchdog gid]) ∧
      (r.handlerDog = true → ∃ s', exec (.handlerWatchdogExpiry gid) s = .next s' ∧
        s'.group? gid = some { g with request := some { r with handlerDog := false, handlerPast := true } } ∧ s'.hostLog = s.hostLog ++ [.watchdog gid])) ∧
    (s.shadowed g.part = true → s.ops = [] → (s.part g.part).det = false → (r.maskDog = true →
      ∃ s' w, exec (.maskWatchdogExpiry gid) s = .next s' ∧ s'.group? gid = none ∧ (s'.part g.part).swap = some w ∧ w.src = r.src))) ∧
  (∀ part w, (s.part part).swap = some w →
    (src = w.src → src ≠ .distributor → ∃ s', exec (.restoreWrite part src) s = .next s' ∧ (s'.part part).swap = some { w with asked := true }) ∧
    (∀ n t x, w.teams = [(n, some t)] → w.groups = [(t.group, some x)] → x.request = none → s.groups = [] → w.src ≠ .distributor →
      w.asked = true → w.due = [] → ∃ s' t', exec (.partitionRestore part) s = .next s' ∧ (s'.part part).swap = none ∧ s'.team? n = some t' ∧
        t'.regs = t.regs ∧ t'.pc = t.pc ∧ t'.ctl = t.ctl ∧ t'.status = t.status ∧ s'.group? t.group = some x)) ∧
  (s.group? gid = some g → g.leaving = false → g.idem = false → ∃ s', exec (.coreUncorrectableError (.group gid)) s = .next s' ∧ gone s') ∧
  (∃ s', exec (.coreUncorrectableError (.unheld core)) s = .next s' ∧ (s'.die (dieOf core)).uecc = (s.die (dieOf core)).uecc + 1) ∧
  (keyPath key = 1 ∨ keyPath key = 2 ∨ keyPath key = 3 → ∃ s', exec (.memoryUncorrectableError key) s = .next s' ∧ s'.marked key = true ∧
    (s'.die 0).uecc = (s.die 0).uecc + 1 ∧ SameMemory s s')

/-! ## Journal, collectives, fabric -/

/-- R324, R325, R327 to R334: the acknowledgement of a command's record ends the command; a record of the partner is kept; heartbeats are
missed and received; the third missed one reports the partner lost; a partner is assigned, resynchronises, and the other settings of the
journal. R351 to R353: a collective whose blocks disagree, or that every shard of its tree takes part in, ends for its participant: the
command is gone and its status register holds a value; an aborted one ends, and is remembered. The counts of HEARTBEAT_SEND are log entry
62, the region 74, the ports 81, collectives 26 and 27. -/
def Obligations.JournalEvents : Prop :=
  (∀ (s : State) (o : Op) (t : Team) (c : CommandOp) (x : JSend) (rec : JRecord) (dev mib port : Nat),
    let j := s.journal
    let size := mib * 2 ^ 20
    (Live s o t → Calm s → Ordinary s o.gid → o.kind = .command c → c.cancel = [] → c.cmd = .emit ∨ c.cmd = .jtrunc → j.sends = [x] → x.op = some o.id →
      x.sent = true → j.link = 0 → s.journalCarries = true → ∃ s' t', exec (.journalAckReceived o.id) s = .next s' ∧ s'.op? o.id = none ∧ s'.journal.sends = [] ∧
        s'.team? o.slot = some t' ∧ (0 < c.sd → 0 < c.sdCount → t'.sEmpty c.sd = false)) ∧
    (s.journalCarries = true → j.partner = some rec.srcdev → j.fenced.contains rec.srcdev = false → j.admits rec = true →
      (rec.kind ≠ .trunc → j.used + recordLen rec ≤ j.capacity * 2 ^ 20) →
      ∃ s', exec (.journalRecordReceived rec) s = .next s' ∧ s'.journal.held = applyRecord j.held rec ∧
        s'.hostLog = s.hostLog ++ [.journalAck rec.srcdev rec.seqid rec.kind rec.step] ∧
        (rec.kind = .step → (∀ r ∈ j.held, r.srcdev = rec.srcdev → r.seqid = rec.seqid → r.kind = .trunc → r.step.toNat < rec.step.toNat) →
          rec ∈ s'.journal.held)) ∧
    (s.journalCarries = false ∨ j.fenced.contains rec.srcdev = true ∨ (rec.kind ≠ .trunc ∧ j.capacity * 2 ^ 20 < j.used + recordLen rec) →
      exec (.journalRecordReceived rec) s = .next s) ∧
    (j.partner ≠ none →
      (s.journalUp = true → ∃ s', exec .heartbeatSend s = .next s' ∧ s'.journal.missed = min 3 (j.missed + 1)) ∧
      (s.journalCarries = true → ∃ s', exec .heartbeatReceived s = .next s' ∧ s'.journal.missed = 0) ∧
      (j.missed = 3 → j.link ≠ 1 → j.sends = [] → ∃ s', exec .partnerLost s = .next s' ∧ s'.journal.link = 1 ∧
        s'.hostLog = s.hostLog ++ [.partnerLost])) ∧
    (j.link = 2 → s.journalCarries = true → ∃ s', exec .resynchronisationComplete s = .next s' ∧ s'.journal.link = 0) ∧
    (j.capacity ≠ 0 → j.portTo dev = some port → ∃ s', exec (.partnerAssign dev) s = .next s' ∧ s'.journal.partner = some dev ∧
      s'.journal.port = port ∧ s'.journal.link = 2 ∧ s'.journal.missed = 0 ∧ s'.journal.held = j.held) ∧
    (j.capacity = 0 ∨ j.portTo dev = none → exec (.partnerAssign dev) s = .next s) ∧
    (∃ s', exec (.castlingCandidateName dev) s = .next s' ∧ s'.journal.candidate = some dev) ∧
    (j.partner = none → size ≤ Config.hbmBytes → s.hbmTaken 8 (Config.hbmBytes - size) size = false →
      ∃ s', exec (.journalCapacitySet mib) s = .next s' ∧ s'.journal.capacity = mib) ∧
    (j.partner ≠ none → exec (.journalCapacitySet mib) s = .next s) ∧
    (∃ s', exec (.deviceFence dev) s = .next s' ∧ s'.journal.fenced.contains dev = true)) ∧
  (∀ (s : State) (m : Member) (t : Team) (cid : Dbl) (sq : Word) (shares : List RemoteShare) (fin : EngineEnd),
    let ends (e : Instr) : Prop := ∃ s' t', exec e s = .next s' ∧ s'.op? m.op.id = none ∧ (∀ l ∈ s'.locks, l.2.1 ≠ m.op.id) ∧
      s'.team? m.op.slot = some t' ∧ (0 < m.cmd.sd → 0 < m.cmd.sdCount → t'.sEmpty m.cmd.sd = false)
    Live s m.op t → Calm s → Ordinary s m.op.gid → m.op.kind = .command m.cmd → m.cmd.cancel = [] →
    (s.members cid sq = [m] → s.collBad [m] shares ≠ none ∨ collWhole [m] shares = true → ends (.collCompletion cid sq shares fin)) ∧
    ((s.onFabric fun f => { f with aborted := if f.aborted.contains (cid, sq) then f.aborted else (cid, sq) :: f.aborted }).members cid sq = [m] →
      ends (.collectiveAbort cid sq)) ∧
    (∃ s', exec (.collectiveAbort cid sq) s = .next s' ∧ s'.fabric.aborted.contains (cid, sq) = true))

/-- R33, R338, R340 to R344, R356 to R359: a peer's store that the import table admits is performed once, in its turn and counted, or
before its turn where none of the earlier packets goes to its line; else it is held; counts of acknowledged stores rise up to the count
sent; a packet that is not answered goes out again, after the fourth time its destination is unreachable until that is cleared; a flit for
another device goes on by its route; lanes, signalling and keys of a link change as its events say. Turns, repetition and refused packets
are log entries 28 and 78, dropped flits 29. -/
def Obligations.FabricEvents : Prop := ∀ (s : State) (pkt : PeerPacket) (i : Import) (part dest count port kslot key : Nat) (flit : Flit)
    (k : Packet) (r : Route) (seq : Word) (bs : List (Nat × Byte × Byte)) (up : Bool),
  let src := packetFrom pkt
  let turn := word (sget 0 s.fabric.expected src)
  let acked : HostEvent := .peerAcked pkt.src pkt.part (sget 0 s.fabric.performed src + 1)
  let done : HostEvent := .peerAnswer pkt.src pkt.part pkt.seq .performed
  let here (b : Nat) : Nat := i.base + (pkt.addr - i.page) + b
  let homed : Prop := s.topologyUp = true ∧ (keyPath (importHome i pkt) = 2 → s.inShare i.part (importHome i pkt) 128 = true ∧
    s.stacksUp (importHome i pkt) 128 = true)
  let po := s.fabric.port port
  let after (e : Instr) (f : Port → Prop) : Prop := ∃ s', exec e s = .next s' ∧ f (s'.fabric.port port) ∧ SameMemory s s'
  (homed → s.fabric.early = [] → s.fabric.ahead = [] → s.semWaiters = [] → pkt.op = .store bs → (bs.map (·.1)).Nodup → pkt.apart = true →
    0 < (pkt.seq - turn).toNat → (pkt.seq - turn).toNat < 2 ^ 31 → s.fabric.admits pkt = some i →
    ∃ s', exec (.peerPacketArrival pkt) s = .next s' ∧ SameBut s s' (bs.map fun b => here b.1) ∧ s'.fabric.expected = s.fabric.expected ∧
      (∀ b ∈ bs, memByte s' (here b.1) = (memByte s (here b.1) &&& ~~~b.2.1) ||| (b.2.2 &&& b.2.1)) ∧ s'.hostLog = s.hostLog ++ [done]) ∧
  (homed → pkt.seq = turn → s.fabric.early = [] → s.fabric.ahead = [] → s.semWaiters = [] → pkt.op = .store bs → (bs.map (·.1)).Nodup →
    (s.fabric.admits pkt = some i → ∃ s', exec (.peerPacketArrival pkt) s = .next s' ∧ SameBut s s' (bs.map fun b => here b.1) ∧
      (∀ b ∈ bs, memByte s' (here b.1) = (memByte s (here b.1) &&& ~~~b.2.1) ||| (b.2.2 &&& b.2.1)) ∧
      s'.hostLog = s.hostLog ++ [done, acked] ∧ ∃ s2, exec (.peerPacketArrival pkt) s' = .next s2 ∧ SameMemory s' s2 ∧
        s2.hostLog = s.hostLog ++ [done, acked, done]) ∧
    (s.fabric.admits pkt = none → ∃ s', exec (.peerPacketArrival pkt) s = .next s' ∧ SameMemory s s' ∧
      s'.hostLog = s.hostLog ++ [.peerAnswer pkt.src pkt.part pkt.seq (.failed 6 true), acked])) ∧
  (s.topologyUp = true → 0 < (pkt.seq - turn).toNat → (pkt.seq - turn).toNat < 2 ^ 31 → pkt.apart = false →
    (∀ x ∈ s.fabric.early ++ s.fabric.ahead, packetFrom x ≠ src) →
    exec (.peerPacketArrival pkt) s = .next { s with fabric := { s.fabric with early := s.fabric.early ++ [pkt] } }) ∧
  (s.topologyUp = true → sget 0 (s.part part).acked dest < count → count ≤ sget 0 (s.part part).sent dest →
    ∃ s', exec (.fabricAckArrival part dest count) s = .next s' ∧ sget 0 (s'.part part).acked dest = count ∧ SameMemory s s') ∧
  (s.fabric.packets = [k] → k.part = part → k.dest = dest → k.seq = seq → s.unanswered k = true → dest ∉ s.fabric.unreachable →
    (k.ways.length < 4 → ∃ s', exec (.retransmitTimeout ⟨part, dest, seq⟩) s = .next s' ∧
      s'.fabric.packets = [{ k with ways := s.fabric.nextWay k :: k.ways }] ∧ dest ∉ s'.fabric.unreachable) ∧
    (4 ≤ k.ways.length → ∃ s', exec (.retransmitTimeout ⟨part, dest, seq⟩) s = .next s' ∧ dest ∈ s'.fabric.unreachable)) ∧
  (∃ s', exec (.unreachableClear dest) s = .next s' ∧ dest ∉ s'.fabric.unreachable) ∧
  (port < 36 → 34 ≤ port ∨ s.fabric.direct = true → s.fabric.portUp port = true → flit.tagOk = true →
    (sget none po.keys (if flit.flags.getLsbD 0 then 1 else 0)).isSome = true →
    (5 < flit.type.toNat → after (.flitArrival port flit) fun q => q.errors = po.errors + 1) ∧
    (flitBad flit = false → flit.type ≠ 0 → port < 34 → flit.dst.toNat ≠ s.fabric.devid → flit.flags.getLsbD 1 = false →
      s.fabric.route? flit.dst.toNat = some r → flit.flags.toNat / 16 % 4 < 3 → s.fabric.carries r.port = true →
      ∃ s' flags sealed_, exec (.flitArrival port flit) s = .next s' ∧ flags / 16 % 4 = flit.flags.toNat / 16 % 4 + 1 ∧
        flags / 8 % 2 = flit.flags.toNat / 8 % 2 ∧ flags % 2 = (s.fabric.port r.port).inUse % 2 ∧ sealed_.length = 240 ∧
        s'.fabric.wire = s.fabric.wire ++ [⟨r.port, (s.fabric.port r.port).flits,
          onLanes (s.fabric.port r.port).lanes (flitBytes flit flags ++ sealed_)⟩] ∧
        (s'.fabric.port r.port).flits = (s.fabric.port r.port).flits + 1 ∧ SameMemory s s')) ∧
  (flit.tagOk = false → exec (.flitArrival port flit) s = .next s) ∧
  (port < 34 → after (.linkLaneFailure port up) fun q => q.lanes = po.lanes - 1) ∧
  (34 ≤ port → po.nrz = true → after (.linkLaneFailure port true) fun q => q.lanes = po.lanes - 1) ∧
  (34 ≤ port → po.nrz = false → after (.linkLaneFailure port up) fun q => q.nrz = true ∧ q.retraining = true) ∧
  (after (.linkRetrainingComplete port up) fun q => q.retraining = false ∧ q.up = (up && s.portReady port)) ∧
  ((sget none po.keys (1 - po.inUse)).isSome = true → po.spent.contains (1 - po.inUse) = false → after (.linkKeyLimit port) fun q =>
    q.inUse = 1 - po.inUse ∧ q.stopped = po.stopped ∧ q.keys = po.keys ∧ q.spent.contains po.inUse = true) ∧
  (sget none po.keys (1 - po.inUse) = none ∨ po.spent.contains (1 - po.inUse) = true → after (.linkKeyLimit port) fun q => q.stopped = true ∧
    q.keys = po.keys) ∧
  (kslot ≤ 1 → after (.linkKeyInstall port kslot key) fun q => sget none q.keys kslot = some key ∧ q.stopped = false)

/-! ## Power, boot, management -/

/-- R399, R402 to R407: the hot mark of a die; the critical threshold takes the power away, and step then stops; POWERCTL is written while
it is not locked and its value is legal, and counted else; power-up with two good images runs with everything at its reset value; functions
report ready; the images in flash and attestation. R410: a refused write of POWERCTL is counted. The stop without power is log entry 65;
what POWER_UP clears 7 and 45; the checks of images 12. -/
def Obligations.PowerAndBoot : Prop := ∀ (s : State) (die bit : Nat) (value : Dbl) (im a b : BootImage) (nonce : List Byte),
  let bd := s.board
  (∃ s', exec (.dieHotThreshold die) s = .next s' ∧ (s'.die die).hot = true) ∧
  (∃ s', exec (.hotThresholdCleared die) s = .next s' ∧ (s'.die die).hot = false) ∧
  (∃ s', exec (.dieCriticalThreshold die) s = .next s' ∧ s'.board.removed = true ∧ s'.hostLog = s.hostLog ++ [.critical die] ∧
    (s'.agenda = [] → step s' = .fault .powerRemoved)) ∧
  (bd.powerctl.getLsbD 63 = false → powerctlOk value = true → ∃ s', exec (.powerctlWrite value) s = .next s' ∧ s'.board.powerctl = value) ∧
  (bd.powerctl.getLsbD 63 = true ∨ powerctlOk value = false → ∃ s', exec (.powerctlWrite value) s = .next s' ∧ s'.board.powerctl = bd.powerctl ∧
    s'.board.pwrErr = bd.pwrErr + 1) ∧
  (bd.beloft = some a → bd.config = some b → a.sigOk = true → b.sigOk = true → ∃ s', exec .powerUp s = .next s' ∧ s'.board.powered = true ∧
    s'.board.boot = .running ∧ s'.board.powerctl = powerctlReset ∧ s'.board.ready = 0 ∧ s'.fabric.devid = b.devid ∧ s'.fabric.routes = b.routes ∧
    s'.mem = [] ∧ s'.teams = [] ∧ s'.groups = [] ∧ s'.ops = [] ∧ s'.locks = [] ∧ s'.journal = { Journal.reset with port := b.partnerPort % 2 } ∧
    s'.board.beloftDigest = sm3 a.bytes ∧ s'.board.configDigest = sm3 b.bytes) ∧
  (bd.beloft = some a → a.sigOk = false → ∃ s', exec .powerUp s = .next s' ∧ s'.board.boot = .badBeloft ∧ s'.board.ready = 0 ∧ s'.fabric = Fabric.reset) ∧
  (bd.boot = .running → bit < 29 ∨ (64 ≤ bit ∧ bit < 128) → ∃ s', exec (.functionReady bit) s = .next s' ∧ s'.functionUp bit = true ∧
    (∀ n, n ≠ bit → s'.functionUp n = s.functionUp n) ∧ (s.functionUp bit = true → s' = s)) ∧
  (∃ s', exec (.bootImageLoad .beloft im) s = .next s' ∧ s'.board.beloft = some im) ∧
  (∃ s', exec (.bootImageLoad .configuration im) s = .next s' ∧ s'.board.config = some im) ∧
  (nonce.length = 32 → bd.boot = .running → s.functionUp 12 = true → ∃ s' sig, exec (.attestationRequest nonce) s = .next s' ∧
    s'.hostLog = s.hostLog ++ [.attestation (s.attested nonce ++ sig)])

/-- R31, R138, R185, R365, R370, R376, R385 to R387, R409: the management interface. Partition settings are made where the partition holds
no group and a cache part is left, and refused with group 2 else; queues are created, wake bits raised, page-table roots, log and window
bases and the reference time written; an invalidation that nothing outstanding needs clears its entries. The numbers of refused groups are
log entry 45, the range of a share 74, the reference time 49. -/
def Obligations.ManagementSettings : Prop := ∀ (s : State) (part vault base d die queue prio : Nat) (v : Dbl) (en : Bool) (bits : Word) (q : Queue),
  let refused (e : Instr) : Prop := ∃ s', exec e s = .next s' ∧ s'.board.mgmtError = some 2 ∧ s'.parts = s.parts ∧ s'.vaultSplit = s.vaultSplit ∧ s'.dies = s.dies
  let set (e : Instr) (next : State) : Prop := (next.cachesLeft = true → exec e s = .next next) ∧ (next.cachesLeft = false → refused e)
  (part < 8 → s.inUse part = false →
    (base + d ≤ Config.hbmBytes - s.journal.capacity * 2 ^ 20 → s.hbmTaken part base d = false →
      set (.setHbmShare part ⟨base, d⟩) (s.onPart part fun p => { p with hbmBase := base, hbmShare := d })) ∧
    (s.hbmTaken part base d = true → refused (.setHbmShare part ⟨base, d⟩)) ∧
    set (.setDeterministicMode part en) (s.onPart part fun p => { p with det := en }) ∧
    set (.setDebug part en) (s.onPart part fun p => { p with debug := en }) ∧
    ((∀ c, c < 64 → v.getLsbD c = true → s.functionUp (64 + c) = true ∧ ∀ p, p < 8 → p ≠ part → (s.part p).columns.getLsbD c = false) →
      set (.setPartitionColumns part v) (s.onPart part fun p => { p with columns := v }))) ∧
  (s.inUse part = true → refused (.setPartitionColumns part v) ∧ refused (.setDebug part en) ∧ refused (.setDeterministicMode part en) ∧
    refused (.setHbmShare part ⟨base, d⟩)) ∧
  (vault < 64 → d ≤ s.splitLimit vault → s.ownerOf vault = none → set (.setVaultSplit vault d) { s with vaultSplit := sput 0 s.vaultSplit vault d }) ∧
  (s.splitLimit vault < d → refused (.setVaultSplit vault d)) ∧
  (die < 4 → set (.setShadowStorage die false) (s.onDie die fun x => { x with shadow := false })) ∧
  (part < 8 → queue < 64 → prio < 8 → sget none (s.part part).queues queue = none → ∃ s', exec (.queueCreate part queue prio) s = .next s' ∧
    sget none (s'.part part).queues queue = some { prio := prio, wake := 0, ring := [], errors := 0 }) ∧
  (sget none (s.part part).queues queue = some q → ∃ s', exec (.wakeBitsWrite part queue bits) s = .next s' ∧
    sget none (s'.part part).queues queue = some { q with wake := q.wake ||| bits }) ∧
  (∃ s', exec (.pageTableRootSet part v) s = .next s' ∧ (s'.part part).root = v) ∧
  (∃ s', exec (.tlbInvalidation part v) s = .next s' ∧ (s'.part part).invalidating.contains v.toNat = true ∧ (s'.part part).tlb = (s.part part).tlb) ∧
  ((s.part part).invalidating.contains v.toNat = true → s.ops = [] → ∃ s', exec (.tlbInvalidationComplete part v) s = .next s' ∧
    (∀ e ∈ (s'.part part).tlb, e.covers v.toNat = false) ∧ (s'.part part).invalidating.contains v.toNat = false) ∧
  (let ok := s.inShare part v.toNat (64 * 4096)
   (v = 0 ∨ ok = true → ∃ s', exec (.collectiveLogBaseSet part v) s = .next s' ∧ (s'.part part).logBase = v) ∧
   (v ≠ 0 → ok = false → ∃ s', exec (.collectiveLogBaseSet part v) s = .next s' ∧ s'.board.mgmtError = some 6 ∧ s'.parts = s.parts)) ∧
  (s.coreUp die = true → ∃ s', exec (.tswBaseSet die v) s = .next s' ∧ (s'.die die).tsw = v) ∧
  (∃ s', exec (.referenceTimeWrite v) s = .next s' ∧ s'.board.refReg = v ∧
    ∀ n, n < 4 → s'.die n = { s.die n with refGap := (v.toNat : Int) - (s.die n).refTime.toNat })

/-- R68, R70, R337, R365, R403, R409, R410: accesses of the host to memory, the status page of a partition, the other registers of the
interface, and a code object with no relocation placed: its sections stand where they were placed and it is among the objects. The host's
share and poison outside it are log entries 47 and 74; what placing refuses 48 and 73. -/
def Obligations.HostEvents : Prop := ∀ (s : State) (key size part queue : Nat) (bs : List Byte) (q : Queue) (e : QEntry) (im : Import) (pl : ObjectPlacing)
    (sec : List Byte) (phys : Nat × Nat) (w : Word) (slots : List Nat),
  let n := bs.length
  let obj := s.mem.bytes pl.src pl.size
  let h := obj.take 64
  let off := recField sec 8 8
  let len := recField sec 0x10 8
  (key + n ≤ 2 ^ 48 → (∀ k, key ≤ k → k < key + n → inRanges [s.board.hostShare] k = true ∧ s.stackUp k = true) → s.semWaiters = [] →
    ∃ s', exec (.hostCxlMemAccess key (some bs) size) s = .next s' ∧ SameBut s s' ((List.range n).map (key + ·)) ∧
      ∀ j b, bs[j]? = some b → memByte s' (key + j) = b) ∧
  (key + size ≤ 2 ^ 48 → (∀ k, key ≤ k → k < key + size → inRanges [s.board.hostShare] k = true ∧ s.stackUp k = true) → s.marks = [] →
    ∃ s', exec (.hostCxlMemAccess key none size) s = .next s' ∧ SameMemory s s' ∧
      s'.hostLog = s.hostLog ++ [.memRead key (some ((List.range size).map fun j => memByte s (key + j)))]) ∧
  (key + size ≤ 2 ^ 48 → 0 < size → inRanges [s.board.hostShare] key = false →
    ∃ s', exec (.hostCxlMemAccess key none size) s = .next s' ∧ SameMemory s s' ∧ s'.hostLog = s.hostLog ++ [.memRead key none]) ∧
  (let page := (s.part part).statusPage.toNat
   (page ≠ 0 → s.anyCoreUp = true → s.inShare part page 4096 = true → s.stacksUp page 4096 = true → s.semWaiters = [] →
    ∃ s', exec (.statusPageUpdate part) s = .next s' ∧ SameBut s s' ((List.range 4096).map (page + ·)) ∧
      ∀ j, j < 4 → memByte s' (page + j) = s.board.fwVersion.extractLsb' (8 * j) 8) ∧
   (page = 0 ∨ s.anyCoreUp = false ∨ s.inShare part page 4096 = false ∨ s.stacksUp page 4096 = false →
    exec (.statusPageUpdate part) s = .next s)) ∧
  (sget none (s.part part).queues queue = some q → ∃ s', exec (.managementRegisterWrite (.doorbell part queue e)) s = .next s' ∧
    sget none (s'.part part).queues queue = some { q with ring := q.ring ++ [e] }) ∧
  (∃ s', exec (.managementRegisterWrite (.importSet im)) s = .next s' ∧ im ∈ s'.fabric.imports) ∧
  (∃ s', exec (.managementRegisterWrite (.hostWindow key size)) s = .next s' ∧ (key, size) ∈ s'.board.hostWindows) ∧
  (key + size ≤ Config.hbmBytes - s.journal.capacity * 2 ^ 20 → s.hbmTaken 9 key size = false →
    ∃ s', exec (.managementRegisterWrite (.hostShare key size)) s = .next s' ∧ s'.board.hostShare = (key, size)) ∧
  (size < 8 → sget none (s.part part).queues queue = some q → ∃ s', exec (.managementRegisterWrite (.queuePrio part queue size)) s = .next s' ∧
    sget none (s'.part part).queues queue = some { q with prio := size }) ∧
  (s.coreUp part = true → ∃ s', exec (.managementRegisterWrite (.trapQueue part slots)) s = .next s' ∧ (s'.die part).trapQueue = slots) ∧
  (s.anyCoreUp = true → s.inShare part (dbl key).toNat 4096 = true → ∃ s', exec (.managementRegisterWrite (.statusPage part key)) s = .next s' ∧
    (s'.part part).statusPage = dbl key) ∧
  (s.functionUp 24 = true → 64 ≤ pl.size → recField h 0xC 4 = 1 → sec = (obj.drop (recField h 0x10 8)).take 32 → recField h 0x10 8 + 32 ≤ pl.size →
    off + len ≤ pl.size → objectBad s.board.emulMin (some pl.size) h [sec] = none → relocsOf [sec] obj = [] → pl.sections = [phys] → pl.templates = [] →
    recField sec 0 4 ∉ [3, 5, 9] → s.stacksUp pl.src pl.size = true → s.stacksUp phys.2 len = true →
    phys.1 % 2 ^ recField sec 0x18 4 = 0 → phys.2 % 2 ^ recField sec 0x18 4 = 0 → s.semWaiters = [] →
    ∃ s' x, exec (.codeObjectLoad pl) s = .next s' ∧ x ∈ s'.objects ∧ x.part = pl.part ∧ x.header = dbl pl.src ∧
      (∀ j, j < len → memByte s' (phys.2 + j) = memByte s (pl.src + off + j)) ∧ SameBut s s' ((List.range len).map (phys.2 + ·))) ∧
  (s.functionUp 24 = true → 64 ≤ pl.size → objectBad s.board.emulMin (some pl.size) h ((List.range (min (recField h 0xC 4) 64)).map fun i =>
      (obj.drop (recField h 0x10 8 + 32 * i)).take 32) = some w →
    exec (.codeObjectLoad pl) s = .next (s.tell (.objectRefused pl.part w)))

/-! ## Steps, encodings, the invariant, reset -/

/-- R24, R34, R48, R53, R372 and log entry 1: a step runs the decoded instruction. Where the agenda asks for the issue slot of a quadrant
whose first team in order can issue and is at no pop, and the word fetched at its PC decodes to i, the step is exec of i in the state of
the fetch, then the end of the promotion and the cycles of the issue; what the issue does to the order of the operand cache and to the loop
buffer touches nothing else; a team whose instruction only waits leaves the slot. An event of the agenda is exec of it. The word fetched
from device memory is the four bytes of memory at the key of the PC, lowest address lowest. -/
def Obligations.StepRunsDecoded : Prop := ∀ (s : State) (rest : List Entry) (core quad slot : Nat) (held : Bool) (t : Team) (i : Instr) (w : Word),
  let s0 : State := { s with agenda := rest }
  s.board.removed = false →
  (∀ s1 s2 more, s.agenda = .issue core quad held :: rest → s0.ranked core quad = slot :: more → s.team? slot = some t → t.canIssue = true →
    t.pc ≠ t.ctl.rpc → ({ s0 with cur := some slot } : State).fetch slot t held = (s1, .ok w) → decode w = .ok i → exec i (s1.readOperands slot t w) = .next s2 →
    (s2 ≠ s1.readOperands slot t w → step s = .next ((s2.fillLoop slot t held).issued slot t)) ∧
    (s2 = s1.readOperands slot t w → more = [] → selfTarget i = false → step s = .next (s0.tick core quad 1))) ∧
  ({ s.readOperands slot t w with cores := s.cores } = s ∧ (t.ctl.loop.capture = false → s.fillLoop slot t held = s)) ∧
  (s.agenda = .event i :: rest → mayHappen i = true → (∀ n, i = .teamPromotion n → (s0.attempt n true).isSome = true) → step s = exec i s0) ∧
  (∀ key x, t.buffered = none → s.resolve (s.partOf t) t.group .fetch 0 t.pc.toNat fetchSalt = .ok (key, x) → keyPath key ≠ 4 →
    s.marked key = false → ∃ s1 v, s.fetch slot t false = (s1, .ok v) ∧ SameMemory s s1 ∧
      ∀ j, j < 4 → v.extractLsb' (8 * j) 8 = memByte s (key + j))

/-- R35, R50 to R52 and the encodings of each entry: words written out by their fields decode to the instructions they stand for; one word
of each decode error. -/
def Obligations.DecodeWords : Prop :=  decode 0x01050607 = .ok (.sadd 5 6 7) ∧
  decode 0x1805FFFF = .ok (.saddi 5 0xFFFF) ∧
  decode 0x23FFFFFE = .ok (.bra 0xFFFFFE) ∧
  decode 0x29004008 = .ok (.bdiv 4 8) ∧
  decode 0x30010A0C = .ok (.mopAnd 10 12) ∧
  decode 0x40060800 = .ok (.vmov 3 2 false false false) ∧
  decode 0x44060809 = .ok (.vand 3 2 1 false false true) ∧
  decode 0x6006080C = .ok (.vadd 3 2 1 true false false) ∧
  decode 0x77060950 = .ok (.vcvt 3 2 5 2 false false false) ∧
  decode 0xA2060820 = .ok (.ld32 3 2 8 false false) ∧
  decode 0xC0060808 = .ok (.aadd 3 2 1 false false) ∧
  decode 0xCB010204 = .ok (.semwait 1 2 4) ∧
  decode 0xD0010810 = .ok (.xcopy 1 8 16) ∧
  decode 0xD806080C = .ok (.mma 3 2 1 true false false) ∧
  decode 0xE6020810 = .ok (.sample 2 8 16) ∧
  decode 0xEE010203 = .ok (.peerq 1 2 3) ∧
  decode 0xF4000100 = .ok (.trap 0x100) ∧
  decode 0xFC050022 = .ok (.srd 5 0x22) ∧
  decode 0x00000000 = .error .illegalOpcode ∧
  decode 0x1F000000 = .error .reservedOpcode ∧
  decode 0x1B000004 = .error .reservedForm ∧
  decode 0x22000001 = .error .badField

/-- R35, R50 to R54: decode and encode agree: the word of a well-formed instruction decodes to it, with every operand at every value, and a
word that decodes is the word of its instruction. -/
def Obligations.RoundTrip : Prop :=  (∀ (i : Instr) (w : Word), i.wf = true → encode i = some w → decode w = .ok i) ∧
  (∀ (i : Instr) (w : Word), decode w = .ok i → i.wf = true ∧ encode i = some w)

/-- R116, R126, R190, R261 and the model's own form of memory and operation numbers (log entries 2 and 7): what every step keeps, from
every state that has it. Memory is in its canonical form; every outstanding operation has a number of its own that was given out; a
partition has at most 512 lock entries in use; a team has at most 16 stack entries in hardware and no in-flight counter above 1,024. A step
that is no write of the team-state window, which may write the live mask itself, also keeps every exec window inside its live mask. Teams
swapped out are included. -/
def Obligations.InvariantKept : Prop := ∀ s s' : State, step s = .next s' →
  (MachineInv s → MachineInv s') ∧
  (EveryTeam s ExecLive → (∀ die addr wide value rest, s.agenda ≠ .event (.teamStateWindowWrite die addr wide value) :: rest) → EveryTeam s' ExecLive)

/-- The model's choice, log entries 2, 5 and 7: the invariants hold at reset, whose memory lists nothing. R402, R404, R406: at reset no
function is ready; POWERCTL holds PCEIL 2,400 and DCAP 300 of each die, its other bits are zero. Zero memory, no journal partner and
nothing placed or outstanding are the model's choice (log entries 5, 7 and 8). -/
def Obligations.ResetValues : Prop :=
  (MachineInv State.reset ∧ EveryTeam State.reset ExecLive) ∧
  ((∀ n, State.reset.functionUp n = false) ∧ State.reset.board.powerctl.toNat / 2 ^ 52 = 0 ∧ State.reset.board.powerctl.toNat % 2 ^ 12 = 2400 ∧
    (∀ k, k < 4 → (State.reset.board.powerctl.toNat / 2 ^ (12 + 10 * k)) % 2 ^ 10 = 300) ∧
    State.reset.teams = [] ∧ State.reset.groups = [] ∧ State.reset.ops = [] ∧ State.reset.locks = [] ∧ (∀ k, memByte State.reset k = 0) ∧
    State.reset.journal.partner = none)
end

