-- ==== Sys2Proof/Laws/Sparse.lean ====
section
/-! SUPPORT. Tables by number: reading after writing, and the canonical form that every write keeps. -/

namespace Sys2Proof.Machine

variable {α : Type} (d : α)

@[simp] theorem sget_nil (k : Nat) : sget d [] k = d := rfl

theorem sget_sdel (t : Sparse α) (k j : Nat) : sget d (sdel t k) j = if j = k then d else sget d t j := by
  induction t with
  | nil => simp [sdel, sget]
  | cons e t ih =>
    obtain ⟨a, v⟩ := e
    by_cases h : a = k
    · have hd : sdel ((a, v) :: t) k = sdel t k := by simp [sdel, h]
      rw [hd, ih, sget]
      by_cases hj : j = k
      · simp [hj]
      · simp [hj, h, Ne.symm hj]
    · have hd : sdel ((a, v) :: t) k = (a, v) :: sdel t k := by simp [sdel, h]
      rw [hd, sget, ih, sget]
      by_cases ha : a = j
      · simp [ha ▸ h, ha]
      · simp [ha]

theorem sget_sins (t : Sparse α) (k : Nat) (v : α) (j : Nat) (h : ∀ e ∈ t, e.1 ≠ k) :
    sget d (sins k v t) j = if j = k then v else sget d t j := by
  induction t with
  | nil =>
    by_cases hj : j = k
    · simp [sins, sget, hj]
    · simp [sins, sget, hj, Ne.symm hj]
  | cons e t ih =>
    obtain ⟨a, w⟩ := e
    have ha : a ≠ k := h (a, w) (by simp)
    have ht : ∀ e ∈ t, e.1 ≠ k := fun e he => h e (by simp [he])
    by_cases hka : k < a
    · by_cases hj : j = k
      · simp [sins, sget, hka, hj]
      · have : k ≠ j := fun q => hj q.symm
        simp [sins, sget, hka, hj, this]
    · by_cases hj : j = k
      · subst hj; simp [sins, sget, hka, ha, ih ht]
      · simp only [sins, hka, if_false, sget, ih ht, hj]

theorem sdel_ne (t : Sparse α) (k : Nat) : ∀ e ∈ sdel t k, e.1 ≠ k := by
  intro e he; simpa [sdel] using (List.mem_filter.mp he).2

/-- Reading after a write, on any table. -/
theorem sget_sput [DecidableEq α] (t : Sparse α) (k : Nat) (v : α) (j : Nat) :
    sget d (sput d t k v) j = if j = k then v else sget d t j := by
  unfold sput
  by_cases hv : v = d
  · subst hv; simp [sget_sdel]
  · simp only [hv, if_false]
    rw [sget_sins d _ k v j (sdel_ne t k), sget_sdel]
    by_cases hj : j = k <;> simp [hj]

@[simp] theorem sget_sput_self [DecidableEq α] (t : Sparse α) (k : Nat) (v : α) : sget d (sput d t k v) k = v := by
  simp [sget_sput]

theorem sget_sput_ne [DecidableEq α] (t : Sparse α) {k j : Nat} (v : α) (h : j ≠ k) : sget d (sput d t k v) j = sget d t j := by
  simp [sget_sput, h]

/-! ## The canonical form -/

theorem swf_tail [DecidableEq α] {e : Nat × α} {t : Sparse α} (h : swf d (e :: t) = true) : swf d t = true := by
  obtain ⟨a, v⟩ := e; simp only [swf, Bool.and_eq_true] at h; exact h.2

theorem swf_filter [DecidableEq α] (t : Sparse α) (p : Nat × α → Bool) (h : swf d t = true) : swf d (t.filter p) = true := by
  induction t with
  | nil => rfl
  | cons e t ih =>
    obtain ⟨a, v⟩ := e
    simp only [swf, Bool.and_eq_true, List.all_eq_true, decide_eq_true_eq] at h
    obtain ⟨⟨hv, hlt⟩, ht⟩ := h
    by_cases hp : p (a, v) = true
    · rw [List.filter_cons_of_pos hp]
      simp only [swf, Bool.and_eq_true, List.all_eq_true, decide_eq_true_eq]
      exact ⟨⟨hv, fun e he => hlt e (List.mem_filter.mp he).1⟩, ih ht⟩
    · rw [List.filter_cons_of_neg hp]; exact ih ht

theorem swf_sdel [DecidableEq α] (t : Sparse α) (k : Nat) (h : swf d t = true) : swf d (sdel t k) = true := swf_filter d t _ h

theorem mem_sins {k : Nat} {v : α} {t : Sparse α} {e : Nat × α} (h : e ∈ sins k v t) : e = (k, v) ∨ e ∈ t := by
  induction t with
  | nil => simpa [sins] using h
  | cons x t ih =>
    obtain ⟨a, w⟩ := x
    by_cases hka : k < a
    · simpa [sins, hka] using h
    · simp only [sins, hka, if_false, List.mem_cons] at h
      rcases h with h | h
      · exact .inr (by simp [h])
      · rcases ih h with h | h
        · exact .inl h
        · exact .inr (by simp [h])

theorem swf_sins [DecidableEq α] (t : Sparse α) (k : Nat) (v : α) (hv : v ≠ d) (hk : ∀ e ∈ t, e.1 ≠ k) (h : swf d t = true) :
    swf d (sins k v t) = true := by
  induction t with
  | nil => simp [sins, swf, hv]
  | cons e t ih =>
    obtain ⟨a, w⟩ := e
    have ha : a ≠ k := hk (a, w) (by simp)
    have ht : ∀ e ∈ t, e.1 ≠ k := fun e he => hk e (by simp [he])
    have h0 := h
    simp only [swf, Bool.and_eq_true, List.all_eq_true, decide_eq_true_eq] at h
    obtain ⟨⟨hw, hlt⟩, hwt⟩ := h
    by_cases hka : k < a
    · simp only [sins, hka, if_true, swf, Bool.and_eq_true, List.all_eq_true, decide_eq_true_eq]
      refine ⟨⟨hv, fun e he => ?_⟩, ⟨⟨hw, hlt⟩, hwt⟩⟩
      rcases List.mem_cons.mp he with rfl | he
      · exact hka
      · exact Nat.lt_trans hka (hlt e he)
    · simp only [sins, hka, if_false, swf, Bool.and_eq_true, List.all_eq_true, decide_eq_true_eq]
      refine ⟨⟨hw, fun e he => ?_⟩, ih ht hwt⟩
      rcases mem_sins he with rfl | he
      · show a < k; omega
      · exact hlt e he

/-- A write keeps the canonical form. -/
theorem swf_sput [DecidableEq α] (t : Sparse α) (k : Nat) (v : α) (h : swf d t = true) : swf d (sput d t k v) = true := by
  unfold sput
  by_cases hv : v = d
  · simp [hv, swf_sdel, h]
  · simp only [hv, if_false]; exact swf_sins d _ k v hv (sdel_ne t k) (swf_sdel d t k h)

/-! ## Memory -/

@[simp] theorem Memory.byte_setByte (m : Memory) (k : Nat) (b : Byte) (j : Nat) :
    (m.setByte k b).byte j = if j = k then b else m.byte j := sget_sput 0 m k b j

theorem Memory.setByte_wf (m : Memory) (k : Nat) (b : Byte) (h : m.wf = true) : (m.setByte k b).wf = true := swf_sput 0 m k b h

theorem Memory.maskByte_wf (m : Memory) (k : Nat) (a b : Byte) (h : m.wf = true) : (m.maskByte k a b).wf = true :=
  Memory.setByte_wf m k _ h

theorem Memory.setBytes_wf (m : Memory) (k : Nat) (bs : List Byte) (h : m.wf = true) : (m.setBytes k bs).wf = true := by
  induction bs generalizing m k with
  | nil => exact h
  | cons b t ih => exact ih _ _ (Memory.setByte_wf m k b h)

/-- A write of some bytes gives them back and leaves every other byte. -/
theorem Memory.byte_setBytes (m : Memory) (k : Nat) (bs : List Byte) (j : Nat) :
    (m.setBytes k bs).byte j = if k ≤ j ∧ j < k + bs.length then bs.getD (j - k) 0 else m.byte j := by
  induction bs generalizing m k with
  | nil => simp [Memory.setBytes]
  | cons b t ih =>
    simp only [Memory.setBytes, ih, Memory.byte_setByte, List.length_cons]
    by_cases hj : j = k
    · subst hj; simp
    · by_cases h : k + 1 ≤ j ∧ j < k + 1 + t.length
      · have h2 : k ≤ j ∧ j < k + (t.length + 1) := by omega
        have h3 : j - k = (j - (k + 1)) + 1 := by omega
        simp only [h, h2, and_self, if_true, h3, List.getD_cons_succ]
      · have h2 : ¬ (k ≤ j ∧ j < k + (t.length + 1)) := by omega
        rw [if_neg h, if_neg h2, if_neg hj]

end Sys2Proof.Machine
end

