-- ==== Sys2Proof/Laws/State.lean ====
section
/-! SUPPORT. One lemma for each field under each update of the state and of a team, and reads after updates, so that no proof unfolds a
record update. -/

namespace Sys2Proof.Machine

/-! ## Fields of the state -/

@[simp] theorem State.setTeam_agenda (s : State) (n : Nat) (t : Team) : (s.setTeam n t).agenda = s.agenda := rfl
@[simp] theorem State.setTeam_cur (s : State) (n : Nat) (t : Team) : (s.setTeam n t).cur = s.cur := rfl
@[simp] theorem State.setTeam_nextId (s : State) (n : Nat) (t : Team) : (s.setTeam n t).nextId = s.nextId := rfl
@[simp] theorem State.setTeam_freeCount (s : State) (n : Nat) (t : Team) : (s.setTeam n t).freeCount = s.freeCount := rfl
@[simp] theorem State.setTeam_hostLog (s : State) (n : Nat) (t : Team) : (s.setTeam n t).hostLog = s.hostLog := rfl
@[simp] theorem State.setTeam_teams (s : State) (n : Nat) (t : Team) : (s.setTeam n t).teams = sput none s.teams n (some t) := rfl
@[simp] theorem State.setTeam_groups (s : State) (n : Nat) (t : Team) : (s.setTeam n t).groups = s.groups := rfl
@[simp] theorem State.setTeam_cores (s : State) (n : Nat) (t : Team) : (s.setTeam n t).cores = s.cores := rfl
@[simp] theorem State.setTeam_ops (s : State) (n : Nat) (t : Team) : (s.setTeam n t).ops = s.ops := rfl
@[simp] theorem State.setTeam_semWaiters (s : State) (n : Nat) (t : Team) : (s.setTeam n t).semWaiters = s.semWaiters := rfl
@[simp] theorem State.setTeam_locks (s : State) (n : Nat) (t : Team) : (s.setTeam n t).locks = s.locks := rfl
@[simp] theorem State.setTeam_mem (s : State) (n : Nat) (t : Team) : (s.setTeam n t).mem = s.mem := rfl
@[simp] theorem State.setTeam_marks (s : State) (n : Nat) (t : Team) : (s.setTeam n t).marks = s.marks := rfl
@[simp] theorem State.setTeam_vaultSplit (s : State) (n : Nat) (t : Team) : (s.setTeam n t).vaultSplit = s.vaultSplit := rfl
@[simp] theorem State.setTeam_parts (s : State) (n : Nat) (t : Team) : (s.setTeam n t).parts = s.parts := rfl
@[simp] theorem State.setTeam_dies (s : State) (n : Nat) (t : Team) : (s.setTeam n t).dies = s.dies := rfl
@[simp] theorem State.setTeam_launches (s : State) (n : Nat) (t : Team) : (s.setTeam n t).launches = s.launches := rfl
@[simp] theorem State.setTeam_objects (s : State) (n : Nat) (t : Team) : (s.setTeam n t).objects = s.objects := rfl
@[simp] theorem State.setTeam_journal (s : State) (n : Nat) (t : Team) : (s.setTeam n t).journal = s.journal := rfl
@[simp] theorem State.setTeam_fabric (s : State) (n : Nat) (t : Team) : (s.setTeam n t).fabric = s.fabric := rfl
@[simp] theorem State.setTeam_board (s : State) (n : Nat) (t : Team) : (s.setTeam n t).board = s.board := rfl
@[simp] theorem State.setGroup_agenda (s : State) (n : Nat) (g : Group) : (s.setGroup n g).agenda = s.agenda := rfl
@[simp] theorem State.setGroup_cur (s : State) (n : Nat) (g : Group) : (s.setGroup n g).cur = s.cur := rfl
@[simp] theorem State.setGroup_nextId (s : State) (n : Nat) (g : Group) : (s.setGroup n g).nextId = s.nextId := rfl
@[simp] theorem State.setGroup_freeCount (s : State) (n : Nat) (g : Group) : (s.setGroup n g).freeCount = s.freeCount := rfl
@[simp] theorem State.setGroup_hostLog (s : State) (n : Nat) (g : Group) : (s.setGroup n g).hostLog = s.hostLog := rfl
@[simp] theorem State.setGroup_teams (s : State) (n : Nat) (g : Group) : (s.setGroup n g).teams = s.teams := rfl
@[simp] theorem State.setGroup_groups (s : State) (n : Nat) (g : Group) : (s.setGroup n g).groups = sput none s.groups n (some g) := rfl
@[simp] theorem State.setGroup_cores (s : State) (n : Nat) (g : Group) : (s.setGroup n g).cores = s.cores := rfl
@[simp] theorem State.setGroup_ops (s : State) (n : Nat) (g : Group) : (s.setGroup n g).ops = s.ops := rfl
@[simp] theorem State.setGroup_semWaiters (s : State) (n : Nat) (g : Group) : (s.setGroup n g).semWaiters = s.semWaiters := rfl
@[simp] theorem State.setGroup_locks (s : State) (n : Nat) (g : Group) : (s.setGroup n g).locks = s.locks := rfl
@[simp] theorem State.setGroup_mem (s : State) (n : Nat) (g : Group) : (s.setGroup n g).mem = s.mem := rfl
@[simp] theorem State.setGroup_marks (s : State) (n : Nat) (g : Group) : (s.setGroup n g).marks = s.marks := rfl
@[simp] theorem State.setGroup_vaultSplit (s : State) (n : Nat) (g : Group) : (s.setGroup n g).vaultSplit = s.vaultSplit := rfl
@[simp] theorem State.setGroup_parts (s : State) (n : Nat) (g : Group) : (s.setGroup n g).parts = s.parts := rfl
@[simp] theorem State.setGroup_dies (s : State) (n : Nat) (g : Group) : (s.setGroup n g).dies = s.dies := rfl
@[simp] theorem State.setGroup_launches (s : State) (n : Nat) (g : Group) : (s.setGroup n g).launches = s.launches := rfl
@[simp] theorem State.setGroup_objects (s : State) (n : Nat) (g : Group) : (s.setGroup n g).objects = s.objects := rfl
@[simp] theorem State.setGroup_journal (s : State) (n : Nat) (g : Group) : (s.setGroup n g).journal = s.journal := rfl
@[simp] theorem State.setGroup_fabric (s : State) (n : Nat) (g : Group) : (s.setGroup n g).fabric = s.fabric := rfl
@[simp] theorem State.setGroup_board (s : State) (n : Nat) (g : Group) : (s.setGroup n g).board = s.board := rfl
@[simp] theorem State.setLaunch_agenda (s : State) (n : Nat) (l : Launch) : (s.setLaunch n l).agenda = s.agenda := rfl
@[simp] theorem State.setLaunch_cur (s : State) (n : Nat) (l : Launch) : (s.setLaunch n l).cur = s.cur := rfl
@[simp] theorem State.setLaunch_nextId (s : State) (n : Nat) (l : Launch) : (s.setLaunch n l).nextId = s.nextId := rfl
@[simp] theorem State.setLaunch_freeCount (s : State) (n : Nat) (l : Launch) : (s.setLaunch n l).freeCount = s.freeCount := rfl
@[simp] theorem State.setLaunch_hostLog (s : State) (n : Nat) (l : Launch) : (s.setLaunch n l).hostLog = s.hostLog := rfl
@[simp] theorem State.setLaunch_teams (s : State) (n : Nat) (l : Launch) : (s.setLaunch n l).teams = s.teams := rfl
@[simp] theorem State.setLaunch_groups (s : State) (n : Nat) (l : Launch) : (s.setLaunch n l).groups = s.groups := rfl
@[simp] theorem State.setLaunch_cores (s : State) (n : Nat) (l : Launch) : (s.setLaunch n l).cores = s.cores := rfl
@[simp] theorem State.setLaunch_ops (s : State) (n : Nat) (l : Launch) : (s.setLaunch n l).ops = s.ops := rfl
@[simp] theorem State.setLaunch_semWaiters (s : State) (n : Nat) (l : Launch) : (s.setLaunch n l).semWaiters = s.semWaiters := rfl
@[simp] theorem State.setLaunch_locks (s : State) (n : Nat) (l : Launch) : (s.setLaunch n l).locks = s.locks := rfl
@[simp] theorem State.setLaunch_mem (s : State) (n : Nat) (l : Launch) : (s.setLaunch n l).mem = s.mem := rfl
@[simp] theorem State.setLaunch_marks (s : State) (n : Nat) (l : Launch) : (s.setLaunch n l).marks = s.marks := rfl
@[simp] theorem State.setLaunch_vaultSplit (s : State) (n : Nat) (l : Launch) : (s.setLaunch n l).vaultSplit = s.vaultSplit := rfl
@[simp] theorem State.setLaunch_parts (s : State) (n : Nat) (l : Launch) : (s.setLaunch n l).parts = s.parts := rfl
@[simp] theorem State.setLaunch_dies (s : State) (n : Nat) (l : Launch) : (s.setLaunch n l).dies = s.dies := rfl
@[simp] theorem State.setLaunch_launches (s : State) (n : Nat) (l : Launch) : (s.setLaunch n l).launches = sput none s.launches n (some l) := rfl
@[simp] theorem State.setLaunch_objects (s : State) (n : Nat) (l : Launch) : (s.setLaunch n l).objects = s.objects := rfl
@[simp] theorem State.setLaunch_journal (s : State) (n : Nat) (l : Launch) : (s.setLaunch n l).journal = s.journal := rfl
@[simp] theorem State.setLaunch_fabric (s : State) (n : Nat) (l : Launch) : (s.setLaunch n l).fabric = s.fabric := rfl
@[simp] theorem State.setLaunch_board (s : State) (n : Nat) (l : Launch) : (s.setLaunch n l).board = s.board := rfl
@[simp] theorem State.onCore_agenda (s : State) (c : Nat) (f : CoreState → CoreState) : (s.onCore c f).agenda = s.agenda := rfl
@[simp] theorem State.onCore_cur (s : State) (c : Nat) (f : CoreState → CoreState) : (s.onCore c f).cur = s.cur := rfl
@[simp] theorem State.onCore_nextId (s : State) (c : Nat) (f : CoreState → CoreState) : (s.onCore c f).nextId = s.nextId := rfl
@[simp] theorem State.onCore_freeCount (s : State) (c : Nat) (f : CoreState → CoreState) : (s.onCore c f).freeCount = s.freeCount := rfl
@[simp] theorem State.onCore_hostLog (s : State) (c : Nat) (f : CoreState → CoreState) : (s.onCore c f).hostLog = s.hostLog := rfl
@[simp] theorem State.onCore_teams (s : State) (c : Nat) (f : CoreState → CoreState) : (s.onCore c f).teams = s.teams := rfl
@[simp] theorem State.onCore_groups (s : State) (c : Nat) (f : CoreState → CoreState) : (s.onCore c f).groups = s.groups := rfl
@[simp] theorem State.onCore_cores (s : State) (c : Nat) (f : CoreState → CoreState) : (s.onCore c f).cores = sput CoreState.reset s.cores c (f (s.core c)) := rfl
@[simp] theorem State.onCore_ops (s : State) (c : Nat) (f : CoreState → CoreState) : (s.onCore c f).ops = s.ops := rfl
@[simp] theorem State.onCore_semWaiters (s : State) (c : Nat) (f : CoreState → CoreState) : (s.onCore c f).semWaiters = s.semWaiters := rfl
@[simp] theorem State.onCore_locks (s : State) (c : Nat) (f : CoreState → CoreState) : (s.onCore c f).locks = s.locks := rfl
@[simp] theorem State.onCore_mem (s : State) (c : Nat) (f : CoreState → CoreState) : (s.onCore c f).mem = s.mem := rfl
@[simp] theorem State.onCore_marks (s : State) (c : Nat) (f : CoreState → CoreState) : (s.onCore c f).marks = s.marks := rfl
@[simp] theorem State.onCore_vaultSplit (s : State) (c : Nat) (f : CoreState → CoreState) : (s.onCore c f).vaultSplit = s.vaultSplit := rfl
@[simp] theorem State.onCore_parts (s : State) (c : Nat) (f : CoreState → CoreState) : (s.onCore c f).parts = s.parts := rfl
@[simp] theorem State.onCore_dies (s : State) (c : Nat) (f : CoreState → CoreState) : (s.onCore c f).dies = s.dies := rfl
@[simp] theorem State.onCore_launches (s : State) (c : Nat) (f : CoreState → CoreState) : (s.onCore c f).launches = s.launches := rfl
@[simp] theorem State.onCore_objects (s : State) (c : Nat) (f : CoreState → CoreState) : (s.onCore c f).objects = s.objects := rfl
@[simp] theorem State.onCore_journal (s : State) (c : Nat) (f : CoreState → CoreState) : (s.onCore c f).journal = s.journal := rfl
@[simp] theorem State.onCore_fabric (s : State) (c : Nat) (f : CoreState → CoreState) : (s.onCore c f).fabric = s.fabric := rfl
@[simp] theorem State.onCore_board (s : State) (c : Nat) (f : CoreState → CoreState) : (s.onCore c f).board = s.board := rfl
@[simp] theorem State.onPart_agenda (s : State) (p : Nat) (f : Partition → Partition) : (s.onPart p f).agenda = s.agenda := rfl
@[simp] theorem State.onPart_cur (s : State) (p : Nat) (f : Partition → Partition) : (s.onPart p f).cur = s.cur := rfl
@[simp] theorem State.onPart_nextId (s : State) (p : Nat) (f : Partition → Partition) : (s.onPart p f).nextId = s.nextId := rfl
@[simp] theorem State.onPart_freeCount (s : State) (p : Nat) (f : Partition → Partition) : (s.onPart p f).freeCount = s.freeCount := rfl
@[simp] theorem State.onPart_hostLog (s : State) (p : Nat) (f : Partition → Partition) : (s.onPart p f).hostLog = s.hostLog := rfl
@[simp] theorem State.onPart_teams (s : State) (p : Nat) (f : Partition → Partition) : (s.onPart p f).teams = s.teams := rfl
@[simp] theorem State.onPart_groups (s : State) (p : Nat) (f : Partition → Partition) : (s.onPart p f).groups = s.groups := rfl
@[simp] theorem State.onPart_cores (s : State) (p : Nat) (f : Partition → Partition) : (s.onPart p f).cores = s.cores := rfl
@[simp] theorem State.onPart_ops (s : State) (p : Nat) (f : Partition → Partition) : (s.onPart p f).ops = s.ops := rfl
@[simp] theorem State.onPart_semWaiters (s : State) (p : Nat) (f : Partition → Partition) : (s.onPart p f).semWaiters = s.semWaiters := rfl
@[simp] theorem State.onPart_locks (s : State) (p : Nat) (f : Partition → Partition) : (s.onPart p f).locks = s.locks := rfl
@[simp] theorem State.onPart_mem (s : State) (p : Nat) (f : Partition → Partition) : (s.onPart p f).mem = s.mem := rfl
@[simp] theorem State.onPart_marks (s : State) (p : Nat) (f : Partition → Partition) : (s.onPart p f).marks = s.marks := rfl
@[simp] theorem State.onPart_vaultSplit (s : State) (p : Nat) (f : Partition → Partition) : (s.onPart p f).vaultSplit = s.vaultSplit := rfl
@[simp] theorem State.onPart_parts (s : State) (p : Nat) (f : Partition → Partition) : (s.onPart p f).parts = sput Partition.reset s.parts p (f (s.part p)) := rfl
@[simp] theorem State.onPart_dies (s : State) (p : Nat) (f : Partition → Partition) : (s.onPart p f).dies = s.dies := rfl
@[simp] theorem State.onPart_launches (s : State) (p : Nat) (f : Partition → Partition) : (s.onPart p f).launches = s.launches := rfl
@[simp] theorem State.onPart_objects (s : State) (p : Nat) (f : Partition → Partition) : (s.onPart p f).objects = s.objects := rfl
@[simp] theorem State.onPart_journal (s : State) (p : Nat) (f : Partition → Partition) : (s.onPart p f).journal = s.journal := rfl
@[simp] theorem State.onPart_fabric (s : State) (p : Nat) (f : Partition → Partition) : (s.onPart p f).fabric = s.fabric := rfl
@[simp] theorem State.onPart_board (s : State) (p : Nat) (f : Partition → Partition) : (s.onPart p f).board = s.board := rfl
@[simp] theorem State.onDie_agenda (s : State) (n : Nat) (f : Die → Die) : (s.onDie n f).agenda = s.agenda := rfl
@[simp] theorem State.onDie_cur (s : State) (n : Nat) (f : Die → Die) : (s.onDie n f).cur = s.cur := rfl
@[simp] theorem State.onDie_nextId (s : State) (n : Nat) (f : Die → Die) : (s.onDie n f).nextId = s.nextId := rfl
@[simp] theorem State.onDie_freeCount (s : State) (n : Nat) (f : Die → Die) : (s.onDie n f).freeCount = s.freeCount := rfl
@[simp] theorem State.onDie_hostLog (s : State) (n : Nat) (f : Die → Die) : (s.onDie n f).hostLog = s.hostLog := rfl
@[simp] theorem State.onDie_teams (s : State) (n : Nat) (f : Die → Die) : (s.onDie n f).teams = s.teams := rfl
@[simp] theorem State.onDie_groups (s : State) (n : Nat) (f : Die → Die) : (s.onDie n f).groups = s.groups := rfl
@[simp] theorem State.onDie_cores (s : State) (n : Nat) (f : Die → Die) : (s.onDie n f).cores = s.cores := rfl
@[simp] theorem State.onDie_ops (s : State) (n : Nat) (f : Die → Die) : (s.onDie n f).ops = s.ops := rfl
@[simp] theorem State.onDie_semWaiters (s : State) (n : Nat) (f : Die → Die) : (s.onDie n f).semWaiters = s.semWaiters := rfl
@[simp] theorem State.onDie_locks (s : State) (n : Nat) (f : Die → Die) : (s.onDie n f).locks = s.locks := rfl
@[simp] theorem State.onDie_mem (s : State) (n : Nat) (f : Die → Die) : (s.onDie n f).mem = s.mem := rfl
@[simp] theorem State.onDie_marks (s : State) (n : Nat) (f : Die → Die) : (s.onDie n f).marks = s.marks := rfl
@[simp] theorem State.onDie_vaultSplit (s : State) (n : Nat) (f : Die → Die) : (s.onDie n f).vaultSplit = s.vaultSplit := rfl
@[simp] theorem State.onDie_parts (s : State) (n : Nat) (f : Die → Die) : (s.onDie n f).parts = s.parts := rfl
@[simp] theorem State.onDie_dies (s : State) (n : Nat) (f : Die → Die) : (s.onDie n f).dies = sput Die.reset s.dies n (f (s.die n)) := rfl
@[simp] theorem State.onDie_launches (s : State) (n : Nat) (f : Die → Die) : (s.onDie n f).launches = s.launches := rfl
@[simp] theorem State.onDie_objects (s : State) (n : Nat) (f : Die → Die) : (s.onDie n f).objects = s.objects := rfl
@[simp] theorem State.onDie_journal (s : State) (n : Nat) (f : Die → Die) : (s.onDie n f).journal = s.journal := rfl
@[simp] theorem State.onDie_fabric (s : State) (n : Nat) (f : Die → Die) : (s.onDie n f).fabric = s.fabric := rfl
@[simp] theorem State.onDie_board (s : State) (n : Nat) (f : Die → Die) : (s.onDie n f).board = s.board := rfl
@[simp] theorem State.tell_agenda (s : State) (e : HostEvent) : (s.tell e).agenda = s.agenda := rfl
@[simp] theorem State.tell_cur (s : State) (e : HostEvent) : (s.tell e).cur = s.cur := rfl
@[simp] theorem State.tell_nextId (s : State) (e : HostEvent) : (s.tell e).nextId = s.nextId := rfl
@[simp] theorem State.tell_freeCount (s : State) (e : HostEvent) : (s.tell e).freeCount = s.freeCount := rfl
@[simp] theorem State.tell_hostLog (s : State) (e : HostEvent) : (s.tell e).hostLog = s.hostLog ++ [e] := rfl
@[simp] theorem State.tell_teams (s : State) (e : HostEvent) : (s.tell e).teams = s.teams := rfl
@[simp] theorem State.tell_groups (s : State) (e : HostEvent) : (s.tell e).groups = s.groups := rfl
@[simp] theorem State.tell_cores (s : State) (e : HostEvent) : (s.tell e).cores = s.cores := rfl
@[simp] theorem State.tell_ops (s : State) (e : HostEvent) : (s.tell e).ops = s.ops := rfl
@[simp] theorem State.tell_semWaiters (s : State) (e : HostEvent) : (s.tell e).semWaiters = s.semWaiters := rfl
@[simp] theorem State.tell_locks (s : State) (e : HostEvent) : (s.tell e).locks = s.locks := rfl
@[simp] theorem State.tell_mem (s : State) (e : HostEvent) : (s.tell e).mem = s.mem := rfl
@[simp] theorem State.tell_marks (s : State) (e : HostEvent) : (s.tell e).marks = s.marks := rfl
@[simp] theorem State.tell_vaultSplit (s : State) (e : HostEvent) : (s.tell e).vaultSplit = s.vaultSplit := rfl
@[simp] theorem State.tell_parts (s : State) (e : HostEvent) : (s.tell e).parts = s.parts := rfl
@[simp] theorem State.tell_dies (s : State) (e : HostEvent) : (s.tell e).dies = s.dies := rfl
@[simp] theorem State.tell_launches (s : State) (e : HostEvent) : (s.tell e).launches = s.launches := rfl
@[simp] theorem State.tell_objects (s : State) (e : HostEvent) : (s.tell e).objects = s.objects := rfl
@[simp] theorem State.tell_journal (s : State) (e : HostEvent) : (s.tell e).journal = s.journal := rfl
@[simp] theorem State.tell_fabric (s : State) (e : HostEvent) : (s.tell e).fabric = s.fabric := rfl
@[simp] theorem State.tell_board (s : State) (e : HostEvent) : (s.tell e).board = s.board := rfl
@[simp] theorem State.setOp_agenda (s : State) (o : Op) : (s.setOp o).agenda = s.agenda := rfl
@[simp] theorem State.setOp_cur (s : State) (o : Op) : (s.setOp o).cur = s.cur := rfl
@[simp] theorem State.setOp_nextId (s : State) (o : Op) : (s.setOp o).nextId = s.nextId := rfl
@[simp] theorem State.setOp_freeCount (s : State) (o : Op) : (s.setOp o).freeCount = s.freeCount := rfl
@[simp] theorem State.setOp_hostLog (s : State) (o : Op) : (s.setOp o).hostLog = s.hostLog := rfl
@[simp] theorem State.setOp_teams (s : State) (o : Op) : (s.setOp o).teams = s.teams := rfl
@[simp] theorem State.setOp_groups (s : State) (o : Op) : (s.setOp o).groups = s.groups := rfl
@[simp] theorem State.setOp_cores (s : State) (o : Op) : (s.setOp o).cores = s.cores := rfl
@[simp] theorem State.setOp_ops (s : State) (o : Op) : (s.setOp o).ops = s.ops.map fun p => if p.id == o.id then o else p := rfl
@[simp] theorem State.setOp_semWaiters (s : State) (o : Op) : (s.setOp o).semWaiters = s.semWaiters := rfl
@[simp] theorem State.setOp_locks (s : State) (o : Op) : (s.setOp o).locks = s.locks := rfl
@[simp] theorem State.setOp_mem (s : State) (o : Op) : (s.setOp o).mem = s.mem := rfl
@[simp] theorem State.setOp_marks (s : State) (o : Op) : (s.setOp o).marks = s.marks := rfl
@[simp] theorem State.setOp_vaultSplit (s : State) (o : Op) : (s.setOp o).vaultSplit = s.vaultSplit := rfl
@[simp] theorem State.setOp_parts (s : State) (o : Op) : (s.setOp o).parts = s.parts := rfl
@[simp] theorem State.setOp_dies (s : State) (o : Op) : (s.setOp o).dies = s.dies := rfl
@[simp] theorem State.setOp_launches (s : State) (o : Op) : (s.setOp o).launches = s.launches := rfl
@[simp] theorem State.setOp_objects (s : State) (o : Op) : (s.setOp o).objects = s.objects := rfl
@[simp] theorem State.setOp_journal (s : State) (o : Op) : (s.setOp o).journal = s.journal := rfl
@[simp] theorem State.setOp_fabric (s : State) (o : Op) : (s.setOp o).fabric = s.fabric := rfl
@[simp] theorem State.setOp_board (s : State) (o : Op) : (s.setOp o).board = s.board := rfl
@[simp] theorem State.dropOp_agenda (s : State) (id : Nat) : (s.dropOp id).agenda = s.agenda := rfl
@[simp] theorem State.dropOp_cur (s : State) (id : Nat) : (s.dropOp id).cur = s.cur := rfl
@[simp] theorem State.dropOp_nextId (s : State) (id : Nat) : (s.dropOp id).nextId = s.nextId := rfl
@[simp] theorem State.dropOp_freeCount (s : State) (id : Nat) : (s.dropOp id).freeCount = s.freeCount := rfl
@[simp] theorem State.dropOp_hostLog (s : State) (id : Nat) : (s.dropOp id).hostLog = s.hostLog := rfl
@[simp] theorem State.dropOp_teams (s : State) (id : Nat) : (s.dropOp id).teams = s.teams := rfl
@[simp] theorem State.dropOp_groups (s : State) (id : Nat) : (s.dropOp id).groups = s.groups := rfl
@[simp] theorem State.dropOp_cores (s : State) (id : Nat) : (s.dropOp id).cores = s.cores := rfl
@[simp] theorem State.dropOp_ops (s : State) (id : Nat) : (s.dropOp id).ops = s.ops.filter fun o => o.id != id := rfl
@[simp] theorem State.dropOp_semWaiters (s : State) (id : Nat) : (s.dropOp id).semWaiters = s.semWaiters := rfl
@[simp] theorem State.dropOp_locks (s : State) (id : Nat) : (s.dropOp id).locks = s.locks := rfl
@[simp] theorem State.dropOp_mem (s : State) (id : Nat) : (s.dropOp id).mem = s.mem := rfl
@[simp] theorem State.dropOp_marks (s : State) (id : Nat) : (s.dropOp id).marks = s.marks := rfl
@[simp] theorem State.dropOp_vaultSplit (s : State) (id : Nat) : (s.dropOp id).vaultSplit = s.vaultSplit := rfl
@[simp] theorem State.dropOp_parts (s : State) (id : Nat) : (s.dropOp id).parts = s.parts := rfl
@[simp] theorem State.dropOp_dies (s : State) (id : Nat) : (s.dropOp id).dies = s.dies := rfl
@[simp] theorem State.dropOp_launches (s : State) (id : Nat) : (s.dropOp id).launches = s.launches := rfl
@[simp] theorem State.dropOp_objects (s : State) (id : Nat) : (s.dropOp id).objects = s.objects := rfl
@[simp] theorem State.dropOp_journal (s : State) (id : Nat) : (s.dropOp id).journal = s.journal := rfl
@[simp] theorem State.dropOp_fabric (s : State) (id : Nat) : (s.dropOp id).fabric = s.fabric := rfl
@[simp] theorem State.dropOp_board (s : State) (id : Nat) : (s.dropOp id).board = s.board := rfl

/-! ## Reads after updates -/

@[simp] theorem State.team?_setTeam (s : State) (n : Nat) (t : Team) : (s.setTeam n t).team? n = some t := by
  simp [State.team?]
theorem State.team?_setTeam_ne (s : State) {n m : Nat} (t : Team) (h : m ≠ n) : (s.setTeam n t).team? m = s.team? m := by
  simp [State.team?, sget_sput_ne, h]
@[simp] theorem State.group?_setGroup (s : State) (n : Nat) (g : Group) : (s.setGroup n g).group? n = some g := by
  simp [State.group?]
theorem State.group?_setGroup_ne (s : State) {n m : Nat} (g : Group) (h : m ≠ n) : (s.setGroup n g).group? m = s.group? m := by
  simp [State.group?, sget_sput_ne, h]
@[simp] theorem State.core_onCore (s : State) (c : Nat) (f : CoreState → CoreState) : (s.onCore c f).core c = f (s.core c) := by
  simp [State.core]
theorem State.core_onCore_ne (s : State) {c d : Nat} (f : CoreState → CoreState) (h : d ≠ c) : (s.onCore c f).core d = s.core d := by
  simp [State.core, sget_sput_ne, h]
@[simp] theorem State.part_onPart (s : State) (p : Nat) (f : Partition → Partition) : (s.onPart p f).part p = f (s.part p) := by
  simp [State.part]
theorem State.part_onPart_ne (s : State) {p q : Nat} (f : Partition → Partition) (h : q ≠ p) : (s.onPart p f).part q = s.part q := by
  simp [State.part, sget_sput_ne, h]
@[simp] theorem State.die_onDie (s : State) (n : Nat) (f : Die → Die) : (s.onDie n f).die n = f (s.die n) := by
  simp [State.die]
theorem State.die_onDie_ne (s : State) {n m : Nat} (f : Die → Die) (h : m ≠ n) : (s.onDie n f).die m = s.die m := by
  simp [State.die, sget_sput_ne, h]
@[simp] theorem State.launch?_setLaunch (s : State) (n : Nat) (l : Launch) : (s.setLaunch n l).launch? n = some l := by
  simp [State.launch?]
theorem State.onTeam_some {s : State} {n : Nat} {t : Team} (h : s.team? n = some t) (f : Team → Team) :
    s.onTeam n f = s.setTeam n (f t) := by
  simp [State.onTeam, h]
theorem State.onGroup_some {s : State} {n : Nat} {g : Group} (h : s.group? n = some g) (f : Group → Group) :
    s.onGroup n f = s.setGroup n (f g) := by
  simp [State.onGroup, h]
@[simp] theorem State.team?_onCore (s : State) (c : Nat) (f : CoreState → CoreState) (n : Nat) : (s.onCore c f).team? n = s.team? n := rfl
@[simp] theorem State.team?_onPart (s : State) (p : Nat) (f : Partition → Partition) (n : Nat) : (s.onPart p f).team? n = s.team? n := rfl
@[simp] theorem State.team?_onDie (s : State) (p : Nat) (f : Die → Die) (n : Nat) : (s.onDie p f).team? n = s.team? n := rfl
@[simp] theorem State.team?_setGroup (s : State) (p : Nat) (g : Group) (n : Nat) : (s.setGroup p g).team? n = s.team? n := rfl
@[simp] theorem State.core_setTeam (s : State) (n : Nat) (t : Team) (c : Nat) : (s.setTeam n t).core c = s.core c := rfl
@[simp] theorem State.part_setTeam (s : State) (n : Nat) (t : Team) (p : Nat) : (s.setTeam n t).part p = s.part p := rfl
@[simp] theorem State.die_setTeam (s : State) (n : Nat) (t : Team) (d : Nat) : (s.setTeam n t).die d = s.die d := rfl
@[simp] theorem State.group?_setTeam (s : State) (n : Nat) (t : Team) (g : Nat) : (s.setTeam n t).group? g = s.group? g := rfl

/-! ## Fields of a team -/

@[simp] theorem Team.pokeS_core (t : Team) (r : Nat) (v : Word) : (t.pokeS r v).core = t.core := rfl
@[simp] theorem Team.pokeS_quad (t : Team) (r : Nat) (v : Word) : (t.pokeS r v).quad = t.quad := rfl
@[simp] theorem Team.pokeS_group (t : Team) (r : Nat) (v : Word) : (t.pokeS r v).group = t.group := rfl
@[simp] theorem Team.pokeS_tidx (t : Team) (r : Nat) (v : Word) : (t.pokeS r v).tidx = t.tidx := rfl
@[simp] theorem Team.pokeS_beats (t : Team) (r : Nat) (v : Word) : (t.pokeS r v).beats = t.beats := rfl
@[simp] theorem Team.pokeS_nvregs (t : Team) (r : Nat) (v : Word) : (t.pokeS r v).nvregs = t.nvregs := rfl
@[simp] theorem Team.pokeS_role (t : Team) (r : Nat) (v : Word) : (t.pokeS r v).role = t.role := rfl
@[simp] theorem Team.pokeS_status (t : Team) (r : Nat) (v : Word) : (t.pokeS r v).status = t.status := rfl
@[simp] theorem Team.pokeS_service (t : Team) (r : Nat) (v : Word) : (t.pokeS r v).service = t.service := rfl
@[simp] theorem Team.pokeS_pc (t : Team) (r : Nat) (v : Word) : (t.pokeS r v).pc = t.pc := rfl
@[simp] theorem Team.pokeS_mode (t : Team) (r : Nat) (v : Word) : (t.pokeS r v).mode = t.mode := rfl
@[simp] theorem Team.pokeS_akind (t : Team) (r : Nat) (v : Word) : (t.pokeS r v).akind = t.akind := rfl
@[simp] theorem Team.pokeS_pmcount (t : Team) (r : Nat) (v : Word) : (t.pokeS r v).pmcount = t.pmcount := rfl
@[simp] theorem Team.pokeS_ctl (t : Team) (r : Nat) (v : Word) : (t.pokeS r v).ctl = t.ctl := rfl
@[simp] theorem Team.pokeS_fmt (t : Team) (r : Nat) (v : Word) : (t.pokeS r v).fmt = t.fmt := rfl
@[simp] theorem Team.pokeS_mxm (t : Team) (r : Nat) (v : Word) : (t.pokeS r v).mxm = t.mxm := rfl
@[simp] theorem Team.pokeS_latch (t : Team) (r : Nat) (v : Word) : (t.pokeS r v).latch = t.latch := rfl
@[simp] theorem Team.pokeS_report (t : Team) (r : Nat) (v : Word) : (t.pokeS r v).report = t.report := rfl
@[simp] theorem Team.pokeS_frcur (t : Team) (r : Nat) (v : Word) : (t.pokeS r v).frcur = t.frcur := rfl
@[simp] theorem Team.pokeS_frBase (t : Team) (r : Nat) (v : Word) : (t.pokeS r v).frBase = t.frBase := rfl
@[simp] theorem Team.pokeS_frLog2 (t : Team) (r : Nat) (v : Word) : (t.pokeS r v).frLog2 = t.frLog2 := rfl
@[simp] theorem Team.pokeS_brtab (t : Team) (r : Nat) (v : Word) : (t.pokeS r v).brtab = t.brtab := rfl
@[simp] theorem Team.pokeS_lvidx (t : Team) (r : Nat) (v : Word) : (t.pokeS r v).lvidx = t.lvidx := rfl
@[simp] theorem Team.pokeS_lvext (t : Team) (r : Nat) (v : Word) : (t.pokeS r v).lvext = t.lvext := rfl
@[simp] theorem Team.pokeS_flight (t : Team) (r : Nat) (v : Word) : (t.pokeS r v).flight = t.flight := rfl
@[simp] theorem Team.pokeS_failures (t : Team) (r : Nat) (v : Word) : (t.pokeS r v).failures = t.failures := rfl
@[simp] theorem Team.pokeS_drains (t : Team) (r : Nat) (v : Word) : (t.pokeS r v).drains = t.drains := rfl
@[simp] theorem Team.pokeS_power (t : Team) (r : Nat) (v : Word) : (t.pokeS r v).power = t.power := rfl
@[simp] theorem Team.pokeS_powerAt (t : Team) (r : Nat) (v : Word) : (t.pokeS r v).powerAt = t.powerAt := rfl
@[simp] theorem Team.pokeS_request (t : Team) (r : Nat) (v : Word) : (t.pokeS r v).request = t.request := rfl
@[simp] theorem Team.pokeS_fence (t : Team) (r : Nat) (v : Word) : (t.pokeS r v).fence = t.fence := rfl
@[simp] theorem Team.pokeS_sched (t : Team) (r : Nat) (v : Word) : (t.pokeS r v).sched = t.sched := rfl
@[simp] theorem Team.wv_core (t : Team) (r : Nat) (f : Nat → Option Lane) : (t.wv r f).core = t.core := rfl
@[simp] theorem Team.wv_quad (t : Team) (r : Nat) (f : Nat → Option Lane) : (t.wv r f).quad = t.quad := rfl
@[simp] theorem Team.wv_group (t : Team) (r : Nat) (f : Nat → Option Lane) : (t.wv r f).group = t.group := rfl
@[simp] theorem Team.wv_tidx (t : Team) (r : Nat) (f : Nat → Option Lane) : (t.wv r f).tidx = t.tidx := rfl
@[simp] theorem Team.wv_beats (t : Team) (r : Nat) (f : Nat → Option Lane) : (t.wv r f).beats = t.beats := rfl
@[simp] theorem Team.wv_nvregs (t : Team) (r : Nat) (f : Nat → Option Lane) : (t.wv r f).nvregs = t.nvregs := rfl
@[simp] theorem Team.wv_role (t : Team) (r : Nat) (f : Nat → Option Lane) : (t.wv r f).role = t.role := rfl
@[simp] theorem Team.wv_status (t : Team) (r : Nat) (f : Nat → Option Lane) : (t.wv r f).status = t.status := rfl
@[simp] theorem Team.wv_service (t : Team) (r : Nat) (f : Nat → Option Lane) : (t.wv r f).service = t.service := rfl
@[simp] theorem Team.wv_pc (t : Team) (r : Nat) (f : Nat → Option Lane) : (t.wv r f).pc = t.pc := rfl
@[simp] theorem Team.wv_mode (t : Team) (r : Nat) (f : Nat → Option Lane) : (t.wv r f).mode = t.mode := rfl
@[simp] theorem Team.wv_akind (t : Team) (r : Nat) (f : Nat → Option Lane) : (t.wv r f).akind = t.akind := rfl
@[simp] theorem Team.wv_pmcount (t : Team) (r : Nat) (f : Nat → Option Lane) : (t.wv r f).pmcount = t.pmcount := rfl
@[simp] theorem Team.wv_ctl (t : Team) (r : Nat) (f : Nat → Option Lane) : (t.wv r f).ctl = t.ctl := rfl
@[simp] theorem Team.wv_fmt (t : Team) (r : Nat) (f : Nat → Option Lane) : (t.wv r f).fmt = t.fmt := rfl
@[simp] theorem Team.wv_mxm (t : Team) (r : Nat) (f : Nat → Option Lane) : (t.wv r f).mxm = t.mxm := rfl
@[simp] theorem Team.wv_latch (t : Team) (r : Nat) (f : Nat → Option Lane) : (t.wv r f).latch = t.latch := rfl
@[simp] theorem Team.wv_report (t : Team) (r : Nat) (f : Nat → Option Lane) : (t.wv r f).report = t.report := rfl
@[simp] theorem Team.wv_frcur (t : Team) (r : Nat) (f : Nat → Option Lane) : (t.wv r f).frcur = t.frcur := rfl
@[simp] theorem Team.wv_frBase (t : Team) (r : Nat) (f : Nat → Option Lane) : (t.wv r f).frBase = t.frBase := rfl
@[simp] theorem Team.wv_frLog2 (t : Team) (r : Nat) (f : Nat → Option Lane) : (t.wv r f).frLog2 = t.frLog2 := rfl
@[simp] theorem Team.wv_brtab (t : Team) (r : Nat) (f : Nat → Option Lane) : (t.wv r f).brtab = t.brtab := rfl
@[simp] theorem Team.wv_lvidx (t : Team) (r : Nat) (f : Nat → Option Lane) : (t.wv r f).lvidx = t.lvidx := rfl
@[simp] theorem Team.wv_lvext (t : Team) (r : Nat) (f : Nat → Option Lane) : (t.wv r f).lvext = t.lvext := rfl
@[simp] theorem Team.wv_flight (t : Team) (r : Nat) (f : Nat → Option Lane) : (t.wv r f).flight = t.flight := rfl
@[simp] theorem Team.wv_failures (t : Team) (r : Nat) (f : Nat → Option Lane) : (t.wv r f).failures = t.failures := rfl
@[simp] theorem Team.wv_drains (t : Team) (r : Nat) (f : Nat → Option Lane) : (t.wv r f).drains = t.drains := rfl
@[simp] theorem Team.wv_power (t : Team) (r : Nat) (f : Nat → Option Lane) : (t.wv r f).power = t.power := rfl
@[simp] theorem Team.wv_powerAt (t : Team) (r : Nat) (f : Nat → Option Lane) : (t.wv r f).powerAt = t.powerAt := rfl
@[simp] theorem Team.wv_request (t : Team) (r : Nat) (f : Nat → Option Lane) : (t.wv r f).request = t.request := rfl
@[simp] theorem Team.wv_fence (t : Team) (r : Nat) (f : Nat → Option Lane) : (t.wv r f).fence = t.fence := rfl
@[simp] theorem Team.wv_sched (t : Team) (r : Nat) (f : Nat → Option Lane) : (t.wv r f).sched = t.sched := rfl
@[simp] theorem Team.markV_core (t : Team) (e : Bool) (r : Nat) : (t.markV e r).core = t.core := rfl
@[simp] theorem Team.markV_quad (t : Team) (e : Bool) (r : Nat) : (t.markV e r).quad = t.quad := rfl
@[simp] theorem Team.markV_group (t : Team) (e : Bool) (r : Nat) : (t.markV e r).group = t.group := rfl
@[simp] theorem Team.markV_tidx (t : Team) (e : Bool) (r : Nat) : (t.markV e r).tidx = t.tidx := rfl
@[simp] theorem Team.markV_beats (t : Team) (e : Bool) (r : Nat) : (t.markV e r).beats = t.beats := rfl
@[simp] theorem Team.markV_nvregs (t : Team) (e : Bool) (r : Nat) : (t.markV e r).nvregs = t.nvregs := rfl
@[simp] theorem Team.markV_role (t : Team) (e : Bool) (r : Nat) : (t.markV e r).role = t.role := rfl
@[simp] theorem Team.markV_status (t : Team) (e : Bool) (r : Nat) : (t.markV e r).status = t.status := rfl
@[simp] theorem Team.markV_service (t : Team) (e : Bool) (r : Nat) : (t.markV e r).service = t.service := rfl
@[simp] theorem Team.markV_pc (t : Team) (e : Bool) (r : Nat) : (t.markV e r).pc = t.pc := rfl
@[simp] theorem Team.markV_mode (t : Team) (e : Bool) (r : Nat) : (t.markV e r).mode = t.mode := rfl
@[simp] theorem Team.markV_akind (t : Team) (e : Bool) (r : Nat) : (t.markV e r).akind = t.akind := rfl
@[simp] theorem Team.markV_pmcount (t : Team) (e : Bool) (r : Nat) : (t.markV e r).pmcount = t.pmcount := rfl
@[simp] theorem Team.markV_ctl (t : Team) (e : Bool) (r : Nat) : (t.markV e r).ctl = t.ctl := rfl
@[simp] theorem Team.markV_fmt (t : Team) (e : Bool) (r : Nat) : (t.markV e r).fmt = t.fmt := rfl
@[simp] theorem Team.markV_mxm (t : Team) (e : Bool) (r : Nat) : (t.markV e r).mxm = t.mxm := rfl
@[simp] theorem Team.markV_latch (t : Team) (e : Bool) (r : Nat) : (t.markV e r).latch = t.latch := rfl
@[simp] theorem Team.markV_report (t : Team) (e : Bool) (r : Nat) : (t.markV e r).report = t.report := rfl
@[simp] theorem Team.markV_frcur (t : Team) (e : Bool) (r : Nat) : (t.markV e r).frcur = t.frcur := rfl
@[simp] theorem Team.markV_frBase (t : Team) (e : Bool) (r : Nat) : (t.markV e r).frBase = t.frBase := rfl
@[simp] theorem Team.markV_frLog2 (t : Team) (e : Bool) (r : Nat) : (t.markV e r).frLog2 = t.frLog2 := rfl
@[simp] theorem Team.markV_brtab (t : Team) (e : Bool) (r : Nat) : (t.markV e r).brtab = t.brtab := rfl
@[simp] theorem Team.markV_lvidx (t : Team) (e : Bool) (r : Nat) : (t.markV e r).lvidx = t.lvidx := rfl
@[simp] theorem Team.markV_lvext (t : Team) (e : Bool) (r : Nat) : (t.markV e r).lvext = t.lvext := rfl
@[simp] theorem Team.markV_flight (t : Team) (e : Bool) (r : Nat) : (t.markV e r).flight = t.flight := rfl
@[simp] theorem Team.markV_failures (t : Team) (e : Bool) (r : Nat) : (t.markV e r).failures = t.failures := rfl
@[simp] theorem Team.markV_drains (t : Team) (e : Bool) (r : Nat) : (t.markV e r).drains = t.drains := rfl
@[simp] theorem Team.markV_power (t : Team) (e : Bool) (r : Nat) : (t.markV e r).power = t.power := rfl
@[simp] theorem Team.markV_powerAt (t : Team) (e : Bool) (r : Nat) : (t.markV e r).powerAt = t.powerAt := rfl
@[simp] theorem Team.markV_request (t : Team) (e : Bool) (r : Nat) : (t.markV e r).request = t.request := rfl
@[simp] theorem Team.markV_fence (t : Team) (e : Bool) (r : Nat) : (t.markV e r).fence = t.fence := rfl
@[simp] theorem Team.markV_sched (t : Team) (e : Bool) (r : Nat) : (t.markV e r).sched = t.sched := rfl
@[simp] theorem Team.launchOn_core (t : Team) (op : Nat) (ps : List Nat) : (t.launchOn op ps).core = t.core := rfl
@[simp] theorem Team.launchOn_quad (t : Team) (op : Nat) (ps : List Nat) : (t.launchOn op ps).quad = t.quad := rfl
@[simp] theorem Team.launchOn_group (t : Team) (op : Nat) (ps : List Nat) : (t.launchOn op ps).group = t.group := rfl
@[simp] theorem Team.launchOn_tidx (t : Team) (op : Nat) (ps : List Nat) : (t.launchOn op ps).tidx = t.tidx := rfl
@[simp] theorem Team.launchOn_beats (t : Team) (op : Nat) (ps : List Nat) : (t.launchOn op ps).beats = t.beats := rfl
@[simp] theorem Team.launchOn_nvregs (t : Team) (op : Nat) (ps : List Nat) : (t.launchOn op ps).nvregs = t.nvregs := rfl
@[simp] theorem Team.launchOn_role (t : Team) (op : Nat) (ps : List Nat) : (t.launchOn op ps).role = t.role := rfl
@[simp] theorem Team.launchOn_status (t : Team) (op : Nat) (ps : List Nat) : (t.launchOn op ps).status = t.status := rfl
@[simp] theorem Team.launchOn_service (t : Team) (op : Nat) (ps : List Nat) : (t.launchOn op ps).service = t.service := rfl
@[simp] theorem Team.launchOn_pc (t : Team) (op : Nat) (ps : List Nat) : (t.launchOn op ps).pc = t.pc := rfl
@[simp] theorem Team.launchOn_mode (t : Team) (op : Nat) (ps : List Nat) : (t.launchOn op ps).mode = t.mode := rfl
@[simp] theorem Team.launchOn_akind (t : Team) (op : Nat) (ps : List Nat) : (t.launchOn op ps).akind = t.akind := rfl
@[simp] theorem Team.launchOn_pmcount (t : Team) (op : Nat) (ps : List Nat) : (t.launchOn op ps).pmcount = t.pmcount := rfl
@[simp] theorem Team.launchOn_regs (t : Team) (op : Nat) (ps : List Nat) : (t.launchOn op ps).regs = t.regs := rfl
@[simp] theorem Team.launchOn_ctl (t : Team) (op : Nat) (ps : List Nat) : (t.launchOn op ps).ctl = t.ctl := rfl
@[simp] theorem Team.launchOn_fmt (t : Team) (op : Nat) (ps : List Nat) : (t.launchOn op ps).fmt = t.fmt := rfl
@[simp] theorem Team.launchOn_mxm (t : Team) (op : Nat) (ps : List Nat) : (t.launchOn op ps).mxm = t.mxm := rfl
@[simp] theorem Team.launchOn_latch (t : Team) (op : Nat) (ps : List Nat) : (t.launchOn op ps).latch = t.latch := rfl
@[simp] theorem Team.launchOn_report (t : Team) (op : Nat) (ps : List Nat) : (t.launchOn op ps).report = t.report := rfl
@[simp] theorem Team.launchOn_frcur (t : Team) (op : Nat) (ps : List Nat) : (t.launchOn op ps).frcur = t.frcur := rfl
@[simp] theorem Team.launchOn_frBase (t : Team) (op : Nat) (ps : List Nat) : (t.launchOn op ps).frBase = t.frBase := rfl
@[simp] theorem Team.launchOn_frLog2 (t : Team) (op : Nat) (ps : List Nat) : (t.launchOn op ps).frLog2 = t.frLog2 := rfl
@[simp] theorem Team.launchOn_brtab (t : Team) (op : Nat) (ps : List Nat) : (t.launchOn op ps).brtab = t.brtab := rfl
@[simp] theorem Team.launchOn_lvidx (t : Team) (op : Nat) (ps : List Nat) : (t.launchOn op ps).lvidx = t.lvidx := rfl
@[simp] theorem Team.launchOn_lvext (t : Team) (op : Nat) (ps : List Nat) : (t.launchOn op ps).lvext = t.lvext := rfl
@[simp] theorem Team.launchOn_failures (t : Team) (op : Nat) (ps : List Nat) : (t.launchOn op ps).failures = t.failures := rfl
@[simp] theorem Team.launchOn_drains (t : Team) (op : Nat) (ps : List Nat) : (t.launchOn op ps).drains = t.drains := rfl
@[simp] theorem Team.launchOn_power (t : Team) (op : Nat) (ps : List Nat) : (t.launchOn op ps).power = t.power := rfl
@[simp] theorem Team.launchOn_powerAt (t : Team) (op : Nat) (ps : List Nat) : (t.launchOn op ps).powerAt = t.powerAt := rfl
@[simp] theorem Team.launchOn_request (t : Team) (op : Nat) (ps : List Nat) : (t.launchOn op ps).request = t.request := rfl
@[simp] theorem Team.launchOn_fence (t : Team) (op : Nat) (ps : List Nat) : (t.launchOn op ps).fence = t.fence := rfl
@[simp] theorem Team.launchOn_sched (t : Team) (op : Nat) (ps : List Nat) : (t.launchOn op ps).sched = t.sched := rfl
@[simp] theorem Team.advance_core (t : Team) : t.advance.core = t.core := by unfold Team.advance; dsimp only; split <;> (try split) <;> rfl
@[simp] theorem Team.advance_quad (t : Team) : t.advance.quad = t.quad := by unfold Team.advance; dsimp only; split <;> (try split) <;> rfl
@[simp] theorem Team.advance_group (t : Team) : t.advance.group = t.group := by unfold Team.advance; dsimp only; split <;> (try split) <;> rfl
@[simp] theorem Team.advance_tidx (t : Team) : t.advance.tidx = t.tidx := by unfold Team.advance; dsimp only; split <;> (try split) <;> rfl
@[simp] theorem Team.advance_beats (t : Team) : t.advance.beats = t.beats := by unfold Team.advance; dsimp only; split <;> (try split) <;> rfl
@[simp] theorem Team.advance_nvregs (t : Team) : t.advance.nvregs = t.nvregs := by unfold Team.advance; dsimp only; split <;> (try split) <;> rfl
@[simp] theorem Team.advance_role (t : Team) : t.advance.role = t.role := by unfold Team.advance; dsimp only; split <;> (try split) <;> rfl
@[simp] theorem Team.advance_status (t : Team) : t.advance.status = t.status := by unfold Team.advance; dsimp only; split <;> (try split) <;> rfl
@[simp] theorem Team.advance_service (t : Team) : t.advance.service = t.service := by unfold Team.advance; dsimp only; split <;> (try split) <;> rfl
@[simp] theorem Team.advance_mode (t : Team) : t.advance.mode = t.mode := by unfold Team.advance; dsimp only; split <;> (try split) <;> rfl
@[simp] theorem Team.advance_akind (t : Team) : t.advance.akind = t.akind := by unfold Team.advance; dsimp only; split <;> (try split) <;> rfl
@[simp] theorem Team.advance_pmcount (t : Team) : t.advance.pmcount = t.pmcount := by unfold Team.advance; dsimp only; split <;> (try split) <;> rfl
@[simp] theorem Team.advance_regs (t : Team) : t.advance.regs = t.regs := by unfold Team.advance; dsimp only; split <;> (try split) <;> rfl
@[simp] theorem Team.advance_fmt (t : Team) : t.advance.fmt = t.fmt := by unfold Team.advance; dsimp only; split <;> (try split) <;> rfl
@[simp] theorem Team.advance_mxm (t : Team) : t.advance.mxm = t.mxm := by unfold Team.advance; dsimp only; split <;> (try split) <;> rfl
@[simp] theorem Team.advance_latch (t : Team) : t.advance.latch = t.latch := by unfold Team.advance; dsimp only; split <;> (try split) <;> rfl
@[simp] theorem Team.advance_report (t : Team) : t.advance.report = t.report := by unfold Team.advance; dsimp only; split <;> (try split) <;> rfl
@[simp] theorem Team.advance_frcur (t : Team) : t.advance.frcur = t.frcur := by unfold Team.advance; dsimp only; split <;> (try split) <;> rfl
@[simp] theorem Team.advance_frBase (t : Team) : t.advance.frBase = t.frBase := by unfold Team.advance; dsimp only; split <;> (try split) <;> rfl
@[simp] theorem Team.advance_frLog2 (t : Team) : t.advance.frLog2 = t.frLog2 := by unfold Team.advance; dsimp only; split <;> (try split) <;> rfl
@[simp] theorem Team.advance_brtab (t : Team) : t.advance.brtab = t.brtab := by unfold Team.advance; dsimp only; split <;> (try split) <;> rfl
@[simp] theorem Team.advance_lvidx (t : Team) : t.advance.lvidx = t.lvidx := by unfold Team.advance; dsimp only; split <;> (try split) <;> rfl
@[simp] theorem Team.advance_lvext (t : Team) : t.advance.lvext = t.lvext := by unfold Team.advance; dsimp only; split <;> (try split) <;> rfl
@[simp] theorem Team.advance_flight (t : Team) : t.advance.flight = t.flight := by unfold Team.advance; dsimp only; split <;> (try split) <;> rfl
@[simp] theorem Team.advance_failures (t : Team) : t.advance.failures = t.failures := by unfold Team.advance; dsimp only; split <;> (try split) <;> rfl
@[simp] theorem Team.advance_drains (t : Team) : t.advance.drains = t.drains := by unfold Team.advance; dsimp only; split <;> (try split) <;> rfl
@[simp] theorem Team.advance_power (t : Team) : t.advance.power = t.power := by unfold Team.advance; dsimp only; split <;> (try split) <;> rfl
@[simp] theorem Team.advance_powerAt (t : Team) : t.advance.power = t.power := by unfold Team.advance; dsimp only; split <;> (try split) <;> rfl
@[simp] theorem Team.advance_request (t : Team) : t.advance.request = t.request := by unfold Team.advance; dsimp only; split <;> (try split) <;> rfl
@[simp] theorem Team.advance_fence (t : Team) : t.advance.fence = t.fence := by unfold Team.advance; dsimp only; split <;> (try split) <;> rfl
@[simp] theorem Team.advance_sched (t : Team) : t.advance.sched = t.sched := by unfold Team.advance; dsimp only; split <;> (try split) <;> rfl
@[simp] theorem Team.goto_core (t : Team) (a : Dbl) : (t.goto a).core = t.core := rfl
@[simp] theorem Team.goto_quad (t : Team) (a : Dbl) : (t.goto a).quad = t.quad := rfl
@[simp] theorem Team.goto_group (t : Team) (a : Dbl) : (t.goto a).group = t.group := rfl
@[simp] theorem Team.goto_tidx (t : Team) (a : Dbl) : (t.goto a).tidx = t.tidx := rfl
@[simp] theorem Team.goto_beats (t : Team) (a : Dbl) : (t.goto a).beats = t.beats := rfl
@[simp] theorem Team.goto_nvregs (t : Team) (a : Dbl) : (t.goto a).nvregs = t.nvregs := rfl
@[simp] theorem Team.goto_role (t : Team) (a : Dbl) : (t.goto a).role = t.role := rfl
@[simp] theorem Team.goto_status (t : Team) (a : Dbl) : (t.goto a).status = t.status := rfl
@[simp] theorem Team.goto_service (t : Team) (a : Dbl) : (t.goto a).service = t.service := rfl
@[simp] theorem Team.goto_mode (t : Team) (a : Dbl) : (t.goto a).mode = t.mode := rfl
@[simp] theorem Team.goto_akind (t : Team) (a : Dbl) : (t.goto a).akind = t.akind := rfl
@[simp] theorem Team.goto_pmcount (t : Team) (a : Dbl) : (t.goto a).pmcount = t.pmcount := rfl
@[simp] theorem Team.goto_regs (t : Team) (a : Dbl) : (t.goto a).regs = t.regs := rfl
@[simp] theorem Team.goto_fmt (t : Team) (a : Dbl) : (t.goto a).fmt = t.fmt := rfl
@[simp] theorem Team.goto_mxm (t : Team) (a : Dbl) : (t.goto a).mxm = t.mxm := rfl
@[simp] theorem Team.goto_latch (t : Team) (a : Dbl) : (t.goto a).latch = t.latch := rfl
@[simp] theorem Team.goto_report (t : Team) (a : Dbl) : (t.goto a).report = t.report := rfl
@[simp] theorem Team.goto_frcur (t : Team) (a : Dbl) : (t.goto a).frcur = t.frcur := rfl
@[simp] theorem Team.goto_frBase (t : Team) (a : Dbl) : (t.goto a).frBase = t.frBase := rfl
@[simp] theorem Team.goto_frLog2 (t : Team) (a : Dbl) : (t.goto a).frLog2 = t.frLog2 := rfl
@[simp] theorem Team.goto_brtab (t : Team) (a : Dbl) : (t.goto a).brtab = t.brtab := rfl
@[simp] theorem Team.goto_lvidx (t : Team) (a : Dbl) : (t.goto a).lvidx = t.lvidx := rfl
@[simp] theorem Team.goto_lvext (t : Team) (a : Dbl) : (t.goto a).lvext = t.lvext := rfl
@[simp] theorem Team.goto_flight (t : Team) (a : Dbl) : (t.goto a).flight = t.flight := rfl
@[simp] theorem Team.goto_failures (t : Team) (a : Dbl) : (t.goto a).failures = t.failures := rfl
@[simp] theorem Team.goto_drains (t : Team) (a : Dbl) : (t.goto a).drains = t.drains := rfl
@[simp] theorem Team.goto_power (t : Team) (a : Dbl) : (t.goto a).power = t.power := rfl
@[simp] theorem Team.goto_powerAt (t : Team) (a : Dbl) : (t.goto a).powerAt = t.powerAt := rfl
@[simp] theorem Team.goto_request (t : Team) (a : Dbl) : (t.goto a).request = t.request := rfl
@[simp] theorem Team.goto_fence (t : Team) (a : Dbl) : (t.goto a).fence = t.fence := rfl
@[simp] theorem Team.goto_sched (t : Team) (a : Dbl) : (t.goto a).sched = t.sched := rfl
@[simp] theorem Team.ws_core (t : Team) (r : Nat) (v : Word) : (t.ws r v).core = t.core := by unfold Team.ws; split <;> (try split) <;> (try split) <;> rfl
@[simp] theorem Team.ws_quad (t : Team) (r : Nat) (v : Word) : (t.ws r v).quad = t.quad := by unfold Team.ws; split <;> (try split) <;> (try split) <;> rfl
@[simp] theorem Team.ws_group (t : Team) (r : Nat) (v : Word) : (t.ws r v).group = t.group := by unfold Team.ws; split <;> (try split) <;> (try split) <;> rfl
@[simp] theorem Team.ws_tidx (t : Team) (r : Nat) (v : Word) : (t.ws r v).tidx = t.tidx := by unfold Team.ws; split <;> (try split) <;> (try split) <;> rfl
@[simp] theorem Team.ws_beats (t : Team) (r : Nat) (v : Word) : (t.ws r v).beats = t.beats := by unfold Team.ws; split <;> (try split) <;> (try split) <;> rfl
@[simp] theorem Team.ws_nvregs (t : Team) (r : Nat) (v : Word) : (t.ws r v).nvregs = t.nvregs := by unfold Team.ws; split <;> (try split) <;> (try split) <;> rfl
@[simp] theorem Team.ws_role (t : Team) (r : Nat) (v : Word) : (t.ws r v).role = t.role := by unfold Team.ws; split <;> (try split) <;> (try split) <;> rfl
@[simp] theorem Team.ws_status (t : Team) (r : Nat) (v : Word) : (t.ws r v).status = t.status := by unfold Team.ws; split <;> (try split) <;> (try split) <;> rfl
@[simp] theorem Team.ws_service (t : Team) (r : Nat) (v : Word) : (t.ws r v).service = t.service := by unfold Team.ws; split <;> (try split) <;> (try split) <;> rfl
@[simp] theorem Team.ws_pc (t : Team) (r : Nat) (v : Word) : (t.ws r v).pc = t.pc := by unfold Team.ws; split <;> (try split) <;> (try split) <;> rfl
@[simp] theorem Team.ws_mode (t : Team) (r : Nat) (v : Word) : (t.ws r v).mode = t.mode := by unfold Team.ws; split <;> (try split) <;> (try split) <;> rfl
@[simp] theorem Team.ws_akind (t : Team) (r : Nat) (v : Word) : (t.ws r v).akind = t.akind := by unfold Team.ws; split <;> (try split) <;> (try split) <;> rfl
@[simp] theorem Team.ws_pmcount (t : Team) (r : Nat) (v : Word) : (t.ws r v).pmcount = t.pmcount := by unfold Team.ws; split <;> (try split) <;> (try split) <;> rfl
@[simp] theorem Team.ws_fmt (t : Team) (r : Nat) (v : Word) : (t.ws r v).fmt = t.fmt := by unfold Team.ws; split <;> (try split) <;> (try split) <;> rfl
@[simp] theorem Team.ws_mxm (t : Team) (r : Nat) (v : Word) : (t.ws r v).mxm = t.mxm := by unfold Team.ws; split <;> (try split) <;> (try split) <;> rfl
@[simp] theorem Team.ws_latch (t : Team) (r : Nat) (v : Word) : (t.ws r v).latch = t.latch := by unfold Team.ws; split <;> (try split) <;> (try split) <;> rfl
@[simp] theorem Team.ws_report (t : Team) (r : Nat) (v : Word) : (t.ws r v).report = t.report := by unfold Team.ws; split <;> (try split) <;> (try split) <;> rfl
@[simp] theorem Team.ws_frcur (t : Team) (r : Nat) (v : Word) : (t.ws r v).frcur = t.frcur := by unfold Team.ws; split <;> (try split) <;> (try split) <;> rfl
@[simp] theorem Team.ws_frBase (t : Team) (r : Nat) (v : Word) : (t.ws r v).frBase = t.frBase := by unfold Team.ws; split <;> (try split) <;> (try split) <;> rfl
@[simp] theorem Team.ws_frLog2 (t : Team) (r : Nat) (v : Word) : (t.ws r v).frLog2 = t.frLog2 := by unfold Team.ws; split <;> (try split) <;> (try split) <;> rfl
@[simp] theorem Team.ws_brtab (t : Team) (r : Nat) (v : Word) : (t.ws r v).brtab = t.brtab := by unfold Team.ws; split <;> (try split) <;> (try split) <;> rfl
@[simp] theorem Team.ws_lvidx (t : Team) (r : Nat) (v : Word) : (t.ws r v).lvidx = t.lvidx := by unfold Team.ws; split <;> (try split) <;> (try split) <;> rfl
@[simp] theorem Team.ws_lvext (t : Team) (r : Nat) (v : Word) : (t.ws r v).lvext = t.lvext := by unfold Team.ws; split <;> (try split) <;> (try split) <;> rfl
@[simp] theorem Team.ws_flight (t : Team) (r : Nat) (v : Word) : (t.ws r v).flight = t.flight := by unfold Team.ws; split <;> (try split) <;> (try split) <;> rfl
@[simp] theorem Team.ws_failures (t : Team) (r : Nat) (v : Word) : (t.ws r v).failures = t.failures := by unfold Team.ws; split <;> (try split) <;> (try split) <;> rfl
@[simp] theorem Team.ws_drains (t : Team) (r : Nat) (v : Word) : (t.ws r v).drains = t.drains := by unfold Team.ws; split <;> (try split) <;> (try split) <;> rfl
@[simp] theorem Team.ws_power (t : Team) (r : Nat) (v : Word) : (t.ws r v).power = t.power := by unfold Team.ws; split <;> (try split) <;> (try split) <;> rfl
@[simp] theorem Team.ws_powerAt (t : Team) (r : Nat) (v : Word) : (t.ws r v).powerAt = t.powerAt := by unfold Team.ws; split <;> (try split) <;> (try split) <;> rfl
@[simp] theorem Team.ws_request (t : Team) (r : Nat) (v : Word) : (t.ws r v).request = t.request := by unfold Team.ws; split <;> (try split) <;> (try split) <;> rfl
@[simp] theorem Team.ws_fence (t : Team) (r : Nat) (v : Word) : (t.ws r v).fence = t.fence := by unfold Team.ws; split <;> (try split) <;> (try split) <;> rfl
@[simp] theorem Team.ws_sched (t : Team) (r : Nat) (v : Word) : (t.ws r v).sched = t.sched := by unfold Team.ws; split <;> (try split) <;> (try split) <;> rfl
@[simp] theorem Team.goto_pc (t : Team) (a : Dbl) : (t.goto a).pc = a := rfl

/-- The PC after an instruction outside the end of an active loop's body (R34). -/
theorem Team.advance_pc (t : Team) (h : t.ctl.loop.active = false ∨ t.pc ≠ t.ctl.loop.last) : t.advance.pc = t.pc + 4 := by
  have hc : (t.ctl.loop.active && t.pc == t.ctl.loop.last) = false := by
    rcases h with h | h
    · simp [h]
    · have : (t.pc == t.ctl.loop.last) = false := by simpa using h
      simp [this]
  simp [Team.advance, hc]

end Sys2Proof.Machine
end

