-- ==== Sys2Proof/Laws/Device.lean ====
section
/-! SUPPORT. The device's own tables as changed one at a time: the journal, the fabric, the board; every other field is as before. -/

namespace Sys2Proof.Machine

@[simp] theorem State.onJournal_agenda (s : State) (f : Journal → Journal) : (s.onJournal f).agenda = s.agenda := rfl
@[simp] theorem State.onJournal_cur (s : State) (f : Journal → Journal) : (s.onJournal f).cur = s.cur := rfl
@[simp] theorem State.onJournal_nextId (s : State) (f : Journal → Journal) : (s.onJournal f).nextId = s.nextId := rfl
@[simp] theorem State.onJournal_freeCount (s : State) (f : Journal → Journal) : (s.onJournal f).freeCount = s.freeCount := rfl
@[simp] theorem State.onJournal_hostLog (s : State) (f : Journal → Journal) : (s.onJournal f).hostLog = s.hostLog := rfl
@[simp] theorem State.onJournal_teams (s : State) (f : Journal → Journal) : (s.onJournal f).teams = s.teams := rfl
@[simp] theorem State.onJournal_groups (s : State) (f : Journal → Journal) : (s.onJournal f).groups = s.groups := rfl
@[simp] theorem State.onJournal_cores (s : State) (f : Journal → Journal) : (s.onJournal f).cores = s.cores := rfl
@[simp] theorem State.onJournal_ops (s : State) (f : Journal → Journal) : (s.onJournal f).ops = s.ops := rfl
@[simp] theorem State.onJournal_semWaiters (s : State) (f : Journal → Journal) : (s.onJournal f).semWaiters = s.semWaiters := rfl
@[simp] theorem State.onJournal_locks (s : State) (f : Journal → Journal) : (s.onJournal f).locks = s.locks := rfl
@[simp] theorem State.onJournal_mem (s : State) (f : Journal → Journal) : (s.onJournal f).mem = s.mem := rfl
@[simp] theorem State.onJournal_marks (s : State) (f : Journal → Journal) : (s.onJournal f).marks = s.marks := rfl
@[simp] theorem State.onJournal_vaultSplit (s : State) (f : Journal → Journal) : (s.onJournal f).vaultSplit = s.vaultSplit := rfl
@[simp] theorem State.onJournal_parts (s : State) (f : Journal → Journal) : (s.onJournal f).parts = s.parts := rfl
@[simp] theorem State.onJournal_dies (s : State) (f : Journal → Journal) : (s.onJournal f).dies = s.dies := rfl
@[simp] theorem State.onJournal_launches (s : State) (f : Journal → Journal) : (s.onJournal f).launches = s.launches := rfl
@[simp] theorem State.onJournal_objects (s : State) (f : Journal → Journal) : (s.onJournal f).objects = s.objects := rfl
@[simp] theorem State.onJournal_journal (s : State) (f : Journal → Journal) : (s.onJournal f).journal = f s.journal := rfl
@[simp] theorem State.onJournal_fabric (s : State) (f : Journal → Journal) : (s.onJournal f).fabric = s.fabric := rfl
@[simp] theorem State.onJournal_board (s : State) (f : Journal → Journal) : (s.onJournal f).board = s.board := rfl
@[simp] theorem State.onFabric_agenda (s : State) (f : Fabric → Fabric) : (s.onFabric f).agenda = s.agenda := rfl
@[simp] theorem State.onFabric_cur (s : State) (f : Fabric → Fabric) : (s.onFabric f).cur = s.cur := rfl
@[simp] theorem State.onFabric_nextId (s : State) (f : Fabric → Fabric) : (s.onFabric f).nextId = s.nextId := rfl
@[simp] theorem State.onFabric_freeCount (s : State) (f : Fabric → Fabric) : (s.onFabric f).freeCount = s.freeCount := rfl
@[simp] theorem State.onFabric_hostLog (s : State) (f : Fabric → Fabric) : (s.onFabric f).hostLog = s.hostLog := rfl
@[simp] theorem State.onFabric_teams (s : State) (f : Fabric → Fabric) : (s.onFabric f).teams = s.teams := rfl
@[simp] theorem State.onFabric_groups (s : State) (f : Fabric → Fabric) : (s.onFabric f).groups = s.groups := rfl
@[simp] theorem State.onFabric_cores (s : State) (f : Fabric → Fabric) : (s.onFabric f).cores = s.cores := rfl
@[simp] theorem State.onFabric_ops (s : State) (f : Fabric → Fabric) : (s.onFabric f).ops = s.ops := rfl
@[simp] theorem State.onFabric_semWaiters (s : State) (f : Fabric → Fabric) : (s.onFabric f).semWaiters = s.semWaiters := rfl
@[simp] theorem State.onFabric_locks (s : State) (f : Fabric → Fabric) : (s.onFabric f).locks = s.locks := rfl
@[simp] theorem State.onFabric_mem (s : State) (f : Fabric → Fabric) : (s.onFabric f).mem = s.mem := rfl
@[simp] theorem State.onFabric_marks (s : State) (f : Fabric → Fabric) : (s.onFabric f).marks = s.marks := rfl
@[simp] theorem State.onFabric_vaultSplit (s : State) (f : Fabric → Fabric) : (s.onFabric f).vaultSplit = s.vaultSplit := rfl
@[simp] theorem State.onFabric_parts (s : State) (f : Fabric → Fabric) : (s.onFabric f).parts = s.parts := rfl
@[simp] theorem State.onFabric_dies (s : State) (f : Fabric → Fabric) : (s.onFabric f).dies = s.dies := rfl
@[simp] theorem State.onFabric_launches (s : State) (f : Fabric → Fabric) : (s.onFabric f).launches = s.launches := rfl
@[simp] theorem State.onFabric_objects (s : State) (f : Fabric → Fabric) : (s.onFabric f).objects = s.objects := rfl
@[simp] theorem State.onFabric_journal (s : State) (f : Fabric → Fabric) : (s.onFabric f).journal = s.journal := rfl
@[simp] theorem State.onFabric_fabric (s : State) (f : Fabric → Fabric) : (s.onFabric f).fabric = f s.fabric := rfl
@[simp] theorem State.onFabric_board (s : State) (f : Fabric → Fabric) : (s.onFabric f).board = s.board := rfl
@[simp] theorem State.onBoard_agenda (s : State) (f : Board → Board) : (s.onBoard f).agenda = s.agenda := rfl
@[simp] theorem State.onBoard_cur (s : State) (f : Board → Board) : (s.onBoard f).cur = s.cur := rfl
@[simp] theorem State.onBoard_nextId (s : State) (f : Board → Board) : (s.onBoard f).nextId = s.nextId := rfl
@[simp] theorem State.onBoard_freeCount (s : State) (f : Board → Board) : (s.onBoard f).freeCount = s.freeCount := rfl
@[simp] theorem State.onBoard_hostLog (s : State) (f : Board → Board) : (s.onBoard f).hostLog = s.hostLog := rfl
@[simp] theorem State.onBoard_teams (s : State) (f : Board → Board) : (s.onBoard f).teams = s.teams := rfl
@[simp] theorem State.onBoard_groups (s : State) (f : Board → Board) : (s.onBoard f).groups = s.groups := rfl
@[simp] theorem State.onBoard_cores (s : State) (f : Board → Board) : (s.onBoard f).cores = s.cores := rfl
@[simp] theorem State.onBoard_ops (s : State) (f : Board → Board) : (s.onBoard f).ops = s.ops := rfl
@[simp] theorem State.onBoard_semWaiters (s : State) (f : Board → Board) : (s.onBoard f).semWaiters = s.semWaiters := rfl
@[simp] theorem State.onBoard_locks (s : State) (f : Board → Board) : (s.onBoard f).locks = s.locks := rfl
@[simp] theorem State.onBoard_mem (s : State) (f : Board → Board) : (s.onBoard f).mem = s.mem := rfl
@[simp] theorem State.onBoard_marks (s : State) (f : Board → Board) : (s.onBoard f).marks = s.marks := rfl
@[simp] theorem State.onBoard_vaultSplit (s : State) (f : Board → Board) : (s.onBoard f).vaultSplit = s.vaultSplit := rfl
@[simp] theorem State.onBoard_parts (s : State) (f : Board → Board) : (s.onBoard f).parts = s.parts := rfl
@[simp] theorem State.onBoard_dies (s : State) (f : Board → Board) : (s.onBoard f).dies = s.dies := rfl
@[simp] theorem State.onBoard_launches (s : State) (f : Board → Board) : (s.onBoard f).launches = s.launches := rfl
@[simp] theorem State.onBoard_objects (s : State) (f : Board → Board) : (s.onBoard f).objects = s.objects := rfl
@[simp] theorem State.onBoard_journal (s : State) (f : Board → Board) : (s.onBoard f).journal = s.journal := rfl
@[simp] theorem State.onBoard_fabric (s : State) (f : Board → Board) : (s.onBoard f).fabric = s.fabric := rfl
@[simp] theorem State.onBoard_board (s : State) (f : Board → Board) : (s.onBoard f).board = f s.board := rfl

@[simp] theorem State.onFabric_team? (s : State) (f : Fabric → Fabric) (n : Nat) : (s.onFabric f).team? n = s.team? n := rfl
@[simp] theorem State.onJournal_team? (s : State) (f : Journal → Journal) (n : Nat) : (s.onJournal f).team? n = s.team? n := rfl
@[simp] theorem State.onBoard_team? (s : State) (f : Board → Board) (n : Nat) : (s.onBoard f).team? n = s.team? n := rfl
@[simp] theorem State.onFabric_functionUp (s : State) (f : Fabric → Fabric) (n : Nat) : (s.onFabric f).functionUp n = s.functionUp n := rfl
@[simp] theorem State.onJournal_functionUp (s : State) (f : Journal → Journal) (n : Nat) : (s.onJournal f).functionUp n = s.functionUp n := rfl

/-- A port after a change of one port. -/
theorem Fabric.port_onPort (f : Fabric) (p q : Nat) (g : Port → Port) : (f.onPort p g).port q = if q = p then g (f.port p) else f.port q := by
  simp only [Fabric.port, Fabric.onPort, sget_sput]

end Sys2Proof.Machine
end

