-- ==== Sys2Proof/Laws/Frames.lean ====
section
/-! SUPPORT. What each shared operation may change, once for each operation: every other field of the state is as before. -/

namespace Sys2Proof.Machine

variable (s : State)

theorem State.cacheOperand_frame (slot : Nat) (t : Team) (r : Nat) (k : Bool) : ∃ x0, s.cacheOperand slot t r k = { s with cores := x0 } := ⟨_, rfl⟩
theorem State.dropOperands_frame (slot : Nat) (t : Team) (ms : List (Nat × Bool)) : ∃ x0, s.dropOperands slot t ms = { s with cores := x0 } := by
  unfold State.dropOperands
  induction ms generalizing s with
  | nil => exact ⟨_, rfl⟩
  | cons m ms ih =>
    obtain ⟨c, h⟩ := ih (if m.2 then s.cacheOperand slot t m.1 false else s)
    refine ⟨c, ?_⟩
    rw [List.foldl_cons, h]
    by_cases hm : m.2 = true <;> simp [hm, State.cacheOperand, State.onCore]
theorem State.disown_frame (k : Option Nat) (ws : List Nat) : ∃ x0, s.disown k ws = { s with cores := x0 } := ⟨_, rfl⟩
theorem State.keepLeaves_frame (k n : Nat) : ∃ x0, s.keepLeaves k n = { s with parts := x0 } := by unfold State.keepLeaves; split <;> exact ⟨_, rfl⟩
theorem State.keepLeavesOf_frame (ks : List Nat) : ∃ x0, s.keepLeavesOf ks = { s with parts := x0 } := by
  unfold State.keepLeavesOf
  induction ks generalizing s with
  | nil => exact ⟨_, rfl⟩
  | cons k ks ih =>
    obtain ⟨a, ha⟩ := State.keepLeaves_frame s k 1
    obtain ⟨b, hb⟩ := ih (s.keepLeaves k 1)
    exact ⟨b, by rw [List.foldl_cons, hb, ha]⟩
theorem State.homeWrite_frame (k : Nat) (bs : List Byte) : ∃ x0 x1, s.homeWrite k bs = { s with parts := x0, cores := x1, mem := s.mem.setBytes k bs } := by
  obtain ⟨a, h⟩ := State.keepLeaves_frame s k bs.length
  exact ⟨a, _, by unfold State.homeWrite; rw [h]; rfl⟩
theorem State.addOp_frame (slot : Nat) (t : Team) (k : OpKind) : ∃ x0 x1, s.addOp slot t k = { s with nextId := x0, ops := x1 } := ⟨_, _, rfl⟩
theorem State.onTeam_frame (slot : Nat) (f : Team → Team) : ∃ x0, s.onTeam slot f = { s with teams := x0 } := by unfold State.onTeam; split <;> exact ⟨_, rfl⟩
theorem State.onGroup_frame (g : Nat) (f : Group → Group) : ∃ x0, s.onGroup g f = { s with groups := x0 } := by unfold State.onGroup; split <;> exact ⟨_, rfl⟩
theorem State.onLaunch_frame (l : Nat) (f : Launch → Launch) : ∃ x0, s.onLaunch l f = { s with launches := x0 } := by unfold State.onLaunch; split <;> exact ⟨_, rfl⟩
theorem State.noteLeaf_frame (p va salt : Nat) : ∃ x0, s.noteLeaf p va salt = { s with parts := x0 } := by unfold State.noteLeaf; split <;> (try split) <;> (try dsimp only) <;> (try split) <;> exact ⟨_, rfl⟩
theorem State.noteLeaves_frame (p : Nat) (vas : List (Nat × Nat)) : ∃ x0 x1, s.noteLeaves p vas = { s with parts := x0, freeCount := x1 } := by
  unfold State.noteLeaves
  suffices h : ∀ s : State, ∃ ps, vas.foldl (fun s v => s.noteLeaf p v.1 v.2) s = { s with parts := ps } by
    obtain ⟨ps, h⟩ := h s; exact ⟨ps, _, by dsimp only; rw [h]⟩
  induction vas with
  | nil => intro s; exact ⟨_, rfl⟩
  | cons v vas ih =>
    intro s
    obtain ⟨a, ha⟩ := State.noteLeaf_frame s p v.1 v.2
    obtain ⟨b, hb⟩ := ih (s.noteLeaf p v.1 v.2)
    exact ⟨b, by rw [List.foldl_cons, hb, ha]⟩
theorem State.noteLanes_frame (t : Team) (cs : List LaneCheck) : ∃ x0 x1, s.noteLanes t cs = { s with parts := x0, freeCount := x1 } := State.noteLeaves_frame ..
theorem State.writeRecord_frame (p : Nat) (t : Team) (r : FaultRecord) : ∃ x0 x1 x2 x3, (s.writeRecord p t r).1 = { s with parts := x0, cores := x1, mem := x2, freeCount := x3 } := by
  unfold State.writeRecord; dsimp only; split
  · rename_i d sz _
    split
    · exact ⟨_, _, _, _, rfl⟩
    · split
      · exact ⟨_, _, _, _, rfl⟩
      · split
        · exact ⟨_, _, _, _, rfl⟩
        · obtain ⟨a, b, h⟩ := State.homeWrite_frame { s with freeCount := s.freeCount + 1 } (leafKey d sz ((t.frBase.toNat + 32 * t.frcur) % 2 ^ 64)) r.bytes
          exact ⟨a, b, _, _, h⟩
  · split <;> exact ⟨_, _, _, _, rfl⟩
theorem State.allocRecord_frame (slot : Nat) (r : FaultRecord) : ∃ x0 x1 x2 x3 x4, (s.allocRecord slot r).1 = { s with teams := x0, parts := x1, cores := x2, mem := x3, freeCount := x4 } := by
  unfold State.allocRecord
  split
  · exact ⟨_, _, _, _, _, rfl⟩
  · obtain ⟨a, b, c, f, h⟩ := State.writeRecord_frame s (s.partOf ‹_›) ‹_› r
    exact ⟨_, _, _, _, _, by dsimp only; rw [h]; rfl⟩
theorem State.allocRecords_frame (slot : Nat) (rs : List FaultRecord) : ∃ x0 x1 x2 x3 x4, (s.allocRecords slot rs).1 = { s with teams := x0, parts := x1, cores := x2, mem := x3, freeCount := x4 } := by
  induction rs generalizing s with
  | nil => exact ⟨_, _, _, _, _, rfl⟩
  | cons r rs ih =>
    obtain ⟨a, b, c, d, f, h⟩ := State.allocRecord_frame s slot r
    obtain ⟨a', b', c', d', f', h'⟩ := ih (s.allocRecord slot r).1
    exact ⟨a', b', c', d', f', by simp only [State.allocRecords]; rw [h', h]⟩
theorem State.markRead_frame (g : Nat) (ks : List Nat) : ∃ x0, s.markRead g ks = { s with groups := x0 } := by
  unfold State.markRead; split
  · exact State.onGroup_frame ..
  · exact ⟨_, rfl⟩
theorem State.holdUnit_frame (g : Nat) (u : StoreUnit) : ∃ x0, s.holdUnit g u = { s with groups := x0 } := State.onGroup_frame ..
theorem State.fillCopies_frame (c : Nat) (ws : List Nat) (a : Bool) : ∃ x0, s.fillCopies c ws a = { s with cores := x0 } := ⟨_, rfl⟩
theorem State.acquire_frame (c : Nat) : ∃ x0, s.acquire c = { s with cores := x0 } := ⟨_, rfl⟩
theorem State.dropLines_frame (c : Nat) (ls : List Nat) : ∃ x0, s.dropLines c ls = { s with cores := x0 } := ⟨_, rfl⟩
theorem State.dropCopy_frame (c k : Nat) : ∃ x0, s.dropCopy c k = { s with cores := x0 } := ⟨_, rfl⟩
theorem State.registerUnit_frame (c : Nat) (u : StoreUnit) : ∃ x0 x1 x2, s.registerUnit c u = { s with mem := x0, cores := x1, parts := x2 } := by
  obtain ⟨a, h⟩ := State.keepLeavesOf_frame s (u.bytes.map (·.1))
  exact ⟨_, _, a, by unfold State.registerUnit; rw [h]; rfl⟩
theorem State.onTeamOf_frame (p slot g : Nat) (f : Team → Team) : ∃ x0 x1, s.onTeamOf p slot g f = { s with teams := x0, parts := x1 } := by
  have hs : ∃ a b, State.onTeamOf.saved p slot g f s = { s with teams := a, parts := b } := by
    unfold State.onTeamOf.saved
    split
    · exact ⟨_, _, rfl⟩
    · split
      · exact ⟨_, _, rfl⟩
      · split <;> exact ⟨_, _, rfl⟩
  unfold State.onTeamOf
  split
  · split
    · split <;> exact ⟨_, _, rfl⟩
    · exact hs
  · exact hs
theorem State.deliver_frame (o : Op) (f : Team → Team) : ∃ x0 x1, s.deliver o f = { s with teams := x0, parts := x1 } := by
  unfold State.deliver; split
  · exact ⟨_, _, rfl⟩
  · exact State.onTeamOf_frame ..
theorem State.onIssuer_frame (o : Op) (f : Team → Team) : ∃ x0 x1, s.onIssuer o f = { s with teams := x0, parts := x1 } := by
  unfold State.onIssuer; split
  · exact ⟨_, _, rfl⟩
  · exact State.onTeamOf_frame ..
theorem State.finishOp_frame (o : Op) : ∃ x0 x1 x2, s.finishOp o = { s with teams := x0, parts := x1, ops := x2 } := by
  unfold State.finishOp; obtain ⟨a, b, h⟩ := State.onTeamOf_frame (s.dropOp o.id) o.part o.slot o.gid _; exact ⟨a, b, _, by rw [h]; rfl⟩
theorem State.freeGroup_frame (gid : Nat) (g : Group) : ∃ x0 x1 x2, s.freeGroup gid g = { s with mem := x0, groups := x1, cores := x2 } := ⟨_, _, _, rfl⟩
theorem State.freeSaved_frame (p gid : Nat) (g : Group) : ∃ x0 x1, s.freeSaved p gid g = { s with mem := x0, parts := x1 } := ⟨_, _, rfl⟩
theorem State.leave_frame (p gid : Nat) : ∃ x0 x1 x2 x3, s.leave p gid = { s with mem := x0, groups := x1, cores := x2, parts := x3 } := by
  unfold State.leave; split
  · split <;> exact ⟨_, _, _, _, rfl⟩
  · split
    · split <;> exact ⟨_, _, _, _, rfl⟩
    · exact ⟨_, _, _, _, rfl⟩
theorem State.retire_frame (o : Op) : ∃ x0 x1 x2 x3 x4 x5, s.retire o = { s with teams := x0, parts := x1, ops := x2, mem := x3, groups := x4, cores := x5 } := by
  unfold State.retire
  obtain ⟨a, b, h⟩ := State.deliver_frame s o fun t => t.landedAll o.id
  obtain ⟨m, g, c, p, h2⟩ := State.leave_frame ((s.deliver o fun t => t.landedAll o.id).dropOp o.id) o.part o.gid
  exact ⟨a, p, s.ops.filter (·.id != o.id), m, g, c, by rw [h2, h]; rfl⟩
/-- An operation that is over leaves memory, groups and cores as they are where its group has not been dropped. -/
theorem State.retire_staying (o : Op) {g : Group} (hg : s.group? o.gid = some g) (hl : g.leaving = false) :
    ∃ x0 x1 x2, s.retire o = { s with teams := x0, parts := x1, ops := x2 } := by
  unfold State.retire
  obtain ⟨a, b, h⟩ := State.deliver_frame s o fun t => t.landedAll o.id
  refine ⟨a, b, s.ops.filter (·.id != o.id), ?_⟩
  have hg' : ((s.deliver o fun t => t.landedAll o.id).dropOp o.id).group? o.gid = some g := by rw [h]; exact hg
  unfold State.leave
  rw [hg']
  simp only [hl, Bool.false_and, Bool.false_eq_true, if_false]
  rw [h]; rfl
theorem State.trap_frame (slot : Nat) (r : Report) : ∃ x0 x1, s.trap slot r = { s with teams := x0, dies := x1 } := by unfold State.trap; split <;> exact ⟨_, _, rfl⟩
theorem State.illegal_frame (slot : Nat) : ∃ x0 x1, s.illegal slot = { s with teams := x0, dies := x1 } := by
  unfold State.illegal; split
  · exact ⟨_, _, rfl⟩
  · exact State.trap_frame ..
theorem State.resume_frame (slot : Nat) (pc : Option Dbl) : ∃ x0 x1, s.resume slot pc = { s with teams := x0, cores := x1 } := by unfold State.resume; split <;> exact ⟨_, _, rfl⟩
theorem State.push_frame (slot : Nat) (e : DivEntry) : ∃ x0 x1, s.push slot e = { s with teams := x0, mem := x1 } := by unfold State.push; split <;> (try split) <;> exact ⟨_, _, rfl⟩
theorem State.returnPermit_frame (o : Op) (c : CommandOp) : ∃ x0 x1 x2, s.returnPermit o c = { s with teams := x0, dies := x1, parts := x2 } := by
  have away : ∀ s : State, ∃ x0 x1, State.returnPermit.away o c s = { s with teams := x0, parts := x1 } := fun s => State.onTeamOf_frame s ..
  obtain ⟨a, b, h⟩ := away (s.onDie (dieOf o.core) fun d => { d with aboveHeld := d.aboveHeld - c.need })
  unfold State.returnPermit; dsimp only; split
  · exact ⟨_, _, _, rfl⟩
  · exact ⟨_, _, _, rfl⟩
  · exact ⟨_, _, _, rfl⟩
  · split
    · exact ⟨_, _, _, rfl⟩
    · split
      · split
        · exact ⟨_, _, _, rfl⟩
        · exact ⟨_, _, _, h⟩
      · exact ⟨_, _, _, h⟩
theorem State.unlock_frame (id : Nat) : ∃ x0, s.unlock id = { s with locks := x0 } := ⟨_, rfl⟩
/-- What the end of a command changes (R245, R259): nothing of memory or of the groups where the command's group has not been dropped. -/
theorem State.endCommand_frame (o : Op) (c : CommandOp) (ws : List Word) :
    ∃ x0 x1 x2 x3 x4 x5 x6 x7, s.endCommand o c ws = { s with locks := x0, teams := x1, dies := x2, parts := x3, cores := x4, ops := x5, mem := x6, groups := x7 } := by
  unfold State.endCommand
  dsimp only
  obtain ⟨a, b, p, h1⟩ := State.returnPermit_frame (s.unlock o.id) o c
  generalize (s.unlock o.id).returnPermit o c = s1 at *
  obtain ⟨c1, d, h2⟩ := State.deliver_frame s1 o fun t => (t.wsList c.sd ws).mark false (.scal c.sd c.sdCount)
  generalize (s1.deliver o fun t => (t.wsList c.sd ws).mark false (.scal c.sd c.sdCount)) = s2 at *
  obtain ⟨e, f, g, m, gr, k, h3⟩ := State.retire_frame (s2.acquire o.core) o
  refine ⟨(s.unlock o.id).locks, e, b, f, k, g, m, gr, ?_⟩
  rw [h3]; subst h2 h1; rfl
theorem State.endCommand_staying (o : Op) (c : CommandOp) (ws : List Word) {g : Group} (hg : s.group? o.gid = some g) (hl : g.leaving = false) :
    ∃ x0 x1 x2 x3 x4 x5, s.endCommand o c ws = { s with locks := x0, teams := x1, dies := x2, parts := x3, cores := x4, ops := x5 } := by
  unfold State.endCommand
  dsimp only
  obtain ⟨a, b, p, h1⟩ := State.returnPermit_frame (s.unlock o.id) o c
  generalize (s.unlock o.id).returnPermit o c = s1 at *
  obtain ⟨c1, d, h2⟩ := State.deliver_frame s1 o fun t => (t.wsList c.sd ws).mark false (.scal c.sd c.sdCount)
  generalize (s1.deliver o fun t => (t.wsList c.sd ws).mark false (.scal c.sd c.sdCount)) = s2 at *
  have hg2 : (s2.acquire o.core).group? o.gid = some g := by subst h2 h1; exact hg
  obtain ⟨e, f, g', h3⟩ := State.retire_staying (s2.acquire o.core) o hg2 hl
  refine ⟨(s.unlock o.id).locks, e, b, f, (s2.acquire o.core).cores, g', ?_⟩
  rw [h3]; subst h2 h1; rfl
theorem State.trap_after {s x : State} {a b c d n} (h : x = { s with teams := a, parts := b, cores := c, mem := d, freeCount := n }) {slot : Nat} (r : Report) :
    ∃ x0 x1 x2 x3 x4 x5, x.trap slot r = { s with teams := x0, parts := x1, cores := x2, mem := x3, dies := x4, freeCount := x5 } := by
  obtain ⟨e, f, h2⟩ := State.trap_frame x slot r
  exact ⟨_, _, _, _, _, _, by rw [h2, h]⟩
theorem State.accessFault_frame (slot : Nat) (t : Team) (cs : List LaneCheck) (b : Nat) (w sp : Bool) (n : Nat) : ∃ x0 x1 x2 x3 x4 x5, s.accessFault slot t cs b w sp n = { s with teams := x0, parts := x1, cores := x2, mem := x3, dies := x4, freeCount := x5 } := by
  unfold State.accessFault
  obtain ⟨a, b1, c, d, f, h⟩ := State.allocRecords_frame s slot (recordsOf t (cs.filter LaneCheck.failed) b w sp n)
  dsimp only
  split
  · exact ⟨_, _, _, _, _, _, by rw [h]⟩
  · exact State.trap_after h _
theorem State.teamFault_frame (slot : Nat) (t : Team) (c p va b : Nat) (w : Bool) (n : Nat) : ∃ x0 x1 x2 x3 x4 x5, s.teamFault slot t c p va b w n = { s with teams := x0, parts := x1, cores := x2, mem := x3, dies := x4, freeCount := x5 } := by
  unfold State.teamFault
  dsimp only
  obtain ⟨a, b1, c1, d, f, h⟩ := State.allocRecord_frame s slot { code := c, rflags := 2, lane := 0, detail := detailWord b p w false n, pc := t.pc, va := BitVec.ofNat 64 va }
  exact State.trap_after h _
theorem State.poisonFault_frame (slot : Nat) (t : Team) (bad : List (Nat × Dbl × Word)) : ∃ x0 x1, s.poisonFault slot t bad = { s with teams := x0, dies := x1 } := by
  unfold State.poisonFault; split
  · exact ⟨_, _, rfl⟩
  · exact State.trap_frame ..
theorem State.hand_frame (o : Op) : ∃ x0, (s.hand o).1 = { s with ops := x0 } := by unfold State.hand; dsimp only; split <;> split <;> split <;> exact ⟨_, rfl⟩
theorem State.putFlit_frame (p : Nat) (x : Flit) : ∃ x0 x1, s.putFlit p x = { s with freeCount := x0, fabric := x1 } := ⟨_, _, rfl⟩
/-- Flits that leave change the counters of free values and of the fabric, no other part of the state. -/
theorem State.putFlits_frame (p : Nat) (xs : List Flit) : ∃ x0 x1, s.putFlits p xs = { s with freeCount := x0, fabric := x1 } := by
  have go : ∀ s : State, ∃ x0 x1, xs.foldl (fun (t : State) x => t.putFlit p x) s = { s with freeCount := x0, fabric := x1 } := by
    induction xs with
    | nil => exact fun s => ⟨_, _, rfl⟩
    | cons x xs ih =>
      intro s
      obtain ⟨a, b, h⟩ := ih (s.putFlit p x)
      exact ⟨a, b, by rw [List.foldl_cons, h]; rfl⟩
  unfold State.putFlits; split
  · exact go s
  · exact ⟨_, _, rfl⟩
theorem State.transmit_frame (w : Nat) (x : Sending) : ∃ x0 x1, s.transmit w x = { s with freeCount := x0, fabric := x1 } := by
  obtain ⟨a, b, h⟩ := State.putFlits_frame { s with freeCount := s.freeCount + 8 * x.lens.length } (s.fabric.wayPort x.dst w) (s.flitsOf x (s.fabric.wayMid x.dst w))
  exact ⟨a, b, by unfold State.transmit; rw [h]⟩
theorem State.transmitNew_frame (x : Sending) : ∃ x0 x1, s.transmitNew x = { s with freeCount := x0, fabric := x1 } := by
  obtain ⟨a, b, h⟩ := State.transmit_frame { s with freeCount := s.freeCount + 1 } (s.fabric.firstWay x.dst s.freeCount) x
  exact ⟨a, b, by unfold State.transmitNew; rw [h]⟩
theorem State.answerTo_frame (src part : Nat) (seq : Word) (a : PeerAnswer) :
    ∃ x0 x1 x2, s.answerTo src part seq a = { s with hostLog := x0, freeCount := x1, fabric := x2 } := by
  obtain ⟨f, g, h⟩ := State.transmitNew_frame (s.tell (.peerAnswer src part seq a)) { type := 2, dst := src, part := none, seq := none, lens := [none] }
  exact ⟨_, f, g, by unfold State.answerTo; rw [h]; rfl⟩
theorem State.wake_frame (w : SemWaiter) (v : Word) : ∃ x0 x1 x2 x3 x4 x5 x6, s.wake w v = { s with semWaiters := x0, teams := x1, parts := x2, cores := x3, hostLog := x4, freeCount := x5, fabric := x6 } := by
  unfold State.wake
  dsimp only
  split
  · rename_i r _
    obtain ⟨a, b, c, h⟩ := State.answerTo_frame { s with semWaiters := s.semWaiters.filter (· != w) } r.1 r.2.1 r.2.2 (.woken v)
    exact ⟨_, _, _, _, a, b, c, by rw [h]⟩
  · obtain ⟨a, b, h⟩ := State.onTeamOf_frame { s with semWaiters := s.semWaiters.filter (· != w) } w.part w.slot w.gid fun t => { t.ws w.sd v with request := none }.advance
    split
    · split
      · exact ⟨_, _, _, _, _, _, _, by rw [h]; rfl⟩
      · exact ⟨_, _, _, _, _, _, _, by rw [h]⟩
    · exact ⟨_, _, _, _, _, _, _, by rw [h]⟩
theorem State.sendPacket_frame (op p : Nat) (x : Outgoing) : ∃ x0 x1 x2, (s.sendPacket op p x).1 = { s with freeCount := x0, fabric := x1, parts := x2 } := by
  unfold State.sendPacket; dsimp only
  split <;> (rw [(State.transmit_frame _ _ _).choose_spec.choose_spec]; exact ⟨_, _, _, rfl⟩)
theorem State.sendPackets_frame (op p : Nat) (xs : List Outgoing) : ∃ x0 x1 x2, (s.sendPackets op p xs).1 = { s with freeCount := x0, fabric := x1, parts := x2 } := by
  induction xs generalizing s with
  | nil => exact ⟨_, _, _, rfl⟩
  | cons x xs ih =>
    obtain ⟨a, b, c, h⟩ := State.sendPacket_frame s op p x
    obtain ⟨d, e, f, h2⟩ := ih (s.sendPacket op p x).1
    exact ⟨d, e, f, by simp only [State.sendPackets]; rw [h2, h]⟩

end Sys2Proof.Machine
end

