-- ==== Sys2Proof/Laws/Gate.lean ====
section
/-! SUPPORT. What the gate of a word instruction does, once for every body (R48, R53). -/

namespace Sys2Proof.Machine

variable {s : State} {slot : Nat} {t : Team} {i : Instr}

/-- An instruction that runs is its body on the current team. -/
theorem issue_runs (h : Runs s slot t i) (body : Nat → Team → Host.Outcome State Fault Refusal) : issue i s body = body slot t := by
  obtain ⟨hc, ht, hi, hg⟩ := h
  simp [issue, hc, ht, hi, hg]

/-- The gate at a team that can issue: everything `issue` can do. -/
theorem issue_gate (hc : s.cur = some slot) (ht : s.team? slot = some t) (hi : t.canIssue = true)
    (body : Nat → Team → Host.Outcome State Fault Refusal) :
    issue i s body = match t.gate (s.mxsel t) i with
      | .illegal => .next (s.illegal slot)
      | .role => .next (s.trap slot (Report.precise 0x11 t.allLanes))
      | .failed f => .next (s.trap slot (f.report t))
      | .drained d => .next (s.raiseDrain slot t d)
      | .wait => .next s
      | .skip => .next (s.setTeam slot t.advance)
      | .go => body slot t := by
  cases hg : t.gate (s.mxsel t) i <;> simp [issue, hc, ht, hi, hg]

theorem scalarInstr_runs (h : Runs s slot t i) (sd : Nat) (f : Team → Word) :
    scalarInstr i s sd f = .next (s.setTeam slot (t.ws sd (f t)).advance) := by
  simp [scalarInstr, issue_runs h, State.done]

/-- A trap changes the team, by its status, report and what it waits for, and the trap queue and lazy functions of its die (R74, R378). -/
theorem State.trap_eq (ht : s.team? slot = some t) (r : Report) :
    s.trap slot r = (s.setTeam slot { t with
      status := .trapped
      service := if r.blockers = [] then none else some (.unlock r.blockers)
      report := { cause := r.causeWord, vaddr := r.vaddr, recpc := r.recpc, token := r.token, tcode := r.tcode, flw := r.flw } }).onDie
        (dieOf t.core) fun d => { d with
          trapQueue := d.trapQueue ++ [slot]
          binds := if r.cause = 0x13 ∧ r.tcode = 0x0100 then d.binds ++ [(s.partOf t, t.rd64 190)] else d.binds } := by
  simp [State.trap, ht]

theorem State.illegal_eq (ht : s.team? slot = some t) : s.illegal slot = s.trap slot (Report.precise 0x10 t.allLanes) := by
  simp [State.illegal, ht]

end Sys2Proof.Machine
end

