-- ==== Sys2Proof/Laws/Registers.lean ====
section
/-! SUPPORT. Reading scalar and vector registers after writes (R37, R44, R116, R117). -/

namespace Sys2Proof.Machine

variable (t : Team)

theorem Team.inExec_ne (r : Nat) : Team.inExec { t with ctl := c } r = t.inExec r := rfl

theorem Team.rs_pokeS (r : Nat) (v : Word) (q : Nat) : (t.pokeS r v).rs q = if q = 0 then 0 else if q = r then v else t.rs q := by
  unfold Team.rs Team.pokeS
  by_cases h0 : q = 0
  · simp [h0]
  · simp only [h0, if_false, sget_sput]

/-- A register that is not written keeps its value. -/
theorem Team.rs_ws_ne (r : Nat) (v : Word) {q : Nat} (h : q ≠ r) : (t.ws r v).rs q = t.rs q := by
  unfold Team.ws
  by_cases h0 : r = 0
  · simp [h0]
  · by_cases hq : q = 0
    · subst hq
      simp [Team.rs]
    · simp only [h0, if_false]
      split
      · simp [Team.rs_pokeS, h, hq]
      · split
        · have : (Team.rs { t.pokeS r v with ctl := { t.ctl with
              cpois := maskSet t.beats t.ctl.cpois (r - 192) 0, ctok := maskSet t.beats t.ctl.ctok (r - 192) 0 } } q) = (t.pokeS r v).rs q := rfl
          rw [this, Team.rs_pokeS]; simp [h, hq]
        · simp [Team.rs_pokeS, h, hq]

/-- What a written register reads as (R37, R116). -/
theorem Team.rs_ws (r : Nat) (v : Word) :
    (t.ws r v).rs r = if r = 0 then 0 else if t.inExec r then v &&& maskWord t.ctl.live (r - 224) else v := by
  unfold Team.ws
  by_cases h0 : r = 0
  · simp [h0, Team.rs]
  · simp only [h0, if_false]
    split
    · simp [Team.rs_pokeS, h0]
    · split
      · have : (Team.rs { t.pokeS r v with ctl := { t.ctl with
            cpois := maskSet t.beats t.ctl.cpois (r - 192) 0, ctok := maskSet t.beats t.ctl.ctok (r - 192) 0 } } r) = (t.pokeS r v).rs r := rfl
        rw [this, Team.rs_pokeS]; simp [h0]
      · simp [Team.rs_pokeS, h0]

@[simp] theorem Team.ws_v (r : Nat) (v : Word) : (t.ws r v).regs.v = t.regs.v := by
  unfold Team.ws; split <;> (try split) <;> (try split) <;> rfl
@[simp] theorem Team.ws_loop (r : Nat) (v : Word) : (t.ws r v).ctl.loop = t.ctl.loop := by
  unfold Team.ws; split <;> (try split) <;> (try split) <;> rfl
@[simp] theorem Team.ws_live (r : Nat) (v : Word) : (t.ws r v).ctl.live = t.ctl.live := by
  unfold Team.ws; split <;> (try split) <;> (try split) <;> rfl
@[simp] theorem Team.rs_advance (r : Nat) : t.advance.rs r = t.rs r := by simp [Team.rs]
@[simp] theorem Team.lane_advance (r l : Nat) : t.advance.lane r l = t.lane r l := by simp [Team.lane]
@[simp] theorem Team.lane_ws (r : Nat) (v : Word) (q l : Nat) : (t.ws r v).lane q l = t.lane q l := by simp [Team.lane]
@[simp] theorem Team.rs_wv (r : Nat) (f : Nat → Option Lane) (q : Nat) : (t.wv r f).rs q = t.rs q := rfl

/-- A lane of a written vector register within the team (R44). -/
theorem Team.lane_wv (r : Nat) (f : Nat → Option Lane) (q l : Nat) (hl : l < t.lanes) :
    (t.wv r f).lane q l = if q = r then (f l).getD (t.lane r l) else t.lane q l := by
  unfold Team.lane Team.wv
  dsimp only
  rw [sget_sput]
  by_cases h : q = r
  · subst h; simp [hl, Team.lane]
  · simp [h]

end Sys2Proof.Machine
end

