-- ==== Sys2Proof/Laws/Issue.lean ====
section
/-! SUPPORT. What the shared parts of an issue do, once each: the checks of a memory instruction, the marks on a team's registers, the
accesses of checked lanes, the fault-record cursor, the mask of a set of lanes. -/

namespace Sys2Proof.Machine

theorem State.team?_eq {s s' : State} (h : s'.teams = s.teams) (n : Nat) : s'.team? n = s.team? n := by simp [State.team?, h]
theorem State.group?_eq {s s' : State} (h : s'.groups = s.groups) (n : Nat) : s'.group? n = s.group? n := by simp [State.group?, h]

/-- A memory instruction that runs and that no atomic of its team holds is its body (R235). -/
theorem memInstr_runs {i : Instr} {s : State} {slot : Nat} {t : Team} (h : Runs s slot t i) (hm : MemoryReady s slot t)
    (body : Nat → Team → Host.Outcome State Fault Refusal) : memInstr i s body = body slot t := by
  unfold memInstr
  rw [issue_runs h]
  have : t.failures.find? (·.atomic) = none := by
    rw [List.find?_eq_none]; intro f hf; simp [hm.1 f hf]
  simp [this, hm.2]

/-- A store or an atomic that runs, that no atomic of its team holds and that raises no failed store is its body (R198, R235, R343). -/
theorem storeInstr_runs {i : Instr} {s : State} {slot : Nat} {t : Team} (h : Runs s slot t i) (hm : MemoryReady s slot t) (hr : Releasable t)
    (hf : s.routerFull (s.partOf t) = false) (body : Nat → Team → Host.Outcome State Fault Refusal) : storeInstr i s body = body slot t := by
  unfold storeInstr
  rw [memInstr_runs h hm]
  by_cases ho : t.orderRel = true
  · simp [ho, hr ho, hf]
  · simp [ho]

theorem State.not_speculative {s : State} {g : Nat} (h : Ordinary s g) : s.speculative g = false := by
  obtain ⟨x, hg, hd, _⟩ := h
  simp [State.speculative, hg, hd]

theorem State.specFull_ordinary {s : State} {g : Nat} (h : Ordinary s g) (c : Nat) (ks : List Nat) : s.specFull g c ks = false := by
  simp [State.specFull, State.not_speculative h]

/-- In-flight counters below their limit hold nothing back (R190). -/
theorem counterFull_room {t : Team} (h : ∀ p, t.inflight p < Config.maxInFlight) (ps : List Nat) : t.counterFull ps = false := by
  simp only [Team.counterFull, List.any_eq_false, decide_eq_true_eq]
  intro p _ hp; exact absurd (h p) (by omega)

/-- A record changes only FRCUR of its team (R385). -/
theorem State.allocRecord_team {s : State} {slot : Nat} {t : Team} (ht : s.team? slot = some t) (r : FaultRecord) :
    ∃ f, (s.allocRecord slot r).1.team? slot = some { t with frcur := f } := by
  unfold State.allocRecord
  simp only [ht]
  refine ⟨(s.writeRecord (s.partOf t) t r).2.2, by simp [State.team?]⟩

theorem State.allocRecords_team {s : State} {slot : Nat} {t : Team} (ht : s.team? slot = some t) (rs : List FaultRecord) :
    ∃ f, (s.allocRecords slot rs).1.team? slot = some { t with frcur := f } := by
  induction rs generalizing s t with
  | nil => exact ⟨t.frcur, ht⟩
  | cons r rs ih =>
    obtain ⟨f, hf⟩ := State.allocRecord_team ht r
    obtain ⟨g, hg⟩ := ih hf
    exact ⟨g, hg⟩

theorem Team.lastUse_frame (t : Team) (ms : List (Nat × Bool)) : ∃ v, t.lastUse ms = { t with regs := { t.regs with v := v } } := by
  unfold Team.lastUse
  induction ms generalizing t with
  | nil => exact ⟨_, rfl⟩
  | cons m ms ih =>
    rw [List.foldl_cons]
    obtain ⟨v, h⟩ := ih (if m.2 then t.kill m.1 else t)
    exact ⟨v, by rw [h]; split <;> rfl⟩

theorem Team.lane_kill (t : Team) (r q l : Nat) (hl : l < t.lanes) : ((t.kill r).lane q l).data = (t.lane q l).data ∧ ((t.kill r).lane q l).tag = (t.lane q l).tag := by
  unfold Team.kill
  rw [Team.lane_wv _ _ _ _ _ hl]
  split
  · subst_vars; by_cases h : t.active l = true <;> simp [h]
  · exact ⟨rfl, rfl⟩

theorem Team.lanes_lastUse (t : Team) (ms : List (Nat × Bool)) : (t.lastUse ms).lanes = t.lanes := by
  obtain ⟨v, h⟩ := t.lastUse_frame ms; rw [h]; rfl

/-- Last-use marks keep data and tags (R44). -/
theorem Team.lane_lastUse (t : Team) (ms : List (Nat × Bool)) (q l : Nat) (hl : l < t.lanes) :
    ((t.lastUse ms).lane q l).data = (t.lane q l).data ∧ ((t.lastUse ms).lane q l).tag = (t.lane q l).tag := by
  unfold Team.lastUse
  induction ms generalizing t with
  | nil => exact ⟨rfl, rfl⟩
  | cons m ms ih =>
    rw [List.foldl_cons]
    by_cases hm : m.2 = true
    · simp only [hm, if_true]
      have := ih (t.kill m.1) hl
      have h2 := t.lane_kill m.1 q l hl
      exact ⟨this.1.trans h2.1, this.2.trans h2.2⟩
    · simp only [hm]; exact ih t hl

/-- A mark changes only the empty bits (R47). -/
theorem Team.mark_frame (t : Team) (e : Bool) (d : Dest) : ∃ a b, t.mark e d = { t with regs := { t.regs with sEmpty := a, vEmpty := b } } := by
  have hv : ∀ (l : List Nat) (t : Team), ∃ a b, l.foldl (fun t r => t.markV e r) t = { t with regs := { t.regs with sEmpty := a, vEmpty := b } } := by
    intro l; induction l with
    | nil => intro t; exact ⟨_, _, rfl⟩
    | cons r l ih => intro t; rw [List.foldl_cons]; obtain ⟨a, b, h⟩ := ih (t.markV e r); exact ⟨a, b, by rw [h]; rfl⟩
  have hs : ∀ (l : List Nat) (t : Team), ∃ a b, l.foldl (fun t r => t.markS e r) t = { t with regs := { t.regs with sEmpty := a, vEmpty := b } } := by
    intro l; induction l with
    | nil => intro t; exact ⟨_, _, rfl⟩
    | cons r l ih =>
      intro t; rw [List.foldl_cons]; obtain ⟨a, b, h⟩ := ih (t.markS e r)
      exact ⟨a, b, by rw [h]; unfold Team.markS; split <;> rfl⟩
  unfold Team.mark
  split
  · exact ⟨_, _, rfl⟩
  · exact hv _ _
  · split
    · exact ⟨_, _, rfl⟩
    · exact hs _ _

theorem Team.vEmpty_markVs (e : Bool) (l : List Nat) (t : Team) (r : Nat) :
    (l.foldl (fun t r => t.markV e r) t).vEmpty r = if r ∈ l then e else t.vEmpty r := by
  induction l generalizing t with
  | nil => simp
  | cons q l ih =>
    rw [List.foldl_cons, ih]
    by_cases h : r ∈ l
    · simp [h]
    · by_cases hq : r = q <;> simp [h, hq, Team.vEmpty, Team.markV, sget_sput]
theorem Team.sEmpty_markSs (e : Bool) (l : List Nat) (t : Team) (r : Nat) :
    (l.foldl (fun t r => t.markS e r) t).sEmpty r = if r ≠ 0 ∧ r ∈ l then e else t.sEmpty r := by
  induction l generalizing t with
  | nil => simp
  | cons q l ih =>
    rw [List.foldl_cons, ih]
    by_cases h00 : r = 0
    · subst h00; unfold Team.markS; by_cases h0 : q = 0
      · simp [h0]
      · simp [h0, Team.sEmpty, sget_sput, Ne.symm h0]
    by_cases h : r ∈ l
    · simp [h, h00]
    · by_cases hq : r = q
      · subst hq; unfold Team.markS; by_cases h0 : r = 0 <;> simp_all [Team.sEmpty]
      · unfold Team.markS; by_cases h0 : q = 0 <;> simp [h, hq, h0, Team.sEmpty, sget_sput]

theorem mem_regs (r n j : Nat) (h : j < n) : r + j ∈ (List.range n).map (r + ·) := by simp; exact h

/-- A marked vector destination. -/
theorem Team.vEmpty_mark_vec (t : Team) (e : Bool) (r n j : Nat) (h : j < n) : (t.mark e (.vec r n)).vEmpty (r + j) = e := by
  simp only [Team.mark, Dest.list, Team.vEmpty_markVs, mem_regs r n j h, if_true]
/-- A marked scalar destination. -/
theorem Team.sEmpty_mark_scal (t : Team) (e : Bool) (r n j : Nat) (h : j < n) (h0 : r + j ≠ 0) : (t.mark e (.scal r n)).sEmpty (r + j) = e := by
  have hn : ¬ ((Dest.scal r n).list.head? = some 0 ∧ (Dest.scal r n).list.length = 1) := by
    intro hh
    have : n = 1 := by simpa [Dest.list] using hh.2
    subst this; simp [Dest.list] at hh; omega
  simp only [Team.mark]
  rw [if_neg hn, Team.sEmpty_markSs]
  exact if_pos ⟨h0, mem_regs r n j h⟩

theorem Team.rs_regs {t t' : Team} (h : t'.regs.s = t.regs.s) (r : Nat) : t'.rs r = t.rs r := by simp [Team.rs, h]
theorem Team.lane_regs {t t' : Team} (h : t'.regs.v = t.regs.v) (r l : Nat) : t'.lane r l = t.lane r l := by simp [Team.lane, h]

theorem Team.advance_pc_congr {t u : Team} (h1 : u.pc = t.pc) (h2 : u.ctl = t.ctl) : u.advance.pc = t.advance.pc := by
  simp only [Team.advance, h1, h2]; split <;> (try split) <;> rfl

theorem State.team?_addOp (s : State) (a : Nat) (t : Team) (k : OpKind) (n : Nat) : (s.addOp a t k).team? n = s.team? n := rfl

/-- A change of the team of a slot. -/
theorem State.team?_onTeam {s : State} {slot : Nat} {t : Team} (h : s.team? slot = some t) (f : Team → Team) :
    (s.onTeam slot f).team? slot = some (f t) := by
  simp [State.onTeam, h]

theorem Team.lastUse_rs (t : Team) (ms : List (Nat × Bool)) (r : Nat) : (t.lastUse ms).rs r = t.rs r := by
  obtain ⟨v, h⟩ := t.lastUse_frame ms; rw [h]; rfl

theorem Team.mark_rs (t : Team) (e : Bool) (d : Dest) (r : Nat) : (t.mark e d).rs r = t.rs r := by
  obtain ⟨a, b, h⟩ := t.mark_frame e d; rw [h]; rfl
theorem Team.mark_lane (t : Team) (e : Bool) (d : Dest) (r l : Nat) : (t.mark e d).lane r l = t.lane r l := by
  obtain ⟨a, b, h⟩ := t.mark_frame e d; rw [h]; rfl

/-- A team that marked last uses, a destination and its flights went on past its instruction. -/
theorem wentOn_team (t : Team) (fc : Nat) (ms : List (Nat × Bool)) (d : Dest) (e : Bool) (id : Nat) (ps : List Nat) :
    let t' := (((({ t with frcur := fc } : Team).lastUse ms).mark e d).launchOn id ps).advance
    t'.pc = t.advance.pc ∧ SameScalars t t' [] ∧ SameVectors t t' [] ∧ t'.status = t.status := by
  intro t'
  obtain ⟨v, h1⟩ := ({ t with frcur := fc } : Team).lastUse_frame ms
  obtain ⟨a, b, h2⟩ := (({ t with frcur := fc } : Team).lastUse ms).mark_frame e d
  refine ⟨?_, ?_, ?_, ?_⟩
  · apply Team.advance_pc_congr
    · show (((({ t with frcur := fc } : Team).lastUse ms).mark e d)).pc = _; rw [h2, h1]
    · show (((({ t with frcur := fc } : Team).lastUse ms).mark e d)).ctl = _; rw [h2, h1]
  · intro r _
    show (((((({ t with frcur := fc } : Team).lastUse ms).mark e d).launchOn id ps).advance).rs r) = _
    rw [Team.rs_advance]
    show ((({ t with frcur := fc } : Team).lastUse ms).mark e d).rs r = _
    rw [Team.mark_rs, Team.lastUse_rs]; rfl
  · intro r _ l hl
    show ((((((({ t with frcur := fc } : Team).lastUse ms).mark e d).launchOn id ps).advance).lane r l)).data = _ ∧ ((((((({ t with frcur := fc } : Team).lastUse ms).mark e d).launchOn id ps).advance).lane r l)).tag = _
    rw [Team.lane_advance]
    show (((({ t with frcur := fc } : Team).lastUse ms).mark e d).lane r l).data = _ ∧ _
    have := Team.lane_lastUse ({ t with frcur := fc } : Team) ms r l hl
    have hm := Team.mark_lane (({ t with frcur := fc } : Team).lastUse ms) e d r l
    constructor
    · rw [hm]; exact this.1
    · show (((({ t with frcur := fc } : Team).lastUse ms).mark e d).lane r l).tag = _
      rw [hm]; exact this.2
  · show (((((({ t with frcur := fc } : Team).lastUse ms).mark e d).launchOn id ps).advance)).status = _
    rw [Team.advance_status]
    show ((({ t with frcur := fc } : Team).lastUse ms).mark e d).status = _
    rw [h2, h1]

/-- Every checked lane has its access: the token of check 1, its keys, or the token of a record. -/
theorem accessesOf_token {cs : List LaneCheck} {c : LaneCheck} (h : c ∈ cs) (idx : List Nat) :
    (∀ k, c.res = .token k → ∃ x ∈ accessesOf cs idx, x.lane = c.lane ∧ x.token = some k) ∧
    (∀ ks p, c.res = .ok ks p → ∃ x ∈ accessesOf cs idx, x.lane = c.lane ∧ x.token = none ∧ x.keys = ks) ∧
    (∀ q p, c.res = .fails q p → ∃ x ∈ accessesOf cs idx, ∃ k, x.lane = c.lane ∧ x.token = some (tokenOf q k)) := by
  induction cs generalizing idx with
  | nil => cases h
  | cons d cs ih =>
    rcases List.mem_cons.mp h with rfl | h'
    · refine ⟨?_, ?_, ?_⟩
      · intro k hk; simp [accessesOf, hk]
      · intro ks p hk; simp [accessesOf, hk]
      · intro q p hk; simp only [accessesOf, hk]; exact ⟨_, List.mem_cons_self, _, rfl, rfl⟩
    · obtain ⟨h1, h2, h3⟩ := ih h' idx
      obtain ⟨g1, g2, g3⟩ := ih h' idx.tail
      refine ⟨?_, ?_, ?_⟩ <;> simp only [accessesOf] <;> split <;> intros <;>
        first
        | (obtain ⟨x, hx, r⟩ := h1 _ ‹_›; exact ⟨x, List.mem_cons_of_mem _ hx, r⟩)
        | (obtain ⟨x, hx, r⟩ := h2 _ _ ‹_›; exact ⟨x, List.mem_cons_of_mem _ hx, r⟩)
        | (obtain ⟨x, hx, r⟩ := h3 _ _ ‹_›; exact ⟨x, List.mem_cons_of_mem _ hx, r⟩)
        | (obtain ⟨x, hx, r⟩ := g1 _ ‹_›; exact ⟨x, List.mem_cons_of_mem _ hx, r⟩)
        | (obtain ⟨x, hx, r⟩ := g2 _ _ ‹_›; exact ⟨x, List.mem_cons_of_mem _ hx, r⟩)
        | (obtain ⟨x, hx, r⟩ := g3 _ _ ‹_›; exact ⟨x, List.mem_cons_of_mem _ hx, r⟩)

/-- A sum of powers of two for a set of bits is below the next power. -/
theorem sumBits_lt (p : Nat → Bool) (n : Nat) : (((List.range n).map fun i => if p i then 2 ^ i else 0).sum) < 2 ^ n := by
  induction n with
  | zero => simp
  | succ n ih =>
    rw [List.range_succ, List.map_append, List.sum_append]
    simp only [List.map_cons, List.map_nil, List.sum_cons, List.sum_nil, Nat.add_zero, Nat.pow_succ]
    split <;> omega

theorem testBit_sumBits (p : Nat → Bool) (n i : Nat) : (((List.range n).map fun i => if p i then 2 ^ i else 0).sum).testBit i = (decide (i < n) && p i) := by
  induction n with
  | zero => simp
  | succ n ih =>
    rw [List.range_succ, List.map_append, List.sum_append]
    simp only [List.map_cons, List.map_nil, List.sum_cons, List.sum_nil, Nat.add_zero]
    have hlt := sumBits_lt p n
    by_cases hp : p n = true
    · simp only [hp, if_true]
      rcases Nat.lt_trichotomy i n with h | h | h
      · rw [Nat.add_comm, Nat.testBit_two_pow_add_gt h, ih]; simp [h]; omega
      · subst h; rw [Nat.add_comm, Nat.testBit_two_pow_add_eq, ih]; simp [hp]
      · have : ((List.range n).map fun i => if p i then 2 ^ i else 0).sum + 2 ^ n < 2 ^ i := by
          have : 2 ^ (n + 1) ≤ 2 ^ i := Nat.pow_le_pow_right (by decide) h
          rw [Nat.pow_succ] at this; omega
        rw [Nat.testBit_lt_two_pow this]; simp; omega
    · simp only [hp, Bool.false_eq_true, if_false, Nat.add_zero, ih]
      by_cases h : i = n
      · subst h; simp [hp]
      · have : (i < n + 1) ↔ i < n := by omega
        simp [this]

/-- A lane's bit of a mask of lanes. -/
theorem maskBit_maskOf (k : Nat) (p : Nat → Bool) (l : Nat) (h : l < 32 * k) : maskBit (maskOf k p) l = p l := by
  unfold maskBit maskWord maskOf
  have hk : l / 32 < k := by omega
  have hm : l % 32 < 32 := by omega
  rw [List.getD_eq_getElem?_getD, List.getElem?_map, List.getElem?_range hk]
  simp only [Option.map_some, Option.getD_some]
  rw [BitVec.getLsbD_ofNat, testBit_sumBits (fun i => p (32 * (l / 32) + i))]
  have : 32 * (l / 32) + l % 32 = l := by omega
  simp [hm, this]

/-- The team after a trap (R378). -/
theorem State.trap_team {s : State} {slot : Nat} {t : Team} (ht : s.team? slot = some t) (r : Report) :
    (s.trap slot r).team? slot = some { t with
      status := .trapped
      service := if r.blockers = [] then none else some (.unlock r.blockers)
      report := { cause := r.causeWord, vaddr := r.vaddr, recpc := r.recpc, token := r.token, tcode := r.tcode, flw := r.flw } } := by
  rw [State.trap_eq ht]; simp

/-- Every instruction that a word encodes goes through the gate. -/
theorem exec_issue (i : Instr) (w : Word) (s : State) (hw : encode i = some w) : ∃ body, exec i s = issue i s body := by
  cases i <;> first
    | exact ⟨_, rfl⟩
    | simp [encode] at hw

end Sys2Proof.Machine
end

