-- ==== Sys2Proof/Tests/Slice0.lean ====
section
/-! SUPPORT. Tests: ill-formed terms that the well-formedness check refuses, words of every family, one step of some instructions, and for each
statement a state and operands that meet its hypotheses. Expected words and results come from the spec's own examples and tables. -/

open Sys2Proof Sys2Proof.Machine

namespace Sys2Proof.Tests

-- One theorem at a time: each kernel evaluation on a thread of its own would reserve too much memory.
set_option Elab.async false

/-- The bench with its one team current: one beat, 128 vector registers, role GEN, PC 0x10000, on core 0. -/
def bench : State := { State.reset.bench with cur := some 0 }
/-- The team of the bench. -/
def team : Team := newTeam benchRecord 0 0 1 0 0 0
/-- The bench with another team in slot 0. -/
def withTeam (t : Team) : State := bench.setTeam 0 t
/-- A team whose only executing lane is lane 0. -/
def lane0 (t : Team) : Team := t.pokeS 224 1
/-- A team with a lane of a vector register set to a word, its tag clear. -/
def Lane0 (t : Team) (r : Nat) (v : Word) : Team := t.wv r fun l => if l = 0 then some { data := v, tag := false, dead := false } else none
/-- A team with lane 0 of a vector register poisoned with a token. -/
def Bad0 (t : Team) (r : Nat) (k : Word) : Team := t.wv r fun l => if l = 0 then some { data := k, tag := true, dead := false } else none

theorem team_on_bench : bench.team? 0 = some team := by decide +kernel


/-! ## Witnesses: registers, the gate, scalar instructions -/

theorem witness_ZeroAndScalarWrite :
    (4 ≠ 0 ∧ 4 < 256 ∧ team.beats ≤ 32) ∧ (192 ≠ 0 ∧ 192 ≤ 192 ∧ 192 < 192 + team.beats) ∧ (255 < 256 ∧ 255 ≠ 0) := by decide +kernel

theorem witness_GateTraps :
    (encode (.sadd64 1 2 4) ≠ none ∧ bench.cur = some 0 ∧ bench.team? 0 = some team ∧ team.canIssue = true ∧
      team.gate (bench.mxsel team) (.sadd64 1 2 4) = .illegal) ∧
    (let t := { team with role := 1 }
     encode (.vadd 1 2 3 false false false) ≠ none ∧ (withTeam t).cur = some 0 ∧ (withTeam t).team? 0 = some t ∧ t.canIssue = true ∧
       t.gate ((withTeam t).mxsel t) (.vadd 1 2 3 false false false) = .role) := by decide +kernel

theorem witness_GateTraps_waits :
    (let t := { team with regs := { team.regs with sEmpty := [(5, true)] } }
     encode (.sadd 4 5 6) ≠ none ∧ (withTeam t).cur = some 0 ∧ (withTeam t).team? 0 = some t ∧ t.canIssue = true ∧
       t.gate ((withTeam t).mxsel t) (.sadd 4 5 6) = .wait) ∧
    (let t := team.pokeS 224 0
     encode (.vand 1 2 3 false false false) ≠ none ∧ (withTeam t).cur = some 0 ∧ (withTeam t).team? 0 = some t ∧ t.canIssue = true ∧
       t.gate ((withTeam t).mxsel t) (.vand 1 2 3 false false false) = .skip) := by decide +kernel

theorem witness_GateTraps_order :
    (team.drains = [] ∧ team.failures = []) ∧ Instr.wf (.sadd64 1 2 4) = false ∧
    (127 ∈ (needOf { team with nvregs := 127 } false (.vmov 127 1 false false false)).vw ∧ 127 ≤ ({ team with nvregs := 127 } : Team).nvregs) ∧
    (let t := { team with role := 1 }
     t.gate false (.vadd 1 2 3 false false false) ≠ .illegal ∧ t.role ∉ (needOf t false (.vadd 1 2 3 false false false)).roles) ∧
    (let t := { team with regs := { team.regs with sEmpty := [(5, true)], vEmpty := [(2, true)] } }
     t.gate false (.sadd 4 5 6) ≠ .illegal ∧ t.gate false (.sadd 4 5 6) ≠ .role ∧
       (∃ r, r ∈ (needOf t false (.sadd 4 5 6)).sr ++ (needOf t false (.sadd 4 5 6)).sw ++ t.execRegs ∧ t.sEmpty r = true) ∧
       t.gate false (.vmov 1 2 false false false) ≠ .illegal ∧ t.gate false (.vmov 1 2 false false false) ≠ .role ∧
       ∃ r, r ∈ (needOf t false (.vmov 1 2 false false false)).vr ++ (needOf t false (.vmov 1 2 false false false)).vw ∧ t.vEmpty r = true) := by
  decide +kernel

theorem witness_GateTraps_pops :
    (let t := { team with regs := { team.regs with sEmpty := [(192, true)] }, ctl := { team.ctl with stack := [{ kind := .call, pc := 0x10020, mask := [3], rpc := 1 }] } }
     t.depth ≠ 0 ∧ t.gate false .ret ≠ .illegal ∧ t.gate false .ret ≠ .role ∧ t.gate false .kill ≠ .illegal ∧ t.gate false .kill ≠ .role ∧
       ∃ r ∈ t.condRegs, t.sEmpty r = true) ∧
    (let t := { team with regs := { team.regs with sEmpty := [(224, true)] } }
     (Instr.probe 4 224 false).wf = true ∧ t.role ≤ 3 ∧ t.sEmpty 4 = false ∧ t.sEmpty 224 = true) := by
  decide +kernel

theorem witness_GateTraps_failures :
    (let f : Failure := { op := 2, pc := 0x10000, code := 5, vaddr := 0, token := 0, lanes := [0], sregs := [5], vregs := [], paths := [],
                          store := false, atomic := false }
     let t := { team with failures := [f] }
     encode (.sadd 4 5 6) ≠ none ∧ t.canIssue = true ∧ (withTeam t).team? 0 = some t ∧ t.drains = [] ∧ 5 ∈ f.sregs ∧
       5 ∈ (needOf t false (.sadd 4 5 6)).sr ∧ t.gate ((withTeam t).mxsel t) (.sadd 4 5 6) = .failed f) ∧
    (let d : DrainMark := { reg := 5, pc := 0x10000, token := 0x41000000, vaddr := 0 }
     let t := { team with drains := [d] }
     t.canIssue = true ∧ (withTeam t).team? 0 = some t ∧
       t.drains.find? (fun d => decide (d.reg ∈ (needOf t false (.sadd 4 5 6)).scalars t)) = some d ∧
       t.gate ((withTeam t).mxsel t) (.sadd 4 5 6) = .drained d) := by
  decide +kernel

theorem runs_on_bench (i : Instr) (h : decide (team.gate (bench.mxsel team) i = .go) = true) : Runs bench 0 team i :=
  ⟨rfl, team_on_bench, by decide +kernel, of_decide_eq_true h⟩

theorem runs_with (t : Team) (i : Instr)
    (h : decide ((withTeam t).team? 0 = some t ∧ t.canIssue = true ∧ t.gate ((withTeam t).mxsel t) i = .go) = true) : Runs (withTeam t) 0 t i :=
  ⟨rfl, of_decide_eq_true h⟩

theorem runs_on (s : State) (t : Team) (i : Instr)
    (h : decide (s.cur = some 0 ∧ s.team? 0 = some t ∧ t.canIssue = true ∧ t.gate (s.mxsel t) i = .go) = true) : Runs s 0 t i := by
  have h1 := of_decide_eq_true h
  exact h1

theorem witness_ScalarResults : Runs bench 0 team (.sdivi 4 5 6) ∧ Claim.scalarWrite team (.sdivi 4 5 6) = some (4, 0xFFFFFFFF) :=
  ⟨runs_on_bench _ (by decide +kernel), by decide +kernel⟩

theorem witness_ScalarResults_bits : Runs bench 0 team (.sbitopPopc 4 5) ∧ Runs bench 0 team (.sbitopClz 4 5) ∧ Runs bench 0 team (.sbitopCtz 4 5) ∧
    Runs bench 0 team (.sbitopBrev 4 5) ∧ Runs bench 0 team (.sbfx 4 5 6) ∧ Runs bench 0 team (.sbfi 4 5 6) ∧ Runs bench 0 team (.sadd64 0 2 4) ∧
    (0x1B050604 : Word).extractLsb' 24 8 = 0x1B ∧ 4 ≤ ((0x1B050604 : Word).extractLsb' 0 8).toNat :=
  ⟨runs_on_bench _ (by decide +kernel), runs_on_bench _ (by decide +kernel), runs_on_bench _ (by decide +kernel),
   runs_on_bench _ (by decide +kernel), runs_on_bench _ (by decide +kernel), runs_on_bench _ (by decide +kernel),
   runs_on_bench _ (by decide +kernel), by decide, by decide⟩

theorem witness_RegisterFrame : Claim.registerOnly (.vredadd 1 2 false false false) = true ∧ Runs bench 0 team (.vredadd 1 2 false false false) ∧
    Claim.registerOnly (.sadd 4 5 6) = true ∧ Runs bench 0 team (.sadd 4 5 6) :=
  ⟨rfl, runs_on_bench _ (by decide +kernel), rfl, runs_on_bench _ (by decide +kernel)⟩

/-! ## Witnesses: lanes and formats -/

theorem witness_LaneResults : (Runs bench 0 team (.vadda 1 2 3 false false false) ∧
      ∀ l, ∃ v, Claim.laneWrite team l (.vadda 1 2 3 false false false) = some (1, v)) ∧
    Runs bench 0 team (.vadda64 2 4 3 false false false) ∧
    (let t := lane0 (Bad0 team 4 7)
     Runs (withTeam t) 0 t (.vadda64 2 4 3 false false false) ∧ t.active 0 = true ∧ t.rv 4 0 = .error 7) ∧
    (team.active 31 = true ∧ team.rv 4 31 = .ok 0 ∧ team.rv 5 31 = .ok 0 ∧ team.rv 3 31 = .ok 0) :=
  ⟨⟨runs_on_bench _ (by decide +kernel), fun _ => ⟨_, rfl⟩⟩, runs_on_bench _ (by decide +kernel),
   ⟨runs_with _ _ (by decide +kernel), by decide +kernel⟩, by decide +kernel⟩

theorem witness_CrossLaneResults : Runs bench 0 team (.vshfliUp 1 2 false 1) ∧
    (∀ l, ∃ x, Claim.crossSource team l (.vshfliUp 1 2 false 1) = some (1, 2, x)) ∧
    Claim.crossSource team 0 (.vshfliUp 1 2 false 1) = some (1, 2, .ok none) ∧
    Claim.crossSource team 31 (.vshfliUp 1 2 false 1) = some (1, 2, .ok (some 30)) ∧ team.active 30 = true ∧
    (let t := Bad0 team 3 7
     Runs (withTeam t) 0 t (.vshfl 1 2 3 false false false) ∧ Claim.crossSource t 0 (.vshfl 1 2 3 false false false) = some (1, 2, .error 7)) ∧
    (Runs bench 0 team (.vpack 1 2 3 false false false) ∧ (∀ q, q < 10 → team.active (4 * 10 + q) = false) ∧
      team.active (3 * 10 + 1) = true ∧ team.active (3 * 10 + 2) = false ∧ team.rv 2 31 = .ok 0 ∧ team.rv 1 3 = .ok 0) ∧
    (let t := Bad0 team 2 7
     Runs (withTeam t) 0 t (.vpack 1 2 8 false false false) ∧ Runs (withTeam t) 0 t (.vunpk 1 2 false true 8) ∧ t.rv 2 0 = .error 7) ∧
    (let t := lane0 (Bad0 team 1 7)
     Runs (withTeam t) 0 t (.vpack 1 2 8 false false false) ∧ t.active 0 = true ∧ t.active 1 = false ∧ t.rv 1 0 = .error 7) ∧
    Runs bench 0 team (.vunpk 1 2 false true 8) ∧
    (let t := team.pokeS 224 0x80000000
     Runs (withTeam t) 0 t (.vunpk 1 2 false true 8) ∧ t.active 31 = true ∧ t.active (31 / 4) = false) :=
  ⟨runs_on_bench _ (by decide +kernel), fun _ => ⟨_, rfl⟩, by decide +kernel, by decide +kernel, by decide +kernel,
   ⟨runs_with _ _ (by decide +kernel), by decide +kernel⟩, ⟨runs_on_bench _ (by decide +kernel), by decide +kernel⟩,
   ⟨runs_with _ _ (by decide +kernel), runs_with _ _ (by decide +kernel), by decide +kernel⟩,
   ⟨runs_with _ _ (by decide +kernel), by decide +kernel⟩, runs_on_bench _ (by decide +kernel),
   ⟨runs_with _ _ (by decide +kernel), by decide +kernel⟩⟩

theorem witness_CondResults : Runs bench 0 team (.vtest 7 1 2 false false false) ∧ Runs bench 0 team (.ptest 1 false false false) ∧
    team.active 0 = true ∧ (lane0 team).active 1 = false ∧ team.rv 1 0 = .ok 0 ∧
    (let t := Bad0 team 1 7
     Runs (withTeam t) 0 t (.vtest 0 1 2 false false false) ∧ t.rv 1 0 = .error 7) :=
  ⟨runs_on_bench _ (by decide +kernel), runs_on_bench _ (by decide +kernel), by decide +kernel, by decide +kernel, by decide +kernel,
   runs_with _ _ (by decide +kernel), by decide +kernel⟩

theorem witness_CrossLaneResults_toScalar : (Runs bench 0 team (.vtosAdd 1 4 false false) ∧
      (Claim.vtosResult team (.vtosAdd 1 4 false false)).isSome = true ∧ ∀ l ∈ team.activeLanes, ∃ w, team.rv 1 l = .ok w) ∧
    (let t := Bad0 team 1 0x41000000
     Runs (withTeam t) 0 t (.vtosFirst 1 4 false false) ∧ (Claim.vtosResult t (.vtosFirst 1 4 false false)).isSome = true ∧
       t.activeLanes.head?.toList.find? (fun l => (t.lane 1 l).dead || (t.lane 1 l).tag) = some 0 ∧ t.rv 1 0 = .error 0x41000000) :=
  ⟨⟨runs_on_bench _ (by decide +kernel), by decide +kernel, fun l hl => ⟨0, by revert l; decide +kernel⟩⟩,
   runs_with _ _ (by decide +kernel), by decide +kernel⟩

theorem witness_FormatResults : Runs bench 0 team (.vadd 1 2 3 false false false) ∧
    (∀ l, ∃ c, Claim.slotWrite team l (.vadd 1 2 3 false false false) = some (1, c)) ∧ 0 < Claim.slotWidth team ∧
    (Runs bench 0 team (.vredadd 1 2 false false false) ∧ Runs bench 0 team (.vredmax 1 2 false false false) ∧
      Runs bench 0 team (.vredmin 1 2 false false false) ∧ firstToken (team.elements 2) = none ∧ (team.elements 2).length = 32) ∧
    (let t := Bad0 team 2 7
     Runs (withTeam t) 0 t (.vredmax 1 2 false false false) ∧ firstToken (t.elements 2) = some 7) ∧
    Runs bench 0 team (.vstat 2 false false false) :=
  ⟨runs_on_bench _ (by decide +kernel), fun _ => ⟨_, rfl⟩, by decide +kernel,
   ⟨runs_on_bench _ (by decide +kernel), runs_on_bench _ (by decide +kernel), runs_on_bench _ (by decide +kernel), by decide +kernel⟩,
   ⟨runs_with _ _ (by decide +kernel), by decide +kernel⟩, runs_on_bench _ (by decide +kernel)⟩

/-- A power of two as a magnitude stands for it. -/
theorem denotes_pow (e : Int) : Claim.denotes (Mag.dyadic 1 e) ((2 : ℝ) ^ e) := by
  have hl : (Mag.dyadic 1 e).log = e := by simp [Mag.dyadic, show Nat.log2 1 = 0 by decide]
  have two : (2 : ℝ) ≠ 0 := by norm_num
  refine ⟨by rw [hl], by rw [hl, zpow_add₀ two]; have : (0 : ℝ) < 2 ^ e := by positivity
                         linarith [zpow_one (2 : ℝ)], fun j => ?_⟩
  rw [← zpow_add₀ two, show (Mag.dyadic 1 e).scale j = shiftFloor 1 (e + j) from rfl]
  generalize e + j = j
  rcases le_or_gt 0 j with h | h
  · obtain ⟨n, rfl⟩ := Int.eq_ofNat_of_zero_le h
    simp [shiftFloor, Nat.shiftLeft_eq]
  · obtain ⟨n, rfl⟩ : ∃ n : ℕ, j = -((n : Int) + 1) := ⟨(-j - 1).toNat, by omega⟩
    have h2 : (1 : Nat) < 2 ^ (n + 1) := Nat.one_lt_two_pow (by omega)
    have h3 : (1 : ℝ) < 2 ^ (n + 1) := by exact_mod_cast h2
    have e : (2 : ℝ) ^ (-((n : Int) + 1)) = ((2 : ℝ) ^ (n + 1))⁻¹ := by rw [zpow_neg]; norm_cast
    have hf : shiftFloor 1 (-((n : Int) + 1)) = (0, false) := by
      have ht : (-(-((n : Int) + 1))).toNat = n + 1 := by omega
      simp only [shiftFloor, ht, if_neg (show ¬ 0 ≤ -((n : Int) + 1) by omega), Nat.shiftRight_eq_div_pow, Nat.div_eq_of_lt h2,
        Nat.mod_eq_of_lt h2]
      rfl
    rw [e, hf]
    have h4 : (0 : ℝ) < (2 ^ (n + 1))⁻¹ := by positivity
    exact ⟨by simp, by simpa using inv_lt_one_of_one_lt₀ h3, by simp⟩
/-- The definition of E2M1 with SUB = 1. -/
def flushing : Dbl := builtin 7 ||| 0x40000000000
theorem e2m1_finite (c : Nat) (v : ℚ) (h : ∃ n m e, decodeVal (fmtOf (builtin 7)) c = .fin n m e ∧ v = Claim.number n m e) :
    Claim.finite (fmtOf (builtin 7)) c v := by
  obtain ⟨n, m, e, h1, rfl⟩ := h; exact ⟨n, m, e, h1, rfl⟩
theorem e2m1_top : Claim.fieldValue (fmtOf (builtin 7)) (Claim.topField (fmtOf (builtin 7))).1 (Claim.topField (fmtOf (builtin 7))).2 = 6 := by
  have h1 : Claim.topField (fmtOf (builtin 7)) = (3, 1) := by decide
  have h2 : (fmtOf (builtin 7)).bias = 1 ∧ (fmtOf (builtin 7)).m = 1 := by decide
  rw [h1]
  norm_num [Claim.fieldValue, h2]

theorem e2m1_steps : ∀ c, c < 16 → ∀ n m e, decodeVal (fmtOf (builtin 7)) c = .fin n m e → Claim.number n m e ≤ 0 ∨ 1 / 2 ≤ Claim.number n m e := by
  have h : ∀ c : Fin 16, (match decodeVal (fmtOf (builtin 7)) c with
      | .fin n m e => n || decide (m = 0) || decide (-1 ≤ e)
      | _ => true) = true := by decide
  intro c hc n m e hd
  have hx := h ⟨c, hc⟩
  simp only [hd, Bool.or_eq_true, decide_eq_true_eq, or_assoc] at hx
  rcases hx with rfl | rfl | he
  · left; simp [Claim.number]; positivity
  · left; simp [Claim.number]
  · by_cases hm : m = 0
    · left; simp [Claim.number, hm]
    · cases n
      · right
        have h1 : (1 : ℚ) ≤ m := by exact_mod_cast Nat.one_le_iff_ne_zero.mpr hm
        have h2 : (2 : ℚ) ^ (-1 : Int) ≤ 2 ^ e := zpow_le_zpow_right₀ (by norm_num) he
        have h3 : (2 : ℚ) ^ (-1 : Int) = 1 / 2 := by norm_num
        rw [h3] at h2
        simp only [Claim.number, Bool.false_eq_true, if_false, one_mul]
        nlinarith
      · left; simp [Claim.number]; positivity

theorem witness_Rounding :
    (fmtValid (builtin 7) = true ∧ ¬ ((fmtOf (builtin 7)).nan = 3 ∧ (fmtOf (builtin 7)).sub = 2) ∧ (fmtOf (builtin 7)).kind = 0 ∧
      (fmtOf (builtin 7)).sub = 0 ∧ 5 ≤ 5 ∧ 0 < 2 ^ 32) ∧
    (Claim.denotes (Mag.dyadic 1 0) ((2 : ℝ) ^ (0 : Int)) ∧ Claim.finite (fmtOf (builtin 7)) 2 (1 : ℚ)) ∧
    (Claim.denotes (Mag.dyadic 1 (-2)) ((2 : ℝ) ^ (-2 : Int)) ∧ Claim.finite (fmtOf (builtin 7)) 0 (0 : ℚ) ∧
      Claim.finite (fmtOf (builtin 7)) 1 (1 / 2 : ℚ) ∧
      ∀ c w, c < 16 → Claim.finite (fmtOf (builtin 7)) c w → w ≤ 0 ∨ (1 / 2 : ℝ) ≤ w) ∧
    (Claim.denotes (Mag.dyadic 1 4) ((2 : ℝ) ^ (4 : Int)) ∧
      (Claim.fieldValue (fmtOf (builtin 7)) (Claim.topField (fmtOf (builtin 7))).1 (Claim.topField (fmtOf (builtin 7))).2 : ℝ) < 2 ^ (4 : Int)) ∧
    (fmtValid (builtin 9) = true ∧ (fmtOf (builtin 9)).kind ≠ 0) ∧
    (fmtValid flushing = true ∧ (fmtOf flushing).kind = 0 ∧ (fmtOf flushing).sub = 1 ∧
      (encodeVal { fmtOf flushing with sub := 0 } 0 false 0 (.real false (Mag.dyadic 1 4))).ovc = true) ∧
    (fmtValid (builtin 8) = true ∧ (fmtOf (builtin 8)).sub = 2 ∧ (fmtOf (builtin 8)).nan ≠ 3 ∧
      Claim.denotes (Mag.dyadic 1 (-130)) ((2 : ℝ) ^ (-130 : Int)) ∧ (2 : ℝ) ^ (-130 : Int) < (2 : ℝ) ^ (-(fmtOf (builtin 8)).bias)) := by
  refine ⟨by decide, ⟨denotes_pow 0, e2m1_finite _ _ ⟨false, 2, -1, by decide, by norm_num [Claim.number]⟩⟩,
    ⟨denotes_pow _, ?_, e2m1_finite _ _ ⟨false, 1, -1, by decide, by norm_num [Claim.number]⟩, ?_⟩,
    ⟨denotes_pow 4, by rw [e2m1_top]; norm_num⟩, by decide, by decide, ⟨by decide, by decide, by decide, denotes_pow _, ?_⟩⟩
  · exact ⟨false, 0, -1, by decide, by norm_num [Claim.number]⟩
  · rintro c w hc ⟨n, m, e, hd, rfl⟩
    rcases e2m1_steps c hc n m e hd with h | h
    · left; exact_mod_cast h
    · right
      have h1 : ((1 / 2 : ℚ) : ℝ) ≤ (Claim.number n m e : ℝ) := by exact_mod_cast h
      simpa using h1
  · have h : (fmtOf (builtin 8)).bias = 127 := by decide
    rw [h]
    exact zpow_lt_zpow_right₀ (by norm_num) (by norm_num)

theorem witness_NumberValues :
    (fmtValid (builtin 0) = true ∧ (fmtOf (builtin 0)).kind = 0 ∧ (fmtOf (builtin 0)).nan = 1 ∧ 0x7FC00000 < 2 ^ (fmtOf (builtin 0)).w ∧
      0x7FC00000 / 2 ^ 23 % 2 ^ 8 = 2 ^ 8 - 1 ∧ 0x7FC00000 % 2 ^ 23 ≠ 0 ∧ (fmtOf (builtin 0)).inf = 1 ∧
      0x7F800000 / 2 ^ 23 % 2 ^ 8 = 2 ^ 8 - 1 ∧ 0x7F800000 % 2 ^ 23 = 0 ∧ 0x3F800000 / 2 ^ 23 % 2 ^ 8 ≠ 2 ^ 8 - 1) ∧
    (fmtValid (builtin 9) = true ∧ (fmtOf (builtin 9)).kind ≠ 0 ∧ 0xFF < 2 ^ (fmtOf (builtin 9)).w) ∧
    (Claim.below (.fin false 1 0) (.inf false) ∧ Val.nan ∈ [Val.nan] ∧ Val.inf true ∈ [Val.inf true, Val.fin false 0 0] ∧
      ¬ Val.nan ∈ [Val.inf true, Val.fin false 0 0] ∧ ¬ Val.inf false ∈ [Val.inf true, Val.fin false 0 0]) := by
  refine ⟨by decide, by decide, rfl, ?_⟩
  decide

/-- A team whose slot 0 holds a built-in definition. -/
def slotted (t : Team) (n : Nat) : Team := { t with fmt := { t.fmt with fdr := [(0, builtin n)] } }

theorem witness_MarksAndTokens : Runs bench 0 team (.vtest 7 1 2 true false false) ∧ Runs bench 0 team (.vcmp 0 1 2 true false false) ∧
    Runs bench 0 team (.vclass 1 1 true false false) ∧ Runs bench 0 team (.vadd 1 2 3 true true false) ∧
    Claim.lastUses team (.vadd 1 2 3 true true false) = some [(2, true), (3, true)] ∧
    (∀ l, ∃ x, Claim.crossSource team l (.vshfliUp 1 2 true 1) = some (1, 2, x)) ∧ Runs bench 0 team (.vshfliUp 1 2 true 1) ∧
    (let t := Bad0 team 1 7
     Runs (withTeam t) 0 t (.vcmp 0 1 2 false false false) ∧ Claim.badSource t 0 [1, 2] = some 7) :=
  ⟨runs_on_bench _ (by decide +kernel), runs_on_bench _ (by decide +kernel), runs_on_bench _ (by decide +kernel),
   runs_on_bench _ (by decide +kernel), by decide +kernel, fun _ => ⟨_, rfl⟩, runs_on_bench _ (by decide +kernel),
   runs_with _ _ (by decide +kernel), by decide +kernel⟩

theorem witness_DotsAndScans : (Runs bench 0 team (.vdot 1 2 3 false false false) ∧ team.active 31 = true ∧
      team.readIn (team.fmtAt team.slot) 2 31 = .ok 0 ∧ team.readIn (team.fmtAt team.slot) 3 31 = .ok 0 ∧ team.rv 1 31 = .ok 0 ∧
      (team.fmtAt team.slot).kind = 0 ∧ (team.fmtAt team.slot).count = 1) ∧
    (let t := slotted team 9
     Runs (withTeam t) 0 t (.vdot 1 2 3 false false false) ∧ (t.fmtAt t.slot).kind = 1) ∧
    (let t := Bad0 team 2 7
     Runs (withTeam t) 0 t (.vdot 1 2 3 false false false) ∧ t.readIn (t.fmtAt t.slot) 2 0 = .error 7 ∧
       Runs (withTeam t) 0 t (.vscanAddx 1 2 false false false) ∧ firstToken (t.elements 2) = some 7 ∧
       ((t.elements 2)[0]?.map fun e => (e.1, e.2.1)) = some (0, 0)) ∧
    (Runs bench 0 team (.vscanAdd 1 2 false false false) ∧ Runs bench 0 team (.vscanAddx 1 2 false false false) ∧
      Runs bench 0 team (.vscanMax 1 2 false false false) ∧ Runs bench 0 team (.vscanMin 1 2 false false false) ∧
      firstToken (team.elements 2) = none ∧ (team.elements 2).length = 32) ∧
    (let t := (slotted team 9).pokeS 224 0x3FFFFFFF
     Runs (withTeam t) 0 t (.vqnt 1 2 4 false false) ∧ (t.fmtAt t.slot).count = 4 ∧ t.active 7 = true ∧ t.active (7 * 4 + 1) = true ∧
       t.active (7 * 4 + 2) = false ∧ t.rv 2 29 = .ok 0 ∧ t.readIn (t.fmtAt t.slot) 1 7 = .ok 0 ∧ t.active 10 = true ∧ t.active (10 * 4) = false ∧
       Runs (withTeam t) 0 t (.vdqnt 1 2 4 false false) ∧ t.readIn (t.fmtAt t.slot) 2 (7 / 4) = .ok 0) ∧
    (let t := Bad0 (slotted team 9) 2 7
     Runs (withTeam t) 0 t (.vqnt 1 2 4 false false) ∧ Runs (withTeam t) 0 t (.vdqnt 1 2 4 false false) ∧ t.rv 2 0 = .error 7 ∧
       t.readIn (t.fmtAt t.slot) 2 (3 / 4) = .error 7) :=
  ⟨⟨runs_on_bench _ (by decide +kernel), by decide +kernel⟩, ⟨runs_with _ _ (by decide +kernel), by decide +kernel⟩,
   ⟨runs_with _ _ (by decide +kernel), by decide +kernel, runs_with _ _ (by decide +kernel), by decide +kernel⟩,
   ⟨runs_on_bench _ (by decide +kernel), runs_on_bench _ (by decide +kernel), runs_on_bench _ (by decide +kernel),
    runs_on_bench _ (by decide +kernel), by decide +kernel⟩,
   ⟨runs_with _ _ (by decide +kernel), by decide +kernel, by decide +kernel, by decide +kernel, by decide +kernel, by decide +kernel,
    by decide +kernel, by decide +kernel, by decide +kernel, runs_with _ _ (by decide +kernel), by decide +kernel⟩,
   runs_with _ _ (by decide +kernel), runs_with _ _ (by decide +kernel), by decide +kernel⟩

theorem witness_SpecialFunctions : (Runs bench 0 team (.vrcp 1 2 false false false) ∧
      ∀ l, ∃ c, Claim.sfuWrite team l (.vrcp 1 2 false false false) = some (1, c)) ∧
    (let o : Op := { id := 2, slot := 0, gid := 1, part := 0, core := 0, pc := 0x10000, snapshot := [], sent := [], handed := false, orphan := false,
                     kind := .sfu { vd := [(1, [some { data := 5, tag := false, dead := false }])], slot := 0, amax := 0, flags := 0 } }
     let s := { bench with ops := [o] }
     s.op? o.id = some o ∧ o.orphan = false ∧ s.team? o.slot = some team ∧ team.group = o.gid ∧ team.status ≠ .exited ∧
       ∀ p ∈ s.ops, ¬ (p.id < o.id ∧ p.core = o.core)) :=
  ⟨⟨runs_on_bench _ (by decide +kernel), fun _ => ⟨_, rfl⟩⟩, by decide +kernel⟩

/-- A team with a pair of scalars that hold a double. -/
def pair (t : Team) (r : Nat) (v : Dbl) : Team := (t.pokeS r (v.extractLsb' 0 32)).pokeS (r + 1) (v.extractLsb' 32 32)

theorem witness_FormatState : (let t := pair team 4 (builtin 2)
      Runs (withTeam t) 0 t (.fdef 3 4) ∧ fmtValid (t.rd64 4) = true) ∧
    (let t := pair team 4 0xFFFFFFFFFFFFFFFF
     Runs (withTeam t) 0 t (.fdef 3 4) ∧ fmtValid (t.rd64 4) = false) ∧
    Runs bench 0 team (.fdefi 3 true 15) ∧ Runs bench 0 team (.fget 4 15) ∧ Runs bench 0 team (.stget 4 20) ∧
    Runs bench 0 team (.stclr true true true true 15) ∧ Runs bench 0 team (.stseed 4) ∧ bench.statsPending 0 team.group = false :=
  ⟨⟨runs_with _ _ (by decide +kernel), by decide +kernel⟩, ⟨runs_with _ _ (by decide +kernel), by decide +kernel⟩,
   runs_on_bench _ (by decide +kernel), runs_on_bench _ (by decide +kernel), runs_on_bench _ (by decide +kernel),
   runs_on_bench _ (by decide +kernel), runs_on_bench _ (by decide +kernel), by decide +kernel⟩

theorem witness_FormatState_mode : Runs bench 0 team (.mode 0x1F 0x153) ∧ Runs bench 0 team (.modeget 4) ∧
    (let t := team.pokeS 4 0x153
     Runs (withTeam t) 0 t (.modes 0x1F 4) ∧ (t.rs 4).extractLsb' 12 4 = 0 ∧ modeOk 0x1F ((t.rs 4).extractLsb' 0 12) = true) ∧
    (let t := team.pokeS 4 0x300
     Runs (withTeam t) 0 t (.modes 0x1F 4) ∧ modeOk 0x1F ((t.rs 4).extractLsb' 0 12) = false) ∧
    (let t := team.pokeS 4 0x1000
     Runs (withTeam t) 0 t (.modes 0 4) ∧ (t.rs 4).extractLsb' 12 4 ≠ 0) :=
  ⟨runs_on_bench _ (by decide +kernel), runs_on_bench _ (by decide +kernel), ⟨runs_with _ _ (by decide +kernel), by decide +kernel⟩,
   ⟨runs_with _ _ (by decide +kernel), by decide +kernel⟩, runs_with _ _ (by decide +kernel), by decide +kernel⟩

/-! ## Witnesses: control -/

theorem witness_UniformBranch : (Runs bench 0 team (.bany 192 (BitVec.ofInt 16 (-1))) ∧
      Claim.branch team (.bany 192 (BitVec.ofInt 16 (-1))) = some (-1, [192], false) ∧ team.condFault [192] = none) ∧
    (let t := { team with ctl := { team.ctl with cpois := [1], ctok := [7] } }
     Runs (withTeam t) 0 t (.bany 192 4) ∧ Claim.branch t (.bany 192 4) = some (4, [192], false) ∧ 0 < t.lanes ∧ 192 + 0 / 32 ∈ [192] ∧
       t.exec 0 = true ∧ maskBit t.ctl.cpois 0 = true ∧ ∀ m, m < t.lanes → ¬ m / 32 < 0 / 32) :=
  ⟨⟨runs_on_bench _ (by decide +kernel), by decide +kernel⟩, runs_with _ _ (by decide +kernel), by decide +kernel⟩

/-- The lanes of the exec window that a divergent branch takes. -/
def taken (t : Team) : List Word := (List.range t.beats).map fun b => t.rs (224 + b) &&& t.rs (192 + b)
/-- The lanes of the exec window that a divergent branch does not take. -/
def fellThrough (t : Team) : List Word := (List.range t.beats).map fun b => t.rs (224 + b) &&& ~~~t.rs (192 + b)

theorem all_zero (l : List Word) (h : (l.all fun w => w == 0) = true) : ∀ w ∈ l, w = 0 := by simpa using h
theorem some_set (l : List Word) (h : (l.any fun w => w != 0) = true) : ∃ w ∈ l, w ≠ 0 := by simpa using h

theorem witness_DivergentBranch : (Runs bench 0 team (.bdiv 4 8) ∧ Runs bench 0 team (.bdivl 4 8) ∧ team.condFault team.condRegs = none ∧
      team.beats ≤ 32 ∧ ∀ w ∈ taken team, w = 0) ∧
    (let t := team.pokeS 192 0xFFFFFFFF
     Runs (withTeam t) 0 t (.bdiv 4 8) ∧ (∃ w ∈ taken t, w ≠ 0) ∧ ∀ w ∈ fellThrough t, w = 0) ∧
    (let t := team.pokeS 192 1
     Runs (withTeam t) 0 t (.bdivl 4 8) ∧ (∃ w ∈ taken t, w ≠ 0) ∧ (∃ w ∈ fellThrough t, w ≠ 0) ∧
       t.ctl.stack.length + 2 ≤ Config.hardwareStack ∧ t.ctl.spilled ≤ t.ctl.spillDepth) :=
  ⟨⟨runs_on_bench _ (by decide +kernel), runs_on_bench _ (by decide +kernel), by decide +kernel, by decide +kernel,
      all_zero _ (by decide +kernel)⟩,
   ⟨runs_with _ _ (by decide +kernel), some_set _ (by decide +kernel), all_zero _ (by decide +kernel)⟩,
   runs_with _ _ (by decide +kernel), some_set _ (by decide +kernel), some_set _ (by decide +kernel), by decide +kernel⟩

theorem witness_DivergentBranch_pop :
    let e : DivEntry := { kind := .join, pc := 0x10020, mask := [3], rpc := 1 }
    let t := { team with ctl := { team.ctl with rpc := team.pc, stack := [e] } }
    let s := withTeam t
    s.cur = some 0 ∧ s.team? 0 = some t ∧ t.canIssue = true ∧ t.pc = t.ctl.rpc ∧ t.beats ≤ 32 ∧
      (∀ r ∈ t.execRegs ++ t.condRegs, t.sEmpty r = false) ∧ ∃ b, b < t.beats ∧ maskWord e.mask b &&& maskWord t.ctl.live b ≠ 0 := by
  decide +kernel

theorem witness_CountedLoop : (Runs bench 0 team (.loop 4 1) ∧ team.rs 4 = 0) ∧
    (let t := team.pokeS 4 0xFFFFFFFF
     Runs (withTeam t) 0 t (.loop 4 0x7FFF) ∧ t.rs 4 ≠ 0) ∧
    (let l : LoopState := { lc := 2, start := 0xFFFC, last := 0x10000, active := true, capture := false, buffer := [] }
     let t := { team with ctl := { team.ctl with loop := l } }
     t.ctl.loop.active = true ∧ t.pc = t.ctl.loop.last ∧ 1 < t.ctl.loop.lc.toNat) ∧
    (let l : LoopState := { lc := 1, start := 0xFFFC, last := 0x10000, active := true, capture := false, buffer := [] }
     let t := { team with ctl := { team.ctl with loop := l } }
     t.ctl.loop.active = true ∧ t.pc = t.ctl.loop.last ∧ t.ctl.loop.lc.toNat ≤ 1) ∧ team.ctl.loop.active = false :=
  ⟨⟨runs_on_bench _ (by decide +kernel), by decide +kernel⟩, ⟨runs_with _ _ (by decide +kernel), by decide +kernel⟩,
   by decide +kernel, by decide +kernel, by decide +kernel⟩

/-- A stack of n join entries. -/
def joins (n : Nat) : List DivEntry := List.replicate n { kind := .join, pc := 0x10020, mask := [3], rpc := 1 }

theorem witness_CallsAndReturns : (Runs bench 0 team (.call (BitVec.ofInt 24 (-1))) ∧ team.depth < Config.hardwareStack) ∧
    (let t := pair team 4 0x10040
     Runs (withTeam t) 0 t (.calls 4) ∧ Runs (withTeam t) 0 t (.brs 4) ∧ (t.rs 5 ++ t.rs 4).toNat % 4 = 0) ∧
    (let t := pair team 4 0x10042
     Runs (withTeam t) 0 t (.brs 4) ∧ Runs (withTeam t) 0 t (.calls 4) ∧ (t.rs 5 ++ t.rs 4).toNat % 4 ≠ 0) ∧
    (let e : DivEntry := { kind := .call, pc := 0x10020, mask := [3], rpc := 1 }
     let t := { team with ctl := { team.ctl with stack := [e] } }
     Runs (withTeam t) 0 t .ret ∧ (∃ b, b < t.beats ∧ maskWord e.mask b &&& maskWord t.ctl.live b ≠ 0) ∧ t.beats ≤ 32) ∧
    (let t := { team with ctl := { team.ctl with stack := joins 1 } }
     Runs (withTeam t) 0 t .ret) ∧ (Runs bench 0 team .ret ∧ team.ctl.stack = [] ∧ team.ctl.spilled = 0) ∧
    (let t := { pair (team.pokeS 192 1) 4 0x10040 with ctl := { team.ctl with stack := joins 16 } }
     Runs (withTeam t) 0 t (.call 4) ∧ Runs (withTeam t) 0 t (.calls 4) ∧ Runs (withTeam t) 0 t (.bdiv 4 8) ∧
       Config.hardwareStack + t.ctl.spillDepth ≤ t.depth ∧ (t.rs 5 ++ t.rs 4).toNat % 4 = 0 ∧ t.condFault t.condRegs = none ∧
       (∃ b, b < t.beats ∧ t.rs (224 + b) &&& t.rs (192 + b) ≠ 0) ∧ ∃ b, b < t.beats ∧ t.rs (224 + b) &&& ~~~t.rs (192 + b) ≠ 0) :=
  ⟨⟨runs_on_bench _ (by decide +kernel), by decide +kernel⟩,
   ⟨runs_with _ _ (by decide +kernel), runs_with _ _ (by decide +kernel), by decide +kernel⟩,
   ⟨runs_with _ _ (by decide +kernel), runs_with _ _ (by decide +kernel), by decide +kernel⟩, ⟨runs_with _ _ (by decide +kernel), by decide +kernel⟩,
   runs_with _ _ (by decide +kernel), ⟨runs_on_bench _ (by decide +kernel), by decide +kernel⟩,
   runs_with _ _ (by decide +kernel), runs_with _ _ (by decide +kernel), runs_with _ _ (by decide +kernel), by decide +kernel⟩

/-- The memory of the bench with a call entry in the spill area of its team, at offset 0 of the group's scratchpad. -/
def spilledState (t : Team) : State :=
  ((withTeam t).homeWrite (spadKey 1 16) (leBytes 4 3)).homeWrite (spadKey 1 32) (leBytes 4 3)

theorem witness_CallsAndReturns_spill :
    (let t := { team with ctl := { team.ctl with stack := joins 16, spillDepth := 2 } }
     Runs (withTeam t) 0 t (.call 4) ∧ t.ctl.stack.length = Config.hardwareStack ∧ t.ctl.stack.getLast? = (joins 1).head? ∧
       t.depth < Config.hardwareStack + t.ctl.spillDepth) ∧
    (let t := { team with ctl := { team.ctl with stack := [], spillDepth := 2, spilled := 1, spillOff := 0 } }
     let s := spilledState t
     Runs s 0 t .ret ∧ t.ctl.stack = [] ∧ 0 < t.ctl.spilled ∧ t.ctl.spillOff = 0 ∧ s.mem.nat (spadKey 1 (t.ctl.spillOff + t.ctl.spilled * 48) - 48 + 16) 4 = 3 ∧
       (∃ b, b < t.beats ∧ word (s.mem.nat (spadKey 1 (t.ctl.spillOff + t.ctl.spilled * 48) - 48 + 32 + 4 * b) 4) &&& maskWord t.ctl.live b ≠ 0) ∧
       32 + 16 * ((t.beats + 3) / 4) = 48 ∧ t.group = 1 ∧ t.beats ≤ 32) :=
  ⟨⟨runs_with _ _ (by decide +kernel), by decide +kernel⟩, runs_on _ _ _ (by decide +kernel), by decide +kernel⟩

theorem witness_UniformBranch_loop :
    let l : LoopState := { lc := 2, start := 0xFFFC, last := 0x10004, active := true, capture := false, buffer := [] }
    let t := { team with ctl := { team.ctl with loop := l } }
    Runs (withTeam t) 0 t (.bnone 192 (BitVec.ofInt 16 (-1))) ∧ Runs (withTeam t) 0 t (.bnone 192 8) ∧
      Claim.branch t (.bnone 192 8) = some (8, [192], true) ∧ t.condFault [192] = none ∧ t.ctl.loop.active = true ∧
      ¬ (t.pc + BitVec.ofInt 64 (4 * 8)).toNat ≤ t.ctl.loop.last.toNat := by
  exact ⟨runs_with _ _ (by decide +kernel), runs_with _ _ (by decide +kernel), by decide +kernel⟩

theorem witness_DivergentBranch_poison :
    let t := { team with ctl := { team.ctl with cpois := [1], ctok := [7] } }
    Runs (withTeam t) 0 t (.bdiv 4 8) ∧ Runs (withTeam t) 0 t (.bdivl 4 8) ∧ 0 < t.lanes ∧ t.exec 0 = true ∧ maskBit t.ctl.cpois 0 = true ∧
      ∀ m, m < t.lanes → ¬ m / 32 < 0 / 32 := by
  exact ⟨runs_with _ _ (by decide +kernel), runs_with _ _ (by decide +kernel), by decide +kernel⟩

theorem witness_CountedLoop_windows : (Runs bench 0 team (.mopAnd 10 12) ∧ (Claim.maskWrite team (.mopAnd 10 12)).isSome = true ∧ team.beats ≤ 32) ∧
    Runs bench 0 team (.mopLoad 255) ∧ Runs bench 0 team (.msave 254) ∧ Runs bench 0 team (.mrest 10) ∧ Runs bench 0 team (.mopPopc 10 4) ∧
    Runs bench 0 team (.mopFirst 224 4) ∧ maskBit (team.window 224) 0 = true ∧ (∀ l, l < team.lanes → maskBit (team.window 10) l = false) :=
  ⟨⟨runs_on_bench _ (by decide +kernel), by decide +kernel⟩, runs_on_bench _ (by decide +kernel), runs_on_bench _ (by decide +kernel),
   runs_on_bench _ (by decide +kernel), runs_on_bench _ (by decide +kernel), runs_on_bench _ (by decide +kernel), by decide +kernel⟩

theorem witness_TeamControl : team.beats ≤ 32 ∧ Runs bench 0 team .kill ∧ team.depth = 0 ∧ Runs bench 0 team .exit ∧ team.failures = [] ∧
    team.drains = [] ∧ ((bench.group? team.group).bind fun g => g.request) = none ∧ Runs bench 0 team (.yield 0xFFFF) ∧
    Runs bench 0 team (.probe 4 127 true) ∧ Runs bench 0 team (.brk 1) ∧ (bench.part (bench.partOf team)).debug = false ∧
    Runs bench 0 team (.stkq 4 0x3F) ∧
    (let s := bench.onPart 0 fun p => { p with debug := true }
     s.cur = some 0 ∧ s.team? 0 = some team ∧ team.gate (s.mxsel team) (.brk 1) = .go ∧ (s.part (s.partOf team)).debug = true) ∧
    bench.working 0 team.group = false ∧
    (let s : State := { bench with ops := [{ id := 2, slot := 0, gid := 1, part := 0, core := 0, pc := 0, snapshot := [], handed := false,
                                             sent := [], orphan := false, kind := .touch [] false false true }] }
     s.cur = some 0 ∧ s.team? 0 = some team ∧ team.gate (s.mxsel team) .exit = .go ∧ s.working 0 team.group = true) :=
  ⟨by decide +kernel, runs_on_bench _ (by decide +kernel), by decide +kernel, runs_on_bench _ (by decide +kernel), by decide +kernel,
   by decide +kernel, by decide +kernel, runs_on_bench _ (by decide +kernel), runs_on_bench _ (by decide +kernel),
   runs_on_bench _ (by decide +kernel), by decide +kernel, runs_on_bench _ (by decide +kernel), by decide +kernel, by decide +kernel,
   by decide +kernel⟩

theorem witness_PoisonTests : (Runs bench 0 team (.chk 1 false false false) ∧ Runs bench 0 team (.chkb 1 4) ∧ Runs bench 0 team (.pclr 1 false false false) ∧
      ∀ l ∈ team.activeLanes, ¬ ((team.lane 1 l).dead = true ∨ (team.lane 1 l).tag = true)) ∧
    (let t := Bad0 team 1 0x41000000
     Runs (withTeam t) 0 t (.chk 1 false false false) ∧ Runs (withTeam t) 0 t (.chkb 1 4) ∧ Runs (withTeam t) 0 t (.pclr 1 false false false) ∧
       0 ∈ t.activeLanes ∧ t.rv 1 0 = .error 0x41000000 ∧ t.exec 0 = true ∧ t.ctl.rpc ≠ t.pc ∧ t.ctl.stack.length < Config.hardwareStack ∧
       t.depth < Config.hardwareStack) :=
  ⟨⟨runs_on_bench _ (by decide +kernel), runs_on_bench _ (by decide +kernel), runs_on_bench _ (by decide +kernel), by decide +kernel⟩,
   runs_with _ _ (by decide +kernel), runs_with _ _ (by decide +kernel), runs_with _ _ (by decide +kernel), by decide +kernel⟩

theorem witness_TeamControl_ends :
    (let t := ({ team with ctl := { team.ctl with stack := joins 1 } } : Team).pokeS 224 1
     Runs (withTeam t) 0 t .kill ∧ ∃ b, b < t.beats ∧ maskWord [3] b &&& maskWord t.ctl.live b &&& ~~~t.rs (224 + b) ≠ 0) ∧
    (let f : Failure := { op := 2, pc := 0x10000, code := 5, vaddr := 0, token := 0, lanes := [0], sregs := [], vregs := [], paths := [],
                          store := true, atomic := false }
     let t := { team with failures := [f] }
     Runs (withTeam t) 0 t .exit ∧ t.failures = [f]) ∧
    (let t := { team with drains := [{ reg := 5, pc := 0x10000, token := 0x41000000, vaddr := 0 }] }
     Runs (withTeam t) 0 t .exit ∧ t.failures = []) :=
  ⟨⟨runs_with _ _ (by decide +kernel), by decide +kernel⟩, ⟨runs_with _ _ (by decide +kernel), rfl⟩, runs_with _ _ (by decide +kernel), rfl⟩

theorem witness_PoisonTests_stack :
    (let t := { Bad0 team 1 0x41000000 with ctl := { team.ctl with stack := joins 16 } }
     Runs (withTeam t) 0 t (.chkb 1 4) ∧ t.ctl.rpc ≠ t.pc ∧ Config.hardwareStack + t.ctl.spillDepth < t.depth + 1 ∧ (t.lane 1 0).tag = true) ∧
    (let t := { Bad0 team 1 0x41000000 with ctl := { team.ctl with rpc := 0x10000 } }
     Runs (withTeam t) 0 t (.chkb 1 4) ∧ t.ctl.rpc = t.pc ∧ (t.lane 1 0).tag = true) :=
  ⟨⟨runs_with _ _ (by decide +kernel), by decide +kernel⟩, runs_with _ _ (by decide +kernel), by decide +kernel⟩

/-! ## Witnesses: memory -/

/-- A team with lane 0 executing, s8:s9 = 0x20000, s10:s11 = 0x20000, s12 = 1, offset register v4 zero and v5 = 0x55. -/
def mteam : Team := ((pair (pair (lane0 team) 8 0x20000) 10 0x20000).pokeS 12 1).wv 5 fun l => if l = 0 then some { data := 0x55, tag := false, dead := false } else none
/-- The group of the bench. -/
def group : Group := (bench.group? 1).getD (newGroup (benchLaunch 1) 0 { child := none, index := 0, reruns := 0, again := false } 0 0 1 [])

theorem group_on_bench : bench.group? 1 = some group := by decide +kernel

theorem ordinary_of (s : State) (h : decide (s.group? 1 = some group ∧ (s.part group.part).det = false) = true) : Ordinary s 1 := by
  obtain ⟨h1, h2⟩ := of_decide_eq_true h
  exact ⟨group, h1, h2, by decide +kernel⟩

theorem room_of (s : State) (t : Team) (h : decide (t.flight = [] ∧ t.group = 1 ∧ s.routerFull (s.partOf t) = false ∧ s.ops = [] ∧
    s.group? 1 = some group ∧ (s.part group.part).det = false) = true) : Room s t := by
  obtain ⟨h1, h2, h3, h4, h5, h6⟩ := of_decide_eq_true h
  refine ⟨fun p => ?_, h3, by simp [h4], ?_⟩
  · simp [Team.inflight, h1, Config.maxInFlight]
  · rw [h2]; exact ordinary_of s (by simp [h5, h6])

theorem ready_of (s : State) (slot : Nat) (t : Team) (h : decide (t.failures = [] ∧ s.atomPending slot = false) = true) : MemoryReady s slot t := by
  obtain ⟨h1, h2⟩ := of_decide_eq_true h
  exact ⟨by simp [h1], h2⟩

theorem releasable_of (t : Team) (h : decide (t.failures = []) = true) : Releasable t := by
  intro _
  simp [Team.storeFailed, of_decide_eq_true h]

theorem recordReady_of (s : State) (slot : Nat) (t : Team) (h : decide (s.acquiring slot t.group = false ∧ s.ops = []) = true) : RecordReady s slot t := by
  obtain ⟨h1, h2⟩ := of_decide_eq_true h
  exact ⟨h1, by simp [h2]⟩

theorem quiet_of (s : State) (slot : Nat) (t : Team) (h : decide (s.ops = [] ∧ t.fence = none ∧ s.snapshot (s.partOf t) = []) = true) :
    Quiet s slot t := by
  obtain ⟨h1, h2, h3⟩ := of_decide_eq_true h
  exact ⟨by simp [h1], h2, h3⟩

/-- The outcome of a check is a list of keys. -/
def isOk (c : Checked) : Bool := match c with | .ok _ _ => true | _ => false
theorem ok_of (c : Checked) (h : isOk c = true) : ∃ ks p, c = .ok ks p := by
  cases c <;> simp_all [isOk]

/-- Lane 0 is the only active lane. -/
theorem only_lane0 (t : Team) (h : (List.range t.lanes).all (fun l => !t.active l || l == 0) = true) : ∀ l, t.active l = true → l = 0 := by
  intro l hl
  have hb : l < t.lanes := by
    simp only [Team.active, Bool.and_eq_true, decide_eq_true_eq] at hl
    exact hl.1.1
  have := List.all_eq_true.mp h l (List.mem_range.mpr hb)
  simpa [hl] using this

theorem witness_LoadIssue :
    let s := withTeam mteam
    Claim.vectorLoad (.ld128 4 1 8 false false) = some (4, 1, 8, 16, false) ∧ Runs s 0 mteam (.ld128 4 1 8 false false) ∧ MemoryReady s 0 mteam ∧
    Room s mteam ∧
    (∀ l a, mteam.active l = true → l < mteam.lanes → laneAddr mteam 8 1 l = .ok a → ∃ ks p, s.checkAt (s.partOf mteam) 1 .read 16 a l = .ok ks p) := by
  refine ⟨rfl, runs_with _ _ (by decide +kernel), ready_of _ _ _ (by decide +kernel), room_of _ _ (by decide +kernel), ?_⟩
  intro l a hl _ ha
  obtain rfl := only_lane0 mteam (by decide +kernel) l hl
  have h : laneAddr mteam 8 1 0 = .ok 0x20000 := by decide +kernel
  rw [h] at ha; cases ha
  exact ok_of _ (by decide +kernel)

/-- The team whose base is misaligned by 1. -/
def oddTeam : Team := pair mteam 8 0x20001

theorem witness_AccessFault :
    let s := withTeam oddTeam
    Claim.vectorLoad (.ld16 4 1 8 false false) = some (4, 1, 8, 2, false) ∧ Claim.vectorStore (.st16 4 1 8 false false) = some (4, 1, 8, 2) ∧
    Runs s 0 oddTeam (.ld16 4 1 8 false false) ∧ Runs s 0 oddTeam (.st16 4 1 8 false false) ∧ MemoryReady s 0 oddTeam ∧ Room s oddTeam ∧
    Releasable oddTeam ∧
    0 < oddTeam.lanes ∧ oddTeam.active 0 = true ∧ laneAddr oddTeam 8 1 0 = .ok 0x20001 ∧
    (∃ p, s.checkAt (s.partOf oddTeam) 1 .read 2 0x20001 0 = .fails codeMisaligned p) ∧
    ∃ p, s.checkAt (s.partOf oddTeam) 1 .write 2 0x20001 0 = .fails codeMisaligned p :=
  ⟨rfl, rfl, runs_with _ _ (by decide +kernel), runs_with _ _ (by decide +kernel), ready_of _ _ _ (by decide +kernel),
   room_of _ _ (by decide +kernel), releasable_of _ (by decide +kernel), by decide +kernel, by decide +kernel, by decide +kernel,
   ⟨2, by decide +kernel⟩, ⟨2, by decide +kernel⟩⟩

/-- A team whose ORDER asks for a release and which has a failed store. -/
def failedTeam : Team :=
  { mteam with mode := 0x800, failures := [{ op := 2, pc := 0x10000, code := 5, vaddr := 0, token := 0, lanes := [0], sregs := [], vregs := [], paths := [],
                                             store := true, atomic := false }] }
/-- A team whose ORDER asks for a release. -/
def relTeam : Team := { mteam with mode := 0x800 }
/-- Releases at the router: as many as it has room for (R343). -/
def routerState : State :=
  { withTeam relTeam with
    ops := List.replicate 256 { id := 2, slot := 1, gid := 9, part := 0, core := 0, pc := 0, snapshot := [(3, 1)], sent := [], handed := true,
                                orphan := false, kind := .signal (.mail 1) }
    nextId := 3 }

theorem failed_release : (MemoryReady (withTeam failedTeam) 0 failedTeam ∧ Runs (withTeam failedTeam) 0 failedTeam (.st64 4 1 8 false false) ∧
      Runs (withTeam failedTeam) 0 failedTeam (.sst32 4 8 6) ∧ Runs (withTeam failedTeam) 0 failedTeam (.stb 4 1 6 false false) ∧
      Runs (withTeam failedTeam) 0 failedTeam (.acas 4 2 6 false false) ∧ failedTeam.orderRel = true ∧ failedTeam.storeFailed.isSome = true) ∧
    (MemoryReady routerState 0 relTeam ∧ Runs routerState 0 relTeam (.st64 4 1 8 false false) ∧ Runs routerState 0 relTeam (.sst32 4 8 6) ∧
      relTeam.orderRel = true ∧ relTeam.storeFailed = none ∧ routerState.routerFull (routerState.partOf relTeam) = true) :=
  ⟨⟨⟨by decide +kernel, by decide +kernel⟩, runs_with _ _ (by decide +kernel), runs_with _ _ (by decide +kernel), runs_with _ _ (by decide +kernel),
      runs_with _ _ (by decide +kernel), by decide +kernel⟩,
   ready_of _ _ _ (by decide +kernel), runs_on _ _ _ (by decide +kernel), runs_on _ _ _ (by decide +kernel), by decide +kernel⟩

theorem witness_StoreIssue :
    let s := withTeam mteam
    Claim.vectorStore (.st64 4 1 8 false false) = some (4, 1, 8, 8) ∧ Runs s 0 mteam (.st64 4 1 8 false false) ∧ MemoryReady s 0 mteam ∧ Room s mteam ∧
    Releasable mteam ∧
    ∃ keys : Nat → List Nat, ∀ l, l < mteam.lanes → mteam.active l = true → ∃ a p, laneAddr mteam 8 1 l = .ok a ∧
      s.checkAt (s.partOf mteam) 1 .write 8 a l = .ok (keys l) p ∧ ∀ j, j < regsOf 8 → ∃ w, mteam.rv (4 + j) l = .ok w := by
  refine ⟨rfl, runs_with _ _ (by decide +kernel), ready_of _ _ _ (by decide +kernel), room_of _ _ (by decide +kernel),
    releasable_of _ (by decide +kernel), ?_⟩
  refine ⟨fun _ => (List.range 8).map (0x20000 + ·), fun l _ hl => ?_⟩
  obtain rfl := only_lane0 mteam (by decide +kernel) l hl
  refine ⟨0x20000, 2, by decide +kernel, by decide +kernel, fun j hj => ?_⟩
  have : j = 0 ∨ j = 1 := by have : j < 2 := hj; omega
  rcases this with rfl | rfl
  · exact ⟨0, by decide +kernel⟩
  · exact ⟨0x55, by decide +kernel⟩

theorem witness_ScalarAccess :
    let s := withTeam mteam
    Claim.scalarAccess (.sld64 4 8 6) = some (4, 8, 6, 8, false) ∧ Runs s 0 mteam (.sld64 4 8 6) ∧ Claim.scalarAccess (.sst32 4 8 6) = some (4, 8, 6, 4, true) ∧
    Runs s 0 mteam (.sst32 4 8 6) ∧ MemoryReady s 0 mteam ∧ Room s mteam ∧
    (∃ ks p, s.checkAt (s.partOf mteam) 1 .read 8 (mteam.rd64 8 + (mteam.rs 6).signExtend 64).toNat 0 = .ok ks p) ∧
    (∃ ks p, s.checkAt (s.partOf mteam) 1 .write 4 (mteam.rd64 8 + (mteam.rs 6).signExtend 64).toNat 0 = .ok ks p) ∧
    (let s := withTeam oddTeam
     Runs s 0 oddTeam (.sld32 4 8 6) ∧ ∃ c p, s.checkAt (s.partOf oddTeam) 1 .read 4 (oddTeam.rd64 8 + (oddTeam.rs 6).signExtend 64).toNat 0 = .fails c p) :=
  ⟨rfl, runs_with _ _ (by decide +kernel), rfl, runs_with _ _ (by decide +kernel), ready_of _ _ _ (by decide +kernel),
   room_of _ _ (by decide +kernel), ok_of _ (by decide +kernel), ok_of _ (by decide +kernel), runs_with _ _ (by decide +kernel),
   ⟨codeMisaligned, 2, by decide +kernel⟩⟩


/-- A buffer record: raw bytes, base 0x20000, 64 of them, one column (R202). -/
def byteRecord : Nat := 0x20000 + 64 * 2 ^ 64 + 8 * 2 ^ 114 + 2 ^ 136
/-- A team whose table holds one record at 0x40000. -/
def recTeam : Team := { mteam with brtab := 0x40001 }
/-- The bench with that team and that record. -/
def recState : State := { withTeam recTeam with mem := bench.mem.setBytes 0x40000 (leBytes 40 byteRecord) }

theorem witness_BufferRecords : Runs recState 0 recTeam (.ldb 4 1 6 false false) ∧ Runs recState 0 recTeam (.ldbs 4 1 6 false false) ∧
    Runs recState 0 recTeam (.stb 4 1 6 false false) ∧ MemoryReady recState 0 recTeam ∧ Room recState recTeam ∧ Quiet recState 0 recTeam ∧
    RecordReady recState 0 recTeam ∧ Releasable recTeam ∧ recState.readRecord 0 recTeam (recTeam.rs 6).toNat = .bits byteRecord ∧ recordValid recTeam byteRecord = true ∧ recState.marks = [] ∧
    (recordOf byteRecord).enc = 0 ∧ (recordOf byteRecord).ew = 8 ∧ recTeam.active 0 = true ∧
    (∀ l, recTeam.active l = true → (∃ w, recTeam.rv 1 l = .ok w) ∧ (recState.bufLane recTeam (recordOf byteRecord) true 1 l).check.failed = false ∧
      (recState.bufLane recTeam (recordOf byteRecord) false 1 l).check.failed = false ∧ ∃ w, recTeam.rv 4 l = .ok w) ∧
    (recordOf byteRecord).inside ((recordOf byteRecord).position 63) = true ∧
    recState.checkAt (recState.partOf recTeam) 1 .write 1 ((recordOf byteRecord).addr ((recordOf byteRecord).position 0)) 0 = .ok [0x20000] 2 := by
  refine ⟨runs_on _ _ _ (by decide +kernel), runs_on _ _ _ (by decide +kernel), runs_on _ _ _ (by decide +kernel),
    ready_of _ _ _ (by decide +kernel), room_of _ _ (by decide +kernel), quiet_of _ _ _ (by decide +kernel), recordReady_of _ _ _ (by decide +kernel),
    releasable_of _ (by decide +kernel), by decide +kernel, by decide +kernel,
    by decide +kernel, by decide +kernel, by decide +kernel, by decide +kernel, fun l hl => ?_, by decide +kernel, by decide +kernel⟩
  obtain rfl := only_lane0 recTeam (by decide +kernel) l hl
  exact ⟨⟨0, by decide +kernel⟩, by decide +kernel, by decide +kernel, ⟨0, by decide +kernel⟩⟩

theorem witness_CacheInstructions :
    let s := withTeam mteam
    Runs s 0 mteam (.prefL1 1 8 false false) ∧ Runs s 0 mteam (.prefL2 1 8 false false) ∧ Runs s 0 mteam (.cflushWb 1 8 false false) ∧
    Runs s 0 mteam (.cflushInv 1 8 false false) ∧ MemoryReady s 0 mteam ∧ Room s mteam ∧ s.locks = [] ∧
    (∀ l a, mteam.active l = true → laneAddr mteam 8 1 l = .ok a → ∃ k, s.resolve (s.partOf mteam) 1 .write 0 a l = .ok k) ∧
    (Runs s 0 mteam (.waitp 5 6) ∧ mteam.inflight 5 ≤ (mteam.rs 6).toNat) ∧
    Claim.prefLine s mteam 1 8 0 = some (0x20000 / 128) ∧ Claim.flushLine s mteam 1 8 0 = some (0x20000 / 128) ∧ 0 ∈ mteam.activeLanes ∧
    (let t := pair mteam 8 0x100000000
     Claim.prefLine (withTeam t) t 1 8 0 = none ∧ laneAddr t 8 1 0 = .ok 0x100000000 ∧
       (match (withTeam t).resolve ((withTeam t).partOf t) 1 .write 0 0x100000000 0 with | .error _ => true | .ok _ => false) = true) ∧
    (let t := { mteam with flight := [{ op := 2, path := 2, returned := false }] }
     Runs (withTeam t) 0 t (.waitp 2 6) ∧ (t.rs 6).toNat < t.inflight 2 ∧ t.failures = []) := by
  refine ⟨runs_with _ _ (by decide +kernel), runs_with _ _ (by decide +kernel), runs_with _ _ (by decide +kernel), runs_with _ _ (by decide +kernel),
    ready_of _ _ _ (by decide +kernel), room_of _ _ (by decide +kernel), by decide +kernel, ?_, ⟨runs_with _ _ (by decide +kernel), by decide +kernel⟩,
    by decide +kernel, by decide +kernel, by decide +kernel, by decide +kernel, runs_with _ _ (by decide +kernel), by decide +kernel⟩
  intro l a hl ha
  obtain rfl := only_lane0 mteam (by decide +kernel) l hl
  have h : laneAddr mteam 8 1 0 = .ok 0x20000 := by decide +kernel
  rw [h] at ha; cases ha
  exact ⟨(0x20000, 2), by decide +kernel⟩

/-- The team with v2:v3 of lane 0 naming address 0x20000. -/
def atomTeam : Team := Lane0 mteam 2 0x20000

theorem witness_AtomicIssue :
    let s := withTeam atomTeam
    Runs s 0 atomTeam (.acas 4 2 6 false false) ∧ MemoryReady s 0 atomTeam ∧ Room s atomTeam ∧ Releasable atomTeam ∧
    Claim.vectorAtomic atomTeam (.acas 4 2 6 false false) = some (.cas, 4, 2, 6, 2) ∧ atomTeam.activeLanes ≠ [] ∧
    (∃ key : Nat → Nat, ∀ l, l < atomTeam.lanes → atomTeam.active l = true → ∃ lo hi ks p, atomTeam.rv 2 l = .ok lo ∧ atomTeam.rv 3 l = .ok hi ∧
      s.checkAt (s.partOf atomTeam) 1 .atomic 4 (hi ++ lo).toNat l = .ok (key l :: ks) p ∧ ∀ j, j < 2 → ∃ w, atomTeam.rv (6 + j) l = .ok w) ∧
    Runs s 0 atomTeam (.saopCas 8 4) ∧ Claim.scalarAtomic (.saopCas 8 4) = some (.cas, 8, 4) ∧
    s.checkAt (s.partOf atomTeam) 1 .atomic 4 (atomTeam.rd64 8).toNat 0 = .ok (0x20000 :: [0x20001, 0x20002, 0x20003]) 2 := by
  refine ⟨runs_with _ _ (by decide +kernel), ready_of _ _ _ (by decide +kernel), room_of _ _ (by decide +kernel),
    releasable_of _ (by decide +kernel), rfl, by decide +kernel,
    ⟨fun _ => 0x20000, fun l _ hl => ?_⟩, runs_with _ _ (by decide +kernel), rfl, by decide +kernel⟩
  obtain rfl := only_lane0 atomTeam (by decide +kernel) l hl
  refine ⟨0x20000, 0, [0x20001, 0x20002, 0x20003], 2, by decide +kernel, by decide +kernel, by decide +kernel, fun j hj => ?_⟩
  have : j = 0 ∨ j = 1 := by omega
  rcases this with rfl | rfl
  · exact ⟨0, by decide +kernel⟩
  · exact ⟨0, by decide +kernel⟩

/-- The group of the bench with one ring of two slots. -/
def ringGroup : Group := { group with rings := [{ size := 2, target := 1, count := [], phase := [] }] }
/-- The bench with that ring. -/
def ringState (t : Team) : State := (withTeam t).setGroup 1 ringGroup
/-- The bench with a queue 63 of partition 0. -/
def queueState (t : Team) : State :=
  (withTeam t).onPart 0 fun p => { p with queues := [(63, some { prio := 1, wake := 0, ring := [], errors := 0 })] }

theorem witness_Signals :
    (let s := withTeam mteam
     Runs s 0 mteam (.semsig 8 12) ∧ Runs s 0 mteam (.semsigGen 12 8 12) ∧ MemoryReady s 0 mteam ∧ Room s mteam ∧
       ∃ k ks p, s.checkAt (s.partOf mteam) 1 .atomic 8 (mteam.rd64 8).toNat 0 = .ok (k :: ks) p) ∧
    (let t := mteam.pokeS 4 0x100
     Runs (ringState t) 0 t (.rgarr 4 12) ∧ (ringState t).group? t.group = some ringGroup ∧ (t.rs 4).toNat / 256 % 16 < 2) ∧
    (let t := mteam.pokeS 4 0x200
     Runs (ringState t) 0 t (.rgarr 4 12) ∧ 2 ≤ (t.rs 4).toNat / 256 % 16) ∧
    (let t := mteam.pokeS 4 1
     Runs (ringState t) 0 t (.rgarr 4 12) ∧ ringGroup.rings[(t.rs 4).toNat % 8]? = none) ∧
    (let t := mteam.pokeS 4 63
     Runs (queueState t) 0 t (.sigx 4 12) ∧ Room (queueState t) t ∧
       sget none ((queueState t).part ((queueState t).partOf t)).queues 63 = some { prio := 1, wake := 0, ring := [], errors := 0 }) ∧
    (let t := mteam.pokeS 4 62
     Runs (withTeam t) 0 t (.sigx 4 12) ∧ sget none ((withTeam t).part ((withTeam t).partOf t)).queues 62 = none) ∧
    (let t := mteam.pokeS 4 0x100
     Runs (withTeam t) 0 t (.sigx 4 12) ∧ (t.rs 4).toNat = 0x100) ∧
    (let t := mteam.pokeS 4 64
     Runs (withTeam t) 0 t (.sigx 4 12) ∧ 64 ≤ (t.rs 4).toNat) :=
  ⟨⟨runs_with _ _ (by decide +kernel), runs_with _ _ (by decide +kernel), ready_of _ _ _ (by decide +kernel), room_of _ _ (by decide +kernel),
      0x20000, (List.range 7).map (0x20001 + ·), 2, by decide +kernel⟩,
   ⟨runs_on _ _ _ (by decide +kernel), by decide +kernel⟩, ⟨runs_on _ _ _ (by decide +kernel), by decide +kernel⟩,
   ⟨runs_on _ _ _ (by decide +kernel), by decide +kernel⟩, ⟨runs_on _ _ _ (by decide +kernel), room_of _ _ (by decide +kernel), by decide +kernel⟩,
   ⟨runs_with _ _ (by decide +kernel), by decide +kernel⟩, ⟨runs_with _ _ (by decide +kernel), by decide +kernel⟩,
   runs_with _ _ (by decide +kernel), by decide +kernel⟩

/-- An operation of the bench's team. -/
def opOf (k : OpKind) : Op :=
  { id := 2, slot := 0, gid := 1, part := 0, core := 0, pc := 0x10000, snapshot := [], sent := [], handed := true, orphan := false, kind := k }
/-- The bench with one operation outstanding. -/
def withOp (t : Team) (k : OpKind) : State := { withTeam t with ops := [opOf k], nextId := 3 }
/-- A load of v4 by lane 0 from 0x20000. -/
def loadOp : LoadOp :=
  { dest := .vec 4 1, size := 4, accs := [{ lane := 0, va := 0x20000, keys := [0x20000, 0x20001, 0x20002, 0x20003], token := none }],
    buf := none, spec := false, keep := false, acquire := false, once := false, detail := 0 }

theorem witness_Fences : Runs bench 0 team .fenceAcq ∧ Runs bench 0 team .fenceRel ∧ Runs bench 0 team .fenceFull ∧ Runs bench 0 team .ifence ∧
    (∀ o ∈ bench.ops, o.slot = 0 → o.gid = team.group → False) ∧ Quiet bench 0 team ∧ team.storeFailed = none ∧ team.fence = none ∧
    bench.snapshot (bench.partOf team) = [] ∧
    (let s := withOp team (.load loadOp)
     Runs s 0 team .fenceAcq ∧ ∃ o ∈ s.ops, ∃ l, o.slot = 0 ∧ o.gid = team.group ∧ o.kind = .load l) ∧
    (let f : Failure := { op := 2, pc := 0x10000, code := 5, vaddr := 0, token := 0, lanes := [0], sregs := [], vregs := [], paths := [], store := true,
                          atomic := false }
     let t := { team with failures := [f] }
     Runs (withTeam t) 0 t .fenceRel ∧ t.storeFailed = some f) :=
  ⟨runs_on_bench _ (by decide +kernel), runs_on_bench _ (by decide +kernel), runs_on_bench _ (by decide +kernel), runs_on_bench _ (by decide +kernel),
   by simp [show bench.ops = [] from by decide +kernel], quiet_of _ _ _ (by decide +kernel), by decide +kernel, by decide +kernel, by decide +kernel,
   ⟨runs_on _ _ _ (by decide +kernel), _, List.mem_singleton.mpr rfl, _, rfl, rfl, rfl⟩, runs_with _ _ (by decide +kernel), by decide +kernel⟩

/-- A store of one byte at 0x20000. -/
def storeOp : StoreOp :=
  { units := [{ lane := 0, va := 0x20000, bytes := [(0x20000, 0xFF, 0x55)], sent := none }], sectors := [], release := false, once := false, detail := 0 }

theorem witness_Fences_waits :
    (let s := withOp team (.store storeOp)
     Runs s 0 team .fenceAcq ∧ (∀ o ∈ s.ops, o.slot = 0 → o.gid = team.group → ∃ st, o.kind = .store st ∧ st.release = false)) ∧
    (let s := withOp team (.store storeOp)
     Runs s 0 team .fenceRel ∧ Runs s 0 team .fenceFull ∧ Runs s 0 team .ifence ∧ team.storeFailed = none ∧ ∃ o ∈ s.ops, ∃ st, o.slot = 0 ∧ o.gid = team.group ∧
       o.kind = .store st ∧ ∃ u ∈ st.units, u.sent = none) ∧
    (let s := withOp team (.load loadOp)
     Runs s 0 team .ifence ∧ ∃ o ∈ s.ops, ∃ l, o.slot = 0 ∧ o.gid = team.group ∧ o.kind = .load l) ∧
    (let s := bench.onPart 0 fun p => { p with sent := [(3, 1)] }
     Runs s 0 team .fenceRel ∧ Runs s 0 team .ifence ∧ team.fence = none ∧ s.snapshot (s.partOf team) ≠ [] ∧
       (∀ o ∈ s.ops, o.slot = 0 → o.gid = team.group → False)) := by
  refine ⟨⟨runs_on _ _ _ (by decide +kernel), fun o ho _ _ => ?_⟩,
    ⟨runs_on _ _ _ (by decide +kernel), runs_on _ _ _ (by decide +kernel), runs_on _ _ _ (by decide +kernel), by decide +kernel, _, List.mem_singleton.mpr rfl, _, rfl, rfl, rfl, by decide +kernel⟩,
    ⟨runs_on _ _ _ (by decide +kernel), _, List.mem_singleton.mpr rfl, _, rfl, rfl, rfl⟩,
    runs_on _ _ _ (by decide +kernel), runs_on _ _ _ (by decide +kernel), by decide +kernel, by decide +kernel, by decide +kernel⟩
  obtain rfl := List.mem_singleton.mp ho
  exact ⟨storeOp, rfl, rfl⟩

theorem witness_Waits :
    (let s := withTeam mteam
     MemoryReady s 0 mteam ∧ Room s mteam ∧ Quiet s 0 mteam ∧ (∀ w ∈ s.semWaiters, w.key ≠ 0x20000) ∧ keyPath 0x20000 ≠ 4 ∧ s.marked 0x20000 = false ∧
       s.checkAt (s.partOf mteam) 1 .atomic 8 (mteam.rd64 8).toNat 0 = .ok (0x20000 :: (List.range 7).map (0x20001 + ·)) 2 ∧
       Runs s 0 mteam (.semwait 4 8 6) ∧ (mteam.rs 6).toNat ≤ (s.wordAt 0x20000).toNat ∧ Runs s 0 mteam (.semwait 4 8 12) ∧
       (s.wordAt 0x20000).toNat < (mteam.rs 12).toNat ∧ Runs s 0 mteam (.bar 4 8 12) ∧
       max (mteam.rs 12).toNat 1 ≤ (s.wordAt 0x20000).toNat + 1) ∧
    (let t := mteam.pokeS 4 2
     Runs (withTeam t) 0 t (.bar 5 8 4) ∧ ((withTeam t).wordAt 0x20000).toNat + 1 < max (t.rs 4).toNat 1) ∧
    (let w : SemWaiter := { slot := 1, gid := 9, part := 0, key := 0x20000, units := some 5, sd := 4 }
     let s := { withTeam mteam with semWaiters := [w] }
     Runs s 0 mteam (.semwait 4 8 12) ∧ (mteam.rs 12).toNat ≠ 0 ∧ s.semWaiters.find? (fun w => w.key == 0x20000 && w.units.isSome) = some w ∧
       (s.wordAt 0x20000).toNat < 5) ∧
    (let t := mteam.pokeS 4 0x100
     (ringState t).group? t.group = some ringGroup ∧ (t.rs 4).toNat / 256 % 16 < 2 ∧ Runs (ringState t) 0 t (.rgwait 5 4 6) ∧
       sget false [] 1 = (t.rs 6).getLsbD 0 ∧ Runs (ringState t) 0 t (.rgwait 5 4 12) ∧ sget false [] 1 ≠ (t.rs 12).getLsbD 0) :=
  ⟨⟨ready_of _ _ _ (by decide +kernel), room_of _ _ (by decide +kernel), quiet_of _ _ _ (by decide +kernel),
      by simp [show (withTeam mteam).semWaiters = [] from by decide +kernel], by decide +kernel, by decide +kernel, by decide +kernel, runs_with _ _ (by decide +kernel),
      by decide +kernel, runs_with _ _ (by decide +kernel), by decide +kernel, runs_with _ _ (by decide +kernel), by decide +kernel⟩,
   ⟨runs_with _ _ (by decide +kernel), by decide +kernel⟩, ⟨runs_on _ _ _ (by decide +kernel), by decide +kernel⟩,
   by decide +kernel, by decide +kernel, runs_on _ _ _ (by decide +kernel), by decide +kernel, runs_on _ _ _ (by decide +kernel), by decide +kernel⟩

theorem live_of (s : State) (o : Op) (t : Team)
    (h : decide (s.op? o.id = some o ∧ o.orphan = false ∧ s.team? o.slot = some t ∧ t.group = o.gid ∧ t.status ≠ .exited) = true) : Live s o t := by
  have h1 := of_decide_eq_true h
  exact h1

theorem calm_op (t : Team) (k : OpKind) (hk : (match k with | .store _ => false | _ => true) = true)
    (hw : decide ((withOp t k).semWaiters = []) = true) : Calm (withOp t k) := by
  refine ⟨fun p hp st hs => ?_, by simp [of_decide_eq_true hw]⟩
  obtain rfl := List.mem_singleton.mp hp
  have : k = .store st := hs
  simp [this] at hk

theorem witness_LoadReturns :
    (let s := withOp team (.load loadOp)
     Live s (opOf (.load loadOp)) team ∧ s.free (opOf (.load loadOp)) = true ∧ s.takeSlots (opOf (.load loadOp)) = none ∧ Calm s ∧ Ordinary s 1 ∧ s.marks = [] ∧
       (∀ a ∈ loadOp.accs, ∀ k ∈ a.keys, keyPath k ≠ 4) ∧ (loadOp.accs.map (·.lane)).Nodup ∧ loadOp.dest = .vec 4 (regsOf loadOp.size) ∧
       4 + regsOf loadOp.size ≤ 256) ∧
    (let ld := { loadOp with dest := .scal 190 2, size := 8 }
     let s := withOp team (.load ld)
     Live s (opOf (.load ld)) team ∧ s.free (opOf (.load ld)) = true ∧ ld.dest = .scal 190 (regsOf ld.size) ∧ 190 + regsOf ld.size ≤ 192) :=
  ⟨⟨live_of _ _ _ (by decide +kernel), by decide +kernel, by decide +kernel, calm_op _ _ (by decide +kernel) (by decide +kernel), ordinary_of _ (by decide +kernel),
      by decide +kernel, by decide +kernel, by decide +kernel, by decide +kernel, by decide +kernel⟩,
   live_of _ _ _ (by decide +kernel), by decide +kernel⟩

theorem witness_StoreRegisters :
    let s := withOp team (.store storeOp)
    Live s (opOf (.store storeOp)) team ∧ s.ready (opOf (.store storeOp)) = true ∧ Ordinary s 1 ∧
    (∃ u, storeOp.units[0]? = some u ∧ s.unitRequested (opOf (.store storeOp)) u = true ∧ (∀ e ∈ u.bytes, keyPath e.1 ≠ 4) ∧ u.bytes ≠ [] ∧
      (u.bytes.map (·.1)).Nodup ∧ (s.core 0).copies.length + (s.core 0).owned.length + u.bytes.length ≤ Config.l1Sectors) ∧
    (∀ v ∈ storeOp.units, v.peer = false) ∧ ∀ w ∈ s.semWaiters, w.units = none :=
  ⟨live_of _ _ _ (by decide +kernel), by decide +kernel, ordinary_of _ (by decide +kernel), ⟨_, rfl, by decide +kernel⟩, by decide +kernel⟩

/-- A load of v4 by lane 0 of the element at 0x20000 through a record. -/
def bufOp (x : Nat) (fd : Dbl) : LoadOp :=
  { loadOp with accs := [{ lane := 0, va := 0x20000, keys := [], token := none }],
                buf := some (recordOf x, fd, [{ lane := 0, q := 0, va := 0x20000, keys := [0x20000], bit := 0, scale := [] }]) }

theorem witness_BufferReturns :
    (∀ x fd, Live (withOp team (.load (bufOp x fd))) (opOf (.load (bufOp x fd))) team ∧ Ordinary (withOp team (.load (bufOp x fd))) 1 ∧
      (withOp team (.load (bufOp x fd))).marks = [] ∧ (bufOp x fd).dest = .vec 4 1 ∧ ((bufOp x fd).accs.map (·.lane)).Nodup) ∧
    (let ld := bufOp byteRecord (builtin 0)
     let s := withOp team (.load ld)
     s.free (opOf (.load ld)) = true ∧ s.takeSlots (opOf (.load ld)) = none ∧ Calm s ∧ (∀ x ∈ ld.reads, keyPath x.2 ≠ 4)) ∧
    ((recordOf byteRecord).enc = 0 ∧ 1 ≤ (recordOf byteRecord).ew ∧ (recordOf byteRecord).ew ≤ 32) ∧
    (let x := byteRecord + 3 * 2 ^ 124
     (recordOf x).enc = 3) ∧
    (let x := byteRecord + 2 * 2 ^ 124
     (recordOf x).enc = 2 ∧ (recordOf x).smode = 0 ∧ ((fmtOf (builtin 9)).kind = 1 ∨ (fmtOf (builtin 9)).kind = 2) ∧ (fmtOf (builtin 0)).kind ≠ 1 ∧ (fmtOf (builtin 0)).kind ≠ 2) :=
  ⟨fun x fd => ⟨⟨rfl, rfl, (by decide +kernel : (withTeam team).team? 0 = some team), rfl, by decide +kernel⟩,
      ordinary_of (withTeam team) (by decide +kernel), (by decide +kernel : (withTeam team).marks = []), rfl, List.nodup_singleton _⟩,
   ⟨by decide +kernel, by decide +kernel, calm_op _ _ (by decide +kernel) (by decide +kernel), by decide +kernel⟩, by decide +kernel,
   by decide +kernel, by decide +kernel⟩

/-- A release store of two words. -/
def storePair : StoreOp :=
  { units := [{ lane := 0, va := 0x20000, bytes := [(0x20000, 0xFF, 0x55)], sent := none },
              { lane := 1, va := 0x20004, bytes := [(0x20004, 0xFF, 0x55), (0x20005, 0x0F, 0x05)], sent := none }],
    sectors := [], release := true, once := false, detail := 0 }

theorem witness_StoreRegisters_units :
    let s := withOp team (.store storePair)
    Live s (opOf (.store storePair)) team ∧ s.ready (opOf (.store storePair)) = true ∧ Ordinary s 1 ∧
    (∃ u, storePair.units[1]? = some u ∧ s.unitRequested (opOf (.store storePair)) u = true ∧ (∀ e ∈ u.bytes, keyPath e.1 ≠ 4) ∧ u.bytes ≠ [] ∧
      (u.bytes.map (·.1)).Nodup ∧ (s.core 0).copies.length + (s.core 0).owned.length + u.bytes.length ≤ Config.l1Sectors) ∧
    (∀ v ∈ storePair.units, v.peer = false) ∧ ∀ w ∈ s.semWaiters, w.units = none :=
  ⟨live_of _ _ _ (by decide +kernel), by decide +kernel, ordinary_of _ (by decide +kernel), ⟨_, rfl, by decide +kernel⟩, by decide +kernel⟩

/-- A compare-and-swap of the word at 0x20000 by lane 0. -/
def casOp (d : Dest) : AtomOp :=
  { fn := .cas, dest := d, cas2 := (match d with | .scal _ _ => true | _ => false),
    lanes := [{ lane := 0, va := 0x20000, key := 0x20000, b := 0, c := 9 }], acquire := false, release := false, once := false }

theorem witness_AtomicApplies :
    (let s := withOp team (.atom (casOp (.vec 4 1)))
     Live s (opOf (.atom (casOp (.vec 4 1)))) team ∧ s.free (opOf (.atom (casOp (.vec 4 1)))) = true ∧
       s.takeSlots (opOf (.atom (casOp (.vec 4 1)))) = none ∧ Calm s ∧ s.semWaiters = [] ∧ Ordinary s 1 ∧
       s.marks = [] ∧ keyPath 0x20000 ≠ 4 ∧ 0 < team.lanes) ∧
    (∀ k, (opOf k).handed = true ∧ (opOf k).snapshot = [] ∧ (opOf k).sent = []) ∧
    (let s := withOp team (.atom (casOp (.scal 190 2)))
     Live s (opOf (.atom (casOp (.scal 190 2)))) team ∧ s.free (opOf (.atom (casOp (.scal 190 2)))) = true) ∧
    (let g : Signal := .sem 0x20000 0x20000 (some 0) 0xFFFFFFFF
     let s := withOp team (.signal g)
     Live s (opOf (.signal g)) team ∧ s.free (opOf (.signal g)) = true ∧ s.wordAt (0x20000 + 4) = 0) ∧
    (let g : Signal := .sem 0x20000 0x20000 (some 1) 5
     let s := withOp team (.signal g)
     Live s (opOf (.signal g)) team ∧ s.free (opOf (.signal g)) = true ∧ s.wordAt (0x20000 + 4) ≠ 1) ∧
    (let s := { queueState team with ops := [opOf (.signal (.wake 63 5))], nextId := 3 }
     Live s (opOf (.signal (.wake 63 5))) team ∧ s.free (opOf (.signal (.wake 63 5))) = true ∧ (sget none (s.part 0).queues 63).isSome = true) ∧
    (let s := withOp team (.signal (.mail 5))
     Live s (opOf (.signal (.mail 5))) team ∧ s.free (opOf (.signal (.mail 5))) = true ∧ (s.die 0).mailbox.length < 256) ∧
    (let s := (withOp team (.signal (.mail 5))).onDie 0 fun d => { d with mailbox := List.replicate 256 (0, 1) }
     Live s (opOf (.signal (.mail 5))) team ∧ ¬ (s.die 0).mailbox.length < 256) :=
  ⟨⟨live_of _ _ _ (by decide +kernel), by decide +kernel, by decide +kernel, calm_op _ _ (by decide +kernel) (by decide +kernel), by decide +kernel,
      ordinary_of _ (by decide +kernel), by decide +kernel, by decide +kernel, by decide +kernel⟩, fun _ => ⟨rfl, rfl, rfl⟩,
   ⟨live_of _ _ _ (by decide +kernel), by decide +kernel⟩, ⟨live_of _ _ _ (by decide +kernel), by decide +kernel, by decide +kernel⟩,
   ⟨live_of _ _ _ (by decide +kernel), by decide +kernel, by decide +kernel⟩, ⟨live_of _ _ _ (by decide +kernel), by decide +kernel, by decide +kernel⟩,
   ⟨live_of _ _ _ (by decide +kernel), by decide +kernel, by decide +kernel⟩, live_of _ _ _ (by decide +kernel), by decide +kernel⟩


/-- A second team of the group, on the same core. -/
def team1 : Team := newTeam benchRecord 0 1 1 0 0 0
/-- The bench with that team in slot 1 and an operation of the first team. -/
def twoTeams (g : Group) (k : OpKind) (ws : List SemWaiter) : State :=
  { ((withOp team k).setTeam 1 team1).setGroup 1 g with semWaiters := ws }
/-- An addition of 1 to the word at 0x20000 by each of two lanes. -/
def addOp : AtomOp :=
  { fn := .addI, dest := .vec 4 1, cas2 := false,
    lanes := [{ lane := 0, va := 0x20000, key := 0x20000, b := 1, c := 0 }, { lane := 1, va := 0x20000, key := 0x20000, b := 1, c := 0 }],
    acquire := false, release := false, once := false }
/-- The second team asleep at the word 0x20000. -/
def sleeper (units : Option Word) : SemWaiter := { slot := 1, gid := 1, part := 0, key := 0x20000, units := units, sd := 4 }
/-- The second team asleep at slot 0 of ring 0 for the black phase. -/
def ringSleeper : RingWaiter := { slot := 1, ring := 0, rslot := 0, phase := true, sd := 4 }

/-- What holds of an operation of the first team that goes. -/
theorem goes_of (s : State) (o : Op) (g : Group)
    (h : decide (s.free o = true ∧ s.takeSlots o = none ∧ o.handed = true ∧ o.snapshot = [] ∧ o.sent = [] ∧ o.lost = [] ∧ s.marks = [] ∧
      s.group? 1 = some g ∧ (s.part g.part).det = false ∧ g.leaving = false ∧ g.spec.held = [] ∧ g.spec.deferred = []) = true)
    (hs : ∀ p ∈ s.ops, (match p.kind with | .store _ => false | _ => true) = true) :
    s.free o = true ∧ s.takeSlots o = none ∧ o.handed = true ∧ o.snapshot = [] ∧ o.sent = [] ∧ o.lost = [] ∧
      (∀ p ∈ s.ops, ∀ st, p.kind ≠ .store st) ∧ Ordinary s 1 ∧ s.marks = [] := by
  obtain ⟨h1, h2, h3, h4, h5, h6, h7, h8⟩ := of_decide_eq_true h
  refine ⟨h1, h2, h3, h4, h5, h6, fun p hp st hk => ?_, ⟨g, h8⟩, h7⟩
  have := hs p hp
  rw [hk] at this
  exact Bool.false_ne_true this

theorem witness_RingsAndWakes :
    (let o := opOf (.atom addOp)
     let s := withOp team (.atom addOp)
     Live s o team ∧ (s.free o = true ∧ s.takeSlots o = none ∧ o.handed = true ∧ o.snapshot = [] ∧ o.sent = [] ∧ o.lost = [] ∧
       (∀ p ∈ s.ops, ∀ st, p.kind ≠ .store st) ∧ Ordinary s 1 ∧ s.marks = []) ∧ s.semWaiters = [] ∧
       (∀ y ∈ addOp.lanes, keyPath y.key ≠ 4 ∧ y.key % 4 = 0 ∧ y.lane < team.lanes) ∧ (addOp.lanes.map (·.lane)).Nodup ∧
       (Claim.atomRun addOp.fn s.wordAt addOp.lanes).2 = [0, 1]) ∧
    (let o := opOf (.signal (.ring 0 0 1))
     let g (ws : List RingWaiter) : Group := { ringGroup with waiters := ws }
     let s (ws : List RingWaiter) : State := twoTeams (g ws) (.signal (.ring 0 0 1)) []
     ∀ ws ∈ [[], [ringSleeper]], Live (s ws) o team ∧ ((s ws).free o = true ∧ (s ws).takeSlots o = none ∧ o.handed = true ∧ o.snapshot = [] ∧
       o.sent = [] ∧ o.lost = [] ∧ (∀ p ∈ (s ws).ops, ∀ st, p.kind ≠ .store st) ∧ Ordinary (s ws) 1 ∧ (s ws).marks = []) ∧ (s ws).semWaiters = [] ∧
       (s ws).group? 1 = some (g ws) ∧ ((g ws).rings[0]?.map (·.target) = some 1) ∧ (s ws).team? 1 = some team1 ∧ team1.group = 1 ∧
       team1.status ≠ .exited) ∧
    (let o := opOf (.signal (.sem 0x20000 0x20000 none 5))
     let s (c : Word) : State := twoTeams group (.signal (.sem 0x20000 0x20000 none 5)) [sleeper (some c)]
     ∀ c ∈ [(5 : Word), 6], Live (s c) o team ∧ ((s c).free o = true ∧ (s c).takeSlots o = none ∧ o.handed = true ∧ o.snapshot = [] ∧ o.sent = [] ∧
       o.lost = [] ∧ (∀ p ∈ (s c).ops, ∀ st, p.kind ≠ .store st) ∧ Ordinary (s c) 1 ∧ (s c).marks = []) ∧
       min (((s c).wordAt 0x20000).toNat + 5) 0xFFFFFFFF = 5 ∧ (s c).team? 1 = some team1) ∧
    (let s : State := { (withTeam mteam).setTeam 1 team1 with semWaiters := [sleeper none] }
     Runs s 0 mteam (.bar 4 8 12) ∧ MemoryReady s 0 mteam ∧ Room s mteam ∧ Quiet s 0 mteam ∧ s.marked 0x20000 = false ∧
       s.checkAt (s.partOf mteam) 1 .atomic 8 (mteam.rd64 8).toNat 0 = .ok (0x20000 :: (List.range 7).map (0x20001 + ·)) 2 ∧
       s.team? 1 = some team1 ∧ max (mteam.rs 12).toNat 1 ≤ (s.wordAt 0x20000).toNat + 1) := by
  refine ⟨⟨live_of _ _ _ (by decide +kernel), goes_of _ _ group (by decide +kernel) (by decide +kernel), by decide +kernel⟩, fun ws hw => ?_, fun c hc => ?_,
    runs_on _ _ _ (by decide +kernel), ready_of _ _ _ (by decide +kernel), room_of _ _ (by decide +kernel), quiet_of _ _ _ (by decide +kernel), by decide +kernel⟩
  · rcases List.mem_pair.mp hw with rfl | rfl
    · exact ⟨live_of _ _ _ (by decide +kernel), goes_of _ _ { ringGroup with waiters := [] } (by decide +kernel) (by decide +kernel), by decide +kernel⟩
    · exact ⟨live_of _ _ _ (by decide +kernel), goes_of _ _ { ringGroup with waiters := [ringSleeper] } (by decide +kernel) (by decide +kernel),
        by decide +kernel⟩
  · rcases List.mem_pair.mp hc with rfl | rfl
    · exact ⟨live_of _ _ _ (by decide +kernel), goes_of _ _ group (by decide +kernel) (by decide +kernel), by decide +kernel⟩
    · exact ⟨live_of _ _ _ (by decide +kernel), goes_of _ _ group (by decide +kernel) (by decide +kernel), by decide +kernel⟩

theorem witness_AtomicIssue_others :
    (let t := Bad0 atomTeam 2 0x41000000
     Runs (withTeam t) 0 t (.acas 4 2 6 false false) ∧ t.activeLanes = [0] ∧ 0 < t.lanes ∧ pairAddr t 2 0 = .error 0x41000000) ∧
    (let t := Bad0 atomTeam 7 0x41000000
     Runs (withTeam t) 0 t (.acas 4 2 6 false false) ∧ pairAddr t 2 0 = .ok 0x20000 ∧ t.rv 6 0 = .ok 0 ∧ t.rv 7 0 = .error 0x41000000 ∧
       isOk ((withTeam t).checkAt ((withTeam t).partOf t) 1 .atomic 4 0x20000 0) = true) ∧
    (Runs (withTeam oddTeam) 0 oddTeam (.saopCas 8 4) ∧
      ∃ p, (withTeam oddTeam).checkAt ((withTeam oddTeam).partOf oddTeam) 1 .atomic 4 (oddTeam.rd64 8).toNat 0 = .fails codeMisaligned p) :=
  ⟨⟨runs_with _ _ (by decide +kernel), by decide +kernel⟩, ⟨runs_with _ _ (by decide +kernel), by decide +kernel⟩,
   runs_with _ _ (by decide +kernel), 2, by decide +kernel⟩

theorem witness_StoreIssue_tokens :
    (let t := Bad0 mteam 5 0x41000000
     Runs (withTeam t) 0 t (.st64 4 1 8 false false) ∧ t.active 0 = true ∧ laneAddr t 8 1 0 = .ok 0x20000 ∧ t.rv 4 0 = .ok 0 ∧
       t.rv 5 0 = .error 0x41000000 ∧ isOk ((withTeam t).checkAt ((withTeam t).partOf t) 1 .write 8 0x20000 0) = true) ∧
    (let t := Bad0 mteam 1 0x41000000
     Runs (withTeam t) 0 t (.st64 4 1 8 false false) ∧ laneAddr t 8 1 0 = .error 0x41000000) :=
  ⟨⟨runs_with _ _ (by decide +kernel), by decide +kernel⟩, runs_with _ _ (by decide +kernel), by decide +kernel⟩

theorem witness_LoadIssue_speculative :
    (let s := withTeam oddTeam
     Claim.vectorLoad (.lds16 4 1 8 false false) = some (4, 1, 8, 2, true) ∧ Runs s 0 oddTeam (.lds16 4 1 8 false false) ∧
       laneAddr oddTeam 8 1 0 = .ok 0x20001 ∧ ∃ p, s.checkAt (s.partOf oddTeam) 1 .read 2 0x20001 0 = .fails codeMisaligned p) ∧
    (let t := Bad0 mteam 1 0x41000000
     Runs (withTeam t) 0 t (.ld16 4 1 8 false false) ∧ t.active 0 = true ∧ laneAddr t 8 1 0 = .error 0x41000000) ∧
    ((let l : List (Nat × Nat) := [(0, 0), (8, 192)]
      (∀ p ∈ l, p.1 / (128 / max 4 4) = 0) ∧ l ≠ []) ∧ (4 : Nat) ≤ 16) :=
  ⟨⟨rfl, runs_with _ _ (by decide +kernel), by decide +kernel, 2, by decide +kernel⟩, ⟨runs_with _ _ (by decide +kernel), by decide +kernel⟩,
   by decide⟩

/-- A buffer record for dense elements of 32 bits, base 0x20000. -/
def denseRecord : Nat := 0x20000 + 64 * 2 ^ 64 + 32 * 2 ^ 114 + 3 * 2 ^ 124 + 2 ^ 136
/-- The team of the record with binary32 under PACK in slot 0. -/
def denseTeam : Team := recTeam.setFdr 0 (builtinPacked true 0)
/-- The bench with that team and a record. -/
def denseState (x : Nat) : State := { withTeam denseTeam with mem := bench.mem.setBytes 0x40000 (leBytes 40 x) }

theorem witness_BufferRecords_dense :
    let s := denseState denseRecord
    Runs s 0 denseTeam (.ldb 4 1 6 false false) ∧ Runs s 0 denseTeam (.stb 4 1 6 false false) ∧ Runs s 0 denseTeam (.ldb 5 1 6 false false) ∧
    MemoryReady s 0 denseTeam ∧ Room s denseTeam ∧ RecordReady s 0 denseTeam ∧ s.readRecord 0 denseTeam (denseTeam.rs 6).toNat = .bits denseRecord ∧
    recordValid denseTeam denseRecord = true ∧ (recordOf denseRecord).enc = 3 ∧ (denseTeam.fmtAt (recordOf denseRecord).fslot).pack = true ∧
    denseTeam.vEmpty 5 = false ∧ 5 < denseTeam.nvregs ∧
    (∀ l, denseTeam.active l = true → (s.bufLane denseTeam (recordOf denseRecord) false 1 l).check.failed = false ∧
      (s.bufLane denseTeam (recordOf denseRecord) true 1 l).check.failed = false ∧ ∃ w, denseTeam.rv 5 l = .ok w) ∧
    ((denseState 0).readRecord 0 denseTeam (denseTeam.rs 6).toNat = .bits 0 ∧ recordValid denseTeam 0 = false) := by
  refine ⟨runs_on _ _ _ (by decide +kernel), runs_on _ _ _ (by decide +kernel), runs_on _ _ _ (by decide +kernel), ready_of _ _ _ (by decide +kernel),
    room_of _ _ (by decide +kernel), recordReady_of _ _ _ (by decide +kernel), by decide +kernel, by decide +kernel, by decide +kernel,
    by decide +kernel, by decide +kernel, by decide +kernel, fun l hl => ?_, by decide +kernel⟩
  obtain rfl := only_lane0 denseTeam (by decide +kernel) l hl
  exact ⟨by decide +kernel, by decide +kernel, 0x55, by decide +kernel⟩

/-! ## Witnesses: engines -/

/-- A team with the parameter block of an XCOPY of one row of 64 bytes from 0x20000 to 0x30000 at s16 to s23. -/
def copyTeam : Team := (((pair (pair team 16 0x20000) 18 0x30000).pokeS 20 64).pokeS 21 1)
/-- A copy command of the bench's team. -/
def commandOf (cmd : Command) (ps : List Word) (sd : Nat) (started : Bool) : CommandOp :=
  { cmd := cmd, unit := 0, params := ps, valid := 1, units := 1, sd := sd, sdCount := (if sd = 0 then 0 else 1), extra := [], rows := [], defs := [],
    mxm := 0, brtab := 0, locks := [], need := 0, permit := none, released := true, started := started, failed := none, cancel := [] }
/-- The bench with 64 copy commands queued. -/
def fullState : State :=
  { withTeam copyTeam with
    ops := (List.range 64).map fun n => { opOf (.command (commandOf .xcopy (copyTeam.params 16) 4 false)) with id := 2 + n }, nextId := 66 }

theorem witness_EngineIssue :
    (let s := withTeam copyTeam
     Runs s 0 copyTeam (.xcopy 4 16 0) ∧ Room s copyTeam ∧ ∃ e, Claim.engine s copyTeam (.xcopy 4 16 0) = some e ∧ e.full = false ∧ e.good = true ∧
       (e.reads.any fun r => e.writes.any fun w => rangesMeet copyTeam.group r w) = false ∧
       s.lockUse (s.partOf copyTeam) + (locksOf copyTeam.group e.reads e.writes).length + 5 ≤ Config.lockEntries) ∧
    (let t := pair copyTeam 18 0x20020
     Runs (withTeam t) 0 t (.xcopy 4 16 0) ∧ ∃ e, Claim.engine (withTeam t) t (.xcopy 4 16 0) = some e ∧ e.full = false ∧
       (e.reads.any fun r => e.writes.any fun w => rangesMeet t.group r w) = true) ∧
    (Runs bench 0 team (.xcopy 4 16 0) ∧ ∃ e, Claim.engine bench team (.xcopy 4 16 0) = some e ∧ e.full = false ∧ e.good = false) ∧
    (Runs fullState 0 copyTeam (.xcopy 4 16 0) ∧ ∃ e, Claim.engine fullState copyTeam (.xcopy 4 16 0) = some e ∧ e.full = true) :=
  ⟨⟨runs_with _ _ (by decide +kernel), room_of _ _ (by decide +kernel), _, rfl, by decide +kernel, by decide +kernel, by decide +kernel, by decide +kernel⟩,
   ⟨runs_with _ _ (by decide +kernel), _, rfl, by decide +kernel, by decide +kernel⟩,
   ⟨runs_on_bench _ (by decide +kernel), _, rfl, by decide +kernel, by decide +kernel⟩,
   runs_on _ _ _ (by decide +kernel), _, rfl, by decide +kernel⟩

/-- A group with two tiles of its core mapped at 0 and 1. -/
def tileGroup : Group := { group with tileMap := [(0, 1), (1, 2)] }
/-- The bench with that group. -/
def tileState (t : Team) : State := (withTeam t).setGroup 1 tileGroup
/-- A team with 1 in s4 and a built-in format for A and B. -/
def matTeam : Team := { team.pokeS 4 1 with mxm := 0x11 }

theorem room_tiles (s : State) (t : Team) (h : decide (t.flight = [] ∧ t.group = 1 ∧ s.routerFull (s.partOf t) = false ∧ s.ops = [] ∧
    s.group? 1 = some tileGroup ∧ (s.part tileGroup.part).det = false) = true) : Room s t := by
  obtain ⟨h1, h2, h3, h4, h5, h6⟩ := of_decide_eq_true h
  refine ⟨fun p => ?_, h3, by simp [h4], ?_⟩
  · simp [Team.inflight, h1, Config.maxInFlight]
  · rw [h2]; exact ⟨tileGroup, h5, h6, by decide +kernel⟩

theorem witness_MatrixTiles :
    let s := tileState matTeam
    s.group? matTeam.group = some tileGroup ∧ Claim.matrixUnit (.mfmt 0x66) = true ∧ s.queueFull (onMatrix matTeam.core) 16 = false ∧
    Runs s 0 matTeam (.mfmt 0x66) ∧ (Runs s 0 matTeam (.acalloc 5 4) ∧ Runs s 0 matTeam (.acalloc 5 0) ∧ 0 < (matTeam.rs 4).toNat ∧
      (matTeam.rs 4).toNat ≤ 128 ∧ (matTeam.rs 0).toNat = 0) ∧
    (sget 0 tileGroup.tileMap 0 ≠ 0 ∧ sget 0 tileGroup.tileMap 1 ≠ 0 ∧ sget 0 tileGroup.tileMap 2 = 0 ∧ 1 ≤ (s.core 0).freeTiles.length) ∧
    ((s.onCore 0 fun c => { c with tileUsed := (List.range Config.tiles).map fun n => (n, true) }).core 0).freeTiles.length = 0 ∧
    (Runs s 0 matTeam (.acfree 4 4) ∧ (matTeam.rs 4).toNat + (matTeam.rs 4).toNat ≤ 128 ∧ s.ops = []) ∧
    (let f := { s with ops := (List.range 16).map (fun n => { opOf (.command (commandOf .mma [] 0 false)) with id := 2 + n }), nextId := 18 }
     Runs f 0 matTeam (.mfmt 0x66) ∧ f.queueFull (onMatrix matTeam.core) 16 = true) :=
  ⟨by decide +kernel, rfl, by decide +kernel, runs_on _ _ _ (by decide +kernel),
   ⟨runs_on _ _ _ (by decide +kernel), runs_on _ _ _ (by decide +kernel), by decide +kernel⟩, by decide +kernel, by decide +kernel,
   ⟨runs_on _ _ _ (by decide +kernel), by decide +kernel⟩, runs_on _ _ _ (by decide +kernel), by decide +kernel⟩

/-- A team whose parameters at s8 and s9 ask for a drain of tile 0 through record 0 of its table. -/
def packTeam : Team := { matTeam.pokeS 8 0x80000000 with brtab := 0x40001 }
/-- The bench with that team, its tiles and that record. -/
def packState : State := { tileState packTeam with mem := bench.mem.setBytes 0x40000 (leBytes 40 byteRecord) }

theorem witness_MatrixIssue_packed : Runs packState 0 packTeam (.acdrain 5 8 6) ∧ RecordReady packState 0 packTeam ∧
    packState.readRecord 0 packTeam (packTeam.rs 9).toNat = .bits byteRecord ∧ recordValid packTeam byteRecord = true ∧ (recordOf byteRecord).enc ≠ 3 ∧
    2 ^ 31 ≤ (packTeam.rs 8).toNat ∧ (packTeam.rs 8).toNat / 2 ^ 21 % 8 = 0 ∧ (packTeam.rs 9).toNat < 2 ^ 12 ∧ recordValid packTeam 0 = false :=
  ⟨runs_on _ _ _ (by decide +kernel), recordReady_of _ _ _ (by decide +kernel), by decide +kernel⟩

theorem witness_MatrixIssue :
    let s := tileState matTeam
    s.group? matTeam.group = some tileGroup ∧ s.queueFull (onMatrix matTeam.core) 16 = false ∧ Room s matTeam ∧
    s.lockUse (s.partOf matTeam) + 8 ≤ Config.lockEntries ∧ Runs s 0 matTeam (.mfmt 0x66) ∧
    (Runs s 0 matTeam (.acalloc 5 4) ∧ 1 ≤ (s.core 0).freeTiles.length ∧ sget 0 tileGroup.tileMap 2 = 0 ∧ sget 0 tileGroup.tileMap 1 ≠ 0) ∧
    (Runs s 0 matTeam (.acalloc 5 0) ∧ (matTeam.rs 0).toNat = 0) ∧
    (Runs s 0 matTeam (.acfree 4 4) ∧ (matTeam.rs 4).toNat + (matTeam.rs 4).toNat ≤ 128 ∧ sget 0 tileGroup.tileMap 1 ≠ 0) ∧
    (Runs s 0 matTeam (.mma 0 1 3 true false true) ∧ Runs s 0 matTeam (.mmaw4 0 1 3 false false false) ∧
      matTeam.beats * ((matTeam.rs 27).toNat % 16 + 1) = 1 ∧ (matTeam.rs 26).toNat < 2 ^ 24 ∧ (matTeam.rs 27).toNat < 16) ∧
    Runs s 0 matTeam (.aczero 6 4) ∧
    (Runs s 0 matTeam (.acread 1 6 false false) ∧ (matTeam.rs 6).toNat / 2 ^ 16 % 32 + 1 ≤ 32 ∧ matTeam.failures = []) ∧
    (Runs s 0 matTeam (.acdrain 5 8 6) ∧ (matTeam.rs 8).toNat = 0 ∧ (matTeam.rs 9).toNat = 0) :=
  ⟨by decide +kernel, by decide +kernel, room_tiles _ _ (by decide +kernel), by decide +kernel, runs_on _ _ _ (by decide +kernel),
   ⟨runs_on _ _ _ (by decide +kernel), by decide +kernel⟩, ⟨runs_on _ _ _ (by decide +kernel), by decide +kernel⟩,
   ⟨runs_on _ _ _ (by decide +kernel), by decide +kernel⟩, ⟨runs_on _ _ _ (by decide +kernel), runs_on _ _ _ (by decide +kernel), by decide +kernel⟩,
   runs_on _ _ _ (by decide +kernel), ⟨runs_on _ _ _ (by decide +kernel), by decide +kernel⟩, runs_on _ _ _ (by decide +kernel), by decide +kernel⟩

theorem witness_CommandStarts :
    (let c := commandOf .xcopy (copyTeam.params 16) 4 false
     let s := withOp copyTeam (.command c)
     s.op? 2 = some (opOf (.command c)) ∧ c.released = true ∧ c.started = false ∧ Ordinary s 1 ∧ s.unitUp 0 c.cmd = true ∧ c.need = 0 ∧
       s.lockHeld (opOf (.command c)) c.locks = false) ∧
    (let l : Lock := { write := true, key := 0x20000, size := 64 }
     let c := { commandOf .xcopy (copyTeam.params 16) 4 false with locks := [l] }
     let s := { withOp copyTeam (.command c) with locks := [(0, 1, l)] }
     s.op? 2 = some (opOf (.command c)) ∧ s.lockHeld (opOf (.command c)) c.locks = true) :=
  ⟨⟨by decide +kernel, by decide +kernel, by decide +kernel, ordinary_of _ (by decide +kernel), by decide +kernel, by decide +kernel, by decide +kernel⟩,
   by decide +kernel⟩

theorem witness_CommandEnds :
    (let c := commandOf .xcopy (copyTeam.params 16) 4 true
     let s := withOp copyTeam (.command c)
     Live s (opOf (.command c)) copyTeam ∧ Calm s ∧ Ordinary s 1 ∧ c.started = true ∧ c.cancel = [] ∧ c.cmd.copies = true ∧ c.pgin = false ∧
       c.valid = 1 ∧ s.marks = []) ∧
    (let c := { commandOf .aczero [0, 2] 0 true with extra := [0, 1] }
     let s := { tileState team with ops := [opOf (.command c)], nextId := 3 }
     Live s (opOf (.command c)) team ∧ s.matrixReady (opOf (.command c)) c = true ∧ c.failed = none) ∧
    (let c := commandOf .gmask [] 4 true
     Live (withOp team (.command c)) (opOf (.command c)) team) ∧
    (let c := commandOf .sample [] 4 true
     Live (withOp team (.command c)) (opOf (.command c)) team) :=
  ⟨⟨live_of _ _ _ (by decide +kernel), calm_op _ _ (by decide +kernel) (by decide +kernel), ordinary_of _ (by decide +kernel), by decide +kernel,
      by decide +kernel, by decide +kernel, by decide +kernel, by decide +kernel⟩,
   ⟨live_of _ _ _ (by decide +kernel), by decide +kernel⟩, live_of _ _ _ (by decide +kernel), live_of _ _ _ (by decide +kernel)⟩

/-! ## Witnesses: requests, answers, special registers, traps -/

/-- Fields of a record written at an address, from (offset, bytes, value). -/
def fields (m : Memory) (a : Nat) (fs : List (Nat × Nat × Nat)) : Memory := fs.foldl (fun m f => m.setBytes (a + f.1) (leBytes f.2.1 f.2.2)) m
/-- Memory of vault 0 with a launch record at offset 0 of one group of one team, and its code object's header at 0x1000 with one section
(R57, R361). -/
def recordMemory : Memory :=
  fields (fields (fields [] (2 ^ 49) [(0, 4, 0x48434E4C), (4, 1, 1), (5, 1, 1), (6, 1, 1), (0xF, 1, 4), (0x18, 8, 0x10000),
    (0x20, 8, 0xFFFFFF0000001000), (0x38, 8, 0x8000), (0x80, 4, 1), (0x84, 1, 4), (0x85, 1, 2), (0xC0, 1, 1), (0xC1, 1, 128)]) (2 ^ 49 + 0x1E0)
      ((List.range 16).map fun i => (8 * i, 8, (builtin 0).toNat)))
    (2 ^ 49 + 0x1000) [(0, 4, 0x4D52544E), (4, 1, 4), (6, 1, 2), (0xC, 4, 1), (0x10, 8, 64), (64, 4, 1), (88, 4, 7)]
/-- A team with that record's address at s16:s17, and 4 at s12. -/
def taskTeam : Team := (pair team 16 0xFFFFFF0000000000).pokeS 12 4
/-- The bench with that team and that record. -/
def taskState : State := { withTeam taskTeam with mem := recordMemory, vaultSplit := [(0, 1)] }

/-- What TASKQ reads in that state. -/
def taskRead : Except RecordBad (List Byte × LaunchRec) :=
  readLaunchRec taskState.board.emulMin (taskState.objectSize (taskState.partOf taskTeam)) (fun x n => (taskState.cpKeys (taskState.partOf taskTeam) .read x n).map fun ks =>
    ks.map fun k => taskState.loadByte 0 taskTeam.group taskTeam.core taskState.nextId false k) (taskState.pathAt (taskState.partOf taskTeam)) (taskTeam.rd64 16).toNat

theorem witness_RequestIssue :
    (let t := pair (mteam.pokeS 4 35) 8 0x20000000020000
     Runs (withTeam t) 0 t (.rsig 8 12) ∧ Runs (withTeam t) 0 t (.rsigGen 12 8 12) ∧ Room (withTeam t) t ∧ (t.rd64 8).toNat % 8 = 0 ∧
       (t.rd64 8).toNat / 2 ^ 53 ≠ (withTeam t).fabric.devid) ∧
    (let t := pair mteam 8 0x20000000020004
     Runs (withTeam t) 0 t (.rsig 8 12) ∧ (t.rd64 8).toNat % 8 ≠ 0) ∧
    (Runs (withTeam mteam) 0 mteam (.rsig 8 12) ∧ (mteam.rd64 8).toNat / 2 ^ 53 = (withTeam mteam).fabric.devid) ∧
    (let t := (mteam.pokeS 4 35).pokeS 5 11
     Runs (withTeam t) 0 t (.peerq 6 4 5) ∧ (t.rs 5).toNat = 11 ∧ (t.rs 4).toNat ≤ 35) ∧
    (let t := (mteam.pokeS 4 36).pokeS 5 11
     Runs (withTeam t) 0 t (.peerq 6 4 5) ∧ ¬ (((t.rs 5).toNat ≤ 10 ∧ (t.rs 4).toNat < 2 ^ 11) ∨ ((t.rs 5).toNat = 11 ∧ (t.rs 4).toNat ≤ 35))) ∧
    Runs bench 0 team (.clkrd 4 1) ∧
    (let room := (withTeam mteam).dcap (dieOf mteam.core) - (withTeam mteam).floorUnits (dieOf mteam.core)
     Runs (withTeam mteam) 0 mteam (.pwreq 4 12) ∧ mteam.power + (mteam.rs 12).toNat ≤ room ∧ (mteam.rs 12).toNat ≠ 0 ∧
       Runs (withTeam mteam) 0 mteam (.pwreq 4 6) ∧ (mteam.rs 6).toNat = 0) ∧
    (let t := mteam.pokeS 4 0xFFFFFFFF
     Runs (withTeam t) 0 t (.pwreq 5 4) ∧ (withTeam t).dcap (dieOf t.core) - (withTeam t).floorUnits (dieOf t.core) < t.power + (t.rs 4).toNat) ∧
    Runs bench 0 team (.pwrel 4) ∧
    (Runs taskState 0 taskTeam (.taskq 4 16 0) ∧ Room taskState taskTeam ∧ taskState.lockUse (taskState.partOf taskTeam) ≤ Config.lockEntries ∧
      (match taskRead with | .ok (_, r) => decide ((taskTeam.rs 18).toNat < r.groups ∧ r.coop = false) | _ => false) = true) :=
  ⟨⟨runs_with _ _ (by decide +kernel), runs_with _ _ (by decide +kernel), room_of _ _ (by decide +kernel), by decide +kernel⟩,
   ⟨runs_with _ _ (by decide +kernel), by decide +kernel⟩, ⟨runs_with _ _ (by decide +kernel), by decide +kernel⟩,
   ⟨runs_with _ _ (by decide +kernel), by decide +kernel⟩, ⟨runs_with _ _ (by decide +kernel), by decide +kernel⟩,
   runs_on_bench _ (by decide +kernel), ⟨runs_with _ _ (by decide +kernel), by decide +kernel, by decide +kernel, runs_with _ _ (by decide +kernel),
     by decide +kernel⟩, ⟨runs_with _ _ (by decide +kernel), by decide +kernel⟩, runs_on_bench _ (by decide +kernel),
   runs_on _ _ _ (by decide +kernel), room_of _ _ (by decide +kernel), by decide +kernel, by decide +kernel⟩

theorem witness_Answers :
    Live (withOp team (.ask (.peer 190 0 0))) (opOf (.ask (.peer 190 0 0))) team ∧
    Live (withOp team (.ask (.clock 190 0 5))) (opOf (.ask (.clock 190 0 5))) team ∧
    (let s := withOp team (.ask (.power 190 2))
     Live s (opOf (.ask (.power 190 2))) team ∧ (s.powerQueue 0).head?.map (·.id) = some 2 ∧ (s.die 0).hot = false ∧ s.askHolds 0 = false ∧
       2 ≤ s.aboveFree 0) ∧
    (let c := { commandOf .mmal [] 4 false with need := 6 }
     let t := { team with power := 6 }
     let s := withOp t (.command c)
     Live s (opOf (.command c)) t ∧ s.asksPermit (opOf (.command c)) = true ∧ s.out 0 = false ∧ c.need ≤ t.power) ∧
    (Runs bench 0 team (.xcancel 5 4) ∧ Room bench team ∧ bench.queueFull (sameCopyEngine 0 false) 64 = false ∧ bench.ops = []) ∧
    (let c := commandOf .xcopy (copyTeam.params 16) 4 false
     let s := withOp copyTeam (.command c)
     Runs s 0 copyTeam (.xcancel 5 4) ∧ c.cmd.copies = true ∧ c.sd = (4 : SReg).toNat ∧ (5 : SReg).toNat ≠ c.sd) :=
  ⟨live_of _ _ _ (by decide +kernel), live_of _ _ _ (by decide +kernel), ⟨live_of _ _ _ (by decide +kernel), by decide +kernel⟩,
   ⟨live_of _ _ _ (by decide +kernel), by decide +kernel⟩,
   ⟨runs_on_bench _ (by decide +kernel), ⟨fun p => by simp [show team.inflight p = 0 from rfl, Config.maxInFlight], by decide +kernel,
      by simp [show bench.ops = [] from by decide +kernel], ordinary_of _ (by decide +kernel)⟩, by decide +kernel, by decide +kernel⟩,
   runs_on _ _ _ (by decide +kernel), by decide +kernel⟩

theorem witness_Answers_permits :
    let c := { commandOf .mmal [] 4 false with need := 6 }
    let s (floor above : Nat) : State := (withOp team (.command c)).onDie 0 fun d => { d with asks := [2], floorHeld := floor, aboveHeld := above }
    ((s 0 0).firstAsk 0).map (·.id) = some 2 ∧ ((s 0 0).die 0).hot = false ∧ 6 ≤ (s 0 0).floorFree 0 ∧ ((s 38 0).firstAsk 0).map (·.id) = some 2 ∧
      ((s 38 0).floorFree 0 < 6 ∧ 6 ≤ (s 38 0).aboveFree 0) ∧ ((s 38 300).firstAsk 0).map (·.id) = some 2 ∧ (s 38 300).aboveFree 0 < 6 ∧
      (withOp team (.command c)).asksPermit (opOf (.command c)) = true ∧ team.power < c.need := by
  decide +kernel

theorem witness_SpecialRegisters : Runs bench 0 team (.srd 4 0) ∧ Runs bench 0 team (.srd 4 0x25) ∧ bench.group? team.group = some group ∧
    (bench.part group.part).det = false ∧
    (let s := bench.onPart 0 fun p => { p with det := true }
     Runs s 0 team (.srd 4 0x20) ∧ s.group? team.group = some group ∧ (s.part group.part).det = true) ∧
    (let t := team.pokeS 4 2
     Runs (withTeam t) 0 t (.swr 4 8) ∧ (t.rs 4).toNat ≤ 2) ∧
    (let t := team.pokeS 4 3
     Runs (withTeam t) 0 t (.swr 4 8) ∧ 2 < (t.rs 4).toNat) ∧
    (let t := team.pokeS 4 4096
     Runs (withTeam t) 0 t (.swr 4 0x22) ∧ (t.rs 4).toNat % 2 ^ 13 ≤ 4096 ∧ Runs (withTeam t) 0 t (.swr 4 0x23)) ∧
    (let t := team.pokeS 4 4097
     Runs (withTeam t) 0 t (.swr 4 0x22) ∧ 4096 < (t.rs 4).toNat % 2 ^ 13) :=
  ⟨runs_on_bench _ (by decide +kernel), runs_on_bench _ (by decide +kernel), by decide +kernel, by decide +kernel,
   ⟨runs_on _ _ _ (by decide +kernel), by decide +kernel⟩, ⟨runs_with _ _ (by decide +kernel), by decide +kernel⟩,
   ⟨runs_with _ _ (by decide +kernel), by decide +kernel⟩, ⟨runs_with _ _ (by decide +kernel), by decide +kernel, runs_with _ _ (by decide +kernel)⟩,
   runs_with _ _ (by decide +kernel), by decide +kernel⟩

theorem witness_TrapInstructions : (Runs bench 0 team (.trap 0x100) ∧ Quiet bench 0 team) ∧ (Runs bench 0 team .pmask ∧ team.pmcount < 255) ∧
    (let t := { team with pmcount := 255 }
     Runs (withTeam t) 0 t .pmask ∧ t.pmcount = 255) ∧
    (let t := { team with pmcount := 1 }
     Runs (withTeam t) 0 t .punmask ∧ 0 < t.pmcount ∧ ((withTeam t).group? t.group).bind (·.request) = none) ∧
    (Runs bench 0 team .punmask ∧ team.pmcount = 0) ∧ (bench.cur = some 0 ∧ team.canIssue = true) :=
  ⟨⟨runs_on_bench _ (by decide +kernel), quiet_of _ _ _ (by decide +kernel)⟩, ⟨runs_on_bench _ (by decide +kernel), by decide +kernel⟩,
   ⟨runs_with _ _ (by decide +kernel), by decide +kernel⟩, ⟨runs_with _ _ (by decide +kernel), by decide +kernel⟩,
   ⟨runs_on_bench _ (by decide +kernel), by decide +kernel⟩, by decide +kernel⟩

theorem witness_TrapAndReturn : bench.team? 0 = some team ∧ (bench.trap 0 (Report.precise 0x10 team.allLanes)).team? 0 ≠ none := by decide +kernel

/-- The bench with its team in a status and with a report. -/
def stopped (st : TeamStatus) (cause : Word) : Team := { team with status := st, report := { team.report with cause := cause } }

theorem witness_HandlerEvents :
    (let t := stopped .trapped 0x10
     let s := { (withTeam t).onDie 0 (fun d => { d with trapQueue := [0, 5] }) with board := { bench.board with ready := 0x1000 } }
     s.team? 0 = some t ∧ ((s.group? t.group).bind (·.request)) = none ∧ (s.die 0).trapQueue = [0, 5] ∧ s.functionUp 12 = true ∧
       t.report.cause = 0x10) ∧
    (let t := stopped .trapped 0x14
     t.status = .trapped ∧ t.report.cause = 0x14) ∧
    ((bench.part 0).debug = false ∧ ((bench.onPart 0 fun p => { p with debug := true }).part 0).debug = true ∧ group.leaving = false) ∧
    (let t := { stopped .trapped 1 with report := { team.report with cause := 1, vaddr := 0x80000000 } }
     (match (withTeam t).walkNow 0 t.report.vaddr.toNat with | .fail _ _ => true | _ => false) = true ∧ t.report.cause = 1) ∧
    (let t := stopped .inHandler 0x10
     (withTeam t).team? 0 = some t ∧ t.status = .inHandler ∧ (withTeam t).group? t.group = some group ∧ t.status ≠ .running ∧ t.status ≠ .exited ∧
       t.sEmpty 191 = false ∧ (withTeam t).mayResume t = true ∧ t.service ≠ some .routine ∧ (withTeam t).functionUp 12 = true) ∧
    (let l : Lock := { write := true, key := 0x20000, size := 64 }
     let s : State := { bench with locks := [(0, 7, l)] }
     (0, 7, l) ∈ s.locks ∧ (7 : Nat) ∈ [7]) ∧
    team.status = .running ∧
    (let t := { stopped .awaiting 0x01 with service := some (.page 0x30000) }
     let s := (withTeam t).onDie 0 fun d => { d with services := [(0, pageOf 0x30000)] }
     s.serving ⟨0, 0⟩ 0x30000 = true ∧ s.team? 0 = some t ∧ t.awaitsPage 0x30000 = true ∧ t.wantsPage 0x30000 = true ∧ s.group? t.group = some group ∧
       group.part = 0 ∧ dieOf t.core = 0) ∧
    (let t := { stopped .awaiting 0x01 with service := some (.page 0x30000) }
     let s := (withTeam t).onDie 1 fun d => { d with services := [(0, pageOf 0x30000)] }
     s.serving ⟨1, 0⟩ 0x30000 = true ∧ s.team? 0 = some t ∧ t.awaitsPage 0x30000 = true ∧ dieOf t.core ≠ 1) := by
  decide +kernel

/-- The bench with its team in its die's trap queue, TRAP's report with a code. -/
def trapCodeTeam (cause code : Word) : Team :=
  { team with status := .trapped, report := { team.report with cause := cause, tcode := code } }
/-- The bench with that team in the trap queue. -/
def trapCodeState (t : Team) (debug : Bool) : State :=
  { ((withTeam t).onDie 0 fun d => { d with trapQueue := [0] }).onPart 0 fun p => { p with debug := debug } with
    board := { bench.board with ready := 0x1000 } }

theorem witness_HandlerEvents_codes : ∀ c ∈ ([(0x13, 0xFF), (0x13, 0x100), (0x13, 0x101), (0x13, 0xFFF), (0x13, 0x1000), (0x15, 0), (0x10, 0)] : List (Word × Word)),
    ∀ debug, let t := trapCodeTeam c.1 c.2
    let s := trapCodeState t debug
    s.team? 0 = some t ∧ s.group? t.group = some group ∧ group.request = none ∧ group.leaving = false ∧ (s.die 0).trapQueue = [0] ∧
      s.functionUp 12 = true ∧ t.status = .trapped ∧ (s.part (s.partOf t)).debug = debug := by
  intro c hc debug
  simp only [List.mem_cons, List.not_mem_nil, or_false] at hc
  rcases hc with rfl | rfl | rfl | rfl | rfl | rfl | rfl <;> cases debug <;> decide +kernel

theorem witness_HandlerEvents_stopped :
    (let t := { stopped .inHandler 0x15 with service := some .routine }
     (withTeam t).team? 0 = some t ∧ t.sEmpty 4 = false ∧ t.sEmpty 191 = false) ∧
    (let t := { stopped .inHandler 0x13 with service := some .host }
     (withTeam t).team? 0 = some t ∧ (withTeam t).mayResume t = false) ∧
    (let t := { stopped .awaiting 0x13 with service := some .host }
     (withTeam t).team? 0 = some t ∧ (withTeam t).mayResume t = true) ∧
    (let t := { stopped .awaiting 0x01 with service := some (.page 0x30000) }
     (withTeam t).team? 0 = some t) ∧
    (let t := { stopped .awaiting 0x04 with service := some (.unlock [7]) }
     (withTeam t).team? 0 = some t) ∧
    ((0 : Nat) = 4096 * 0 + 0 ∧ bench.functionUp 12 = true ∧ team.status = .running) := by
  decide +kernel

/-! ## Witnesses: launches, queues, pre-emption -/

/-- A launch of the bench's record, not started, its one group waiting. -/
def newLaunch : Launch :=
  { benchLaunch 1 with started := false, resident := [], begun := 0, waiting := [{ child := none, index := 0, reruns := 0, again := false }] }
/-- The powered bench without its team and group, with that launch. -/
def launchState (l : Launch) : State := { bench with teams := [], groups := [], cur := none, launches := [(0, some l)], board := { bench.board with ready := 0xFFFFFFFFFFFFFFFF0000000000000000 } }

theorem witness_LaunchEvents : (bench.team? 0 = some team ∧ team.canIssue = true) ∧
    (let t := { team with status := .exited }
     (withTeam t).team? 0 = some t ∧ t.status = .exited ∧ (withTeam t).ops = []) ∧
    (let s := { bench.onPart 0 (fun p => { p with det := true }) with teams := [] }
     s.group? 1 = some group ∧ (s.part group.part).det = true ∧ group.leaving = false ∧ s.teams = [] ∧ (s.groups.map (·.1)) = [1]) ∧
    ((launchState newLaunch).launch? 0 = some newLaunch ∧ newLaunch.started = false ∧ newLaunch.complete = false ∧ newLaunch.record.coop = false ∧
      (launchState newLaunch).launches.map (·.1) = [0]) ∧
    (let l := { newLaunch with started := true }
     let w : Waiting := { child := none, index := 0, reruns := 0, again := false }
     let s := launchState l
     s.launch? 0 = some l ∧ s.waitingGroups l.part = [(0, l, 0, w)] ∧ (s.part l.part).swap = none ∧ l.whole = false ∧
       (s.placeGroup 0 l w 0 [0]).isSome = true) := by
  decide +kernel

/-- The bench with the command processor ready, the launch record in memory and a queue with one entry. -/
def entryState (e : QEntry) (wake : Word) : State :=
  { (bench.onPart 0 fun p => { p with queues := [(3, some { prio := 1, wake := wake, ring := [e], errors := 0 })] }) with
    board := { bench.board with ready := 0x1000000 }, mem := recordMemory, vaultSplit := [(0, 1)], launches := [] }
/-- A queue entry. -/
def entryOf (op : Byte) (addr value : Dbl) (reserved : Bool) : QEntry := { op := op, addr := addr, value := value, status := 0, reserved := reserved }

theorem witness_QueueEvents :
    (let s := entryState (entryOf 0 0 0 false) 0
     s.functionUp 24 = true ∧ (sget none (s.part 0).queues 3).isSome = true) ∧
    (match readLaunchRec 2 ((entryState (entryOf 1 0xFFFFFF0000000000 0 false) 0).objectSize 0) ((entryState (entryOf 1 0xFFFFFF0000000000 0 false) 0).cpRead 0) ((entryState (entryOf 1 0xFFFFFF0000000000 0 false) 0).pathAt 0) 0xFFFFFF0000000000 with | .ok _ => true | _ => false) = true ∧
    (entryState (entryOf 2 0 0 false) 0).drained 0 3 = true ∧
    ({ entryState (entryOf 2 0 0 false) 0 with launches := [(0, some { newLaunch with queue := 3 })] } : State).drained 0 3 = false ∧
    ((entryState (entryOf 3 0xFFFFFF0000002000 5 false) 0).cpKeys 0 .write 0xFFFFFF0000002000 8 = .ok ((List.range 8).map (2 ^ 49 + 0x2000 + ·)) ∧
      (entryState (entryOf 3 0xFFFFFF0000002000 5 false) 0).semWaiters = [] ∧ ((List.range 8).map (2 ^ 49 + 0x2000 + ·)).Nodup) ∧
    ((5 : Word) &&& (entryOf 4 0 1 false).value.extractLsb' 0 32 ≠ 0 ∧ (4 : Word) &&& (entryOf 4 0 1 false).value.extractLsb' 0 32 = 0) ∧
    (4 < (entryOf 5 0 0 false).op.toNat ∧ (entryOf 0 0 0 true).reserved = true) := by
  decide +kernel

/-- The bench's group with a pending request. -/
def askedGroup (mask handler : Bool) : Group := { group with request := some { src := .host, maskDog := mask, handlerDog := handler } }
/-- The bench saved with its partition. -/
def savedSwap : Swap := { src := .host, allowed := [], teams := [(0, some team)], groups := [(1, some group)], cores := [], traps := [], due := [], asked := true }

theorem witness_PreemptionEvents :
    (let t := { team with pmcount := 1 }
     (withTeam t).group? 1 = some group ∧ group.request = none ∧ group.leaving = false ∧ group.idem = false ∧ (withTeam t).masked 1 = true ∧ (withTeam t).allEnded 1 = false ∧ PreSource.host ≠ .distributor) ∧
    (let g := { group with idem := true }
     (bench.setGroup 1 g).group? 1 = some g ∧ g.idem = true ∧ (bench.setGroup 1 g).allEnded 1 = false) ∧
    (let s := bench.setGroup 1 (askedGroup true true)
     s.group? 1 = some (askedGroup true true) ∧ s.shadowed 0 = false) ∧
    (let s := (bench.onDie 0 fun d => { d with shadow := true }).setGroup 1 (askedGroup true false)
     s.group? 1 = some (askedGroup true false) ∧ s.shadowed 0 = true ∧ s.ops = [] ∧ (s.part 0).det = false) ∧
    (let s := { bench.onPart 0 (fun p => { p with swap := some savedSwap }) with groups := [], teams := [] }
     (s.part 0).swap = some savedSwap ∧ s.groups = []) ∧ (keyPath 0x20000 = 1 ∨ keyPath 0x20000 = 2) := by
  decide +kernel


/-! ## Witnesses: what engines leave behind -/

/-- An address lies among the first n bytes of the scratchpad. -/
def inPad (n a : Nat) : Bool := decide (spadBase ≤ a ∧ a < spadBase + n)
/-- The key of a scratchpad address of the bench's group. -/
def padKey (a : Nat) : Nat := spadKey 1 (a - spadBase)
/-- The bench's group with a scratchpad of 64 KiB. -/
def padGroup : Group := { group with scratchBytes := 65536 }
/-- The bench with that group, one command, and bytes in its scratchpad. -/
def padState (t : Team) (c : CommandOp) (bytes : List (Nat × List Byte)) : State :=
  { (withOp t (.command c)).setGroup 1 padGroup with
    mem := bytes.foldl (fun (m : Memory) (b : Nat × List Byte) => m.setBytes (spadKey 1 b.1) b.2) bench.mem }
/-- The low and the high word of a scratchpad address. -/
def padAt (x : Nat) : List Word := [word (spadBase + x), 0xFFFFFFFF]

theorem steady_pad (s : State) (o : Op) (g : Group) (perm : Perm) (a : Nat) (written : List Nat) (ho : o.gid = 1) (hg : s.groupOf o.part 1 = some g)
    (hp : perm ≠ .fetch) (ha : inPad g.scratchBytes a = true) : Steady s o perm a (padKey a) written := by
  intro s' h1 _ h2 _
  obtain ⟨hl, hh⟩ := of_decide_eq_true ha
  have hgs : s'.groups = s.groups := by rw [← h1]
  have hsw : (s'.part o.part).swap = (s.part o.part).swap := by rw [← h2]
  have hg' : s'.groupOf o.part 1 = some g := by rw [← hg]; simp only [State.groupOf, State.group?, hgs, hsw]
  have hw : windowOf a = .spad (a - spadBase) := by simp [windowOf, hl]
  have hb : ¬ g.scratchBytes < a - spadBase + 1 := by omega
  simp [State.engineKey, State.resolve, hw, ho, hg', hp, hb, padKey]

theorem pad_group (t : Team) (c : CommandOp) (bytes : List (Nat × List Byte)) :
    (padState t c bytes).groupOf (opOf (.command c)).part 1 = some padGroup :=
  (by decide +kernel : (bench.setGroup 1 padGroup).groupOf 0 1 = some padGroup)

theorem steady_on_pad (t : Team) (c : CommandOp) (bytes : List (Nat × List Byte)) (perm : Perm) (a : Nat) (written : List Nat) (hp : perm ≠ .fetch)
    (ha : inPad 65536 a = true) : Steady (padState t c bytes) (opOf (.command c)) perm a (padKey a) written :=
  steady_pad _ _ padGroup _ _ _ rfl (pad_group t c bytes) hp ha

/-- Every address that a command moves lies in the scratchpad. -/
def padded (x : Claim.Moved) : Bool := (List.range x.units).all fun u => (List.range x.size).all fun j => inPad 65536 (x.dst u j) &&
  match x.src u j with
  | .inl a => inPad 65536 a
  | .inr _ => true

theorem reached_on_pad (t : Team) (c : CommandOp) (bytes : List (Nat × List Byte)) (x : Claim.Moved) (h : padded x = true) :
    x.reached (padState t c bytes) (opOf (.command c)) padKey := by
  intro u j hu hj
  have h1 := List.all_eq_true.mp (List.all_eq_true.mp h u (List.mem_range.mpr hu)) j (List.mem_range.mpr hj)
  rw [Bool.and_eq_true] at h1
  refine ⟨steady_on_pad _ _ _ _ _ _ (by decide) h1.1, fun a ha => steady_on_pad _ _ _ _ _ _ (by decide) ?_⟩
  simpa [ha] using h1.2

theorem calm_pad (t : Team) (c : CommandOp) (bytes : List (Nat × List Byte)) : Calm (padState t c bytes) := by
  have h : (padState t c bytes).semWaiters = [] := (by decide +kernel : bench.semWaiters = [])
  refine ⟨fun p hp st hs => ?_, by simp [h]⟩
  obtain rfl := List.mem_singleton.mp hp
  cases hs

/-- A started command of the bench stands alone, its team's ring full. -/
theorem command_alone (c : CommandOp) (bytes : List (Nat × List Byte)) :
    let t := { team with frcur := 0 }
    let s := padState t c bytes
    let o := opOf (.command c)
    Live s o t ∧ Calm s ∧ Ordinary s o.gid ∧ o.kind = .command c ∧ s.marks = [] ∧ t.frcur = 0 :=
  ⟨⟨rfl, rfl, (by decide +kernel : (withTeam { team with frcur := 0 }).team? 0 = some { team with frcur := 0 }), rfl, by decide +kernel⟩,
   calm_pad _ _ _,
   ⟨padGroup, (by decide +kernel : (bench.setGroup 1 padGroup).group? 1 = some padGroup), (by decide +kernel : (bench.part 0).det = false), rfl, rfl, rfl⟩,
   rfl, (by decide +kernel : bench.marks = []), rfl⟩

/-- Three units of XCOPY, XFILL, XTRN and LAYIC in the scratchpad. -/
def padMoves : List CommandOp :=
  [{ commandOf .xcopy (padAt 0x100 ++ padAt 0x1000 ++ [24, 3, 32, BitVec.ofInt 32 (-40)]) 4 true with valid := 3 },
   { commandOf .xfill (padAt 0x1000 ++ [0x11223344, 0x55667788, 13, 3, 0, BitVec.ofInt 32 (-5)]) 4 true with valid := 3 },
   { commandOf .xtrn (padAt 0x100 ++ padAt 0x1000 ++ [0x20001, 0x50003, 12, 8]) 4 true with valid := 3 },
   { commandOf .layic (padAt 0x100 ++ padAt 0x1000 ++ [0x50004, 0x10003, 0x21112123, 0x30002]) 4 true with valid := 3 }]

theorem witness_CopyEffects : ∀ c ∈ padMoves, c.started = true ∧ c.cancel = [] ∧ c.valid < 2 ^ 24 ∧
    ∃ x, Claim.copied c = some x ∧ 0 < x.units ∧ 0 < x.size ∧ x.reached (padState { team with frcur := 0 } c []) (opOf (.command c)) padKey := by
  intro c hc
  simp only [padMoves, List.mem_cons, List.not_mem_nil, or_false] at hc
  rcases hc with rfl | rfl | rfl | rfl <;>
    exact ⟨rfl, rfl, by decide +kernel, _, rfl, by decide +kernel, by decide +kernel, reached_on_pad _ _ _ _ (by decide +kernel)⟩

/-- A copy of one row of 64 bytes within the scratchpad. -/
def padCopy : CommandOp := commandOf .xcopy (padAt 0x100 ++ padAt 0x1000 ++ [64, 1, 0, 0]) 4 true

theorem witness_CommandEnds_copy :
    let s := padState { team with frcur := 0 } padCopy []
    let src (x : Nat) : Nat := padKey ((pd padCopy.params 0 + x) % 2 ^ 64)
    let dst (x : Nat) : Nat := padKey ((pd padCopy.params 2 + x) % 2 ^ 64)
    padCopy.valid = 1 ∧ (pw padCopy.params 4).toNat % 2 ^ 24 = 64 ∧
    (∀ x, x < 64 → Steady s (opOf (.command padCopy)) .read ((pd padCopy.params 0 + x) % 2 ^ 64) (src x) ((List.range 64).map dst) ∧
      Steady s (opOf (.command padCopy)) .write ((pd padCopy.params 2 + x) % 2 ^ 64) (dst x) ((List.range 64).map dst)) ∧
    ∀ x, x < 64 → ∀ y, y < 64 → dst x = dst y → x = y := by
  have h : ∀ x, x < 64 → inPad 65536 ((pd padCopy.params 0 + x) % 2 ^ 64) = true ∧ inPad 65536 ((pd padCopy.params 2 + x) % 2 ^ 64) = true := by
    decide +kernel
  exact ⟨rfl, by decide +kernel, fun x hx => ⟨steady_on_pad _ _ _ _ _ _ (by decide) (h x hx).1, steady_on_pad _ _ _ _ _ _ (by decide) (h x hx).2⟩,
    by decide +kernel⟩

/-- A gather of two rows of 4 bytes by the list at 0x40 of the scratchpad, from a table of two rows; with a flag word for the rows. -/
def padGather (flags : Word) : CommandOp := { commandOf .xgath (padAt 0x100 ++ padAt 0x1000 ++ [0x40, 2, 4 + flags, 0]) 4 true with valid := 2 }
/-- The list: row 1 and a row that the table does not have. -/
def gatherBytes : List (Nat × List Byte) := [(0x40, leBytes 4 1), (0x44, leBytes 4 5)]

theorem witness_CopyEffects_gather : ∀ flags ∈ [(0x2000000 : Word), 0],
    let c := padGather flags
    let s := padState { team with frcur := 0 } c gatherBytes
    let spad (x : Nat) : Nat := 2 ^ 64 - 2 ^ 20 + x
    let index (i : Nat) : Nat := Claim.numAt s padKey (spad ((pw c.params 4).toNat + 4 * i)) 4
    let gath : Claim.Moved := ⟨c.valid, (pw c.params 6).toNat % 2 ^ 24,
      fun i j => Claim.place ((pd c.params 2 + i * ((pw c.params 6).toNat % 2 ^ 24) + j : Nat) : Int),
      fun i j => if index i < 2 then .inl (Claim.place ((pd c.params 0 + index i * ((pw c.params 6).toNat % 2 ^ 24) + j : Nat) : Int)) else .inr 0⟩
    c.started = true ∧ c.cancel = [] ∧ c.cmd = .xgath ∧ (pw c.params 5).toNat = 2 ∧ gath.reached s (opOf (.command c)) padKey ∧ (pw c.params 4).toNat % 4 = 0 ∧
    (∀ i, i < c.valid → (pw c.params 4).toNat + 4 * i < 2 ^ 20 ∧ ∀ b, b < 4 →
      Steady s (opOf (.command c)) .read (spad ((pw c.params 4).toNat + 4 * i + b)) (padKey (spad ((pw c.params 4).toNat + 4 * i + b))) (gath.keys padKey) ∧
        padKey (spad ((pw c.params 4).toNat + 4 * i + b)) ∉ gath.keys padKey) ∧
    index 0 = 1 ∧ index 1 = 5 ∧ (pw c.params 6).toNat / 2 ^ 25 % 2 = (if flags = 0 then 0 else 1) := by
  intro flags hf
  rcases List.mem_pair.mp hf with rfl | rfl <;>
  · refine ⟨rfl, rfl, rfl, by decide +kernel, reached_on_pad _ _ _ _ (by decide +kernel), by decide +kernel,
      fun i hi => ⟨?_, fun b hb => ⟨steady_on_pad _ _ _ _ _ _ (by decide) ?_, ?_⟩⟩, by decide +kernel⟩ <;>
    · have h : i < 2 := hi
      interval_cases i <;> (try interval_cases b) <;> decide +kernel

/-- An expansion of three chunks, packed from 0x100 of the scratchpad by the offsets at 0x40: an LZ4 block, zeros, 4,096 stored bytes. -/
def padExpand : CommandOp := { commandOf .xexp (padAt 0x100 ++ padAt 0x4000 ++ padAt 0x40 ++ [0, 3]) 4 true with valid := 3 }
/-- One literal, a match of 4,090 bytes one byte back, five literals. -/
def sevens : List (List Byte × Nat × Nat) := [([7], 1, 4090)]
/-- The block of 4,096 bytes of 7. -/
def sevenBlock : List Byte := Claim.lz4Bytes sevens (some (List.replicate 5 7, 0))
/-- The offsets and the block. -/
def expandBytes (l : Nat) : List (Nat × List Byte) :=
  [(0x40, leBytes 4 0), (0x44, leBytes 4 l), (0x48, leBytes 4 l), (0x4C, leBytes 4 (l + 4096)), (0x100, sevenBlock)]

theorem not_written (x : Claim.Moved) (b a : Nat) (h : ((x.keys padKey).all fun k => decide (b ≤ k)) = true) (ha : padKey a < b) :
    padKey a ∉ x.keys padKey := fun hm => by
  have := of_decide_eq_true (List.all_eq_true.mp h _ hm)
  omega

theorem sevens_expand : Claim.lz4Expands [] sevens (some (List.replicate 5 7, 0)) (List.replicate 4096 7) := by
  refine ⟨by decide, by decide, by decide, by decide, List.replicate 4090 7, List.length_replicate, fun i hi => ?_, ?_⟩
  · have h : ([] ++ [7] : List Byte) ++ List.replicate 4090 7 = List.replicate 4091 7 := rfl
    have h2 : ([] ++ [(7 : Byte)]).length + i - 1 = i := by simp
    rw [h, h2, List.getElem?_replicate, List.getElem?_replicate, if_pos hi, if_pos (by omega)]
  · show List.replicate 4096 (7 : Byte) = ([] ++ [7] ++ List.replicate 4090 7) ++ List.replicate 5 7
    have : ([] ++ [7] : List Byte) = List.replicate 1 7 := rfl
    rw [this, List.replicate_append_replicate, List.replicate_append_replicate]

theorem witness_CopyEffects_expand :
    let c := padExpand
    let s := padState { team with frcur := 0 } c (expandBytes sevenBlock.length)
    let ps := c.params
    let o := opOf (.command c)
    let entry (n : Nat) : Nat := Claim.place ((pd ps 4 + 4 * ((pw ps 6).toNat + n) : Nat) : Int)
    let at' (n : Nat) : Nat := Claim.numAt s padKey (entry n) 4
    let packed (n j : Nat) : Nat := Claim.place ((pd ps 0 + at' n + j : Nat) : Int)
    let out (n : Nat) : List Byte := if n = 0 then List.replicate 4096 7 else List.replicate 4096 0
    let expand : Claim.Moved := ⟨c.valid, 4096, fun n j => Claim.place ((pd ps 2 + 4096 * n + j : Nat) : Int),
      fun n j => if at' (n + 1) - at' n = 4096 then .inl (packed n j) else .inr ((out n).getD j 0)⟩
    let kept (a : Nat) : Prop := Steady s o .read a (padKey a) (expand.keys padKey) ∧ padKey a ∉ expand.keys padKey
    (List.range 4).map at' = [0, sevenBlock.length, sevenBlock.length, sevenBlock.length + 4096] ∧ pd ps 4 % 4 = 0 ∧
    (expand.first 3).reached s o padKey ∧ (∀ m, m < 4 → ∀ b, b < 4 → kept (Claim.place ((entry m + b : Nat) : Int))) ∧
    (∀ m, m < 3 → ∀ j, j < at' (m + 1) - at' m → kept (packed m j)) ∧
    (List.range sevenBlock.length).map (fun j => memByte s (padKey (packed 0 j))) = sevenBlock := by
  intro c s ps o entry at' packed out expand kept
  have hat : (List.range 4).map at' = [0, sevenBlock.length, sevenBlock.length, sevenBlock.length + 4096] := by decide +kernel
  have hlow : ((expand.keys padKey).all fun k => decide (spadKey 1 0x4000 ≤ k)) = true := by decide +kernel
  have hk : ∀ a, inPad 65536 a = true → padKey a < spadKey 1 0x4000 → kept a := fun a h1 h2 =>
    ⟨steady_on_pad _ _ _ _ _ _ (by decide) h1, not_written _ _ _ hlow h2⟩
  have he : ∀ m, m < 4 → ∀ b, b < 4 → inPad 65536 (Claim.place ((entry m + b : Nat) : Int)) = true ∧
      padKey (Claim.place ((entry m + b : Nat) : Int)) < spadKey 1 0x4000 := by decide +kernel
  have hp : ∀ m, m < 3 → ((List.range (at' (m + 1) - at' m)).all fun j => inPad 65536 (packed m j) && decide (padKey (packed m j) < spadKey 1 0x4000)) = true := by
    decide +kernel
  exact ⟨hat, by decide +kernel, reached_on_pad _ _ _ _ (by decide +kernel), fun m hm b hb => hk _ (he m hm b hb).1 (he m hm b hb).2,
    fun m hm j hj => by
      have h := List.all_eq_true.mp (hp m hm) j (List.mem_range.mpr hj)
      rw [Bool.and_eq_true] at h
      exact hk _ h.1 (of_decide_eq_true h.2), by decide +kernel⟩

/-- The n bytes from an address lie in the scratchpad. -/
def padSegment (a n : Nat) : Bool := (List.range n).all fun j => inPad 65536 (Claim.place ((a + j : Nat) : Int))

theorem window_of_pad (a : Nat) (h : inPad 65536 a = true) : windowOf a ≠ .translated := by
  have h1 := (of_decide_eq_true h).1
  simp [windowOf, h1]

theorem segment_on_pad (c : CommandOp) (bytes : List (Nat × List Byte)) (a n : Nat) (h : padSegment a n = true) :
    let s := padState { team with frcur := 0 } c bytes
    ∀ j, j < n → Steady s (opOf (.command c)) .read (Claim.place ((a + j : Nat) : Int)) (padKey (Claim.place ((a + j : Nat) : Int))) [] ∧
      windowOf (Claim.place ((a + j : Nat) : Int)) ≠ .translated ∧ s.locks = [] := by
  intro s j hj
  have h1 := List.all_eq_true.mp h j (List.mem_range.mpr hj)
  exact ⟨steady_on_pad _ _ _ _ _ _ (by decide) h1, window_of_pad _ h1, (by decide +kernel : bench.locks = [])⟩

/-- A K-block of one tile of 32 rows: its segments 40 bytes apart from 0 of the scratchpad, its scales at 2000. -/
def padBlock (cmd : Command) : CommandOp :=
  { commandOf cmd (padAt 0 ++ [40, 0] ++ padAt 2000 ++ [0, 0, 7]) 0 true with mxm := 0x2200, defs := [builtin 2, builtin 3], extra := [3] }

theorem witness_MatrixEffects_block : ∀ cmd ∈ [Command.mma, .mmaw4],
    let c := padBlock cmd
    let s := padState { team with frcur := 0 } c []
    let n := if cmd = .mmaw4 then 16 else (operandOf c.mxm 4 (c.defs.getD 1 0) ((s.group? 1).any (·.mxsel))).bytes
    c.cmd = cmd ∧ s.matrixReady (opOf (.command c)) c = true ∧ c.failed = none ∧ c.cancel = [] ∧
    (c.extra.length = (c.params.length - 8) * ((pw c.params 3).toNat % 16 + 1) ∧ c.extra.Nodup) ∧
    (∀ m, m < 32 → padSegment (pd c.params 0 + m * ((pw c.params 2).toNat % 2 ^ 24)) n = true ∧ padSegment (pd c.params 4 + 4 * m) 4 = true) ∧
    maskBit (c.params.drop 8) 2 = true := by
  intro cmd h
  rcases List.mem_pair.mp h with rfl | rfl <;> decide +kernel

/-- An MMAL of three K-steps over two rows of one tile. -/
def padLong : CommandOp :=
  { commandOf .mmal (padAt 100 ++ padAt 2000 ++ [30 * 2 ^ 16 + 20, 0x301000, BitVec.ofInt 32 (-16), 40]) 4 true with
    valid := 2, mxm := 0x2200, defs := [builtin 2, builtin 3], extra := [3] }

theorem witness_MatrixEffects_long :
    let c := padLong
    let ps := c.params
    let s := padState { team with frcur := 0 } c []
    let a := operandOf c.mxm 0 (c.defs.getD 0 0) ((s.group? 1).any (·.mxsel))
    let b := operandOf c.mxm 4 (c.defs.getD 1 0) ((s.group? 1).any (·.mxsel))
    let av (k m : Nat) : Nat := Claim.place (pd ps 0 + k * (pw ps 6).toInt + ((m * ((pw ps 4).toNat / 2 ^ 16) : Nat) : Int))
    let bv (k n : Nat) : Nat := Claim.place (pd ps 2 + k * (pw ps 7).toInt + ((n * ((pw ps 4).toNat % 2 ^ 16) : Nat) : Int))
    s.matrixReady (opOf (.command c)) c = true ∧ c.valid ≤ 32 * ((pw ps 5).toNat / 2 ^ 15 % 32 + 1) ∧ (pw ps 5).toNat / 2 ^ 20 = 3 ∧
    (c.extra.length = ((pw ps 5).toNat / 2 ^ 15 % 32 + 1) * ((pw ps 5).toNat / 2 ^ 8 % 16 + 1) ∧ c.extra.Nodup) ∧
    (∀ k, k < 3 → (∀ m, m < 2 → padSegment (av k m) a.bytes = true) ∧ ∀ n, n < 32 → padSegment (bv k n) b.bytes = true) ∧
    ∀ (e0 : Nat → Nat → Lane) (f : Nat → Nat → Nat → Lane → Lane), ∃ E : Nat → Nat → Nat → Lane, (∀ m n, E 0 m n = e0 m n) ∧
      ∀ k m n, E (k + 1) m n = f k m n (E k m n) :=
  ⟨by decide +kernel, by decide +kernel, by decide +kernel, by decide +kernel, by decide +kernel,
   fun e0 f => ⟨fun k => Nat.rec e0 (fun k e m n => f k m n (e m n)) k, fun _ _ => rfl, fun _ _ _ => rfl⟩⟩

/-- An ACLOAD of four rows of two tiles, an ACREAD of three columns, an ATLOAD. -/
def padLoads : List CommandOp :=
  [{ commandOf .acload (padAt 600 ++ [BitVec.ofInt 32 (-130), 0x100]) 4 true with valid := 4, extra := [4, 3] },
   { commandOf .acread [9, 3, 7, 0, 0, 0, 0, 0, 0x80000011] 0 true with valid := 3, extra := [4] },
   commandOf .atload (padAt 0x100 ++ [2]) 4 true]

theorem witness_MatrixEffects_loads : (∀ c ∈ padLoads, (padState { team with frcur := 0 } c []).matrixReady (opOf (.command c)) c = true) ∧
    (let ps := padAt 600 ++ [BitVec.ofInt 32 (-130), (0x100 : Word)]
     let va (m n : Nat) : Nat := Claim.place (pd ps 0 + m * (pw ps 2).toInt + ((4 * n : Nat) : Int))
     ∀ m, m < 4 → ∀ n, n < 64 → padSegment (va m n) 4 = true) ∧
    ((∀ l, team.lanes ≤ l → maskBit [(0x80000011 : Word)] l = false) ∧ 9 + 3 ≤ team.nvregs ∧ team.lanes = 32) ∧
    padSegment (pd (padAt 0x100 ++ [2]) 0) 2064 = true := by
  refine ⟨by decide +kernel, by decide +kernel, ⟨fun l hl => ?_, by decide +kernel⟩, by decide +kernel⟩
  have h : team.lanes = 32 := by decide +kernel
  have h1 : 1 ≤ l / 32 := by omega
  obtain ⟨k, hk⟩ : ∃ k, l / 32 = k + 1 := ⟨l / 32 - 1, by omega⟩
  simp [maskBit, maskWord, hk]

/-- A buffer record for 16-bit floats of slot 0, based at 0x1000 of the scratchpad. -/
def floatRecord : Nat := spadBase + 0x1000 + 64 * 2 ^ 64 + 16 * 2 ^ 114 + 2 * 2 ^ 124 + 2 ^ 136
/-- A drain of one row of one tile, with a scale of 2.5 and an offset of 1: in place, or packed by that record. -/
def padDrain (packs : Bool) : CommandOp :=
  { commandOf .acdrain ((if packs then 0xC0000000 else 0x40000000) :: 0 :: padAt 600 ++ [0x40200000, 0x3F800000, 0, 0] ++
      (if packs then (List.range 10).map fun k => word (floatRecord / 2 ^ (32 * k)) else [])) 4 true with
    valid := 1, extra := [4], defs := [builtin 2] }
/-- Its tile with a poisoned element in the first row. -/
def poisonedTile (s : State) : State := s.onCore 0 fun x => x.setElement (4 * 1024 + 3) { data := 0x12000005, tag := true, dead := false }

theorem witness_MatrixEffects_drain : ∀ packs,
    let c := padDrain packs
    let ps := c.params
    let s := padState { team with frcur := 0 } c []
    let r := recordOf (leNat (((ps.drop 8).map fun w => leBytes 4 w.toNat).flatten))
    let stored (n i : Nat) : Nat := Claim.place ((r.addr (r.position ((pw ps 6).toNat + n)) + i : Nat) : Int)
    s.matrixReady (opOf (.command c)) c = true ∧ (poisonedTile s).matrixReady (opOf (.command c)) c = true ∧ c.failed = none ∧ c.cancel = [] ∧
    c.extra.length = ((pw ps 0).toNat / 2 ^ 16 % 32 + 1) * ((pw ps 0).toNat / 2 ^ 8 % 16 + 1) ∧ (pw ps 0).toNat / 2 ^ 28 % 2 = 0 ∧
    (∀ n, n < 32 → ((s.core 0).element (1024 * 4 + n)).tag = false) ∧ ((poisonedTile s).core 0).element (1024 * 4 + 3) = ⟨0x12000005, true, false⟩ ∧
    (packs = true → r.smode = 0 ∧ r.enc = 2 ∧ r.ew = 16 ∧ ∀ n, n < 32 → r.inside (r.position ((pw ps 6).toNat + n)) = true ∧ ∀ i, i < 2 →
      s.engineKey (opOf (.command c)) .write (stored n i) = .ok (padKey (stored n i)) ∧ padKey (stored n i) = spadKey 1 (0x1000 + 2 * n + i)) := by
  intro packs
  cases packs <;> decide +kernel

/-! ## Witnesses: generation -/

/-- One key for each address: the scratchpad of the bench's group, the vaults, device memory as it is. -/
def unitKeyOf (a : Nat) : Nat :=
  if spadBase ≤ a ∧ a < 2 ^ 64 then spadKey 1 (a - spadBase) else if vaultBase ≤ a ∧ a < vaultBase + 2 ^ 32 then 2 ^ 49 + (a - vaultBase)
  else if a < 2 ^ 49 then a else a + 2 ^ 63

theorem unitKeyOf_ranges (a : Nat) :
    (spadBase ≤ a ∧ a < 2 ^ 64 ∧ unitKeyOf a = spadKey 1 (a - spadBase)) ∨
    (vaultBase ≤ a ∧ a < vaultBase + 2 ^ 32 ∧ unitKeyOf a = 2 ^ 49 + (a - vaultBase)) ∨ (a < 2 ^ 49 ∧ unitKeyOf a = a) ∨ unitKeyOf a = a + 2 ^ 63 := by
  by_cases h1 : spadBase ≤ a ∧ a < 2 ^ 64
  · exact .inl ⟨h1.1, h1.2, by rw [unitKeyOf, if_pos h1]⟩
  · by_cases h2 : vaultBase ≤ a ∧ a < vaultBase + 2 ^ 32
    · exact .inr (.inl ⟨h2.1, h2.2, by rw [unitKeyOf, if_neg h1, if_pos h2]⟩)
    · by_cases h3 : a < 2 ^ 49
      · exact .inr (.inr (.inl ⟨h3, by rw [unitKeyOf, if_neg h1, if_neg h2, if_pos h3]⟩))
      · exact .inr (.inr (.inr (by rw [unitKeyOf, if_neg h1, if_neg h2, if_neg h3])))

theorem unitKeyOf_injective : Function.Injective unitKeyOf := by
  intro a b h
  have ha := unitKeyOf_ranges a
  have hb := unitKeyOf_ranges b
  simp only [spadBase, vaultBase, spadKey] at ha hb
  omega

/-- Address of a control block, in vault 0. -/
def blockAt : Nat := vaultBase + 0x1000
/-- Fields placed from an address on in rising order, from (offset, bytes, value). -/
def placed (a : Nat) (fs : List (Nat × Nat × Nat)) : Memory :=
  (fs.flatMap fun f => (List.range f.2.1).map fun j => (a + f.1 + j, BitVec.ofNat 8 (f.2.2 / 256 ^ j))).filter fun x => x.2 != 0
/-- Memory with the bench's tables, a grammar image at 0x60000, and a control block of a sequence 5 under it, with flags, last step, acknowledged step
and count of log entries; the image has 40 tokens and one state, which accepts, with a case for any symbol: tokens 3 and 7 by its bitmap, and a
transition on 3. -/
def unitMemory (flags step acked logs : Nat) : Memory :=
  placed 0 [(0x1000, 8, 0x2001), (0x2000, 8, 0xF3)] ++
    placed 0x60000 [(0, 4, 0x314D5247), (4, 4, 40), (8, 4, 1), (0x10, 4, 39), (0x18, 8, 0x400), (0x28, 8, 0x80), (0x80, 4, 1), (0x84, 4, 1), (0x88, 8, 0x90),
      (0x90, 2, 0xFFFF), (0x94, 4, 1), (0x98, 8, 0xC0), (0xA0, 8, 0xD0), (0xC0, 1, 0x88), (0xD0, 4, 3), (0xD9, 1, 1), (0xDA, 2, 5)] ++
    placed (2 ^ 49 + 0x1000) [(0, 8, 5), (8, 8, 0x60000), (0x10, 8, 0x70000), (0x28, 4, 0x3F800000), (0x38, 4, step), (0x3C, 4, acked), (0x40, 4, 3),
      (0x44, 4, flags), (0x60, 8, vaultBase + 0x4000), (0x68, 2, logs)]
/-- The header of that image. -/
def unitImage : Image :=
  { base := 0x60000, vocab := 40, nstates := 1, start := 0, eos := 39, len := 0x400, id := 0, stoff := 0x80, dig := List.replicate 32 0 }
/-- Its case and its transition. -/
def unitCase : Case := { top := 0xFFFF, ntr := 1, maskoff := 0xC0, troff := 0xD0 }
/-- The transition on token 3. -/
def unitStep : Trans := { token := 3, next := 0, pop := 0, push := [5] }
/-- The bench with one command of a unit and that memory, its vault all private. -/
def unitState (c : CommandOp) (m : Memory) : State :=
  { (withOp team (.command c)).setGroup 1 padGroup with mem := m, vaultSplit := [(0, 1)] }

/-- A resolved address is a key. -/
def keyIs (r : Except EngineFail Nat) (k : Nat) : Bool := match r with | .ok x => x == k | .error _ => false
theorem keyIs_ok (r : Except EngineFail Nat) (k : Nat) (h : keyIs r k = true) : r = .ok k := by
  cases r <;> simp_all [keyIs]

/-- A unit reaches n bytes. -/
def reached (s : State) (o : Op) (perm : Perm) (paths : List Nat) (a n : Nat) : Bool :=
  (List.range n).all fun j => keyIs (s.unitKey o paths perm (Claim.place ((a + j : Nat) : Int))) (unitKeyOf (Claim.place ((a + j : Nat) : Int)))
theorem reaches_of (s : State) (o : Op) (perm : Perm) (paths : List Nat) (a n : Nat) (h : reached s o perm paths a n = true) :
    Claim.reaches s o unitKeyOf perm paths a n :=
  fun j hj => keyIs_ok _ _ (List.all_eq_true.mp h j (List.mem_range.mpr hj))

theorem place_nat (x : Nat) (h : x < 2 ^ 64) : Claim.place (x : Int) = x := by
  simp only [Claim.place]
  omega

/-- The window of an address in the first vault. -/
theorem window_of_vault (a : Nat) (h1 : vaultBase ≤ a) (h2 : a < vaultBase + 2 ^ 26) : windowOf a = .vault 0 (a - vaultBase) := by
  have h3 : ¬ spadBase ≤ a := by simp only [spadBase, vaultBase] at *; omega
  have h4 : vaultBase ≤ a ∧ a < vaultBase + 64 * 2 ^ 26 := by clear h3; simp only [vaultBase] at *; omega
  have h5 : (a - vaultBase) / 2 ^ 26 = 0 := by clear h3 h4; simp only [vaultBase] at *; omega
  have h6 : (a - vaultBase) % 2 ^ 26 = a - vaultBase := by clear h3 h4; simp only [vaultBase] at *; omega
  rw [windowOf, if_neg h3, if_pos h4, h5, h6]

/-- A unit reaches what its path permits of the first 32 KiB of the first vault, where that is the partition's. -/
theorem reaches_vault (s : State) (o : Op) (perm : Perm) (paths : List Nat) (a n : Nat) (h1 : vaultBase ≤ a) (h2 : a + n ≤ vaultBase + 0x8000)
    (hc : (s.part o.part).columns.getLsbD 0 = true) (hv : 0x8000 ≤ sget 0 s.vaultSplit 0 * Config.vaultStep) (hp : perm ≠ .fetch)
    (hi : paths.contains 1 = true) : Claim.reaches s o unitKeyOf perm paths a n := by
  intro j hj
  have h3 : vaultBase ≤ a + j ∧ a + j - vaultBase < 0x8000 := by simp only [vaultBase] at *; omega
  have h4 : a + j < 2 ^ 64 := by clear h1; simp only [vaultBase] at *; omega
  have hw := window_of_vault (a + j) h3.1 (by clear h1 h2; simp only [vaultBase] at *; omega)
  have hs : ¬ sget 0 s.vaultSplit 0 * Config.vaultStep ≤ a + j - vaultBase := by omega
  have hk : unitKeyOf (a + j) = vaultKey 0 (a + j - vaultBase) := by
    have h5 : ¬ (spadBase ≤ a + j ∧ a + j < 2 ^ 64) := by clear hw hs; simp only [spadBase, vaultBase] at *; omega
    have h6 : vaultBase ≤ a + j ∧ a + j < vaultBase + 2 ^ 32 := by clear hw hs h5; simp only [vaultBase] at *; omega
    rw [unitKeyOf, if_neg h5, if_pos h6, vaultKey, Nat.zero_mul, Nat.add_zero]
  have hi' : 1 ∈ paths := by simpa using hi
  simp only [BitVec.getLsbD_eq_getElem (show 0 < 64 by decide)] at hc
  rw [place_nat _ h4, hk]
  simp [State.unitKey, windowBarred, hw, hi', State.resolve, hp, hs, hc]

/-- A unit reaches what its path permits of the group's scratchpad. -/
theorem reaches_pad (s : State) (o : Op) (g : Group) (perm : Perm) (paths : List Nat) (a n : Nat) (ho : o.gid = 1) (hg : s.groupOf o.part 1 = some g)
    (hb : g.scratchBytes = 65536) (h1 : spadBase ≤ a) (h2 : a + n ≤ spadBase + 65536) (hp : perm ≠ .fetch) (hi : paths.contains 0 = true) :
    Claim.reaches s o unitKeyOf perm paths a n := by
  intro j hj
  have h4 : a + j < 2 ^ 64 := by simp only [spadBase] at h2; omega
  have hw : windowOf (a + j) = .spad (a + j - spadBase) := by simp [windowOf, show spadBase ≤ a + j by omega]
  have hs : ¬ 65536 < a + j - spadBase + 1 := by omega
  have hk : unitKeyOf (a + j) = spadKey 1 (a + j - spadBase) := by
    have h6 : spadBase ≤ a + j ∧ a + j < 2 ^ 64 := by constructor <;> omega
    rw [unitKeyOf, if_pos h6]
  have hi' : 0 ∈ paths := by simpa using hi
  rw [place_nat _ h4, hk]
  simp [State.unitKey, windowBarred, hw, hi', State.resolve, hp, hs, ho, hg, hb]

/-- A control block of the first vault is valid and not in replay. -/
theorem controlBlock_of (s : State) (o : Op) (scb : Nat) (hv : (s.part o.part).columns.getLsbD 0 = true ∧ 0x8000 ≤ sget 0 s.vaultSplit 0 * Config.vaultStep)
    (ha : scb % 128 = 0 ∧ vaultBase ≤ scb ∧ scb + 2176 ≤ vaultBase + 0x8000)
    (h : Claim.numAt s unitKeyOf (scb + 0x6A) 6 = 0 ∧ Claim.numAt s unitKeyOf (scb + 0x44) 4 < 64 ∧
      Claim.numAt s unitKeyOf (scb + 0x36) 2 < 2 ^ 11 ∧ Claim.numAt s unitKeyOf (scb + 0x34) 2 ≤ 1024 ∧ Claim.numAt s unitKeyOf (scb + 0x68) 2 ≤ 64 ∧
      Claim.numAt s unitKeyOf (scb + 0x44) 4 / 8 % 2 = 0) : Claim.controlBlock s o unitKeyOf scb := by
  have hw := window_of_vault scb ha.2.1 (by have := ha.2.2; simp only [vaultBase] at *; omega)
  exact ⟨ha.1, by simp [hw], by simp [hw], reaches_vault _ _ _ _ _ _ ha.2.1 ha.2.2 hv.1 hv.2 (by decide) (by decide),
    reaches_vault _ _ _ _ _ _ ha.2.1 ha.2.2 hv.1 hv.2 (by decide) (by decide), h⟩

theorem calm_unit (c : CommandOp) (m : Memory) : Calm (unitState c m) := by
  have h : (unitState c m).semWaiters = [] := (by decide +kernel : bench.semWaiters = [])
  refine ⟨fun p hp st hs => ?_, by simp [h]⟩
  obtain rfl := List.mem_singleton.mp hp
  cases hs

theorem runs_unit (c : CommandOp) (m : Memory) (h1 : c.started = true) (h2 : c.cancel = []) :
    Claim.unitRuns (unitState c m) (opOf (.command c)) team c unitKeyOf :=
  ⟨⟨rfl, rfl, (by decide +kernel : (withTeam team).team? 0 = some team), rfl, by decide +kernel⟩,
   calm_unit _ _,
   ⟨padGroup, (by decide +kernel : (bench.setGroup 1 padGroup).group? 1 = some padGroup), (by decide +kernel : (bench.part 0).det = false), rfl, rfl, rfl⟩,
   rfl, h1, h2, (by decide +kernel : bench.marks = []), unitKeyOf_injective⟩

/-- A unit reaches what its path permits of the bench's scratchpad. -/
theorem reaches_unit (c : CommandOp) (m : Memory) (perm : Perm) (paths : List Nat) (a n : Nat)
    (h : decide (spadBase ≤ a ∧ a + n ≤ spadBase + 65536 ∧ perm ≠ .fetch ∧ paths.contains 0 = true) = true) :
    Claim.reaches (unitState c m) (opOf (.command c)) unitKeyOf perm paths a n :=
  have h1 := of_decide_eq_true h
  reaches_pad _ _ padGroup _ _ _ _ rfl (by decide +kernel : (bench.setGroup 1 padGroup).groupOf 0 1 = some padGroup) rfl h1.1 h1.2.1 h1.2.2.1 h1.2.2.2

/-- The low and the high word of an address. -/
def halves (a : Nat) : List Word := [word a, word (a / 2 ^ 32)]
/-- A GMASK of the block to 0x200 of the scratchpad. -/
def unitMask : CommandOp := commandOf .gmask (halves blockAt ++ padAt 0x200) 4 true

theorem witness_GenerationEffects_mask :
    let c := unitMask
    let s := unitState c (unitMemory 0 0 0 0)
    let o := opOf (.command c)
    Claim.unitRuns s o team c unitKeyOf ∧ c.sdCount = 1 ∧ Claim.controlBlock s o unitKeyOf (pd c.params 0) ∧
    s.readImage o (Claim.numAt s unitKeyOf (pd c.params 0 + 8) 8) = .ok unitImage ∧
    s.readCase o unitImage (Claim.numAt s unitKeyOf (pd c.params 0 + 0x30) 4) ((Claim.stackAt s unitKeyOf (pd c.params 0)).getLast?.getD 0) =
      .ok (true, some unitCase) ∧
    unitCase.maskoff + 8 ≤ unitImage.len ∧ Claim.reaches s o unitKeyOf .read [2] (unitImage.base + unitCase.maskoff) 8 ∧
    Claim.reaches s o unitKeyOf .write [0, 1] (pd c.params 2) 8 :=
  ⟨runs_unit _ _ rfl rfl, rfl, controlBlock_of _ _ _ (by decide +kernel) (by decide +kernel) (by decide +kernel), by decide +kernel, by decide +kernel, by decide,
   reaches_of _ _ _ _ _ _ (by decide +kernel), reaches_unit _ _ _ _ _ _ (by decide +kernel)⟩

/-- A GADV of the block with a token. -/
def unitAdvance (tok : Word) : CommandOp := commandOf .gadv (halves blockAt ++ [tok, 0]) 4 true

/-- What a GADV of a token reads in the unit's memory: the image, the case, its transitions. -/
def advanceReads (tok : Word) : Bool :=
  let c := unitAdvance tok
  let s := unitState c (unitMemory 0 0 0 0)
  let o := opOf (.command c)
  decide ((pw c.params 2).toNat = tok.toNat ∧ Claim.numAt s unitKeyOf (pd c.params 0 + 0x44) 4 = 0 ∧ Claim.numAt s unitKeyOf (pd c.params 0 + 0x34) 2 = 0) &&
    decide (s.readImage o (Claim.numAt s unitKeyOf (pd c.params 0 + 8) 8) = .ok unitImage) &&
    decide (s.readCase o unitImage (Claim.numAt s unitKeyOf (pd c.params 0 + 0x30) 4) ((Claim.stackAt s unitKeyOf (pd c.params 0)).getLast?.getD 0) =
      .ok (true, some unitCase)) && decide (s.readTrans o unitImage unitCase = .ok [unitStep])
theorem advance_reads : advanceReads 3 = true ∧ advanceReads 39 = true := by
  refine ⟨?_, ?_⟩ <;> decide +kernel

theorem witness_GenerationEffects_advance :
    (∀ tok flags, Claim.unitRuns (unitState (unitAdvance tok) (unitMemory flags 0 0 0)) (opOf (.command (unitAdvance tok))) team (unitAdvance tok) unitKeyOf) ∧
    (let c := unitAdvance 3
     let o := opOf (.command c)
     Claim.controlBlock (unitState c (unitMemory 4 0 0 0)) o unitKeyOf (pd c.params 0) ∧
       Claim.numAt (unitState c (unitMemory 4 0 0 0)) unitKeyOf (pd c.params 0 + 0x44) 4 / 4 % 2 = 1) ∧
    unitImage.vocab ≤ (40 : Word).toNat ∧ (∀ x ∈ [unitStep], x.token ≠ 4) ∧
    ([unitStep].find? (fun y => y.token == 3) = some unitStep ∧ unitStep.next < unitImage.nstates ∧ unitStep.pop ≤ 0 ∧ unitStep.push.length ≤ 1024 ∧
      0 ∉ unitStep.push ∧ 0xFFFF ∉ unitStep.push) :=
  ⟨fun _ _ => runs_unit _ _ rfl rfl, ⟨controlBlock_of _ _ _ (by decide +kernel) (by decide +kernel) (by decide +kernel), by decide +kernel⟩, by decide, by decide, by decide⟩

/-- A SAMPLE of 2 or 3 logits at 0x200 of the scratchpad, bitmap at 0x300, in a mode. -/
def unitSample (mode : Nat) (u : Nat) : CommandOp :=
  { commandOf .sample (halves blockAt ++ padAt 0x200 ++ padAt 0x300 ++ [word (mode * 2 ^ 30 + 3), 0] ++ halves u) 4 true with sdCount := 2 }
/-- Logits 1, 2 and 1 under a bitmap, in that memory. -/
def sampleMemory (bits : Nat) : Memory :=
  unitMemory 0 0 0 0 ++ placed (spadKey 1 0x200) [(0, 4, 0x3F800000), (4, 4, 0x40000000), (8, 4, 0x3F800000), (0x100, 4, bits)]

theorem witness_GenerationEffects_sample : ∀ mode ∈ [0, 1, 2],
    let c := unitSample mode (2 ^ 63)
    let s := unitState c (sampleMemory 5)
    let o := opOf (.command c)
    let ps := c.params
    Claim.unitRuns s o team c unitKeyOf ∧ c.sdCount = 2 ∧ Claim.controlBlock s o unitKeyOf (pd ps 0) ∧ (pw ps 6).toNat / 2 ^ 30 = mode ∧
    (pw ps 6).toNat % 2 ^ 21 = 3 ∧ (pw ps 6).toNat / 2 ^ 29 % 2 = 0 ∧ Claim.reaches s o unitKeyOf .read anyPath (pd ps 4) 4 ∧
    (∀ x, x < 3 → Claim.reaches s o unitKeyOf .read anyPath (pd ps 2 + 4 * x) 4) ∧
    ((List.range 3).filter fun x => decide (Claim.numAt s unitKeyOf (pd ps 4 + x / 8) 1 / 2 ^ (x % 8) % 2 = 1)) = [0, 2] ∧
    (∃ m e, ofF32 (word (Claim.numAt s unitKeyOf (pd ps 0 + 0x28) 4)) = .fin false m e ∧ 0 < m) ∧
    Claim.numAt s unitKeyOf (pd ps 0 + 0x2C) 4 = 0 := by
  intro mode h
  simp only [List.mem_cons, List.not_mem_nil, or_false] at h
  rcases h with rfl | rfl | rfl <;>
    exact ⟨runs_unit _ _ rfl rfl, rfl, controlBlock_of _ _ _ (by decide +kernel) (by decide +kernel) (by decide +kernel), by decide +kernel, by decide +kernel, by decide +kernel,
      reaches_unit _ _ _ _ _ _ (by decide +kernel), fun x hx => reaches_unit _ _ _ _ _ _ (by interval_cases x <;> decide +kernel), by decide +kernel, ⟨2 ^ 23, -23, by decide +kernel⟩, by decide +kernel⟩

theorem witness_GenerationEffects_sample_none :
    let c := unitSample 1 0
    let s := unitState c (sampleMemory 0)
    ((List.range 3).filter fun x => decide (Claim.numAt s unitKeyOf (pd c.params 4 + x / 8) 1 / 2 ^ (x % 8) % 2 = 1)) = [] := by
  decide +kernel

/-- A ROUTE of two of three logits to 0x400 of the scratchpad, with or without the block. -/
def unitRoute (scb : Nat) : CommandOp := commandOf .route (padAt 0x200 ++ padAt 0x400 ++ [2 + 2 ^ 16, 7] ++ halves scb) 4 true

theorem witness_GenerationEffects_route : ∀ x ∈ [(0, 0), (blockAt, 3), (blockAt, 64)],
    let c := unitRoute x.1
    let s := unitState c (unitMemory 0 0 0 x.2)
    let o := opOf (.command c)
    let ps := c.params
    let logged := Claim.numAt s unitKeyOf (pd ps 6 + 0x60) 8 + 36 * Claim.numAt s unitKeyOf (pd ps 6 + 0x68) 2
    Claim.unitRuns s o team c unitKeyOf ∧ c.sdCount = 1 ∧ pd ps 6 = x.1 ∧ (pw ps 4).toNat / 2 ^ 16 % 16 + 1 = 2 ∧ (pw ps 4).toNat % 2 ^ 11 + 1 = 3 ∧
    (∀ e, e < 3 → Claim.reaches s o unitKeyOf .read anyPath (pd ps 0 + 4 * e) 4) ∧ Claim.reaches s o unitKeyOf .write anyPath (pd ps 2) 16 ∧
    (x.1 ≠ 0 → Claim.controlBlock s o unitKeyOf (pd ps 6) ∧ Claim.reaches s o unitKeyOf .write anyPath logged 36 ∧
      Claim.numAt s unitKeyOf (pd ps 6 + 0x68) 2 = x.2) ∧
    (Claim.keysAt unitKeyOf ((pd ps 2, 16) :: if x.1 = 0 then [] else [(pd ps 6 + 0x68, 2), (logged, 36)])).Nodup := by
  intro x h
  simp only [List.mem_cons, List.not_mem_nil, or_false] at h
  rcases h with rfl | rfl | rfl <;>
    exact ⟨runs_unit _ _ rfl rfl, rfl, by decide +kernel, by decide +kernel, by decide +kernel, fun e he =>
      reaches_unit _ _ _ _ _ _ (by interval_cases e <;> decide +kernel), reaches_unit _ _ _ _ _ _ (by decide +kernel), fun hx => ⟨controlBlock_of _ _ _
        (by decide +kernel) (by revert hx; decide +kernel) (by revert hx; decide +kernel), reaches_vault _ _ _ _ _ _ (by revert hx; decide +kernel)
        (by revert hx; decide +kernel) (by decide +kernel) (by decide +kernel) (by decide) (by decide), by revert hx; decide +kernel⟩, by decide +kernel⟩

/-- An EMIT of the block of a kind. -/
def unitEmit (kind : Word) (started : Bool) : CommandOp := commandOf .emit (halves blockAt ++ [kind, 40]) 4 started
/-- That state with a journal whose partner is 7, reached through its port, and a record of the command on its way where it has started. -/
def emitState (c : CommandOp) (m : Memory) : State :=
  { unitState c m with
    fabric := { bench.fabric with ports := [(34, { Port.reset with up := true, stopped := false })] }
    journal := { Journal.reset with partner := some 7, capacity := 1, link := 0,
                                    sends := if c.started then [{ op := some 2, sent := true, policy := false, record := stepOf }] else [] } }
where
  /-- The record on its way. -/
  stepOf : JRecord :=
    { kind := .step, reason := 0, srcdev := 0, seqid := 5, step := 1, c := 0, topk := 0, topp := 0, key := 0, ctr := 0, imgid := 0, imgdig := [], start := 0,
      prompt := [], token := 3, digest := 0, routes := [] }

theorem calm_emit (c : CommandOp) (m : Memory) : Calm (emitState c m) := by
  have h : (emitState c m).semWaiters = [] := (by decide +kernel : bench.semWaiters = [])
  refine ⟨fun p hp st hs => ?_, by simp [h]⟩
  obtain rfl := List.mem_singleton.mp hp
  cases hs

theorem runs_emit (kind : Word) (started : Bool) (m : Memory) :
    let c := unitEmit kind started
    let s := emitState c m
    let o := opOf (.command c)
    Live s o team ∧ Calm s ∧ Ordinary s o.gid ∧ o.kind = .command c ∧ c.cancel = [] ∧ s.marks = [] ∧ Function.Injective unitKeyOf ∧ c.cmd = .emit ∧
      c.sdCount = 1 ∧ s.journal.partner.getD 0 < 2 ^ 11 :=
  ⟨⟨rfl, rfl, (by decide +kernel : (withTeam team).team? 0 = some team), rfl, by decide +kernel⟩, calm_emit _ _,
   ⟨padGroup, (by decide +kernel : (bench.setGroup 1 padGroup).group? 1 = some padGroup), (by decide +kernel : (bench.part 0).det = false), rfl, rfl, rfl⟩,
   rfl, rfl, (by decide +kernel : bench.marks = []), unitKeyOf_injective, rfl, rfl, (by decide : 7 < 2 ^ 11)⟩

theorem witness_GenerationEffects_emit :
    (∀ x ∈ ([(0, 0, 0, 0), (1, 1, 1, 0), (2, 1, 3, 3)] : List (Word × Nat × Nat × Nat)), ∀ started,
      let c := unitEmit x.1 started
      let s := emitState c (unitMemory x.2.1 x.2.2.1 x.2.2.2 0)
      let o := opOf (.command c)
      let num (a n : Nat) : Nat := Claim.numAt s unitKeyOf a n
      Claim.controlBlock s o unitKeyOf (pd c.params 0) ∧ (pw c.params 2).toNat % 4 = x.1.toNat ∧ num (pd c.params 0 + 0x44) 4 = x.2.1 ∧
        num (pd c.params 0 + 0x10) 8 = 0x70000 ∧ num (pd c.params 0 + 0x38) 4 = x.2.2.1 ∧ num (pd c.params 0 + 0x3C) 4 = x.2.2.2 ∧
        Claim.reaches s o unitKeyOf .write [2, 3] 0x70000 12 ∧ (started = false → s.canStart o c = true) ∧ c.released = true ∧ c.need = 0 ∧ s.locks = [] ∧
        s.journal.reach = true ∧ s.journal.link = 0 ∧ s.journalCarries = true ∧ num (pd c.params 0 + 0x68) 2 = 0) ∧
    (∀ a b, a < 2 ^ 35 → b < 2176 → 0x70000 + a ≠ blockAt + b) := by
  refine ⟨fun x hx started => ?_, fun a b ha hb => ?_⟩
  swap
  · have h1 : (0x70000 : Nat) + 2 ^ 35 ≤ blockAt := by decide
    omega
  simp only [List.mem_cons, List.not_mem_nil, or_false] at hx
  rcases hx with rfl | rfl | rfl <;> cases started <;>
    exact ⟨controlBlock_of _ _ _ (by decide +kernel) (by decide +kernel) (by decide +kernel), by decide +kernel, by decide +kernel, by decide +kernel, by decide +kernel, by decide +kernel,
      reaches_of _ _ _ _ _ _ (by decide +kernel), by decide +kernel, rfl, rfl, by decide +kernel⟩

/-! ## Witnesses: journal, fabric, power, management, steps -/

/-- A STEP record of device 7. -/
def stepRecord : JRecord :=
  { kind := .step, reason := 0, srcdev := 7, seqid := 5, step := 1, c := 0, topk := 0, topp := 0, key := 0, ctr := 0, imgid := 0, imgdig := [], start := 0,
    prompt := [], token := 3, digest := 0, routes := [] }
/-- An OPEN record of device 7. -/
def openRecord : JRecord := { stepRecord with kind := .opn, step := 0 }
/-- An EMIT of the bench's team whose record is sent. -/
def emitOp : CommandOp := commandOf .emit [] 4 true
/-- A journal with partner 7 and 1 MiB. -/
def partnered : Journal := { Journal.reset with partner := some 7, capacity := 1, link := 0 }
/-- A participant of a collective whose block is all zero. -/
def collOp : CommandOp := { commandOf .coll [0x20000, 0, 0, 0, 0, 0, 0, 9] 4 true with extra := [5], block := [List.replicate 128 0] }

theorem witness_JournalEvents :
    (let s := { withOp team (.command emitOp) with
       fabric := { bench.fabric with ports := [(34, { Port.reset with up := true, stopped := false })] }
       journal := { partnered with sends := [{ op := some 2, sent := true, policy := false, record := stepRecord }] } }
     Live s (opOf (.command emitOp)) team ∧ emitOp.cancel = [] ∧ s.journal.sends.map (·.op) = [some 2] ∧ s.journal.link = 0 ∧ s.journalCarries = true ∧ s.journalUp = true) ∧
    (partnered.fenced.contains 7 = false ∧ ({ partnered with held := [openRecord] } : Journal).admits stepRecord = true ∧
      ({ partnered with held := [openRecord] } : Journal).used + recordLen stepRecord ≤ partnered.capacity * 2 ^ 20) ∧
    (∀ r ∈ [openRecord], r.kind ≠ .trunc) ∧ (({ partnered with fenced := [7] } : Journal).fenced.contains 7 = true) ∧
    (partnered.portTo 7 = some 0 ∧ ({ partnered with candidate := some 8 } : Journal).portTo 8 = some 1 ∧ partnered.portTo 9 = none ∧
      bench.hbmTaken 8 (Config.hbmBytes - 2 ^ 20) (2 ^ 20) = false ∧ 1 * 2 ^ 20 ≤ Config.hbmBytes) ∧
    (({ partnered with missed := 3 } : Journal).missed = 3 ∧ partnered.link ≠ 1 ∧ partnered.sends = [] ∧ partnered.partner ≠ none) ∧
    (({ partnered with link := 2 } : Journal).link = 2 ∧ partnered.capacity ≠ 0 ∧ Journal.reset.partner = none) ∧
    (let s := withOp team (.command collOp)
     Live s (opOf (.command collOp)) team ∧ ∃ m, s.members 5 9 = [m] ∧ m.op = opOf (.command collOp) ∧ m.cmd = collOp ∧ s.collBad [m] [] ≠ none) := by
  refine ⟨⟨live_of _ _ _ (by decide +kernel), by decide +kernel⟩, by decide +kernel, by decide +kernel, by decide +kernel, by decide +kernel,
    by decide +kernel, by decide +kernel, live_of _ _ _ (by decide +kernel), _, rfl, rfl, rfl, by decide +kernel⟩

/-- An entry of the import table: device 3, partition 0 may write the page at 0x100000. -/
def importEntry : Import := { src := 3, srcPart := 0, page := 0x100000, size := 0x10000, part := 0, base := 0x20000, rd := true, wr := true, atom := true }
/-- A store of two bytes by that device. -/
def peerStore : PeerPacket := { src := 3, part := 0, seq := 0, addr := 0x100000, op := .store [(0, 0xFF, 5), (1, 0xFF, 6)] }
/-- The bench with that table, or with a peer's packet unanswered. -/
def fabricState : State := bench.onFabric fun f => { f with imports := [importEntry] }

theorem witness_FabricEvents :
    (fabricState.topologyUp = true ∧ peerStore.seq = word (sget 0 fabricState.fabric.expected (packetFrom peerStore)) ∧ fabricState.fabric.early = [] ∧ fabricState.fabric.ahead = [] ∧
      peerStore.apart = false ∧ fabricState.fabric.admits { peerStore with seq := 2, apart := true } = some importEntry ∧
      0 < ({ peerStore with seq := 2 }.seq - word (sget 0 fabricState.fabric.expected (packetFrom peerStore))).toNat ∧ fabricState.semWaiters = [] ∧
      ([(0, (0xFF : Byte), (5 : Byte)), (1, 0xFF, 6)].map (·.1)).Nodup ∧ fabricState.fabric.admits peerStore = some importEntry ∧ bench.fabric.admits peerStore = none) ∧
    (let s := bench.onPart 0 fun p => { p with sent := [(3, 5)], acked := [(3, 4)] }
     sget 0 (s.part 0).acked 3 < 5 ∧ 5 ≤ sget 0 (s.part 0).sent 3) ∧
    (let s := bench.onPart 0 fun p => { p with sent := [(3, 5)], acked := [(3, 4)] }
     let k : Packet := { op := 2, part := 0, dest := 3, line := 8, seq := 4, count := some 5, body := .store [(0, 0xFF, 5)], ways := [0] }
     s.unanswered k = true ∧ 3 ∉ s.fabric.unreachable ∧ k.ways.length < 4 ∧ s.unanswered { k with ways := [0, 0, 0, 0] } = true) ∧
    (let route : Route := { dest := 9, next := 9, port := 3, hops := 1, nonMin := [] }
     let port : Port := { Port.reset with up := true, stopped := false, keys := [(0, some 5)] }
     let f : Fabric := { bench.fabric with direct := true, devid := 5, neighbours := [(3, 9), (4, 5)], routes := [route], ports := [(3, port), (4, port)] }
     let x : Flit := { type := 1, flags := 0, dst := 9, src := 2, mid := 0, part := 0, len := 32, zero := 0, seq := 0, payload := [], tagOk := true }
     f.portUp 4 = true ∧ (sget none (f.port 4).keys (if x.flags.getLsbD 0 then 1 else 0)).isSome = true ∧ flitBad x = false ∧ x.dst.toNat ≠ f.devid ∧
       f.route? x.dst.toNat = some route ∧ x.flags.toNat / 16 % 4 < 3 ∧ f.carries route.port = true ∧ 5 < ({ x with type := 6 } : Flit).type.toNat) ∧
    (34 ≤ 34 ∧ 33 < 34 ∧ Port.reset.nrz = false ∧ (sget none [(1, some 5)] (1 - 0) : Option Nat).isSome = true ∧ sget none Port.reset.keys (1 - 0) = none) := by
  decide +kernel

/-- Two boot images that pass their checks. -/
def bootImage : BootImage :=
  { sigOk := true, bytes := [1, 2, 3], version := 1, emulMin := 2, devid := 5, direct := false, partnerPort := 0, neighbours := [], routes := [],
    stations := [] }

theorem witness_PowerAndBoot :
    (bench.board.powerctl.getLsbD 63 = false ∧ powerctlOk powerctlReset = true ∧ powerctlOk 0x961 = false ∧
      ({ bench.board with powerctl := 0x8000000000000000 } : Board).powerctl.getLsbD 63 = true) ∧
    (let s := { State.reset with board := { State.reset.board with beloft := some bootImage, config := some bootImage } }
     s.board.beloft = some bootImage ∧ s.board.config = some bootImage ∧ bootImage.sigOk = true ∧ ({ bootImage with sigOk := false } : BootImage).sigOk = false) ∧
    (let s := { bench with board := { bench.board with boot := .running, ready := 0x1000 } }
     s.board.boot = .running ∧ s.functionUp 12 = true ∧ (List.replicate 32 (7 : Byte)).length = 32) := by
  decide +kernel

theorem witness_ManagementSettings :
    ((7 : Nat) < 8 ∧ bench.inUse 7 = false ∧ (bench.onPart 7 fun p => { p with debug := true }).cachesLeft = true) ∧ bench.inUse 0 = true ∧
    (let s := { bench with parts := [(0, { Partition.reset with columns := 1, hbmShare := 12 })], groups := [] }
     s.inUse 1 = false ∧ (s.onPart 1 fun p => { p with hbmBase := 64, hbmShare := 13 }).cachesLeft = true ∧ s.hbmTaken 1 64 13 = false ∧
       64 + 13 ≤ Config.hbmBytes - s.journal.capacity * 2 ^ 20 ∧ s.hbmTaken 1 0 13 = true) ∧ bench.coreUp 0 = true ∧
    (let s := { State.reset with board := { State.reset.board with ready := 0xFFFFFFFFFFFFFFFF0000000000000000 } }
     (∀ c, c < 64 → (5 : Dbl).getLsbD c = true → s.functionUp (64 + c) = true ∧ ∀ p, p < 8 → p ≠ 1 → (s.part p).columns.getLsbD c = false) ∧
       s.inUse 1 = false ∧ (s.onPart 1 fun p => { p with columns := 5 }).cachesLeft = true) ∧
    (0 ≤ State.reset.splitLimit 63 ∧ State.reset.ownerOf 63 = none ∧ State.reset.splitLimit 63 < 9) ∧
    (sget none (bench.part 0).queues 63 = none ∧ (sget none ((queueState team).part 0).queues 63).isSome = true) ∧
    (let s := bench.onPart 0 fun p => { p with invalidating := [0x20000] }
     (s.part 0).invalidating.contains (0x20000 : Dbl).toNat = true ∧ s.ops = []) := by
  decide +kernel

/-- A device whose functions are all ready. -/
def readyState : State := { bench with board := { bench.board with ready := 0xFFFFFFFFFFFFFFFFFFFFFFFFFFFFFFFF, hostShare := (0x10000, 0x20000) } }
/-- Memory with a code object of one section of 4 bytes at 0x60 (R57). -/
def objectMemory : Memory :=
  fields [] 0x8000 [(0, 4, 0x4D52544E), (4, 1, 4), (6, 1, 2), (0xC, 4, 1), (0x10, 8, 64), (64, 4, 1), (88, 4, 7), (72, 8, 0x60), (80, 8, 4), (0x60, 4, 0x33000000)]
/-- Where it is placed. -/
def placing : ObjectPlacing := { part := 0, src := 0x8000, size := 100, sections := [(0x10000, 0x10000)], syms := [], records := 0, templates := [] }

theorem witness_HostEvents :
    (0x20000 + 4 ≤ 2 ^ 48 ∧ (∀ j, j < 4 → inRanges [readyState.board.hostShare] (0x20000 + j) = true ∧ readyState.stackUp (0x20000 + j) = true) ∧
      inRanges [readyState.board.hostShare] 0x8000 = false ∧ readyState.anyCoreUp = true ∧ readyState.hbmTaken 9 0x4000000000 4096 = false ∧ readyState.semWaiters = [] ∧
      readyState.marks = []) ∧
    (let s := readyState.onPart 0 fun p => { p with statusPage := 0x30000 }
     (s.part 0).statusPage ≠ 0) ∧
    (sget none ((queueState team).part 0).queues 63).isSome = true ∧
    (let s := { readyState with mem := objectMemory }
     let obj := s.mem.bytes placing.src placing.size
     let h := obj.take 64
     let sec := (obj.drop (recField h 0x10 8)).take 32
     s.functionUp 24 = true ∧ 64 ≤ placing.size ∧ recField h 0xC 4 = 1 ∧ recField h 0x10 8 + 32 ≤ placing.size ∧
       recField sec 8 8 + recField sec 0x10 8 ≤ placing.size ∧ objectBad s.board.emulMin (some placing.size) h [sec] = none ∧ relocsOf [sec] obj = [] ∧ recField sec 0 4 ≠ 9 ∧ 0x10000 % 2 ^ recField sec 0x18 4 = 0 ∧
       objectBad s.board.emulMin (some placing.size) (0 :: h.drop 1) [sec] ≠ none ∧
       placing.sections = [(0x10000, 0x10000)]) := by
  refine ⟨?_, ?_⟩
  · refine ⟨by decide, fun j _ => ?_, by decide +kernel⟩
    have h : (List.range 12).all readyState.functionUp = true := by decide +kernel
    refine ⟨?_, by simp [State.stackUp, h]⟩
    simp only [show readyState.board.hostShare = (0x10000, 0x20000) from rfl, inRanges, List.any_cons, List.any_nil, Bool.or_false, decide_eq_true_eq]
    omega
  · decide +kernel

theorem witness_StepRunsDecoded :
    (let s := State.reset.withFetchWord 32 0x01050607
     s.board.removed = false ∧ s.agenda = [.issue 0 0 true] ∧
       ({ s with agenda := [] } : State).ranked 0 0 = [0] ∧
       (match s.team? 0 with
        | some t => t.canIssue && decide (t.pc ≠ t.ctl.rpc) &&
            (match ({ s with agenda := [], cur := some 0 } : State).fetch 0 t true with
             | (s1, .ok w) => decide (decode w = .ok (.sadd 5 6 7)) && (match exec (.sadd 5 6 7) (s1.readOperands 0 t 0x01050607) with | .next s2 => decide (s2 ≠ s1.readOperands 0 t 0x01050607) | _ => false)
             | _ => false)
        | none => false) = true) ∧
    (mayHappen (.hotThresholdCleared 0) = true ∧ team.ctl.loop.capture = false) ∧
    (team.buffered = none ∧ bench.resolve (bench.partOf team) team.group .fetch 0 team.pc.toNat fetchSalt = .ok (0x10000, 2) ∧ keyPath 0x10000 ≠ 4 ∧
      bench.marked 0x10000 = false) := by
  decide +kernel

theorem witness_RoundTrip : (Instr.sadd64 2 4 6).wf = true ∧ encode (.sadd64 2 4 6) = some 0x1E020406 ∧ decode 0x1E020406 = .ok (.sadd64 2 4 6) := by
  decide

theorem bench_locks (part : Nat) : bench.lockUse part ≤ 512 := by
  have h1 : bench.locks = [] := by decide +kernel
  have h2 : bench.ops = [] := by decide +kernel
  simp [State.lockUse, h1, h2]

theorem bench_teams (P : Team → Prop) (h : P team) : EveryTeam bench P := by
  have h1 : bench.teams = [(0, some team)] := by decide +kernel
  have h2 : ∀ p ∈ bench.parts, p.2.swap = none := by decide +kernel
  refine ⟨fun e he t ht => ?_, fun p hp w hw => ?_⟩
  · rw [h1, List.mem_singleton] at he
    subst he
    cases ht
    exact h
  · rw [h2 p hp] at hw
    cases hw

theorem witness_InvariantKept : MachineInv bench ∧ EveryTeam bench ExecLive ∧
    (∀ die addr wide value rest, bench.agenda ≠ .event (.teamStateWindowWrite die addr wide value) :: rest) ∧ ∃ s', step bench = .next s' := by
  refine ⟨⟨by decide +kernel, by simp [show bench.ops = [] from by decide +kernel], by simp [show bench.ops = [] from by decide +kernel], bench_locks,
    bench_teams _ ⟨by decide +kernel, fun p => by simp [Team.inflight, show team.flight = [] from rfl]⟩⟩,
    bench_teams _ (fun _ => by decide +kernel), fun die addr wide value rest => ?_, ?_⟩
  · rw [show bench.agenda = [] from by decide +kernel]
    exact fun h => by cases h
  have h : (match step bench with | .next _ => true | _ => false) = true := by decide +kernel
  cases hs : step bench with
  | next s => exact ⟨s, rfl⟩
  | fault f => simp [hs] at h
  | refused r => simp [hs] at h


/-! ## Witnesses: the remaining premises of scheduling, pre-emption, the page service, the journal, the fabric and the host -/

theorem witness_SchedulingEvents_commit :
    (let s := { bench.onPart 0 (fun p => { p with det := true }) with teams := [] }
     (s.part group.part).swap = none ∧ s.launches = [(0, some (benchLaunch 1))] ∧ (benchLaunch 1).waiting = []) := by
  decide +kernel

theorem witness_PreemptionEvents_more :
    (let s := bench.setGroup 1 (askedGroup true true)
     s.allEnded 1 = false ∧ (askedGroup true true).request = some { src := .host, maskDog := true, handlerDog := true }) ∧
    ((bench.onDie 0 fun d => { d with shadow := true }).setGroup 1 (askedGroup true false)).allEnded 1 = false ∧
    (savedSwap.teams = [(0, some team)] ∧ savedSwap.groups = [(team.group, some group)] ∧ group.request = none ∧ savedSwap.src ≠ .distributor ∧
      savedSwap.asked = true ∧ savedSwap.due = []) ∧
    (bench.group? 1 = some group ∧ group.leaving = false ∧ group.idem = false) := by
  decide +kernel

theorem witness_PageService :
    (let t := { stopped .awaiting 0x01 with service := some (.page 0x30000) }
     let s := (withTeam t).onDie 0 fun d => { d with services := [(0, pageOf 0x30000)] }
     s.serving ⟨0, 0⟩ (0x30000 : Dbl).toNat = true ∧ s.team? 0 = some t ∧ s.group? t.group = some group ∧ group.part = 0 ∧ dieOf t.core = 0 ∧
       t.awaitsPage (0x30000 : Dbl).toNat = true ∧ t.wantsPage (0x30000 : Dbl).toNat = true ∧ group.leaving = false) ∧
    (let t := { stopped .awaiting 0x01 with service := some (.page 0x30000) }
     let s := (withTeam t).onDie 1 fun d => { d with services := [(0, pageOf 0x30000)] }
     s.serving ⟨1, 0⟩ (0x30000 : Dbl).toNat = true ∧ s.team? 0 = some t ∧ s.group? t.group = some group ∧ dieOf t.core ≠ 1 ∧
       t.awaitsPage (0x30000 : Dbl).toNat = true) := by
  decide +kernel

/-- A state whose journal link to the partner is up. -/
def linkState (j : Journal) : State :=
  { bench with journal := j, fabric := { bench.fabric with ports := [(34, { Port.reset with up := true, stopped := false })] } }

theorem witness_JournalEvents_record :
    (let s := linkState { partnered with held := [openRecord] }
     s.journalCarries = true ∧ s.journal.partner = some stepRecord.srcdev ∧ s.journal.fenced.contains stepRecord.srcdev = false ∧
       s.journal.admits stepRecord = true ∧ s.journal.used + recordLen stepRecord ≤ s.journal.capacity * 2 ^ 20 ∧ stepRecord.kind = .step ∧
       s.journal.held = [openRecord] ∧ openRecord.kind ≠ .trunc) ∧
    bench.journalCarries = false ∧
    (let s := linkState { partnered with capacity := 0 }
     stepRecord.kind ≠ .trunc ∧ s.journal.capacity * 2 ^ 20 < s.journal.used + recordLen stepRecord) ∧
    ((linkState { partnered with link := 2 }).journal.link = 2 ∧ (linkState { partnered with link := 2 }).journalCarries = true) := by
  decide +kernel

theorem witness_CollectiveEvents_abort :
    (let s := withOp team (.command collOp)
     Live s (opOf (.command collOp)) team ∧ Calm s ∧ Ordinary s 1 ∧ collOp.cancel = [] ∧
       ∃ m, (s.onFabric fun f => { f with aborted := if f.aborted.contains ((5 : Dbl), (9 : Word)) then f.aborted else (5, 9) :: f.aborted }).members 5 9 = [m] ∧
         m.op = opOf (.command collOp) ∧ m.cmd = collOp) :=
  ⟨live_of _ _ _ (by decide +kernel), calm_op _ _ rfl (by decide +kernel), ordinary_of _ (by decide +kernel), by decide +kernel, _, rfl, rfl, rfl⟩

theorem witness_FabricEvents_turn :
    (keyPath (importHome importEntry peerStore) = 1 ∨ (fabricState.inShare 0 (importHome importEntry peerStore) 128 = true ∧
      fabricState.stacksUp (importHome importEntry peerStore) 128 = true)) ∧
    (let s := fabricState
     let p := { peerStore with seq := 2 }
     s.topologyUp = true ∧ p.apart = false ∧ 0 < (p.seq - word (sget 0 s.fabric.expected (packetFrom p))).toNat ∧
       (p.seq - word (sget 0 s.fabric.expected (packetFrom p))).toNat < 2 ^ 31 ∧ s.fabric.early ++ s.fabric.ahead = []) ∧
    (let s := bench.onFabric fun f => { f with ports := [(3, { Port.reset with keys := [(0, some 5), (1, some 6)] })] }
     (sget none (s.fabric.port 3).keys (1 - (s.fabric.port 3).inUse)).isSome = true ∧ (s.fabric.port 3).spent.contains (1 - (s.fabric.port 3).inUse) = false) ∧
    ({ Port.reset with nrz := true } : Port).nrz = true ∧ ({ Port.reset with spent := [1] } : Port).spent.contains 1 = true := by
  decide +kernel

theorem witness_HostEvents_more :
    (let s := readyState.onPart 0 fun p => { p with statusPage := 0x30000 }
     s.anyCoreUp = true ∧ s.inShare 0 0x30000 4096 = true ∧ s.stacksUp 0x30000 4096 = true ∧ s.semWaiters = []) ∧
    (readyState.coreUp 0 = true ∧ readyState.inShare 0 (dbl 0x30000).toNat 4096 = true) ∧
    (0x4000000000 + 4096 ≤ Config.hbmBytes - readyState.journal.capacity * 2 ^ 20) ∧
    (let s := { readyState with mem := objectMemory }
     let sec := ((s.mem.bytes placing.src placing.size).drop 64).take 32
     relocsOf [sec] (s.mem.bytes placing.src placing.size) = [] ∧ placing.templates = [] ∧ recField sec 0 4 ∉ [3, 5, 9] ∧
       s.stacksUp placing.src placing.size = true ∧ s.stacksUp 0x10000 (recField sec 0x10 8) = true ∧ s.semWaiters = []) := by
  decide +kernel

/-! ## Ill-formed terms: one for each static check (R37, R41, R54) -/

theorem test_wf_pairs : Instr.wf (.sadd64 1 2 4) = false ∧ Instr.wf (.calls 31) = false ∧ Instr.wf (.vadda64 10 11 3 false false false) = false ∧
    Instr.wf (.ld64 9 2 10 false false) = false ∧ Instr.wf (.st32 10 2 21 false false) = false ∧ Instr.wf (.sld64 41 10 12) = false ∧
    Instr.wf (.acas 8 10 13 false false) = false ∧ Instr.wf (.semwait 35 11 36) = false ∧ Instr.wf (.saopCas 6 31) = false ∧
    Instr.wf (.fget 11 3) = false ∧ Instr.wf (.clkrd 5 0) = false := by decide
theorem test_wf_quads : Instr.wf (.ld128 6 2 10 false false) = false ∧ Instr.wf (.st128 2 2 10 false false) = false := by decide
theorem test_wf_blocks : Instr.wf (.xcopy 40 60 12) = false ∧ Instr.wf (.sample 42 84 12) = false ∧ Instr.wf (.taskq 40 63 12) = false ∧
    Instr.wf (.acload 40 60 12) = false ∧ Instr.wf (.coll 40 33 12) = false := by decide
theorem test_wf_mode : Instr.wf (.mode 2 0x70) = false ∧ Instr.wf (.mode 8 0x300) = false ∧ Instr.wf (.mode 0 0x370) = true := by decide
theorem test_wf_loop : Instr.wf (.loop 4 0) = false ∧ Instr.wf (.loop 4 0x8000) = false ∧ Instr.wf (.loop 4 1) = true := by decide
theorem test_wf_selectors : Instr.wf (.stkq 4 7) = false ∧ Instr.wf (.stkq 4 0x40) = false ∧ Instr.wf (.stget 4 21) = false ∧
    Instr.wf (.vlane 1 3 false false false) = false ∧ Instr.wf (.vtest 8 1 2 false false false) = false ∧
    Instr.wf (.vcmp 16 1 2 false false false) = false ∧ Instr.wf (.fdefi 3 false 16) = false ∧ Instr.wf (.waitp 6 4) = false ∧
    Instr.wf (.clkrd 4 2) = false := by decide
theorem test_wf_widths : Instr.wf (.vpack 8 9 0 false false false) = false ∧ Instr.wf (.vunpk 8 9 false false 33) = false := by decide
theorem test_wf_mfmt : Instr.wf (.mfmt 7) = false ∧ Instr.wf (.mfmt 0x70) = false ∧ Instr.wf (.mfmt 0x66) = true := by decide
theorem test_wf_specials : Instr.wf (.srd 4 0x26) = false ∧ Instr.wf (.swr 4 0) = false ∧ Instr.wf (.swr 4 0x23) = true := by decide
theorem test_wf_generations : Instr.wf (.semsigGen 0 10 12) = false ∧ Instr.wf (.rsigGen 0 10 12) = false := by decide

/-! ## Words of the spec's own examples -/

theorem test_decode_scalar : decode 0x01050607 = .ok (.sadd 5 6 7) ∧ decode 0x1B050601 = .ok (.sbitopClz 5 6) ∧
    decode 0x1814FFFC = .ok (.saddi 20 0xFFFC) ∧ decode 0x1E121204 = .ok (.sadd64 18 18 4) ∧ decode 0x17302E18 = .ok (.ssel 48 46 24) := by decide
theorem test_decode_mode : decode 0x201F0153 = .ok (.mode 0x1F 0x153) ∧ decode 0x20030053 = .ok (.mode 3 0x53) := by decide
theorem test_decode_control : decode 0x24C00006 = .ok (.bany 192 6) ∧ decode 0x2F140004 = .ok (.loop 20 4) ∧ decode 0x2C001E00 = .ok (.calls 30) ∧
    decode 0x2D000000 = .ok .ret ∧ decode 0x33000000 = .ok .kill ∧ decode 0x35000040 = .ok (.yield 64) ∧
    decode 0x36090801 = .ok (.probe 9 8 true) ∧ decode 0x37000000 = .ok .ifence ∧ decode 0x38000005 = .ok (.brk 5) := by decide
theorem test_decode_masks : decode 0x3001E028 = .ok (.mopAnd 224 40) ∧ decode 0x31A00000 = .ok (.msave 160) ∧
    decode 0x3200A000 = .ok (.mrest 160) := by decide
theorem test_decode_lanes : decode 0x46061028 = .ok (.vxor 3 4 5 false false false) ∧ decode 0x41040078 = .ok (.vmovs 2 30 false false) ∧
    decode 0x420EFFFF = .ok (.vli 7 0xFFFF) ∧ decode 0x4D081403 = .ok (.vshrii 4 5 false 3) ∧
    decode 0x4F0C1C08 = .ok (.vbitopClz 6 7 false false false) ∧ decode 0x56143018 = .ok (.vadda64 10 12 3 false false false) ∧
    decode 0x57020010 = .ok (.vlane 1 2 false false false) ∧ decode 0x59102441 = .ok (.vshfliUp 8 9 false 1) ∧
    decode 0x5A0624A0 = .ok (.vbcast 3 9 40 false false) ∧ decode 0x5B0A1028 = .ok (.vtest 5 4 5 false false false) ∧
    decode 0x5C102440 = .ok (.vpack 8 9 8 false false false) ∧ decode 0x5D142108 = .ok (.vunpk 10 8 false true 8) ∧
    decode 0x5E0A1850 = .ok (.vtosAdd 6 20 false false) := by decide
theorem test_decode_formats : decode 0x63081430 = .ok (.vfma 4 5 6 false false false) ∧ decode 0x63081435 = .ok (.vfma 4 5 6 true false true) ∧
    decode 0x60122018 = .ok (.vadd 9 8 3 false false false) ∧ decode 0x64040C22 = .ok (.vfms 2 3 4 false true false) ∧
    decode 0x6D081400 = .ok (.vsqrt 4 5 false false false) ∧ decode 0x77122040 = .ok (.vcvt 9 8 1 0 false false false) ∧
    decode 0x7B182048 = .ok (.vdot 12 8 9 false false false) ∧ decode 0x82002000 = .ok (.vstat 8 false false false) ∧
    decode 0x810E1000 = .ok (.vscanAdd 7 4 false false false) := by decide
theorem test_decode_definitions : decode 0x90030A00 = .ok (.fdef 3 10) ∧ decode 0x91050104 = .ok (.fdefi 5 true 4) ∧ decode 0x920A0300 = .ok (.fget 10 3) ∧
    decode 0x93141000 = .ok (.stget 20 16) ∧ decode 0x94000053 = .ok (.stclr false true false true 3) ∧ decode 0x95000A00 = .ok (.stseed 10) := by decide
theorem test_decode_memory : decode 0xA2100828 = .ok (.ld32 8 2 10 false false) ∧ decode 0xA7121030 = .ok (.lds32 9 4 12 false false) ∧
    decode 0xAC140850 = .ok (.st32 10 2 20 false false) ∧ decode 0xB2280A0C = .ok (.sld32 40 10 12) ∧ decode 0xAF0C14A0 = .ok (.ldb 6 5 40 false false) ∧
    decode 0xB10A0860 = .ok (.stb 5 2 24 false false) ∧ decode 0xB6002400 = .ok (.chk 9 false false false) ∧ decode 0xB712000C = .ok (.chkb 9 12) ∧
    decode 0xB8002400 = .ok (.ptest 9 false false false) ∧ decode 0xB9120000 = .ok (.pclr 9 false false false) ∧
    decode 0xBA021E00 = .ok (.waitp 2 30) := by decide
theorem test_decode_synchronisation : decode 0xC00C1028 = .ok (.aadd 6 4 5 false false) ∧ decode 0xC7102860 = .ok (.acas 8 10 12 false false) ∧
    decode 0xC204103A = .ok (.amax 2 4 7 false true) ∧ decode 0xC8010000 = .ok .fenceAcq ∧ decode 0xCA000A0C = .ok (.semsig 10 12) ∧
    decode 0xCA150A0C = .ok (.semsigGen 21 10 12) ∧ decode 0xCB230A24 = .ok (.semwait 35 10 36) ∧ decode 0xCF06061E = .ok (.saopOr 6 30) := by decide
theorem test_decode_engines : decode 0xD028400C = .ok (.xcopy 40 64 12) ∧ decode 0xD129480D = .ok (.xexp 41 72 13) ∧ decode 0xD22A5000 = .ok (.xfill 42 80 0) ∧
    decode 0xDB002200 = .ok (.mfmt 0x2200) ∧ decode 0xD8084040 = .ok (.mma 4 16 8 false false false) ∧ decode 0xDC323300 = .ok (.acalloc 50 51) ∧
    decode 0xDD003334 = .ok (.acfree 51 52) ∧ decode 0xDE003334 = .ok (.aczero 51 52) := by decide
theorem test_decode_generation : decode 0xE4284000 = .ok (.gmask 40 64) ∧ decode 0xE5294800 = .ok (.gadv 41 72) ∧ decode 0xE62A500C = .ok (.sample 42 80 12) ∧
    decode 0xE72C5800 = .ok (.route 44 88) ∧ decode 0xE82D6000 = .ok (.emit 45 96) ∧ decode 0xE92E6800 = .ok (.jtrunc 46 104) ∧
    decode 0xEA2F7000 = .ok (.jreplay 47 112) ∧ decode 0xEB307800 = .ok (.jstat 48 120) := by decide
theorem test_decode_system : decode 0xEC000A0C = .ok (.rsig 10 12) ∧ decode 0xEC150A0C = .ok (.rsigGen 21 10 12) ∧ decode 0xF928400C = .ok (.taskq 40 64 12) ∧
    decode 0xFA294800 = .ok (.launch 41 72) ∧ decode 0xFC280013 = .ok (.srd 40 0x13) ∧ decode 0xFD290008 = .ok (.swr 41 8) ∧
    decode 0xF5000000 = .ok .pmask ∧ decode 0xF6000000 = .ok .punmask := by decide

/-! ## One step, with the results that the spec's examples give -/

/-- The team of the next state. -/
def after (o : Host.Outcome State Fault Refusal) : Option Team := match o with | .next s => s.team? 0 | _ => none
/-- Scalar register r after an instruction on a team. -/
def sAfter (t : Team) (i : Instr) (r : Nat) : Option Word := (after (exec i (withTeam t))).map fun u => u.rs r
/-- Lanes 0 to n−1 of a vector register after it. -/
def vAfter (t : Team) (i : Instr) (r n : Nat) : Option (List Word) := (after (exec i (withTeam t))).map fun u => (List.range n).map fun l => (u.lane r l).data
/-- A team with words in the lowest lanes of a vector register. -/
def Lanes (t : Team) (r : Nat) (ws : List Word) : Team := t.wv r fun l => (ws[l]?).map fun w => { data := w, tag := false, dead := false }

theorem test_sbfx : sAfter ((team.pokeS 6 0xF0F01234).pokeS 7 0x00010C04) (.sbfx 5 6 7) 5 = some 0x123 := by decide +kernel
theorem test_divide_by_zero : sAfter (team.pokeS 6 77) (.sdivn 5 6 7) 5 = some 0xFFFFFFFF ∧ sAfter (team.pokeS 6 77) (.sremi 5 6 7) 5 = some 77 := by
  decide +kernel
theorem test_divide_overflow : sAfter ((team.pokeS 6 0x80000000).pokeS 7 0xFFFFFFFF) (.sdivi 5 6 7) 5 = some 0x80000000 ∧
    sAfter ((team.pokeS 6 0x80000000).pokeS 7 0xFFFFFFFF) (.sremi 5 6 7) 5 = some 0 := by decide +kernel
theorem test_vprmb : vAfter (Lanes (Lanes (lane0 team) 1 [0x88123456]) 2 [0x43800001]) (.vprmb 3 1 2 false false false) 3 1 = some [0xFF005634] := by
  decide +kernel
theorem test_vpack : vAfter (Lanes (team.pokeS 224 0xFF) 9 [100, 101, 102, 103, 104, 105, 106, 107]) (.vpack 8 9 8 false false false) 8 2 =
    some [0x67666564, 0x6B6A6968] := by decide +kernel

/-- The team of the shift with holes and poison (R144, R152, R154). -/
def shiftTeam : Team :=
  (Lanes (team.pokeS 224 0xFF) 9 [100, 101, 102, 103, 104, 105, 106, 107]).wv 9 fun l =>
    if l = 3 then some { data := 0x01000005, tag := true, dead := false } else none
theorem test_vshfli_up : vAfter shiftTeam (.vshfliUp 8 9 false 1) 8 9 = some [0, 100, 101, 102, 0x01000005, 104, 105, 106, 0] ∧
    sAfter shiftTeam (.vshfliUp 8 9 false 1) 192 = some 0xEE := by decide +kernel

/-- The team of the reduction's example (R174, R177): three lanes of binary16 pairs, slot f1 binary16. -/
def sumTeam : Team :=
  let t := Lanes (team.pokeS 224 7) 4 [0x3C006800, 0x3C003C00, 0x00003C00]
  { t with mode := 1, fmt := { t.fmt with fdr := [(1, builtin 1)] } }
theorem test_vredadd : vAfter sumTeam (.vredadd 6 4 false false false) 6 4 = some [0x68026802, 0x68026802, 0x68026802, 0] := by decide +kernel
theorem test_vscan_add : vAfter sumTeam (.vscanAdd 7 4 false false false) 7 4 = some [0x68006800, 0x68006800, 0x68006800, 0] := by decide +kernel

/-- Lane L of a one-beat team at byte offset `stride` times L. -/
def strided (stride : Nat) : List (Nat × Nat) := (List.range 32).map fun l => (l, stride * l)
-- The table of R411: strides of 4, 8 and 16 bytes times t, the broadcast of word 5, words 48 (L mod 4).
theorem test_spad_passes : ([1, 2, 3, 8, 16, 32].map fun t => (spadPasses 4 (strided (4 * t)), spadPasses 8 (strided (8 * t)), spadPasses 16 (strided (16 * t)))) =
    [(1, 2, 4), (2, 4, 8), (2, 4, 8), (6, 12, 12), (11, 12, 12), (11, 12, 12)] ∧
    spadPasses 4 ((List.range 32).map fun l => (l, 20)) = 1 ∧ spadPasses 4 ((List.range 32).map fun l => (l, 192 * (l % 4))) = 4 := by
  decide +kernel
/-- An AADD of lanes 0 to 3 at one word that holds 10 (the example of R234). -/
def addState : State :=
  let lanes : List AtomLane := (List.range 4).map fun l => { lane := l, va := 0x20000, key := 0x20000, b := word (l + 1), c := 0 }
  let o : AtomOp := { fn := .addI, dest := .vec 6 1, cas2 := false, lanes := lanes, acquire := false, release := false, once := false }
  { withOp (team.pokeS 224 0xF) (.atom o) with mem := bench.mem.setBytes 0x20000 (leBytes 4 10) }
theorem test_aadd : (match exec (.atomicApplied 2 { fails := [], peer := [] }) addState with
    | .next s => ((s.team? 0).map fun t => (List.range 4).map fun l => (t.lane 6 l).data, s.wordAt 0x20000)
    | _ => (none, 0)) = (some [10, 11, 13, 16], 20) := by decide +kernel
/-- A store, registered: the byte at its key and no other. -/
theorem test_store_registers : (match exec (.storePerformed 2 0 none) (withOp team (.store storeOp)) with
    | .next s => [s.mem.byte 0x1FFFF, s.mem.byte 0x20000, s.mem.byte 0x20001]
    | _ => []) = [0, 0x55, 0] := by decide +kernel
/-- A copy of one row of 64 bytes, completed: its status is its valid count and the last byte has moved (R264). -/
theorem test_xcopy : (match exec (.copyCommandCompletion 2 { units := 0, part := 0 })
      { withOp copyTeam (.command (commandOf .xcopy (copyTeam.params 16) 4 true)) with mem := bench.mem.setBytes 0x2003F [9] } with
    | .next s => ((s.team? 0).map (fun t => t.rs 4), s.mem.byte 0x3003F, s.mem.byte 0x30040)
    | _ => (none, 0, 0)) = (some 1, 9, 0) := by decide +kernel
/-- A trap's entry and its return (R378 to R380). -/
theorem test_trap_and_resume : ((after (exec .illegalOpcode bench)).map fun t => (decide (t.status = .trapped), t.pc, t.report.cause)) = some (true, 0x10000, 0x10) ∧
    ((after (exec (.ctrlResume 0 ⟨none, none⟩) (withTeam { team with status := .inHandler, service := some .ready }))).map fun t => (decide (t.status = .running), t.pc)) =
      some (true, 0x10000) := by decide +kernel
theorem test_power_up : (match exec .powerUp { State.reset with board := { State.reset.board with beloft := some bootImage, config := some bootImage } } with
    | .next s => (s.fabric.devid, s.board.powered, s.board.powerctl)
    | _ => (0, false, 0)) = (5, true, 0x0004B12C4B12C960) := by decide +kernel


/-! ## Witnesses: further clauses -/

/-- A mark that a drain left in a scalar register. -/
def drainMark (r : Nat) : DrainMark := { reg := r, pc := 0x10000, token := 0x12000000, vaddr := 0 }
/-- A failed load that left v2 and s5 empty. -/
def lateFailure : Failure :=
  { op := 2, pc := 0x10000, code := 5, vaddr := 0, token := 0, lanes := [0], sregs := [5], vregs := [2], paths := [], store := false, atomic := false }

theorem witness_GateOrder_stops :
    ({ team with drains := [drainMark 5] }).gate false (.sadd 4 5 6) = .drained (drainMark 5) ∧
    ({ team with drains := [drainMark 7] }).gate false (.sadd 4 5 6) = .go ∧
    ({ team with failures := [lateFailure] }).gate false (.sadd 4 5 6) = .failed lateFailure ∧
    ({ team with failures := [lateFailure] }).gate false (.vmov 1 2 false false false) = .failed lateFailure ∧
    ({ team with failures := [lateFailure] }).gate false (.sadd 4 6 7) = .go ∧
    (team.pokeS 224 0).gate false (.vmov 1 2 false false false) = .skip ∧ (team.pokeS 224 0).gate false (.sadd 4 5 6) = .go ∧
    (team.pokeS 224 0).gate false .kill ≠ .illegal := by
  decide +kernel

theorem witness_ConditionCodes :
    Runs bench 0 team (.vcmp 2 1 2 false false false) ∧ Runs bench 0 team (.vclass 7 1 false false false) ∧
    (let t := Bad0 team 2 7
     Runs (withTeam t) 0 t (.vtest 0 1 2 false false false) ∧ t.rv 1 0 = .ok 0 ∧ t.rv 2 0 = .error 7) ∧
    (let t := Bad0 team 3 7
     Runs (withTeam t) 0 t (.vadda64 2 4 3 false false false) ∧ t.rv 4 0 = .ok 0 ∧ t.rv 5 0 = .ok 0 ∧ t.rv 3 0 = .error 7) ∧
    (let t := Bad0 team 5 7
     Runs (withTeam t) 0 t (.vadda64 2 4 3 false false false) ∧ t.rv 4 0 = .ok 0 ∧ t.rv 5 0 = .error 7) :=
  ⟨runs_on_bench _ (by decide +kernel), runs_on_bench _ (by decide +kernel), ⟨runs_with _ _ (by decide +kernel), by decide +kernel⟩,
   ⟨runs_with _ _ (by decide +kernel), by decide +kernel⟩, runs_with _ _ (by decide +kernel), by decide +kernel⟩

/-- The bench with a special function outstanding. -/
def sfuState : State := withOp team (.sfu { vd := [(1, [])], slot := 0, amax := 0, flags := 0 })

theorem witness_FormatState_waits : sfuState.statsPending 0 team.group = true ∧ Runs sfuState 0 team (.stget 4 20) ∧
    Runs sfuState 0 team (.stclr true true true true 15) :=
  ⟨by decide +kernel, runs_on _ _ _ (by decide +kernel), runs_on _ _ _ (by decide +kernel)⟩

theorem witness_TeamControl_more :
    (let e : DivEntry := { kind := .path, pc := 0x10020, mask := [2], rpc := 1 }
     let t := { lane0 team with ctl := { team.ctl with stack := [e] } }
     Runs (withTeam t) 0 t .kill ∧ Runs (withTeam t) 0 t (.stkq 4 4) ∧ maskWord e.mask 0 &&& maskWord t.ctl.live 0 &&& ~~~t.rs 224 ≠ 0) ∧
    (let t := { team with failures := [lateFailure] }
     Runs (withTeam t) 0 t .exit) ∧
    (let t := { team with drains := [drainMark 5] }
     Runs (withTeam t) 0 t .exit ∧ t.failures = []) ∧
    Runs bench 0 team (.stkq 4 0x20) ∧ Runs bench 0 team (.stkq 4 4) :=
  ⟨⟨runs_with _ _ (by decide +kernel), runs_with _ _ (by decide +kernel), by decide +kernel⟩, runs_with _ _ (by decide +kernel),
   ⟨runs_with _ _ (by decide +kernel), by decide +kernel⟩, runs_on_bench _ (by decide +kernel), runs_on_bench _ (by decide +kernel)⟩

/-- An address pair that is misaligned by 1. -/
def oddAtom : Team := Lane0 (pair mteam 8 0x20001) 2 0x20001

theorem witness_AccessFault_atomic :
    Claim.vectorAtomic oddAtom (.acas 4 2 6 false false) = some (.cas, 4, 2, 6, 2) ∧ Runs (withTeam oddAtom) 0 oddAtom (.acas 4 2 6 false false) ∧
    MemoryReady (withTeam oddAtom) 0 oddAtom ∧ Room (withTeam oddAtom) oddAtom ∧ Releasable oddAtom ∧ oddAtom.active 0 = true ∧
    pairAddr oddAtom 2 0 = .ok 0x20001 ∧
    (∃ p, (withTeam oddAtom).checkAt ((withTeam oddAtom).partOf oddAtom) 1 .atomic 4 0x20001 0 = .fails codeMisaligned p) ∧
    Runs (withTeam oddAtom) 0 oddAtom (.saopCas 8 4) ∧ Runs (withTeam oddAtom) 0 oddAtom (.semsig 8 12) ∧ (oddAtom.rd64 8).toNat = 0x20001 ∧
    (∃ p, (withTeam oddAtom).checkAt ((withTeam oddAtom).partOf oddAtom) 1 .atomic 8 0x20001 0 = .fails codeMisaligned p) :=
  ⟨rfl, runs_with _ _ (by decide +kernel), ready_of _ _ _ (by decide +kernel), room_of _ _ (by decide +kernel), releasable_of _ (by decide +kernel),
   by decide +kernel, by decide +kernel, ⟨2, by decide +kernel⟩, runs_with _ _ (by decide +kernel), runs_with _ _ (by decide +kernel), by decide +kernel,
   ⟨2, by decide +kernel⟩⟩

/-- The team whose store data and atomic operand in lane 0 are poisoned. -/
def badData : Team := Bad0 (Bad0 mteam 4 0x12000005) 6 0x12000005

theorem witness_StoreIssue_poison :
    Runs (withTeam badData) 0 badData (.st32 4 1 8 false false) ∧ MemoryReady (withTeam badData) 0 badData ∧ Room (withTeam badData) badData ∧
    Releasable badData ∧ badData.active 0 = true ∧ badData.rv 4 0 = .error 0x12000005 ∧
    (∀ m a c p, badData.active m = true → laneAddr badData 8 1 m = .ok a → (withTeam badData).checkAt ((withTeam badData).partOf badData) 1 .write 4 a m ≠ .fails c p) := by
  refine ⟨runs_with _ _ (by decide +kernel), ready_of _ _ _ (by decide +kernel), room_of _ _ (by decide +kernel), releasable_of _ (by decide +kernel),
    by decide +kernel, by decide +kernel, fun m a c p hm ha hc => ?_⟩
  obtain rfl := only_lane0 badData (by decide +kernel) m hm
  have h : laneAddr badData 8 1 0 = .ok 0x20000 := by decide +kernel
  rw [h] at ha; cases ha
  obtain ⟨ks, q, hk⟩ := ok_of ((withTeam badData).checkAt ((withTeam badData).partOf badData) 1 .write 4 0x20000 0) (by decide +kernel)
  rw [hk] at hc; cases hc

/-- The atomic's address in the scratchpad of the poisoned team. -/
def badAtom : Team := Lane0 badData 2 0x20000
theorem witness_AtomicIssue_more :
    (Runs (withTeam badAtom) 0 badAtom (.aadd 4 2 6 false false) ∧ Room (withTeam badAtom) badAtom ∧ badAtom.active 0 = true ∧
      (∀ m a c p, badAtom.active m = true → pairAddr badAtom 2 m = .ok a →
        (withTeam badAtom).checkAt ((withTeam badAtom).partOf badAtom) 1 .atomic 4 a m ≠ .fails c p) ∧ badAtom.rv 6 0 = .error 0x12000005) ∧
    (Runs routerState 0 relTeam (.saopAdd 8 12) ∧ (Claim.scalarAtomic (.saopAdd 8 12)).isSome = true) ∧
    (let t := { atomTeam with mode := 0x100 }
     Runs (withTeam t) 0 t (.aadd 4 2 6 false false) ∧ Room (withTeam t) t ∧ t.activeLanes = []) := by
  refine ⟨⟨runs_with _ _ (by decide +kernel), room_of _ _ (by decide +kernel), by decide +kernel, fun m a c p hm ha hc => ?_, by decide +kernel⟩,
    ⟨runs_on _ _ _ (by decide +kernel), rfl⟩, ?_⟩
  · obtain rfl := only_lane0 badAtom (by decide +kernel) m hm
    have h : pairAddr badAtom 2 0 = .ok 0x20000 := by decide +kernel
    rw [h] at ha; cases ha
    obtain ⟨ks, q, hk⟩ := ok_of ((withTeam badAtom).checkAt ((withTeam badAtom).partOf badAtom) 1 .atomic 4 0x20000 0) (by decide +kernel)
    rw [hk] at hc; cases hc
  · exact ⟨runs_with _ _ (by decide +kernel), room_of _ _ (by decide +kernel), by decide +kernel⟩

theorem witness_Signals_rgwait :
    (let t := mteam.pokeS 4 0x200
     Runs (ringState t) 0 t (.rgwait 6 4 12) ∧ 2 ≤ (t.rs 4).toNat / 256 % 16) ∧
    (let t := mteam.pokeS 4 1
     Runs (ringState t) 0 t (.rgwait 6 4 12) ∧ ringGroup.rings[(t.rs 4).toNat % 8]? = none) :=
  ⟨⟨runs_on _ _ _ (by decide +kernel), by decide +kernel⟩, runs_on _ _ _ (by decide +kernel), by decide +kernel⟩

/-- A die whose management core has a binding to complete, of an entry at 0x20000 of a placed object. -/
def bindState : State :=
  { bench.onDie 0 (fun d => { d with trapQueue := [], binds := [(0, 0x20000)] }) with
    board := { bench.board with ready := 0xFFFFFFFFFFFFFFFFFFFFFFFFFFFFFFFF }
    objects := [{ header := 0, part := 0, major := 1, minor := 2, size := 0, codetab := 0x20000, entries := 1, records := 0, recordCount := 0 }] }

theorem witness_LazyBinding :
    (bindState.die 0).trapQueue = [] ∧ (bindState.die 0).binds = [(0, 0x20000)] ∧ bindState.functionUp 12 = true ∧ bindState.semWaiters = [] ∧
    bindState.cpKeys 0 .write 0x20000 32 = .ok ((List.range 32).map (0x20000 + ·)) ∧ (bindState.wordAt 0x20000).toNat < 2 ∧
    bindState.lazyEntry 0 0x20000 = true ∧ bindState.cpKeys 0 .fetch 0x10000 4 = .ok [0x10000, 0x10001, 0x10002, 0x10003] ∧
    (let s : State := { bindState with mem := bindState.mem.setBytes 0x20000 [3] }
     2 ≤ (s.wordAt 0x20000).toNat) := by
  decide +kernel


end Sys2Proof.Tests
end

section
/-! SUPPORT. The lane-local instructions (R142, R147 to R150): their word operations by integer arithmetic, what the shared lane write leaves in
each lane, and the words they write. -/

namespace Sys2Proof.Machine

/-! ## Word operations by integer arithmetic (R147) -/

theorem shl_eq_word (a : Word) (n : Nat) : a <<< n = word (a.toNat * 2 ^ n) := by
  apply BitVec.eq_of_toNat_eq
  simp [Nat.shiftLeft_eq]

theorem shr_eq_word (a : Word) (n : Nat) : a >>> n = word (a.toNat / 2 ^ n) := by
  apply BitVec.eq_of_toNat_eq
  rw [BitVec.toNat_ofNat, Nat.mod_eq_of_lt ((Nat.div_le_self _ _).trans_lt a.isLt)]
  simp [Nat.shiftRight_eq_div_pow]

/-- A left shift multiplies modulo 2^32, which gives 0 for 32 and more. -/
theorem shiftLeft_eq_word (a : Word) (n : Nat) : shiftLeft a n = word (a.toNat * 2 ^ n) := by
  rw [← shl_eq_word, shiftLeft]
  split
  next h => exact (BitVec.shiftLeft_eq_zero h).symm
  next => rfl

/-- A logical right shift divides, which gives 0 for 32 and more. -/
theorem shiftRight_eq_word (a : Word) (n : Nat) : shiftRight a n = word (a.toNat / 2 ^ n) := by
  rw [← shr_eq_word, shiftRight]
  split
  next h => exact (BitVec.ushiftRight_eq_zero h).symm
  next => rfl

/-- An arithmetic right shift divides the signed value and rounds down, which gives the sign for 32 and more. -/
theorem shiftArith_eq_ofInt (a : Word) (n : Nat) : shiftArith a n = BitVec.ofInt 32 (a.toInt / 2 ^ n) := by
  unfold shiftArith
  split
  next h =>
    have hpow : (2 : Int) ^ 32 ≤ 2 ^ n := pow_le_pow_right₀ (by decide) h
    have hlo : -2 ^ 31 ≤ a.toInt := a.le_toInt
    have hhi : a.toInt < 2 ^ 31 := a.toInt_lt
    rw [BitVec.msb_eq_toInt]
    by_cases hneg : a.toInt < 0
    · have hdiv : a.toInt / 2 ^ n = -1 := Int.ediv_eq_neg_one_of_neg_of_le hneg (by omega)
      simp [hneg, hdiv]
    · have hdiv : a.toInt / 2 ^ n = 0 := Int.ediv_eq_zero_of_lt (by omega) (by omega)
      simp [hneg, hdiv]
  next => rw [BitVec.sshiftRight_eq, Int.shiftRight_eq_div_pow, Nat.cast_pow]; rfl

/-- A rotation by r adds the r bits that leave at the top to the word shifted up by r: the two share no bit. -/
theorem rotateLeft_eq_word (a : Word) (n : Nat) :
    rotateLeft a n = word (a.toNat * 2 ^ (n % 32) + a.toNat / 2 ^ (32 - n % 32)) := by
  have hdisj : a <<< (n % 32) &&& a >>> (32 - n % 32) = 0 := by
    ext i hi
    by_cases hlow : i < n % 32
    · simp [hlow]
    · have htop : a.getLsbD (32 - n % 32 + i) = false := BitVec.getLsbD_of_ge _ _ (by omega)
      simp [htop]
  rw [rotateLeft, BitVec.rotateLeft_def, Nat.mod_mod, ← BitVec.add_eq_or_of_and_eq_zero _ _ hdisj, shl_eq_word, shr_eq_word]
  exact (BitVec.ofNat_add _ _).symm

/-- A half above the low half of a word. -/
theorem append_low_eq_word (h : Half) (d : Word) : (h ++ d.extractLsb' 0 16 : Word) = word (h.toNat * 2 ^ 16 + d.toNat % 2 ^ 16) := by
  apply BitVec.eq_of_toNat_eq
  rw [BitVec.toNat_append, ← Nat.shiftLeft_add_eq_or_of_lt (BitVec.isLt _)]
  simp [Nat.shiftLeft_eq]
  omega

theorem add_eq_word (a b : Word) : a + b = word (a.toNat + b.toNat) :=
  BitVec.eq_of_toNat_eq (by simp)

theorem mul_add_eq_word (a b d : Word) : a * b + d = word (a.toNat * b.toNat + d.toNat) :=
  BitVec.eq_of_toNat_eq (by simp)

/-! ## A pair of registers as one number (R147) -/

/-- The sum that VADDA64 computes, by integers modulo 2^64. -/
theorem pair_add_eq_ofInt (hi lo b : Word) :
    ((hi ++ lo) + b.signExtend 64 : Dbl) = BitVec.ofInt 64 (lo.toNat + 2 ^ 32 * hi.toNat + b.toInt) := by
  have hpair : (hi ++ lo : Dbl) = BitVec.ofInt 64 (lo.toNat + 2 ^ 32 * hi.toNat) := by
    apply BitVec.eq_of_toNat_eq
    rw [BitVec.toNat_append, ← Nat.shiftLeft_add_eq_or_of_lt lo.isLt, Nat.shiftLeft_eq, BitVec.toNat_ofInt]
    omega
  rw [hpair, BitVec.signExtend, ← BitVec.ofInt_add]

theorem extract_low_ofInt (z : Int) : (BitVec.ofInt 64 z).extractLsb' 0 32 = BitVec.ofInt 32 z := by
  apply BitVec.eq_of_toNat_eq
  simp
  omega

theorem extract_high_ofInt (z : Int) : (BitVec.ofInt 64 z).extractLsb' 32 32 = BitVec.ofInt 32 (z / 2 ^ 32) := by
  apply BitVec.eq_of_toNat_eq
  simp [Nat.shiftRight_eq_div_pow]
  omega

/-! ## Operands that may be poisoned (R10, R144)

The first poisoned source gives the token: the model reads the sources one after another, the rules are stated with `bind` and `map`. -/

section
variable {vd : VReg} {x y z : Except Word Word}

theorem oneSource_eq_do {f g : Word → Word} (h : ∀ a, g a = f a) : some (vd, x.map f) = some (vd, do let a ← x; pure (g a)) := by
  obtain rfl : g = f := funext h
  cases x <;> rfl

theorem twoSources_eq_do {f g : Word → Word → Word} (h : ∀ a b, g a b = f a b) :
    some (vd, x.bind fun a => y.map fun b => f a b) = some (vd, do let a ← x; let b ← y; pure (g a b)) := by
  cases x with
  | error k => rfl
  | ok a => exact oneSource_eq_do (h a)

theorem threeSources_eq_do {f g : Word → Word → Word → Word} (h : ∀ a b d, g a b d = f a b d) :
    some (vd, x.bind fun a => y.bind fun b => z.map fun d => f a b d) =
      some (vd, do let a ← x; let b ← y; let d ← z; pure (g a b d)) := by
  cases x with
  | error k => rfl
  | ok a => exact twoSources_eq_do (h a)
end

/-! ## The lanes after a lane write (R9, R44, R142) -/

/-- A last-use mark leaves the lanes that are not active as they were. -/
theorem Team.lane_kill_inactive (t : Team) (r q l : Nat) (hl : l < t.lanes) (ha : t.active l = false) :
    (t.kill r).lane q l = t.lane q l := by
  unfold Team.kill
  rw [Team.lane_wv t r _ q l hl, ha]
  split
  next h => rw [h]; rfl
  next => rfl

theorem Team.lane_lastUse_inactive (t : Team) (ms : List (Nat × Bool)) (q l : Nat) (hl : l < t.lanes) (ha : t.active l = false) :
    (t.lastUse ms).lane q l = t.lane q l := by
  unfold Team.lastUse
  induction ms generalizing t with
  | nil => rfl
  | cons m ms ih =>
    rw [List.foldl_cons]
    by_cases hm : m.2 = true
    · rw [if_pos hm]
      exact (ih (t.kill m.1) hl ha).trans (t.lane_kill_inactive m.1 q l hl ha)
    · rw [if_neg hm]
      exact ih t hl ha

/-- What a lane instruction writes: in each active lane a result, in another lane nothing. -/
def Team.writeActive (t : Team) (f : Nat → Except Word Word) (l : Nat) : Option Lane := if t.active l then some (laneOf (f l)) else none

/-- The written register: results in the active lanes; the others keep data, tag and dead mark. -/
theorem Team.lane_wv_writeActive {t u : Team} {r l : Nat} (f : Nat → Except Word Word) (hl : l < u.lanes)
    (hkeep : t.active l = false → u.lane r l = t.lane r l) :
    (u.wv r (t.writeActive f)).lane r l = if t.active l then laneOf (f l) else t.lane r l := by
  rw [Team.lane_wv _ _ _ _ _ hl, if_pos rfl, Team.writeActive]
  cases ha : t.active l with
  | true => rfl
  | false => exact hkeep ha

/-- A pair of registers written one after the other. -/
theorem Team.lane_wv_pair {t u : Team} {r l : Nat} (f g : Nat → Except Word Word) (hl : l < u.lanes)
    (hkeep : ∀ q, t.active l = false → u.lane q l = t.lane q l) :
    (((u.wv r (t.writeActive f)).wv (r + 1) (t.writeActive g)).lane r l = if t.active l then laneOf (f l) else t.lane r l) ∧
    ((u.wv r (t.writeActive f)).wv (r + 1) (t.writeActive g)).lane (r + 1) l = if t.active l then laneOf (g l) else t.lane (r + 1) l := by
  have hl' : l < (u.wv r (t.writeActive f)).lanes := hl
  constructor
  · rw [Team.lane_wv _ _ _ _ _ hl', if_neg (by omega)]
    exact Team.lane_wv_writeActive f hl (hkeep r)
  · refine Team.lane_wv_writeActive g hl' fun ha => ?_
    rw [Team.lane_wv _ _ _ _ _ hl, if_neg (by omega)]
    exact hkeep (r + 1) ha

/-- A lane instruction that runs: last-use marks, the lane write, and the next PC. -/
theorem laneInstr_runs {i : Instr} {s : State} {slot : Nat} {t : Team} (h : Runs s slot t i) (vd : Nat) (keep : Bool) (ms : List (Nat × Bool))
    (f : Team → Nat → Except Word Word) : laneInstr i s vd keep ms f =
      .next (((s.dropOperands slot t ms).cacheOperand slot t vd keep).setTeam slot ((t.lastUse ms).wv vd (t.writeActive (f t))).advance) :=
  issue_runs h _

/-! ## The lane-local instructions (R147 to R150) -/

/-- An instruction is a lane write whose results are those that the rules give it. -/
def IsLaneWrite (i : Instr) (s : State) (t : Team) : Prop :=
  ∃ (vd : VReg) (keep : Bool) (ms : List (Nat × Bool)) (f : Team → Nat → Except Word Word),
    exec i s = laneInstr i s vd.toNat keep ms f ∧ ∀ l, Claim.laneWrite t l i = some (vd, f t l)

/-- Each lane-local instruction is a lane write of the words that the rules give. -/
theorem exec_isLaneWrite (i : Instr) (s : State) (t : Team) (h : (Claim.laneWrite t 0 i).isSome = true) : IsLaneWrite i s t := by
  cases i
  case vmov | vmovs | vli | vlane => exact ⟨_, _, _, _, rfl, fun _ => rfl⟩
  case vsel => exact ⟨_, _, _, _, rfl, fun _ => by simp only [Claim.laneWrite]; split <;> rfl⟩
  case vlih => exact ⟨_, _, _, _, rfl, fun _ => oneSource_eq_do (append_low_eq_word _)⟩
  case vbitopPopc | vbitopClz | vbitopCtz | vbitopBrev | vbfx => exact ⟨_, _, _, _, rfl, fun _ => oneSource_eq_do fun _ => rfl⟩
  case vshli n => exact ⟨_, _, _, _, rfl, fun _ => oneSource_eq_do fun a => shiftLeft_eq_word a n.toNat⟩
  case vshrni n => exact ⟨_, _, _, _, rfl, fun _ => oneSource_eq_do fun a => shiftRight_eq_word a n.toNat⟩
  case vshrii n => exact ⟨_, _, _, _, rfl, fun _ => oneSource_eq_do fun a => shiftArith_eq_ofInt a n.toNat⟩
  case vand | vor | vxor | vandn | vbfi | vprmb => exact ⟨_, _, _, _, rfl, fun _ => twoSources_eq_do fun _ _ => rfl⟩
  case vshl => exact ⟨_, _, _, _, rfl, fun _ => twoSources_eq_do fun a b => shiftLeft_eq_word a b.toNat⟩
  case vshrn => exact ⟨_, _, _, _, rfl, fun _ => twoSources_eq_do fun a b => shiftRight_eq_word a b.toNat⟩
  case vshri => exact ⟨_, _, _, _, rfl, fun _ => twoSources_eq_do fun a b => shiftArith_eq_ofInt a b.toNat⟩
  case vrot => exact ⟨_, _, _, _, rfl, fun _ => twoSources_eq_do fun a b => rotateLeft_eq_word a b.toNat⟩
  case vadda => exact ⟨_, _, _, _, rfl, fun _ => twoSources_eq_do add_eq_word⟩
  case vmada => exact ⟨_, _, _, _, rfl, fun _ => threeSources_eq_do mul_add_eq_word⟩
  all_goals exact absurd h Bool.false_ne_true

/-- What a lane-local instruction that runs leaves in its register (R142, R147 to R150). -/
theorem exec_laneWrite {i : Instr} {s : State} {slot : Nat} {t : Team} {vd : VReg} {v : Nat → Except Word Word} (h : Runs s slot t i)
    (hv : ∀ l, Claim.laneWrite t l i = some (vd, v l)) :
    ∃ s' t', exec i s = .next s' ∧ s'.team? slot = some t' ∧
      ∀ l, l < t.lanes → t'.lane vd.toNat l = if t.active l then laneOf (v l) else t.lane vd.toNat l := by
  obtain ⟨vd', keep, ms, f, hexec, hf⟩ := exec_isLaneWrite i s t (by rw [hv 0]; rfl)
  have hsame (l : Nat) : vd' = vd ∧ f t l = v l := by simpa [hv l, eq_comm] using hf l
  obtain rfl : vd' = vd := (hsame 0).1
  obtain rfl : f t = v := funext fun l => (hsame l).2
  refine ⟨_, _, hexec.trans (laneInstr_runs h _ _ _ _), State.team?_setTeam _ _ _, fun l hl => ?_⟩
  rw [Team.lane_advance]
  exact Team.lane_wv_writeActive _ ((t.lanes_lastUse ms).symm ▸ hl) (t.lane_lastUse_inactive ms _ l hl)

/-! ## VADDA64 (R147) -/

/-- The double that VADDA64 computes in a lane, or the token of its first poisoned source. -/
def Team.pairSum (t : Team) (va vb : VReg) (l : Nat) : Except Word Dbl := do
  let lo ← t.rv va.toNat l
  let hi ← t.rv (va.toNat + 1) l
  let b ← t.rv vb.toNat l
  pure ((hi ++ lo) + b.signExtend 64)

theorem Team.pairSum_of_ok {t : Team} {va vb : VReg} {l : Nat} {lo hi b : Word} (hlo : t.rv va.toNat l = .ok lo)
    (hhi : t.rv (va.toNat + 1) l = .ok hi) (hb : t.rv vb.toNat l = .ok b) :
    t.pairSum va vb l = .ok (BitVec.ofInt 64 (lo.toNat + 2 ^ 32 * hi.toNat + b.toInt)) := by
  rw [pairSum, hlo, hhi, hb, ← pair_add_eq_ofInt]; rfl

theorem Team.pairSum_of_low_error {t : Team} {va : VReg} {l : Nat} {k : Word} (vb : VReg) (hlo : t.rv va.toNat l = .error k) :
    t.pairSum va vb l = .error k := by
  rw [pairSum, hlo]; rfl

theorem Team.pairSum_of_high_error {t : Team} {va : VReg} {l : Nat} {lo k : Word} (vb : VReg) (hlo : t.rv va.toNat l = .ok lo)
    (hhi : t.rv (va.toNat + 1) l = .error k) : t.pairSum va vb l = .error k := by
  rw [pairSum, hlo, hhi]; rfl

theorem Team.pairSum_of_addend_error {t : Team} {va vb : VReg} {l : Nat} {lo hi k : Word} (hlo : t.rv va.toNat l = .ok lo)
    (hhi : t.rv (va.toNat + 1) l = .ok hi) (hb : t.rv vb.toNat l = .error k) : t.pairSum va vb l = .error k := by
  rw [pairSum, hlo, hhi, hb]; rfl

/-- The word of a pair's sum from a bit on, in each lane. -/
def Team.pairWord (t : Team) (va vb : VReg) (low l : Nat) : Except Word Word := (t.pairSum va vb l).map fun d => d.extractLsb' low 32

/-- What VADDA64 leaves in its pair of registers. -/
theorem exec_vadda64 {s : State} {slot : Nat} {t : Team} {vd va vb : VReg} {la lb keep : Bool}
    (h : Runs s slot t (.vadda64 vd va vb la lb keep)) :
    ∃ s' t', exec (.vadda64 vd va vb la lb keep) s = .next s' ∧ s'.team? slot = some t' ∧ ∀ l, l < t.lanes →
      t'.lane vd.toNat l = (if t.active l then laneOf (t.pairWord va vb 0 l) else t.lane vd.toNat l) ∧
      t'.lane (vd.toNat + 1) l = if t.active l then laneOf (t.pairWord va vb 32 l) else t.lane (vd.toNat + 1) l := by
  refine ⟨_, _, issue_runs h _, State.team?_setTeam _ _ _, fun l hl => ?_⟩
  rw [Team.lane_advance, Team.lane_advance]
  exact Team.lane_wv_pair (t.pairWord va vb 0) (t.pairWord va vb 32) ((t.lanes_lastUse _).symm ▸ hl)
    fun r => t.lane_lastUse_inactive _ r l hl

/-- Settles O6: every lane-local instruction is a lane write of the words that the rules give, and VADDA64 writes the two words of its sum, or
its token, into its pair. -/
theorem laneResults : Obligations.LaneResults := by
  refine ⟨fun i s slot t vd v h hv => exec_laneWrite h hv, fun s slot t vd va vb la lb keep h => ?_⟩
  obtain ⟨s', t', hexec, hteam, hlanes⟩ := exec_vadda64 h
  refine ⟨s', t', hexec, hteam, fun l hl => ?_⟩
  obtain ⟨hlow, hhigh⟩ := hlanes l hl
  have htoken {k : Word} (ha : t.active l = true) (hk : t.pairSum va vb l = .error k) :
      t'.lane vd.toNat l = laneOf (.error k) ∧ t'.lane (vd.toNat + 1) l = laneOf (.error k) := by
    rw [hlow, hhigh, if_pos ha, if_pos ha, Team.pairWord, Team.pairWord, hk]
    exact ⟨rfl, rfl⟩
  refine ⟨fun ha => by simp [hlow, hhigh, ha], fun ha => ⟨fun lo hi b hlo hhi hb => ?_, fun k hlo => htoken ha (Team.pairSum_of_low_error vb hlo),
    fun lo k hlo hhi => htoken ha (Team.pairSum_of_high_error vb hlo hhi),
    fun lo hi k hlo hhi hb => htoken ha (Team.pairSum_of_addend_error hlo hhi hb)⟩⟩
  rw [hlow, hhigh, if_pos ha, if_pos ha, Team.pairWord, Team.pairWord, Team.pairSum_of_ok hlo hhi hb]
  exact ⟨congrArg _ (congrArg _ (extract_low_ofInt _)), congrArg _ (congrArg _ (extract_high_ofInt _))⟩

end Sys2Proof.Machine
end

section
/-! SUPPORT. A step and the word that it runs (R24, R34, R48, R53, R372; log entry 1): what the first entry of the agenda does, the issue of a team
whose word decodes, and the word that a fetch from memory gives. -/

namespace Sys2Proof.Machine

variable {s : State}

/-! ## The first entry of the agenda -/

/-- With the power on a step performs the first entry of the agenda. -/
theorem step_of_agenda {e : Entry} {rest : List Entry} (hpower : s.board.removed = false) (hagenda : s.agenda = e :: rest) :
    step s = ({ s with agenda := rest } : State).perform e := by
  have hdark : s.dark = false := by rw [State.dark, hpower, Bool.false_and]
  rw [step, hdark, hagenda]
  rfl

/-- An event that may happen, a promotion only of a ready team, is what `exec` makes of it. -/
theorem State.happen_eq_exec {i : Instr} (hmay : mayHappen i = true)
    (hready : ∀ n, i = .teamPromotion n → (s.attempt n true).isSome = true) : s.happen i = exec i s := by
  unfold State.happen
  split
  next n => rw [if_pos (hready n rfl)]
  next => rw [if_pos hmay]

/-! ## The issue of a team -/

section
variable {slot core quad : Nat} {held : Bool} {t : Team} {i : Instr} {w : Word} {s1 s2 : State}

/-- The issue of a team that can issue, is at no pop and whose fetched word decodes. -/
theorem State.attempt_of_decoded (hteam : s.team? slot = some t) (hissue : t.canIssue = true) (hpop : t.pc ≠ t.ctl.rpc)
    (hfetch : ({ s with cur := some slot } : State).fetch slot t held = (s1, .ok w)) (hdecode : decode w = .ok i)
    (hexec : exec i (s1.readOperands slot t w) = .next s2) :
    s.attempt slot held = if s2 = s1.readOperands slot t w && !({ s with cur := some slot } : State).transfers t w then none
      else some (.next ((s2.fillLoop slot t held).issued slot t)) := by
  simp [State.attempt, hteam, hissue, hpop, hfetch, State.runWord, hdecode, hexec]

/-- A word that is no transfer of control to itself does not issue where it changes nothing (R48). -/
theorem State.not_transfers (hdecode : decode w = .ok i) (hself : selfTarget i = false) : s.transfers t w = false := by
  rw [State.transfers, hdecode]
  dsimp only
  rw [hself, Bool.false_and]

/-- The first team in order that issues has the slot. -/
theorem State.pick_of_attempt {more : List Nat} {o : Host.Outcome State Fault Refusal} (hranked : s.ranked core quad = slot :: more)
    (hattempt : s.attempt slot held = some o) : s.pick core quad held = some o := by
  rw [State.pick, hranked, List.findSome?_cons, hattempt]

/-- A quadrant whose only team waits leaves its slot. -/
theorem State.pick_of_waiting (hranked : s.ranked core quad = [slot]) (hattempt : s.attempt slot held = none) :
    s.pick core quad held = none := by
  rw [State.pick, hranked, List.findSome?_cons, hattempt, List.findSome?_nil]

/-! ## What an issue leaves unchanged -/

/-- The order of the operand cache is all that reading operands changes (R46). -/
theorem State.readOperands_frame (s : State) (slot : Nat) (t : Team) (w : Word) :
    ({ s.readOperands slot t w with cores := s.cores } : State) = s := by
  unfold State.readOperands
  split
  · rfl
  · dsimp only
    split <;> rfl

/-- Outside the capture of a loop nothing is captured (R132). -/
theorem State.fillLoop_of_not_capture (s : State) (slot : Nat) (held : Bool) (hcapture : t.ctl.loop.capture = false) :
    s.fillLoop slot t held = s := by
  unfold State.fillLoop
  split
  · rfl
  · rw [hcapture]
    rfl
end

/-! ## The word in memory (R34) -/

/-- Byte j of the word that four bytes make, lowest first. -/
theorem extract_word_leNat {bs : List Byte} (hlen : bs.length = 4) (j : Nat) (hj : j < 4) :
    (word (leNat bs)).extractLsb' (8 * j) 8 = bs.getD j 0 := by
  obtain ⟨a, b, c, d, rfl⟩ : ∃ a b c d, bs = [a, b, c, d] := by
    match bs, hlen with
    | [a, b, c, d], _ => exact ⟨a, b, c, d, rfl⟩
  apply BitVec.eq_of_toNat_eq
  rw [BitVec.extractLsb'_toNat, BitVec.toNat_ofNat, Nat.shiftRight_eq_div_pow]
  have ha := a.isLt
  have hb := b.isLt
  have hc := c.isLt
  have hd := d.isLt
  simp only [leNat]
  match j, hj with
  | 0, _ | 1, _ | 2, _ | 3, _ => simp; omega

/-- Byte j of the word at a key of memory. -/
theorem extract_word_nat (m : Memory) (key j : Nat) (hj : j < 4) : (word (m.nat key 4)).extractLsb' (8 * j) 8 = m.byte (key + j) := by
  rw [Memory.nat, extract_word_leNat (by simp [Memory.bytes]) j hj]
  simp [Memory.bytes, List.getD_eq_getElem?_getD, hj]

/-- A fetch from a key of this device that is not marked gives the word that memory holds there. -/
theorem State.wordAtPc_of_memory {t : Team} {pc key path : Nat}
    (hkey : s.resolve (s.partOf t) t.group .fetch 0 pc fetchSalt = .ok (key, path)) (hpeer : keyPath key ≠ 4) (hmark : s.marked key = false) :
    s.wordAtPc t pc false = .ok (key, word (s.mem.nat key 4)) := by
  simp [State.wordAtPc, hkey, hmark, hpeer]

/-- A fetch past the loop buffer gives the word at the PC and leaves memory as it is. -/
theorem State.fetch_of_wordAtPc {t : Team} {slot key : Nat} {held : Bool} {w : Word} (hbuffer : t.buffered = none)
    (hword : s.wordAtPc t t.pc.toNat held = .ok (key, w)) : ∃ s1, s.fetch slot t held = (s1, .ok w) ∧ SameMemory s s1 := by
  obtain ⟨parts, count, hleaves⟩ := s.noteLeaves_frame (s.partOf t) [(t.pc.toNat, fetchSalt)]
  refine ⟨_, by rw [State.fetch, hbuffer, hword], fun k => ?_⟩
  rw [hleaves]
  rfl

/-- Settles O56: the step performs the first entry of the agenda, an issue slot goes to its first team, whose word is run, and a fetched word is
the four bytes of memory at its key. -/
theorem stepRunsDecoded : Obligations.StepRunsDecoded := by
  intro s rest core quad slot held t i w s0 hpower
  refine ⟨fun s1 s2 more hagenda hranked hteam hissue hpop hfetch hdecode hexec => ?_, ⟨s.readOperands_frame slot t w,
    fun hcapture => s.fillLoop_of_not_capture slot held hcapture⟩, fun hagenda hmay hready => ?_, fun key x hbuffer hkey hpeer hmark => ?_⟩
  · have hattempt := State.attempt_of_decoded (s := s0) hteam hissue hpop hfetch hdecode hexec
    have hstep : step s = (s0.pick core quad held).getD (.next (s0.tick core quad 1)) := step_of_agenda hpower hagenda
    refine ⟨fun hchange => ?_, fun hsame hmore hself => ?_⟩
    · rw [decide_eq_false hchange, Bool.false_and, if_neg Bool.false_ne_true] at hattempt
      rw [hstep, State.pick_of_attempt hranked hattempt, Option.getD_some]
    · rw [decide_eq_true hsame, State.not_transfers hdecode hself, Bool.not_false, Bool.and_true, if_pos rfl] at hattempt
      rw [hstep, State.pick_of_waiting (hmore ▸ hranked) hattempt, Option.getD_none]
  · rw [step_of_agenda hpower hagenda]
    exact State.happen_eq_exec hmay hready
  · obtain ⟨s1, hfetch, hmem⟩ := State.fetch_of_wordAtPc (slot := slot) hbuffer (State.wordAtPc_of_memory hkey hpeer hmark)
    exact ⟨s1, _, hfetch, hmem, fun j hj => extract_word_nat s.mem key j hj⟩

end Sys2Proof.Machine
end

section
/-! SUPPORT. The management interface (R31, R138, R185, R365, R370, R376, R385 to R387, R409): a setting is made or refused, and what each
other register write leaves. -/

namespace Sys2Proof.Machine

variable {s next : State}

/-! ## Settings (R185, R370, R409) -/

/-- A write of group 2 of the interface is refused: the error register names the group, and partitions, vaults and dies stay. -/
def RefusedSetting (s : State) (e : Instr) : Prop :=
  ∃ s', exec e s = .next s' ∧ s'.board.mgmtError = some 2 ∧ s'.parts = s.parts ∧ s'.vaultSplit = s.vaultSplit ∧ s'.dies = s.dies

/-- A setting is made where every partition keeps a cache part, and refused else. -/
def MadeSetting (s : State) (e : Instr) (next : State) : Prop :=
  (next.cachesLeft = true → exec e s = .next next) ∧ (next.cachesLeft = false → RefusedSetting s e)

/-- What is not made is refused with group 2 (log entry 45). -/
theorem refusedSetting_of {e : Instr} {ok : Bool} (hexec : exec e s = s.setting ok next) (h : (ok && next.cachesLeft) = false) :
    RefusedSetting s e :=
  ⟨s.refuse 2, by rw [hexec, State.setting, h]; rfl, rfl, rfl, rfl, rfl⟩

theorem refusedSetting_of_not_ok {e : Instr} {ok : Bool} (hexec : exec e s = s.setting ok next) (h : ok = false) : RefusedSetting s e :=
  refusedSetting_of hexec (by rw [h, Bool.false_and])

/-- A setting whose own conditions hold is made or refused by the cache parts alone. -/
theorem madeSetting_of_ok {e : Instr} {ok : Bool} (hexec : exec e s = s.setting ok next) (h : ok = true) : MadeSetting s e next :=
  ⟨fun hc => by rw [hexec, State.setting, h, hc]; rfl, fun hc => refusedSetting_of hexec (by rw [hc, Bool.and_false])⟩

/-- A column that no other partition has is free for a partition. -/
theorem State.ownerOf_free {part c : Nat} (h : ∀ p, p < 8 → p ≠ part → (s.part p).columns.getLsbD c = false) :
    (match s.ownerOf c with | some p => p == part | none => true) = true := by
  split
  next p howner =>
    have hmem : p < 8 := List.mem_range.mp (List.mem_of_find?_eq_some howner)
    have hcol : (s.part p).columns.getLsbD c = true := List.find?_some (p := fun p => (s.part p).columns.getLsbD c) howner
    by_contra hp
    rw [h p hmem (by simpa using hp)] at hcol
    exact Bool.false_ne_true hcol
  next => rfl

section
variable {part : Nat}

theorem setHbmShare_made {base d : Nat} (hpart : part < 8) (hidle : s.inUse part = false)
    (hfits : base + d ≤ Config.hbmBytes - s.journal.capacity * 2 ^ 20) (hfree : s.hbmTaken part base d = false) :
    MadeSetting s (.setHbmShare part ⟨base, d⟩) (s.onPart part fun p => { p with hbmBase := base, hbmShare := d }) :=
  madeSetting_of_ok rfl (by dsimp only; rw [hidle, hfree, decide_eq_true ⟨hpart, hfits⟩]; rfl)

theorem setPartitionColumns_made {v : Dbl} (hpart : part < 8) (hidle : s.inUse part = false)
    (hfree : ∀ c, c < 64 → v.getLsbD c = true →
      s.functionUp (64 + c) = true ∧ ∀ p, p < 8 → p ≠ part → (s.part p).columns.getLsbD c = false) :
    MadeSetting s (.setPartitionColumns part v) (s.onPart part fun p => { p with columns := v }) := by
  have hall : ((List.range 64).all fun c => !v.getLsbD c ||
      (s.functionUp (64 + c) && (match s.ownerOf c with | some p => p == part | none => true))) = true := by
    rw [List.all_eq_true]
    intro c hc
    cases hv : v.getLsbD c with
    | false => rfl
    | true =>
      obtain ⟨hup, hothers⟩ := hfree c (List.mem_range.mp hc) hv
      rw [hup, State.ownerOf_free hothers]
      rfl
  exact madeSetting_of_ok rfl (by rw [hidle, decide_eq_true hpart, Bool.true_and]; exact (Bool.and_true _).trans hall)

theorem setVaultSplit_made {vault d : Nat} (hvault : vault < 64) (hd : d ≤ s.splitLimit vault) (howner : s.ownerOf vault = none) :
    MadeSetting s (.setVaultSplit vault d) { s with vaultSplit := sput 0 s.vaultSplit vault d } :=
  madeSetting_of_ok rfl (by rw [howner, decide_eq_true ⟨hvault, hd⟩]; rfl)

/-- A partition that holds a group, or is swapped out, keeps its settings (R370). -/
theorem settings_refused_of_inUse (hused : s.inUse part = true) (v : Dbl) (en : Bool) (range : HbmRange) :
    RefusedSetting s (.setPartitionColumns part v) ∧ RefusedSetting s (.setDebug part en) ∧
      RefusedSetting s (.setDeterministicMode part en) ∧ RefusedSetting s (.setHbmShare part range) := by
  refine ⟨refusedSetting_of_not_ok rfl ?_, refusedSetting_of_not_ok rfl ?_, refusedSetting_of_not_ok rfl ?_,
    refusedSetting_of_not_ok rfl ?_⟩ <;> rw [hused] <;> simp

end

/-! ## Queues (R365) -/

section
variable {part queue : Nat}

/-- A queue after a change of it. -/
theorem State.queue_onQueue {q : Queue} (h : sget none (s.part part).queues queue = some q) (f : Queue → Queue) :
    sget none ((s.onQueue part queue f).part part).queues queue = some (f q) := by
  simp [State.onQueue, h]

theorem queueCreate_queue {prio : Nat} (hpart : part < 8) (hqueue : queue < 64) (hprio : prio < 8)
    (hnone : sget none (s.part part).queues queue = none) : ∃ s', exec (.queueCreate part queue prio) s = .next s' ∧
      sget none (s'.part part).queues queue = some { prio := prio, wake := 0, ring := [], errors := 0 } :=
  ⟨_, if_pos ⟨hpart, hqueue, hprio, by rw [hnone]; rfl⟩, by simp⟩

/-! ## Page tables, translation entries and bases (R354, R382, R386, R387) -/

/-- An invalidation is under way, and the entries stay until it completes. -/
theorem tlbInvalidation_underway (va : Dbl) : ∃ s', exec (.tlbInvalidation part va) s = .next s' ∧
    (s'.part part).invalidating.contains va.toNat = true ∧ (s'.part part).tlb = (s.part part).tlb := by
  refine ⟨_, rfl, ?_, by rw [State.part_onPart]⟩
  rw [State.part_onPart]
  dsimp only
  split
  next h => exact h
  next => simp

/-- An invalidation that no outstanding operation holds back clears the entries that cover its address. -/
theorem tlbInvalidationComplete_clears {va : Dbl} (hunder : (s.part part).invalidating.contains va.toNat = true) (hops : s.ops = []) :
    ∃ s', exec (.tlbInvalidationComplete part va) s = .next s' ∧ (∀ e ∈ (s'.part part).tlb, e.covers va.toNat = false) ∧
      (s'.part part).invalidating.contains va.toNat = false := by
  refine ⟨_, if_neg (by rw [hunder, hops]; simp), ?_, ?_⟩
  · rw [State.part_onPart]
    intro e he
    simpa using (List.mem_filter.mp he).2
  · rw [State.part_onPart]
    simp

/-- The log of collectives lies in the partition's share or nowhere (log entries 8 and 93). -/
theorem collectiveLogBaseSet_made {v : Dbl} (h : v = 0 ∨ s.inShare part v.toNat (64 * 4096) = true) :
    ∃ s', exec (.collectiveLogBaseSet part v) s = .next s' ∧ (s'.part part).logBase = v :=
  ⟨_, congrArg Host.Outcome.next (if_pos h), by rw [State.part_onPart]⟩

theorem collectiveLogBaseSet_refused {v : Dbl} (hzero : v ≠ 0) (hout : s.inShare part v.toNat (64 * 4096) = false) :
    ∃ s', exec (.collectiveLogBaseSet part v) s = .next s' ∧ s'.board.mgmtError = some 6 ∧ s'.parts = s.parts :=
  ⟨_, congrArg Host.Outcome.next (if_neg fun h => h.elim hzero fun hin => Bool.false_ne_true (hout.symm.trans hin)), rfl, rfl⟩

theorem tswBaseSet_made {die : Nat} (hup : s.coreUp die = true) (v : Dbl) :
    ∃ s', exec (.tswBaseSet die v) s = .next s' ∧ (s'.die die).tsw = v :=
  ⟨_, congrArg Host.Outcome.next (if_pos hup), by rw [State.die_onDie]⟩

end

/-! ## The reference time (R376) -/

/-- A change of each die of a list that names each once. -/
theorem State.die_foldl_onDie (f : Die → Die) {ds : List Nat} (hnodup : ds.Nodup) (s : State) (n : Nat) :
    (ds.foldl (fun s d => s.onDie d f) s).die n = if n ∈ ds then f (s.die n) else s.die n := by
  induction ds generalizing s with
  | nil => simp
  | cons d ds ih =>
    obtain ⟨hd, hds⟩ := List.nodup_cons.mp hnodup
    rw [List.foldl_cons, ih hds]
    by_cases hn : n = d
    · subst hn
      simp [hd]
    · simp [hn, State.die_onDie_ne _ _ hn]

theorem State.board_foldl_onDie (f : Die → Die) (ds : List Nat) (s : State) : (ds.foldl (fun s d => s.onDie d f) s).board = s.board := by
  induction ds generalizing s with
  | nil => rfl
  | cons d ds ih => rw [List.foldl_cons, ih]; rfl

/-- The host's time stands in the register, and every die's count is steered towards it (log entry 49). -/
theorem referenceTimeWrite_steers (v : Dbl) : ∃ s', exec (.referenceTimeWrite v) s = .next s' ∧ s'.board.refReg = v ∧
    ∀ n, n < 4 → s'.die n = { s.die n with refGap := (v.toNat : Int) - (s.die n).refTime.toNat } := by
  refine ⟨_, rfl, by rw [State.board_foldl_onDie]; rfl, fun n hn => ?_⟩
  rw [State.die_foldl_onDie _ List.nodup_range, if_pos (List.mem_range.mpr hn)]
  rfl

/-- Settles O54: each setting is made or refused by its own conditions and the cache parts, and each other register of the interface holds what was
written to it. -/
theorem managementSettings : Obligations.ManagementSettings := by
  intro s part vault base d die queue prio v en bits q
  refine ⟨fun hpart hidle => ⟨fun hfits hfree => setHbmShare_made hpart hidle hfits hfree, fun htaken => ?_, ?_, ?_,
    fun hfree => setPartitionColumns_made hpart hidle hfree⟩, fun hused => settings_refused_of_inUse hused v en ⟨base, d⟩,
    fun hvault hd howner => setVaultSplit_made hvault hd howner, fun hd => ?_, fun hdie => ?_,
    fun hpart hqueue hprio hnone => queueCreate_queue hpart hqueue hprio hnone, fun hq => ⟨_, rfl, State.queue_onQueue hq _⟩,
    ⟨_, rfl, by rw [State.part_onPart]⟩, tlbInvalidation_underway v, fun hunder hops => tlbInvalidationComplete_clears hunder hops,
    ⟨collectiveLogBaseSet_made, collectiveLogBaseSet_refused⟩, fun hup => tswBaseSet_made hup v, referenceTimeWrite_steers v⟩
  · exact refusedSetting_of_not_ok rfl (by rw [htaken]; simp)
  · exact madeSetting_of_ok rfl (by rw [hidle, decide_eq_true hpart]; rfl)
  · exact madeSetting_of_ok rfl (by rw [hidle, decide_eq_true hpart]; rfl)
  · exact refusedSetting_of_not_ok rfl (by rw [decide_eq_false fun h => Nat.not_le.mpr hd h.2, Bool.false_and])
  · exact madeSetting_of_ok rfl (by rw [decide_eq_true hdie]; rfl)

end Sys2Proof.Machine
end

section
/-! SUPPORT. The life of teams, groups and launches (R134, R135, R247, R249, R366, R368): operations that end something place nothing new, a launch
stays in its table, a group that exits is gone, and a placed group's teams start afresh. -/

namespace Sys2Proof.Machine

/-! ## Operations that place nothing -/

/-- No slot comes to hold a team, no number a group, that it did not hold. -/
structure PlacesNothing (s s' : State) : Prop where
  teams : ∀ n, s.team? n = none → s'.team? n = none
  groups : ∀ n, s.group? n = none → s'.group? n = none

/-- Nothing is placed, and the launches are as before. -/
structure KeepsLaunches (s s' : State) : Prop extends PlacesNothing s s' where
  launches : s'.launches = s.launches

section
variable {s s1 s2 : State}

theorem PlacesNothing.of_eq (ht : s1.teams = s.teams) (hg : s1.groups = s.groups) : PlacesNothing s s1 :=
  ⟨fun n h => (State.team?_eq ht n).trans h, fun n h => (State.group?_eq hg n).trans h⟩

theorem PlacesNothing.refl (s : State) : PlacesNothing s s := .of_eq rfl rfl

theorem PlacesNothing.trans (h1 : PlacesNothing s s1) (h2 : PlacesNothing s1 s2) : PlacesNothing s s2 :=
  ⟨fun n h => h2.teams n (h1.teams n h), fun n h => h2.groups n (h1.groups n h)⟩

theorem KeepsLaunches.of_eq (ht : s1.teams = s.teams) (hg : s1.groups = s.groups) (hl : s1.launches = s.launches) : KeepsLaunches s s1 :=
  ⟨.of_eq ht hg, hl⟩

theorem KeepsLaunches.refl (s : State) : KeepsLaunches s s := .of_eq rfl rfl rfl

theorem KeepsLaunches.trans (h1 : KeepsLaunches s s1) (h2 : KeepsLaunches s1 s2) : KeepsLaunches s s2 :=
  ⟨h1.toPlacesNothing.trans h2.toPlacesNothing, h2.launches.trans h1.launches⟩

theorem KeepsLaunches.foldl {α : Type} {f : State → α → State} (h : ∀ s a, KeepsLaunches s (f s a)) (xs : List α) (s : State) :
    KeepsLaunches s (xs.foldl f s) := by
  induction xs generalizing s with
  | nil => exact .refl s
  | cons x xs ih => exact (h s x).trans (ih (f s x))

theorem KeepsLaunches.launch? (h : KeepsLaunches s s1) (lid : Nat) : s1.launch? lid = s.launch? lid := by
  rw [State.launch?, State.launch?, h.launches]
end

section
variable (s : State)

/-- A team may change in a slot that holds one. -/
theorem State.setTeam_keepsLaunches {n : Nat} {t : Team} (h : s.team? n = some t) (u : Team) : KeepsLaunches s (s.setTeam n u) := by
  refine ⟨⟨fun m hm => ?_, fun m hm => hm⟩, rfl⟩
  have hne : m ≠ n := fun e => Option.some_ne_none t (h.symm.trans (e ▸ hm))
  rw [State.team?_setTeam_ne _ _ hne, hm]

theorem State.onTeamOf_keepsLaunches (part slot gid : Nat) (f : Team → Team) : KeepsLaunches s (s.onTeamOf part slot gid f) := by
  have hsaved : KeepsLaunches s (State.onTeamOf.saved part slot gid f s) := by
    unfold State.onTeamOf.saved
    split
    · exact .refl s
    · split
      · exact .refl s
      · split
        · exact .of_eq rfl rfl rfl
        · exact .refl s
  unfold State.onTeamOf
  split
  next t ht =>
    split
    · split
      · exact .refl s
      · exact s.setTeam_keepsLaunches ht _
    · exact hsaved
  next => exact hsaved

theorem State.deliver_keepsLaunches (o : Op) (f : Team → Team) : KeepsLaunches s (s.deliver o f) := by
  unfold State.deliver
  split
  · exact .refl s
  · exact s.onTeamOf_keepsLaunches _ _ _ _

theorem State.group?_freeGroup (gid : Nat) (g : Group) (n : Nat) :
    (s.freeGroup gid g).group? n = if n = gid then none else s.group? n := sget_sput none s.groups gid none n

theorem State.freeGroup_keepsLaunches (gid : Nat) (g : Group) : KeepsLaunches s (s.freeGroup gid g) := by
  refine ⟨⟨fun n h => h, fun n h => ?_⟩, rfl⟩
  rw [State.group?_freeGroup, h, ite_self]

theorem State.leave_keepsLaunches (part gid : Nat) : KeepsLaunches s (s.leave part gid) := by
  unfold State.leave
  split
  next g _ =>
    split
    · exact (s.freeGroup_keepsLaunches gid g).trans (.of_eq rfl rfl rfl)
    · exact .refl s
  next =>
    split
    · split
      · exact .of_eq rfl rfl rfl
      · exact .refl s
    · exact .refl s

theorem State.retire_keepsLaunches (o : Op) : KeepsLaunches s (s.retire o) := by
  have hdrop (x : State) : KeepsLaunches x (x.dropOp o.id) := .of_eq rfl rfl rfl
  exact ((s.deliver_keepsLaunches o _).trans (hdrop _)).trans (State.leave_keepsLaunches _ _ _)

theorem State.returnPermit_keepsLaunches (o : Op) (c : CommandOp) : KeepsLaunches s (s.returnPermit o c) := by
  have hback (f : Die → Die) : KeepsLaunches s (s.onDie (dieOf o.core) f) := .of_eq rfl rfl rfl
  have haway (f : Die → Die) : KeepsLaunches s (State.returnPermit.away o c (s.onDie (dieOf o.core) f)) :=
    (hback f).trans (State.onTeamOf_keepsLaunches _ _ _ _ _)
  unfold State.returnPermit
  dsimp only
  split
  · exact .refl s
  · exact hback _
  · exact hback _
  · split
    · exact hback _
    · split
      next t ht =>
        split
        · exact s.setTeam_keepsLaunches ht _
        · exact haway _
      next => exact haway _

theorem State.endCommand_keepsLaunches (o : Op) (c : CommandOp) (ws : List Word) : KeepsLaunches s (s.endCommand o c ws) := by
  have hunlock : KeepsLaunches s (s.unlock o.id) := .of_eq rfl rfl rfl
  have hacquire (x : State) : KeepsLaunches x (x.acquire o.core) := .of_eq rfl rfl rfl
  exact (((hunlock.trans (State.returnPermit_keepsLaunches _ o c)).trans (State.deliver_keepsLaunches _ o _)).trans
    (hacquire _)).trans (State.retire_keepsLaunches _ o)

theorem State.homeWrite_keepsLaunches (key : Nat) (bs : List Byte) : KeepsLaunches s (s.homeWrite key bs) := by
  obtain ⟨parts, cores, h⟩ := s.homeWrite_frame key bs
  rw [h]
  exact .of_eq rfl rfl rfl

theorem State.wake_keepsLaunches (w : SemWaiter) (v : Word) : KeepsLaunches s (s.wake w v) := by
  have hgone : KeepsLaunches s { s with semWaiters := s.semWaiters.filter (· != w) } := .of_eq rfl rfl rfl
  unfold State.wake
  dsimp only
  split
  next r _ =>
    obtain ⟨log, count, fabric, h⟩ :=
      State.answerTo_frame { s with semWaiters := s.semWaiters.filter (· != w) } r.1 r.2.1 r.2.2 (.woken v)
    rw [h]
    exact .of_eq rfl rfl rfl
  next =>
    have hwoken := hgone.trans (State.onTeamOf_keepsLaunches _ w.part w.slot w.gid
      fun t => { t.ws w.sd v with request := none }.advance)
    split
    · split
      · exact hwoken.trans (.of_eq rfl rfl rfl)
      · exact hwoken
    · exact hwoken

theorem State.grantGo_keepsLaunches (key n : Nat) (s : State) : KeepsLaunches s (State.grantGo key n s) := by
  induction n generalizing s with
  | zero => exact .refl s
  | succ n ih =>
    unfold State.grantGo
    split
    · exact .refl s
    · dsimp only
      split
      · exact .refl s
      · refine KeepsLaunches.trans ?_ (ih _)
        refine KeepsLaunches.trans ?_ (State.wake_keepsLaunches _ _ _)
        split
        · exact .refl s
        · exact s.homeWrite_keepsLaunches _ _

theorem State.grants_keepsLaunches : KeepsLaunches s s.grants :=
  KeepsLaunches.foldl (fun s key => s.grantGo_keepsLaunches key s.semWaiters.length) _ s

theorem State.withdraw_keepsLaunches (gid : Nat) : KeepsLaunches s (s.withdraw gid) := by
  have hgone (ws : List SemWaiter) : KeepsLaunches s { s with semWaiters := ws } := .of_eq rfl rfl rfl
  unfold State.withdraw
  dsimp only
  split
  · exact (hgone _).trans (State.grants_keepsLaunches _)
  · exact hgone _

/-! ## Launches (R366) -/

theorem State.cpWrite_keepsLaunches (part va : Nat) (bs : List Byte) : KeepsLaunches s (s.cpWrite part va bs) := by
  unfold State.cpWrite
  split
  next ks _ =>
    have hcount : KeepsLaunches s { s with freeCount := s.freeCount + 1 } := .of_eq rfl rfl rfl
    exact (hcount.trans (KeepsLaunches.foldl (fun (x : State) (w : Nat × Byte) => x.homeWrite_keepsLaunches w.1 [w.2]) _ _)).trans
      (State.grants_keepsLaunches _)
  next => exact .refl s

/-- A status that is posted is no change of the launches. -/
theorem State.postStatus_keepsLaunches (part : Nat) (d : StatusDest) (w : Word) : KeepsLaunches s (s.postStatus part d w) := by
  unfold State.postStatus
  split
  · exact .refl s
  · split
    · exact .of_eq rfl rfl rfl
    · exact s.cpWrite_keepsLaunches _ _ _
  · split
    · split
      · exact s.endCommand_keepsLaunches _ _ _
      · exact .refl s
    · exact .refl s

theorem State.onLaunch_placesNothing (lid : Nat) (f : Launch → Launch) : PlacesNothing s (s.onLaunch lid f) := by
  obtain ⟨launches, h⟩ := s.onLaunch_frame lid f
  rw [h]
  exact .of_eq rfl rfl

theorem State.checkLaunch_placesNothing (lid : Nat) : PlacesNothing s (s.checkLaunch lid) := by
  unfold State.checkLaunch
  split
  · exact .refl s
  · split
    · have hset (l : Launch) : PlacesNothing s (s.setLaunch lid l) := .of_eq rfl rfl
      exact (hset _).trans (State.postStatus_keepsLaunches _ _ _ _).toPlacesNothing
    · exact .refl s

variable {s} in
/-- A launch that is checked stays in its table: as it was, or complete and with no waiting group. -/
theorem State.launch?_checkLaunch {lid : Nat} {l : Launch} (h : s.launch? lid = some l) :
    (s.checkLaunch lid).launch? lid = some l ∨ (s.checkLaunch lid).launch? lid = some { l with complete := true, waiting := [] } := by
  rw [State.checkLaunch, h]
  dsimp only
  split
  · right
    rw [(State.postStatus_keepsLaunches _ _ _ _).launch?, State.launch?_setLaunch]
  · exact .inl h

theorem State.childEnded_placesNothing (lid : Nat) (child : Option Nat) (killed : Bool) :
    PlacesNothing s (s.childEnded lid child killed) := by
  unfold State.childEnded
  split
  · exact .refl s
  · dsimp only
    generalize hs1 : s.onLaunch lid _ = s1
    refine PlacesNothing.trans (hs1 ▸ s.onLaunch_placesNothing lid _) ?_
    split
    · exact .refl s1
    · split
      · exact .refl s1
      · split
        · split
          · split
            · exact (s1.endCommand_keepsLaunches _ _ _).toPlacesNothing
            · exact .refl s1
          · exact .refl s1
        · exact .refl s1

/-! ## The end of a group (R134) -/

theorem State.releaseGroup_keepsLaunches (gid : Nat) (g : Group) : KeepsLaunches s (s.releaseGroup gid g) :=
  (s.withdraw_keepsLaunches gid).trans (State.freeGroup_keepsLaunches _ gid g)

/-- After its resources have returned nothing is placed by what follows the exit of a group. -/
theorem State.exitGroup_after_release {gid : Nat} {g : Group} (h : s.group? gid = some g) :
    PlacesNothing (s.releaseGroup gid g) (s.exitGroup gid) := by
  rw [State.exitGroup, h]
  exact ((State.onLaunch_placesNothing _ _ _).trans (State.childEnded_placesNothing _ _ _ _)).trans
    (State.checkLaunch_placesNothing _ _)

theorem State.exitGroup_placesNothing (gid : Nat) : PlacesNothing s (s.exitGroup gid) := by
  cases h : s.group? gid with
  | none =>
    rw [State.exitGroup, h]
    exact .refl s
  | some g => exact (s.releaseGroup_keepsLaunches gid g).toPlacesNothing.trans (s.exitGroup_after_release h)

/-- A group that exits is gone. -/
theorem State.group?_exitGroup (gid : Nat) : (s.exitGroup gid).group? gid = none := by
  cases h : s.group? gid with
  | none => exact (s.exitGroup_placesNothing gid).groups gid h
  | some g =>
    refine (s.exitGroup_after_release h).groups gid ?_
    rw [State.releaseGroup, State.group?_freeGroup, if_pos rfl]

end

section
variable {s : State}

/-- A team that has exited leaves once no operation keeps it. -/
theorem teamLeaveQuadrant_leaves {slot : Nat} {t : Team} (ht : s.team? slot = some t) (hexit : t.status = .exited)
    (hquiet : ∀ o ∈ s.ops, o.slot = slot → o.gid = t.group → o.orphan = false → o.kind.stays = false) :
    ∃ s', exec (.teamLeaveQuadrant slot) s = .next s' ∧ s'.team? slot = none := by
  have hworking : s.working slot t.group = false := by
    rw [State.working, List.any_eq_false]
    intro o ho hkept
    simp only [Bool.and_eq_true, beq_iff_eq, Bool.not_eq_true'] at hkept
    obtain ⟨⟨⟨hslot, hgid⟩, horphan⟩, hstays⟩ := hkept
    exact Bool.false_ne_true ((hquiet o ho hslot hgid horphan).symm.trans hstays)
  have hgone (ops : List Op) : (({ s with ops := ops } : State).removeTeam slot t).team? slot = none := sget_sput_self none s.teams slot none
  show ∃ s', execTeamLeaveQuadrant slot s = .next s' ∧ s'.team? slot = none
  simp only [execTeamLeaveQuadrant, ht]
  rw [if_neg (by rw [hexit, hworking]; simp)]
  split
  · exact ⟨_, rfl, hgone _⟩
  · exact ⟨_, rfl, (State.exitGroup_placesNothing _ _).teams slot (hgone _)⟩

/-! ## Commit (R249) -/

theorem State.slotsOf_eq_nil {gid : Nat} (h : ∀ e ∈ s.teams, ∀ u, e.2 = some u → u.group ≠ gid) : s.slotsOf gid = [] := by
  rw [State.slotsOf, List.filterMap_eq_nil_iff]
  intro e he
  split
  next u hu => rw [if_neg (h e he u hu)]
  next => rfl

theorem lowerIn_eq_false {part n : Nat} {gs : Sparse (Option Group)} (h : ∀ e ∈ gs, ∀ x, e.2 = some x → x.part = part → n ≤ x.ply.toNat) :
    lowerIn part n gs = false := by
  rw [lowerIn, List.any_eq_false]
  intro e he
  split
  next x hx =>
    intro hlow
    simp only [Bool.and_eq_true, beq_iff_eq, decide_eq_true_eq] at hlow
    obtain ⟨⟨hpart, -⟩, hply⟩ := hlow
    exact absurd (h e he x hx hpart) (Nat.not_le.mpr hply)
  next => exact Bool.false_ne_true

theorem State.lowerWaits_eq_false {part n : Nat} (h : ∀ e ∈ s.launches, ∀ l, e.2 = some l → l.part = part → l.started = true →
    l.complete = false → ∀ w ∈ l.waiting, n ≤ ((l.recordOf w).ply w.index).toNat) : s.lowerWaits part n = false := by
  rw [State.lowerWaits, List.any_eq_false]
  intro e he
  split
  next l hl =>
    intro hlow
    simp only [Bool.and_eq_true, beq_iff_eq, Bool.not_eq_true', List.any_eq_true, decide_eq_true_eq] at hlow
    obtain ⟨⟨⟨hpart, hstarted⟩, hcomplete⟩, w, hw, hply⟩ := hlow
    exact absurd (h e he l hl hpart hstarted hcomplete w hw) (Nat.not_le.mpr hply)
  next => exact Bool.false_ne_true

/-- A group of a partition that is not out is oldest where no group on a core or waiting for one has a lower ply. -/
theorem State.oldest_of_lowest {gid : Nat} {g : Group} (hg : s.group? gid = some g) (hswap : (s.part g.part).swap = none)
    (hgroups : ∀ e ∈ s.groups, ∀ x, e.2 = some x → x.part = g.part → g.ply.toNat ≤ x.ply.toNat)
    (hwaiting : ∀ e ∈ s.launches, ∀ l, e.2 = some l → l.part = g.part → l.started = true → l.complete = false → ∀ w ∈ l.waiting,
      g.ply.toNat ≤ ((l.recordOf w).ply w.index).toNat) : s.oldest gid = true := by
  have hsaved : s.lowerSaved g.part g.ply.toNat = false := by rw [State.lowerSaved, hswap]
  rw [State.oldest, hg]
  dsimp only
  rw [lowerIn_eq_false hgroups, State.lowerWaits_eq_false hwaiting, hsaved]
  rfl

/-- A group of a deterministic partition with no team left commits once it is oldest, and is gone. -/
theorem groupCommit_gone {gid : Nat} {g : Group} (hg : s.group? gid = some g) (hdet : (s.part g.part).det = true)
    (hleaving : g.leaving = false) (hslots : s.slotsOf gid = []) (holdest : s.oldest gid = true) :
    ∃ s', exec (.groupCommit gid) s = .next s' ∧ s'.group? gid = none := by
  refine ⟨(s.commit gid).exitGroup gid, ?_, State.group?_exitGroup _ gid⟩
  show execGroupCommit gid s = _
  simp only [execGroupCommit, hg]
  rw [hdet, hleaving, hslots, holdest]
  rfl

/-! ## Start and cancellation (R247, R366) -/

/-- A launch that no earlier one orders starts. -/
theorem launchStart_starts {lid : Nat} {l : Launch} (hl : s.launch? lid = some l) (hstarted : l.started = false)
    (hcomplete : l.complete = false) (hcoop : l.record.coop = false)
    (hfree : ∀ e ∈ s.launches, ∀ x, e.2 = some x → e.1 < lid → x.orders l = false) :
    ∃ s' l', exec (.launchStart lid) s = .next s' ∧ s'.launch? lid = some l' ∧ l'.started = true ∧
      (l'.waiting = l.waiting ∨ l'.complete = true) := by
  have hexec : exec (.launchStart lid) s = .next ((s.setLaunch lid { l with started := true }).checkLaunch lid) := by
    show execLaunchStart lid s = _
    simp only [execLaunchStart, hl]
    generalize hbefore : s.launches.filterMap _ = before
    obtain rfl : before = [] := by
      rw [← hbefore, List.filterMap_eq_nil_iff]
      intro e he
      split
      next x hx => exact if_neg fun h => Bool.false_ne_true ((hfree e he x hx h.1).symm.trans h.2)
      next => rfl
    simp [hstarted, hcomplete, hcoop]
  obtain h | h := State.launch?_checkLaunch (State.launch?_setLaunch s lid { l with started := true })
  · exact ⟨_, _, hexec, h, rfl, .inl rfl⟩
  · exact ⟨_, _, hexec, h, rfl, .inr rfl⟩

/-- A launch that is cancelled and has no waiting group is so after a check. -/
theorem State.checkLaunch_cancelled {lid : Nat} {l : Launch} (h : s.launch? lid = some l) (hcancelled : l.cancelled = true)
    (hwaiting : l.waiting = []) :
    ∃ l', (s.checkLaunch lid).launch? lid = some l' ∧ l'.cancelled = true ∧ l'.waiting = [] := by
  obtain h | h := State.launch?_checkLaunch h
  · exact ⟨_, h, hcancelled, hwaiting⟩
  · exact ⟨_, h, hcancelled, rfl⟩

/-- A cancelled launch has no waiting group. -/
theorem launchCancel_cancels {lid : Nat} {l : Launch} (hl : s.launch? lid = some l) (hcomplete : l.complete = false) :
    ∃ s' l', exec (.launchCancel lid) s = .next s' ∧ s'.launch? lid = some l' ∧ l'.cancelled = true ∧ l'.waiting = [] := by
  show ∃ s' l', execLaunchCancel lid s = .next s' ∧ s'.launch? lid = some l' ∧ l'.cancelled = true ∧ l'.waiting = []
  simp only [execLaunchCancel, hl, hcomplete, Bool.false_eq_true, if_false]
  have hset (l1 : Launch) (f : Partition → Partition) : ((s.setLaunch lid l1).onPart l.part f).launch? lid = some l1 :=
    State.launch?_setLaunch s lid l1
  refine Exists.intro _ ((State.checkLaunch_cancelled ((KeepsLaunches.launch? (KeepsLaunches.foldl (fun x c => ?_) _ _) lid).trans
    (hset _ _)) rfl rfl).imp fun l' h => ⟨rfl, h⟩)
  split
  · split
    · exact x.endCommand_keepsLaunches _ _ _
    · exact .refl x
  · exact .refl x

/-! ## Placement (R363, R367, R368) -/

/-- An entry of a table is in its list. -/
theorem mem_of_sget {α : Type} {d v : α} {t : Sparse α} {k : Nat} (h : sget d t k = v) (hv : v ≠ d) : (k, v) ∈ t := by
  induction t with
  | nil => exact absurd h.symm hv
  | cons e t ih =>
    obtain ⟨j, w⟩ := e
    by_cases hj : j = k
    · rw [sget, if_pos hj] at h
      exact hj ▸ h ▸ List.mem_cons_self
    · rw [sget, if_neg hj] at h
      exact List.mem_cons_of_mem _ (ih h)

theorem State.groups_foldl_setTeam {α : Type} (slot : α → Nat) (new : State → α → Team) (xs : List α) (s : State) :
    (xs.foldl (fun (s : State) x => s.setTeam (slot x) (new s x)) s).groups = s.groups := by
  induction xs generalizing s with
  | nil => rfl
  | cons x xs ih => rw [List.foldl_cons, ih]; rfl

/-- A team after teams were put into slots is one that stood there, or one of them. -/
theorem State.team?_foldl_setTeam {α : Type} (slot : α → Nat) (new : State → α → Team) {xs : List α} {s : State} {n : Nat} {u : Team}
    (h : (xs.foldl (fun (s : State) x => s.setTeam (slot x) (new s x)) s).team? n = some u) :
    s.team? n = some u ∨ ∃ y x, u = new y x := by
  induction xs generalizing s with
  | nil => exact .inl h
  | cons x xs ih =>
    obtain h | h := ih h
    · by_cases hn : n = slot x
      · subst hn
        rw [State.team?_setTeam] at h
        exact .inr ⟨s, x, (Option.some.inj h).symm⟩
      · rw [State.team?_setTeam_ne _ _ hn] at h
        exact .inl h
    · exact .inr h

/-- What a placement makes: one group of the launch under the next number, and teams that start on the core at the record's entry. -/
theorem State.placeGroup_places {lid : Nat} {l : Launch} {w : Waiting} {core : Nat} {quads : List Nat} {x : State}
    (h : s.placeGroup lid l w core quads = some x) :
    (∃ base tiles, x.group? s.nextId = some (newGroup l lid w core base s.nextId tiles)) ∧
      ∀ n u, s.team? n = none → x.team? n = some u → ∃ quad tidx age, u = newTeam (l.recordOf w) core quad s.nextId w.index tidx age := by
  unfold State.placeGroup at h
  dsimp only at h
  split at h
  case h_2 => cases h
  case h_1 base _ _ _ =>
    split at h
    · cases h
    · rw [Option.some.injEq] at h
      generalize hs3 : List.foldl (fun (s : State) (x : Nat × Nat × Nat) => s.setTeam x.1 _) _ _ = s3 at h
      obtain ⟨hteams, hgroups⟩ : x.teams = s3.teams ∧ x.groups = s3.groups := by
        subst h
        split <;> split <;> exact ⟨rfl, rfl⟩
      refine ⟨⟨base, (s.core core).freeTiles.take (l.recordOf w).tiles, ?_⟩, fun n u hn hu => ?_⟩
      · rw [State.group?_eq hgroups, ← hs3, State.group?_eq (State.groups_foldl_setTeam _ _ _ _), State.group?_setGroup]
      · rw [State.team?_eq hteams, ← hs3] at hu
        obtain hold | ⟨y, z, hz⟩ := State.team?_foldl_setTeam (fun x : Nat × Nat × Nat => x.1) _ hu
        · exact absurd (hn.symm.trans hold) (Option.some_ne_none u).symm
        · exact ⟨_, _, _, hz⟩

/-- The only waiting group of a partition is placed where it fits. -/
theorem groupPlacement_of_only {lid : Nat} {l : Launch} {w : Waiting} {core : Nat} {quads : List Nat} {x : State}
    (hl : s.launch? lid = some l) (honly : s.waitingGroups l.part = [(lid, l, 0, w)]) (hswap : (s.part l.part).swap = none)
    (hwhole : ∀ e ∈ s.launches, ∀ c, e.2 = some c → c.whole = false) (hplace : s.placeGroup lid l w core quads = some x) :
    exec (.groupPlacement lid ⟨w.child, w.index⟩ core quads) s = .next x := by
  have hheld : s.heldByCoop lid l w = false := by
    rw [State.heldByCoop, List.any_eq_false]
    intro e he
    split
    next c hc => simp [hwhole e he c hc]
    next => exact Bool.false_ne_true
  have hmay : s.mayPlace lid l = true := by rw [State.mayPlace, hswap]
  have hfirst : waitsBefore (lid, l, 0, w) (lid, l, 0, w) = false := by simp [waitsBefore]
  have htogether : l.together w = [] := by
    rw [Launch.together, hwhole (lid, some l) (mem_of_sget hl (Option.some_ne_none l)) l rfl]
    rfl
  have hrest : s.placeOrder l [] = [] := by
    rw [State.placeOrder]
    exact ite_self _
  show execGroupPlacement lid ⟨w.child, w.index⟩ core quads s = .next x
  simp [execGroupPlacement, hl, honly, hheld, hmay, hfirst, hplace, htogether, hrest, State.placeAll]

/-- Settles O48: promotion and the end of a YIELD are marks of the team, what a leaving team or a committing group sets free places nothing, and
starts, placements and cancellations leave their launch in its table. -/
theorem launchEvents : Obligations.LaunchEvents := by
  refine ⟨fun s slot t gid g => ⟨fun ht => ⟨fun hissue => ?_, ?_, fun hexit hquiet => teamLeaveQuadrant_leaves ht hexit hquiet⟩,
    fun hg hdet hswap hleaving hteams hgroups hwaiting => groupCommit_gone hg hdet hleaving (State.slotsOf_eq_nil hteams)
      (State.oldest_of_lowest hg hswap hgroups hwaiting)⟩,
    fun s lid l core quads hl => ⟨fun hstarted hcomplete hcoop hfree => launchStart_starts hl hstarted hcomplete hcoop hfree,
      fun w x honly hswap hwhole hplace => ⟨groupPlacement_of_only hl honly hswap hwhole hplace, ?_⟩,
      fun hcomplete => launchCancel_cancels hl hcomplete⟩⟩
  · show Host.Outcome.next (s.onTeam slot _) = _
    rw [State.onTeam_some ht, if_pos hissue]
  · exact congrArg _ (State.onTeam_some ht _)
  · obtain ⟨⟨base, tiles, hgroup⟩, hnew⟩ := State.placeGroup_places hplace
    refine ⟨_, hgroup, rfl, rfl, rfl, fun n u hn hu => ?_⟩
    obtain ⟨quad, tidx, age, rfl⟩ := hnew n u hn hu
    exact ⟨rfl, rfl, rfl, rfl, rfl, rfl⟩

end

end Sys2Proof.Machine
end

section
/-! SUPPORT. The fabric (R33, R338, R340 to R344, R356 to R359): what a write from outside leaves in memory, what answers and flits leave of the
state, packets in and before their turn, loss of a destination, forwarded flits, and links. -/

namespace Sys2Proof.Machine

/-! ## Writes from outside the device (R217, R239) -/

/-- Masked writes at keys that differ change each byte once and no other byte. -/
theorem Memory.byte_foldl_maskByte {ws : List (Nat × Byte × Byte)} (hkeys : (ws.map (·.1)).Nodup) (m : Memory) :
    (∀ k, k ∉ ws.map (·.1) →
      Memory.byte (ws.foldl (fun (m : Memory) (w : Nat × Byte × Byte) => m.maskByte w.1 w.2.1 w.2.2) m) k = m.byte k) ∧
    ∀ w ∈ ws, Memory.byte (ws.foldl (fun (m : Memory) (w : Nat × Byte × Byte) => m.maskByte w.1 w.2.1 w.2.2) m) w.1 =
      (m.byte w.1 &&& ~~~w.2.1) ||| (w.2.2 &&& w.2.1) := by
  induction ws generalizing m with
  | nil => exact ⟨fun _ _ => rfl, fun _ h => nomatch h⟩
  | cons x ws ih =>
    rw [List.map_cons, List.nodup_cons] at hkeys
    obtain ⟨hx, hws⟩ := hkeys
    obtain ⟨hother, hmine⟩ := ih hws (m.maskByte x.1 x.2.1 x.2.2)
    have hmask (k : Nat) (hk : k ≠ x.1) : (m.maskByte x.1 x.2.1 x.2.2).byte k = m.byte k := by
      rw [Memory.maskByte, Memory.byte_setByte, if_neg hk]
    refine ⟨fun k hk => ?_, fun w hw => ?_⟩
    · rw [List.map_cons, List.mem_cons, not_or] at hk
      rw [List.foldl_cons, hother k hk.2, hmask k hk.1]
    · rw [List.foldl_cons]
      obtain rfl | hw := List.mem_cons.mp hw
      · rw [hother _ hx, Memory.maskByte, Memory.byte_setByte, if_pos rfl]
      · have hne : w.1 ≠ x.1 := fun h => hx (h ▸ List.mem_map_of_mem hw)
        rw [hmine w hw, hmask _ hne]

section
variable {s : State}

/-- Where no team waits nothing is granted. -/
theorem State.grants_of_no_waiter (h : s.semWaiters = []) : s.grants = s := by
  rw [State.grants, h]
  rfl

/-- A write from outside where no team waits: the bytes, and what caches and tables remember of them. -/
theorem State.outsideMask_frame (h : s.semWaiters = []) (ws : List (Nat × Byte × Byte)) :
    ∃ parts cores marks, s.outsideMask ws = { s with
      parts := parts, cores := cores, marks := marks
      mem := ws.foldl (fun (m : Memory) (w : Nat × Byte × Byte) => m.maskByte w.1 w.2.1 w.2.2) s.mem } := by
  obtain ⟨parts, hleaves⟩ := s.keepLeavesOf_frame (ws.map (·.1))
  unfold State.outsideMask
  dsimp only
  rw [hleaves, State.grants_of_no_waiter (by exact h)]
  exact ⟨_, _, _, rfl⟩

/-! ## Answers and flits (R338, R342, R356, R357) -/

/-- Something was told to the host's log and flits left: of the fabric only ports and the record of flits have changed. -/
def Sent (s s' : State) (events : List HostEvent) : Prop :=
  ∃ count ports wire, s' = { s with
    hostLog := s.hostLog ++ events, freeCount := count, fabric := { s.fabric with ports := ports, wire := wire } }

theorem Sent.refl (s : State) : Sent s s [] := ⟨s.freeCount, s.fabric.ports, s.fabric.wire, by rw [List.append_nil]⟩

theorem Sent.trans {s1 s2 : State} {es fs : List HostEvent} (h1 : Sent s s1 es) (h2 : Sent s1 s2 fs) : Sent s s2 (es ++ fs) := by
  obtain ⟨_, _, _, rfl⟩ := h1
  obtain ⟨count, ports, wire, rfl⟩ := h2
  exact ⟨count, ports, wire, by rw [List.append_assoc]⟩

theorem Sent.of_freeCount (s : State) (n : Nat) : Sent s { s with freeCount := n } [] :=
  ⟨n, s.fabric.ports, s.fabric.wire, by rw [List.append_nil]⟩

theorem State.tell_sent (s : State) (e : HostEvent) : Sent s (s.tell e) [e] := ⟨s.freeCount, s.fabric.ports, s.fabric.wire, rfl⟩

theorem State.putFlits_sent (s : State) (port : Nat) (xs : List Flit) : Sent s (s.putFlits port xs) [] := by
  have hall (xs : List Flit) : ∀ s : State, Sent s (xs.foldl (fun (t : State) x => t.putFlit port x) s) [] := by
    induction xs with
    | nil => exact Sent.refl
    | cons x xs ih =>
      intro s
      have hput : Sent s (s.putFlit port x) [] := ⟨_, _, _, by rw [List.append_nil]; rfl⟩
      exact hput.trans (ih _)
  unfold State.putFlits
  split
  · exact hall xs s
  · exact .refl s

theorem State.transmit_sent (s : State) (way : Nat) (x : Sending) : Sent s (s.transmit way x) [] :=
  (Sent.of_freeCount s _).trans (State.putFlits_sent _ _ _)

theorem State.transmitNew_sent (s : State) (x : Sending) : Sent s (s.transmitNew x) [] :=
  (Sent.of_freeCount s _).trans (State.transmit_sent _ _ _)

theorem State.answerPeer_sent (s : State) (p : PeerPacket) (a : PeerAnswer) :
    Sent s (s.answerPeer p a) [.peerAnswer p.src p.part p.seq a] :=
  (s.tell_sent _).trans (State.transmitNew_sent _ _)

section
variable {s' : State} {events : List HostEvent}

theorem Sent.hostLog (h : Sent s s' events) : s'.hostLog = s.hostLog ++ events := by
  obtain ⟨_, _, _, rfl⟩ := h
  rfl
theorem Sent.mem (h : Sent s s' events) : s'.mem = s.mem := by
  obtain ⟨_, _, _, rfl⟩ := h
  rfl
theorem Sent.sameMemory (h : Sent s s' events) : SameMemory s s' := fun k => by rw [memByte, memByte, h.mem]
theorem Sent.board (h : Sent s s' events) : s'.board = s.board := by
  obtain ⟨_, _, _, rfl⟩ := h
  rfl
theorem Sent.expected (h : Sent s s' events) : s'.fabric.expected = s.fabric.expected := by
  obtain ⟨_, _, _, rfl⟩ := h
  rfl
theorem Sent.performed (h : Sent s s' events) : s'.fabric.performed = s.fabric.performed := by
  obtain ⟨_, _, _, rfl⟩ := h
  rfl
theorem Sent.packets (h : Sent s s' events) : s'.fabric.packets = s.fabric.packets := by
  obtain ⟨_, _, _, rfl⟩ := h
  rfl
theorem Sent.unreachable (h : Sent s s' events) : s'.fabric.unreachable = s.fabric.unreachable := by
  obtain ⟨_, _, _, rfl⟩ := h
  rfl
end

/-! ## A packet performed (R337, R338) -/

section
variable {pkt : PeerPacket} {i : Import} {bs : List (Nat × Byte × Byte)}

/-- Where a packet's line is device memory it lies in the partition's share, in stacks that are ready. -/
def Homed (s : State) (i : Import) (pkt : PeerPacket) : Prop :=
  keyPath (importHome i pkt) = 2 → s.inShare i.part (importHome i pkt) 128 = true ∧ s.stacksUp (importHome i pkt) 128 = true

/-- The bytes of a packet's store, by their keys at this device. -/
def importWrites (i : Import) (pkt : PeerPacket) (bs : List (Nat × Byte × Byte)) : List (Nat × Byte × Byte) :=
  bs.map fun b => (i.base + (pkt.addr - i.page) + b.1, b.2)

/-- The page of an entry that admits a packet begins at or before its address. -/
theorem Fabric.page_le_of_admits {f : Fabric} (h : f.admits pkt = some i) : i.page ≤ pkt.addr := by
  unfold Fabric.admits at h
  split at h
  · cases h
  next j hfound =>
    dsimp only at h
    have hj := List.find?_some hfound
    simp only [Bool.and_eq_true, decide_eq_true_eq] at hj
    split at h
    all_goals
      split at h
      · cases h
        exact hj.2.1
      · cases h

/-- A store that the import table admits is performed and answered. -/
theorem State.performPacket_of_admits (hadmits : s.fabric.admits pkt = some i) (hhome : Homed s i pkt) (hop : pkt.op = .store bs) :
    s.performPacket pkt = (s.outsideMask (importWrites i pkt bs)).answerPeer pkt .performed := by
  have hguard (b : Bool) (h : keyPath (importHome i pkt) = 2 → b = true) : (keyPath (importHome i pkt) == 2 && !b) = false := by
    by_cases hk : keyPath (importHome i pkt) = 2
    · rw [h hk, Bool.not_true, Bool.and_false]
    · rw [beq_eq_false_iff_ne.mpr hk, Bool.false_and]
  have hwrites : (bs.map fun b => (i.base + (pkt.addr + b.1 - i.page), b.2)) = importWrites i pkt bs := by
    have hpage := Fabric.page_le_of_admits hadmits
    refine List.map_congr_left fun b _ => ?_
    rw [Nat.sub_add_comm hpage, Nat.add_assoc]
  rw [State.performPacket, hadmits]
  dsimp only
  rw [hguard _ fun hk => (hhome hk).1, hguard _ fun hk => (hhome hk).2, State.peerEffect, hop]
  dsimp only
  rw [hwrites]
  rfl

/-- What a store leaves once it is performed: its bytes, and its answer. -/
structure Stored (s s' : State) (i : Import) (pkt : PeerPacket) (bs : List (Nat × Byte × Byte)) (events : List HostEvent) : Prop where
  other : SameBut s s' (bs.map fun b => i.base + (pkt.addr - i.page) + b.1)
  bytes : ∀ b ∈ bs, memByte s' (i.base + (pkt.addr - i.page) + b.1) =
    (memByte s (i.base + (pkt.addr - i.page) + b.1) &&& ~~~b.2.1) ||| (b.2.2 &&& b.2.1)
  hostLog : s'.hostLog = s.hostLog ++ events
  board : s'.board = s.board

theorem Stored.of_sent {s1 s2 : State} {es fs : List HostEvent} (h1 : Stored s s1 i pkt bs es) (h2 : Sent s1 s2 fs) :
    Stored s s2 i pkt bs (es ++ fs) where
  other k hk := (h2.sameMemory k).trans (h1.other k hk)
  bytes b hb := (h2.sameMemory _).trans (h1.bytes b hb)
  hostLog := by rw [h2.hostLog, h1.hostLog, List.append_assoc]
  board := h2.board.trans h1.board

/-- A write of a packet's bytes at keys that differ, where no team waits. -/
theorem State.outsideMask_stores (hwaiters : s.semWaiters = []) (hkeys : (bs.map (·.1)).Nodup) :
    Stored s (s.outsideMask (importWrites i pkt bs)) i pkt bs [] ∧ (s.outsideMask (importWrites i pkt bs)).fabric = s.fabric := by
  have hlist : (importWrites i pkt bs).map (·.1) = bs.map fun b => i.base + (pkt.addr - i.page) + b.1 := by
    rw [importWrites, List.map_map]
    rfl
  have hnodup : ((importWrites i pkt bs).map (·.1)).Nodup := by
    rw [hlist]
    have hshift := hkeys.map (add_right_injective (i.base + (pkt.addr - i.page)))
    rwa [List.map_map] at hshift
  obtain ⟨hother, hmine⟩ := Memory.byte_foldl_maskByte hnodup s.mem
  obtain ⟨parts, cores, marks, hframe⟩ := State.outsideMask_frame hwaiters (importWrites i pkt bs)
  rw [hframe]
  refine ⟨⟨fun k hk => hother k (hlist ▸ hk), fun b hb => ?_, (List.append_nil _).symm, rfl⟩, rfl⟩
  exact hmine (i.base + (pkt.addr - i.page) + b.1, b.2) (List.mem_map_of_mem hb)

/-- A store of a peer that is admitted, performed: its bytes and its answer, in a fabric whose turns and counts stay. -/
theorem State.performPacket_stores (hadmits : s.fabric.admits pkt = some i) (hhome : Homed s i pkt) (hop : pkt.op = .store bs)
    (hwaiters : s.semWaiters = []) (hkeys : (bs.map (·.1)).Nodup) :
    Stored s (s.performPacket pkt) i pkt bs [.peerAnswer pkt.src pkt.part pkt.seq .performed] ∧
      (s.performPacket pkt).fabric.expected = s.fabric.expected ∧ (s.performPacket pkt).fabric.performed = s.fabric.performed := by
  obtain ⟨hstored, hfabric⟩ := State.outsideMask_stores (i := i) (pkt := pkt) hwaiters hkeys
  have hsent := (s.outsideMask (importWrites i pkt bs)).answerPeer_sent pkt .performed
  rw [State.performPacket_of_admits hadmits hhome hop]
  exact ⟨hstored.of_sent hsent, by rw [hsent.expected, hfabric], by rw [hsent.performed, hfabric]⟩

/-- A packet that the import table does not admit is answered with a failure. -/
theorem State.performPacket_refused (hadmits : s.fabric.admits pkt = none) :
    Sent s (s.performPacket pkt) [.peerAnswer pkt.src pkt.part pkt.seq (.failed 6 true)] := by
  rw [State.performPacket, hadmits]
  exact s.answerPeer_sent pkt _

/-! ## Turns and counts (R341, R342) -/

/-- A counted packet passes: the next number has its turn, and the cumulative count goes to the source. -/
theorem State.passPacket_counted (s : State) (hcounted : peerCounted pkt.op = true) :
    (s.passPacket pkt).mem = s.mem ∧ (s.passPacket pkt).board = s.board ∧
      (s.passPacket pkt).hostLog = s.hostLog ++ [.peerAcked pkt.src pkt.part (sget 0 s.fabric.performed (packetFrom pkt) + 1)] ∧
      sget 0 (s.passPacket pkt).fabric.expected (packetFrom pkt) = (pkt.seq.toNat + 1) % 2 ^ 32 := by
  unfold State.passPacket
  dsimp only
  rw [hcounted, Bool.not_true, if_neg Bool.false_ne_true]
  have hsent (x : State) (y : Sending) := x.transmitNew_sent y
  refine ⟨(hsent _ _).mem, (hsent _ _).board, (hsent _ _).hostLog.trans (List.append_nil _), ?_⟩
  rw [(hsent _ _).expected]
  exact sget_sput_self 0 _ _ _

/-- A packet in its turn that no packet waits for. -/
theorem peerPacketArrival_in_turn (htop : s.topologyUp = true) (hturn : pkt.seq = word (sget 0 s.fabric.expected (packetFrom pkt)))
    (hearly : s.fabric.early = []) (hahead : s.fabric.ahead = []) :
    exec (.peerPacketArrival pkt) s = .next ((s.performPacket pkt).passPacket pkt) := by
  show execPeerPacketArrival pkt s = _
  unfold execPeerPacketArrival
  rw [← hturn]
  simp [htop, hearly, hahead, State.takeHeld]

/-- A packet that comes again is answered as before. -/
theorem peerPacketArrival_again {a : PeerAnswer} (htop : s.topologyUp = true)
    (hpast : 2 ^ 31 ≤ (pkt.seq - word (sget 0 s.fabric.expected (packetFrom pkt))).toNat) (hanswered : s.answered pkt = some a) :
    exec (.peerPacketArrival pkt) s = .next (s.answerPeer pkt a) := by
  show execPeerPacketArrival pkt s = _
  simp only [execPeerPacketArrival, htop, decide_eq_true hpast, hanswered, Bool.not_true, Bool.true_or, Bool.false_eq_true, if_false, if_true]

/-- A packet whose number has passed lies half the numbers or more before its turn. -/
theorem seq_behind_next (q : Word) : 2 ^ 31 ≤ (q - word ((q.toNat + 1) % 2 ^ 32)).toNat := by
  have hq := q.isLt
  rw [BitVec.toNat_sub, BitVec.toNat_ofNat]
  omega

/-- The answer that the log shows before the cumulative count. -/
theorem State.answered_of_log {log : List HostEvent} {a : PeerAnswer} {n : Nat}
    (h : s.hostLog = log ++ [.peerAnswer pkt.src pkt.part pkt.seq a, .peerAcked pkt.src pkt.part n]) : s.answered pkt = some a := by
  simp [State.answered, h]

/-- A store in its turn: its bytes, its answer and the count; coming again it is answered and does nothing (log entry 78). -/
theorem peerPacketArrival_stores (htop : s.topologyUp = true) (hhome : Homed s i pkt)
    (hturn : pkt.seq = word (sget 0 s.fabric.expected (packetFrom pkt))) (hearly : s.fabric.early = []) (hahead : s.fabric.ahead = [])
    (hwaiters : s.semWaiters = []) (hop : pkt.op = .store bs) (hkeys : (bs.map (·.1)).Nodup) (hadmits : s.fabric.admits pkt = some i) :
    ∃ s', exec (.peerPacketArrival pkt) s = .next s' ∧
      Stored s s' i pkt bs [.peerAnswer pkt.src pkt.part pkt.seq .performed,
        .peerAcked pkt.src pkt.part (sget 0 s.fabric.performed (packetFrom pkt) + 1)] ∧
      exec (.peerPacketArrival pkt) s' = .next (s'.answerPeer pkt .performed) := by
  obtain ⟨hstored, -, hperformed⟩ := State.performPacket_stores hadmits hhome hop hwaiters hkeys
  obtain ⟨hmem, hboard, hlog, hexpected⟩ := (s.performPacket pkt).passPacket_counted (pkt := pkt) (by rw [hop]; rfl)
  rw [hperformed, hstored.hostLog, List.append_assoc] at hlog
  have hboards := hboard.trans hstored.board
  refine ⟨_, peerPacketArrival_in_turn htop hturn hearly hahead, ⟨fun k hk => ?_, fun b hb => ?_, hlog, hboards⟩,
    peerPacketArrival_again ?_ ?_ (State.answered_of_log hlog)⟩
  · rw [memByte, hmem]
    exact hstored.other k hk
  · rw [memByte, hmem]
    exact hstored.bytes b hb
  · rw [State.topologyUp, State.functionUp, State.functionUp, hboards]
    exact htop
  · rw [hexpected]
    exact seq_behind_next pkt.seq

/-- A packet in its turn that is refused is answered and counted (log entry 78). -/
theorem peerPacketArrival_refused (htop : s.topologyUp = true) (hturn : pkt.seq = word (sget 0 s.fabric.expected (packetFrom pkt)))
    (hearly : s.fabric.early = []) (hahead : s.fabric.ahead = []) (hop : pkt.op = .store bs) (hadmits : s.fabric.admits pkt = none) :
    ∃ s', exec (.peerPacketArrival pkt) s = .next s' ∧ SameMemory s s' ∧
      s'.hostLog = s.hostLog ++ [.peerAnswer pkt.src pkt.part pkt.seq (.failed 6 true),
        .peerAcked pkt.src pkt.part (sget 0 s.fabric.performed (packetFrom pkt) + 1)] := by
  have hsent := State.performPacket_refused hadmits
  obtain ⟨hmem, -, hlog, -⟩ := (s.performPacket pkt).passPacket_counted (pkt := pkt) (by rw [hop]; rfl)
  rw [hsent.performed, hsent.hostLog, List.append_assoc] at hlog
  exact ⟨_, peerPacketArrival_in_turn htop hturn hearly hahead, fun k => by rw [memByte, memByte, hmem, hsent.mem], hlog⟩

/-- A packet before its turn that goes to no line of an earlier one is performed, and its turn stays where it was. -/
theorem peerPacketArrival_ahead (htop : s.topologyUp = true) (hhome : Homed s i pkt) (hearly : s.fabric.early = [])
    (hahead : s.fabric.ahead = []) (hwaiters : s.semWaiters = []) (hop : pkt.op = .store bs) (hkeys : (bs.map (·.1)).Nodup)
    (hapart : pkt.apart = true) (hlow : 0 < (pkt.seq - word (sget 0 s.fabric.expected (packetFrom pkt))).toNat)
    (hhigh : (pkt.seq - word (sget 0 s.fabric.expected (packetFrom pkt))).toNat < 2 ^ 31) (hadmits : s.fabric.admits pkt = some i) :
    ∃ s', exec (.peerPacketArrival pkt) s = .next s' ∧ Stored s s' i pkt bs [.peerAnswer pkt.src pkt.part pkt.seq .performed] ∧
      s'.fabric.expected = s.fabric.expected := by
  obtain ⟨hstored, hexpected, -⟩ := State.performPacket_stores (s := s.onFabric fun f => { f with ahead := f.ahead ++ [pkt] })
    (pkt := pkt) hadmits hhome hop hwaiters hkeys
  refine ⟨_, ?_, ⟨hstored.other, hstored.bytes, hstored.hostLog, hstored.board⟩, hexpected⟩
  show execPeerPacketArrival pkt s = _
  simp only [execPeerPacketArrival, htop, hearly, hahead, hapart, decide_eq_false (Nat.not_le.mpr hhigh), List.any_nil, Bool.not_true,
    Bool.not_false, Bool.or_false, Bool.and_true, Bool.false_eq_true, if_false, if_true]
  rw [if_neg (Nat.ne_of_gt hlow)]

/-- A packet before its turn that may go to the line of an earlier one is held. -/
theorem peerPacketArrival_held (htop : s.topologyUp = true)
    (hlow : 0 < (pkt.seq - word (sget 0 s.fabric.expected (packetFrom pkt))).toNat)
    (hhigh : (pkt.seq - word (sget 0 s.fabric.expected (packetFrom pkt))).toNat < 2 ^ 31) (hapart : pkt.apart = false)
    (hother : ∀ x ∈ s.fabric.early ++ s.fabric.ahead, packetFrom x ≠ packetFrom pkt) :
    exec (.peerPacketArrival pkt) s = .next { s with fabric := { s.fabric with early := s.fabric.early ++ [pkt] } } := by
  have hsame (xs : List PeerPacket) (hxs : ∀ x ∈ xs, packetFrom x ≠ packetFrom pkt) :
      xs.any (fun x => packetFrom x == packetFrom pkt && x.seq == pkt.seq) = false := by
    rw [List.any_eq_false]
    intro x hx
    simp [hxs x hx]
  have hline (xs : List PeerPacket) (hxs : ∀ x ∈ xs, packetFrom x ≠ packetFrom pkt) : xs.any (inLineBefore pkt) = false := by
    rw [List.any_eq_false]
    intro x hx
    simp [inLineBefore, Ne.symm (hxs x hx)]
  have hearly (x : PeerPacket) (hx : x ∈ s.fabric.early) := hother x (List.mem_append_left _ hx)
  have hahead (x : PeerPacket) (hx : x ∈ s.fabric.ahead) := hother x (List.mem_append_right _ hx)
  show execPeerPacketArrival pkt s = _
  simp only [execPeerPacketArrival, htop, hapart, hsame _ hearly, hsame _ hahead, hline _ hahead, decide_eq_false (Nat.not_le.mpr hhigh),
    Bool.not_true, Bool.or_false, Bool.false_and, Bool.false_eq_true, if_false]
  rw [if_neg (Nat.ne_of_gt hlow)]
  rfl

end

/-! ## A destination that is lost (R344) -/

theorem State.fabric_foldl {α : Type} {f : State → α → State} (h : ∀ s a, (f s a).fabric = s.fabric) (xs : List α) (s : State) :
    (xs.foldl f s).fabric = s.fabric := by
  induction xs generalizing s with
  | nil => rfl
  | cons x xs ih => rw [List.foldl_cons, ih, h]

section
variable (s : State)

@[simp] theorem State.onTeam_fabric (slot : Nat) (f : Team → Team) : (s.onTeam slot f).fabric = s.fabric := by
  obtain ⟨_, h⟩ := s.onTeam_frame slot f
  rw [h]

@[simp] theorem State.onTeamOf_fabric (part slot gid : Nat) (f : Team → Team) : (s.onTeamOf part slot gid f).fabric = s.fabric := by
  obtain ⟨_, _, h⟩ := s.onTeamOf_frame part slot gid f
  rw [h]

@[simp] theorem State.deliver_fabric (o : Op) (f : Team → Team) : (s.deliver o f).fabric = s.fabric := by
  obtain ⟨_, _, h⟩ := s.deliver_frame o f
  rw [h]

@[simp] theorem State.homeWrite_fabric (key : Nat) (bs : List Byte) : (s.homeWrite key bs).fabric = s.fabric := by
  obtain ⟨_, _, h⟩ := s.homeWrite_frame key bs
  rw [h]

@[simp] theorem State.endCommand_fabric (o : Op) (c : CommandOp) (ws : List Word) : (s.endCommand o c ws).fabric = s.fabric := by
  obtain ⟨_, _, _, _, _, _, _, _, h⟩ := s.endCommand_frame o c ws
  rw [h]

/-- A failure that is kept to be raised is no change of the fabric (R198). -/
@[simp] theorem State.pushFailure_fabric (o : Op) (d : Dest) (store atomic : Bool) (f : LateFault) :
    (s.pushFailure o d store atomic f).fabric = s.fabric := by
  unfold State.pushFailure
  split
  · rfl
  · split
    · rfl
    · rw [State.onTeam_fabric, State.lateRecord]
      obtain ⟨_, _, _, _, _, h⟩ := s.allocRecord_frame o.slot _
      rw [h]

@[simp] theorem State.failOp_fabric (o : Op) (d : Dest) (store atomic : Bool) (f : LateFault) :
    (s.failOp o d store atomic f).fabric = s.fabric := s.pushFailure_fabric o d store atomic f

@[simp] theorem State.failSleep_fabric (o : Op) (sd : Nat) (va : Dbl) (f : ReturnFail) : (s.failSleep o sd va f).fabric = s.fabric := by
  rw [State.failSleep, State.deliver_fabric, State.failOp_fabric]

@[simp] theorem State.loseUnits_fabric (dest : Nat) (sent : StoreUnit → Bool) (o : Op) (st : StoreOp) :
    (s.loseUnits dest sent o st).fabric = s.fabric := by
  unfold State.loseUnits
  dsimp only
  split
  · rfl
  · split
    · exact s.pushFailure_fabric ..
    · exact s.pushFailure_fabric ..

/-- Packets that are lost fail their operations; the fabric's tables stay. -/
@[simp] theorem State.losePackets_fabric (dest : Nat) (late : Nat → List (Nat × Nat) → Bool) (o : Op) :
    (s.losePackets dest late o).fabric = s.fabric := by
  unfold State.losePackets
  split
  · split
    · rfl
    · exact s.loseUnits_fabric ..
  · exact s.failOp_fabric ..
  · exact s.failSleep_fabric ..
  all_goals rfl

@[simp] theorem State.unitRecord_fabric (o : Op) (r : FaultRecord) : (s.unitRecord o r).1.fabric = s.fabric := by
  unfold State.unitRecord
  split
  · rfl
  next t _ =>
    obtain ⟨_, _, _, _, h⟩ := s.writeRecord_frame o.part t r
    dsimp only
    rw [State.onTeamOf_fabric, h]

@[simp] theorem State.logColl_fabric (o : Op) (c : CommandOp) (b : Option Crb) (state : Nat) :
    (s.logColl o c b state).fabric = s.fabric := by
  unfold State.logColl
  dsimp only
  split
  · rfl
  · exact State.homeWrite_fabric { s with freeCount := s.freeCount + 11 } _ _

@[simp] theorem State.closeCommand_fabric (o : Op) (c : CommandOp) (ws : List Word) (cancelled : Bool) :
    (s.closeCommand o c ws cancelled).fabric = s.fabric := by
  rw [State.closeCommand, State.fabric_foldl, State.endCommand_fabric]
  intro x n
  unfold State.cancelNotice
  split
  · rfl
  · split
    · rfl
    · dsimp only
      split
      · rfl
      · split
        · exact x.endCommand_fabric ..
        · rfl

@[simp] theorem State.endUnit_fabric (o : Op) (c : CommandOp) (st : Word) (second : Option Word) :
    (s.endUnit o c st second).fabric = s.fabric := State.closeCommand_fabric { s with freeCount := s.freeCount + 1 } _ _ _ _

/-- A release that can no longer be performed fails its operation; the fabric's tables stay. -/
@[simp] theorem State.loseRelease_fabric (o : Op) : (s.loseRelease o).fabric = s.fabric := by
  unfold State.loseRelease
  dsimp only
  split
  · split
    · exact s.onTeam_fabric ..
    · exact s.failOp_fabric ..
  · split
    · exact s.onTeam_fabric ..
    · exact s.failOp_fabric ..
  · split
    · exact s.onTeam_fabric ..
    · exact s.failOp_fabric ..
  next c _ =>
    have hlogged : (if c.cmd = .coll then s.logColl o c none 0x06 else s).fabric = s.fabric := by
      split
      · exact s.logColl_fabric ..
      · rfl
    split
    · exact (State.unitRecord_fabric _ _ _).trans hlogged
    · rw [State.endUnit_fabric, State.unitRecord_fabric, hlogged]
  · rfl

/-- A destination that is declared unreachable is in the router's list. -/
theorem State.mem_declareUnreachable (dest : Nat) : dest ∈ (s.declareUnreachable dest).fabric.unreachable := by
  unfold State.declareUnreachable
  dsimp only
  rw [State.fabric_foldl, State.fabric_foldl]
  · exact List.mem_cons_self
  · intro x o
    split
    · exact x.losePackets_fabric ..
    · rfl
  · intro x o
    split
    · exact x.loseRelease_fabric _
    · rfl

end

/-! ## Packets that are not answered (R342, R344) -/

section
variable {part dest : Nat} {seq : Word} {k : Packet}

/-- The timer of the only packet that is out finds it. -/
theorem retransmitTimeout_finds (hpackets : s.fabric.packets = [k]) (hpart : k.part = part) (hdest : k.dest = dest) (hseq : k.seq = seq)
    (hopen : s.unanswered k = true) (hreach : dest ∉ s.fabric.unreachable) :
    exec (.retransmitTimeout ⟨part, dest, seq⟩) s = .next (if 4 ≤ k.ways.length then s.declareUnreachable dest
      else ((s.onFabric fun f => { f with packets := [{ k with ways := s.fabric.nextWay k :: k.ways }] }).transmit
        (s.fabric.nextWay k) k.sending)) := by
  subst hpart hdest hseq
  have hcut : s.cut [k.dest] = false := by simpa [State.cut] using hreach
  have hfabric : (s.onFabric fun f => { f with packets := f.packets.map fun x => if x = k then
      { x with ways := s.fabric.nextWay k :: x.ways } else x }) =
        s.onFabric fun f => { f with packets := [{ k with ways := s.fabric.nextWay k :: k.ways }] } := by
    simp [State.onFabric, hpackets]
  show execRetransmitTimeout _ s = _
  unfold execRetransmitTimeout
  rw [hpackets]
  simp only [List.find?_cons, beq_self_eq_true, hopen, Bool.and_self, hcut, Bool.false_eq_true, if_false]
  rw [← hfabric]
  split <;> rfl

/-- A packet that is not answered goes out again by the next way. -/
theorem retransmitTimeout_resends (hpackets : s.fabric.packets = [k]) (hpart : k.part = part) (hdest : k.dest = dest)
    (hseq : k.seq = seq) (hopen : s.unanswered k = true) (hreach : dest ∉ s.fabric.unreachable) (hways : k.ways.length < 4) :
    ∃ s', exec (.retransmitTimeout ⟨part, dest, seq⟩) s = .next s' ∧
      s'.fabric.packets = [{ k with ways := s.fabric.nextWay k :: k.ways }] ∧ dest ∉ s'.fabric.unreachable := by
  have hsent := (s.onFabric fun f => { f with packets := [{ k with ways := s.fabric.nextWay k :: k.ways }] }).transmit_sent
    (s.fabric.nextWay k) k.sending
  refine ⟨_, retransmitTimeout_finds hpackets hpart hdest hseq hopen hreach, ?_⟩
  rw [if_neg (Nat.not_le.mpr hways), hsent.packets, hsent.unreachable]
  exact ⟨rfl, hreach⟩

/-- After the fourth time its destination is unreachable. -/
theorem retransmitTimeout_gives_up (hpackets : s.fabric.packets = [k]) (hpart : k.part = part) (hdest : k.dest = dest)
    (hseq : k.seq = seq) (hopen : s.unanswered k = true) (hreach : dest ∉ s.fabric.unreachable) (hways : 4 ≤ k.ways.length) :
    ∃ s', exec (.retransmitTimeout ⟨part, dest, seq⟩) s = .next s' ∧ dest ∈ s'.fabric.unreachable := by
  refine ⟨_, retransmitTimeout_finds hpackets hpart hdest hseq hopen hreach, ?_⟩
  rw [if_pos hways]
  exact s.mem_declareUnreachable dest

theorem unreachableClear_clears (s : State) (dest : Nat) :
    ∃ s', exec (.unreachableClear dest) s = .next s' ∧ dest ∉ s'.fabric.unreachable :=
  ⟨_, rfl, fun h => by simpa using (List.mem_filter.mp h).2⟩

/-- A cumulative count up to the count sent is taken. -/
theorem fabricAckArrival_counts {count : Nat} (htop : s.topologyUp = true) (hmore : sget 0 (s.part part).acked dest < count)
    (hsent : count ≤ sget 0 (s.part part).sent dest) :
    ∃ s', exec (.fabricAckArrival part dest count) s = .next s' ∧ sget 0 (s'.part part).acked dest = count ∧ SameMemory s s' :=
  ⟨_, if_pos ⟨htop, hmore, hsent⟩, by rw [State.part_onPart]; exact sget_sput_self 0 _ _ _, fun _ => rfl⟩

end

/-! ## Flits (R33, R355 to R359) -/

section
variable {port : Nat} {flit : Flit} {r : Route}

/-- What becomes of a flit at a port of the device's own flits, whose tag holds and whose key slot is filled. -/
theorem flitArrival_received (hport : port < 36) (hmode : 34 ≤ port ∨ s.fabric.direct = true) (hup : s.fabric.portUp port = true)
    (htag : flit.tagOk = true) (hkey : (sget none (s.fabric.port port).keys (if flit.flags.getLsbD 0 then 1 else 0)).isSome = true) :
    exec (.flitArrival port flit) s = .next (
      if flitBad flit then s.onFabric fun f => f.onPort port fun p => { p with errors := p.errors + 1 }
      else if 34 ≤ port ∨ flit.type = 0 ∨ flit.dst.toNat = s.fabric.devid then s else s.forwardFlit flit) := by
  have hopen : ¬ (36 ≤ port ∨ (port < 34 ∧ s.fabric.direct = false) ∨ s.fabric.portUp port = false) := by
    rintro (h | ⟨h, hfalse⟩ | hfalse)
    · exact absurd hport (Nat.not_lt.mpr h)
    · exact hmode.elim (fun h34 => absurd h (Nat.not_lt.mpr h34)) fun hd => Bool.false_ne_true (hfalse.symm.trans hd)
    · exact Bool.false_ne_true (hfalse.symm.trans hup)
  have hsome : (sget none (s.fabric.port port).keys (if flit.flags.getLsbD 0 then 1 else 0)).isNone = false := by
    rw [← Option.not_isSome, hkey, Bool.not_true]
  show execFlitArrival port flit s = _
  unfold execFlitArrival
  dsimp only
  rw [if_neg hopen, htag, hsome, Bool.not_true, Bool.or_self, if_neg Bool.false_ne_true]
  split
  · rfl
  · split <;> rfl

/-- The flags of a flit that goes on by the minimal route, before the key slot of the next link: whether its intermediate device is behind it, the
mark of the last flit, one hop more (R357). -/
def forwardFlags (x : Flit) : Nat :=
  (if x.flags.toNat.testBit 2 then 4 else 0) + x.flags.toNat / 8 % 2 * 8 + (x.flags.toNat / 16 % 4 + 1) * 16

/-- A flit on the minimal route goes on to its destination. -/
theorem State.forwardFlit_minimal (hminimal : flit.flags.getLsbD 1 = false) (hroute : s.fabric.route? flit.dst.toNat = some r)
    (hhops : flit.flags.toNat / 16 % 4 < 3) (hcarries : s.fabric.carries r.port = true) :
    s.forwardFlit flit = s.putFlit r.port { flit with flags := BitVec.ofNat 8 (forwardFlags flit) } := by
  have hbit : flit.flags.toNat.testBit 1 = false := hminimal
  unfold State.forwardFlit
  simp only [hbit, Bool.false_and, Bool.or_false, Bool.false_eq_true, if_false, hroute, hcarries, Bool.not_true,
    decide_eq_false (show ¬ 3 < flit.flags.toNat / 16 % 4 + 1 by omega)]
  rw [Nat.zero_add]
  rfl

/-- The fields of the flags as they leave under key slot n. -/
theorem forwardFlags_fields (hhops : flit.flags.toNat / 16 % 4 < 3) (n : Nat) :
    let flags := (BitVec.ofNat 8 (forwardFlags flit)).toNat / 2 * 2 + n % 2
    flags / 16 % 4 = flit.flags.toNat / 16 % 4 + 1 ∧ flags / 8 % 2 = flit.flags.toNat / 8 % 2 ∧ flags % 2 = n % 2 := by
  intro flags
  simp only [flags, BitVec.toNat_ofNat, forwardFlags]
  split <;> omega

/-- In direct mode a flit leaves as the device's own, on the lanes of its port. -/
theorem State.putFlit_direct (hdirect : s.fabric.direct = true) (p : Nat) (x : Flit) :
    (s.putFlit p x).fabric.wire = s.fabric.wire ++ [⟨p, (s.fabric.port p).flits, onLanes (s.fabric.port p).lanes
      (flitBytes x (x.flags.toNat / 2 * 2 + (s.fabric.port p).inUse % 2) ++ sealedBytes s.freeCount 240)⟩] ∧
      ((s.putFlit p x).fabric.port p).flits = (s.fabric.port p).flits + 1 := by
  have hlanes : s.fabric.linkLanes p = (s.fabric.port p).lanes := by
    rw [Fabric.linkLanes, hdirect, Bool.true_or, if_pos rfl]
  have hbytes : s.fabric.flitOn p s.freeCount x =
      flitBytes x (x.flags.toNat / 2 * 2 + (s.fabric.port p).inUse % 2) ++ sealedBytes s.freeCount 240 := by
    rw [Fabric.flitOn, hdirect, Bool.true_or, if_pos rfl]
  refine ⟨by rw [← hlanes, ← hbytes]; rfl, ?_⟩
  have hport := s.fabric.port_onPort p p fun q => { q with flits := q.flits + 1 }
  rw [if_pos rfl] at hport
  exact congrArg Port.flits hport

/-- A flit for another device goes on by its route, one hop more in its header, under the key and the counter of the next link. -/
theorem flitArrival_forwards (hport : port < 34) (hmode : 34 ≤ port ∨ s.fabric.direct = true) (hup : s.fabric.portUp port = true)
    (htag : flit.tagOk = true) (hkey : (sget none (s.fabric.port port).keys (if flit.flags.getLsbD 0 then 1 else 0)).isSome = true)
    (hgood : flitBad flit = false) (htype : flit.type ≠ 0) (hdst : flit.dst.toNat ≠ s.fabric.devid)
    (hminimal : flit.flags.getLsbD 1 = false) (hroute : s.fabric.route? flit.dst.toNat = some r)
    (hhops : flit.flags.toNat / 16 % 4 < 3) (hcarries : s.fabric.carries r.port = true) :
    ∃ s' flags sealed_, exec (.flitArrival port flit) s = .next s' ∧ flags / 16 % 4 = flit.flags.toNat / 16 % 4 + 1 ∧
      flags / 8 % 2 = flit.flags.toNat / 8 % 2 ∧ flags % 2 = (s.fabric.port r.port).inUse % 2 ∧ sealed_.length = 240 ∧
      s'.fabric.wire = s.fabric.wire ++ [⟨r.port, (s.fabric.port r.port).flits,
        onLanes (s.fabric.port r.port).lanes (flitBytes flit flags ++ sealed_)⟩] ∧
      (s'.fabric.port r.port).flits = (s.fabric.port r.port).flits + 1 ∧ SameMemory s s' := by
  have hdirect : s.fabric.direct = true := hmode.resolve_left (Nat.not_le.mpr hport)
  have hother : ¬ (34 ≤ port ∨ flit.type = 0 ∨ flit.dst.toNat = s.fabric.devid) := by
    rintro (h | h | h)
    · exact absurd hport (Nat.not_lt.mpr h)
    · exact htype h
    · exact hdst h
  have hexec := flitArrival_received (Nat.lt_trans hport (by decide)) hmode hup htag hkey
  rw [hgood, if_neg Bool.false_ne_true, if_neg hother, State.forwardFlit_minimal hminimal hroute hhops hcarries] at hexec
  obtain ⟨hhop, hlast, hslot⟩ := forwardFlags_fields hhops (s.fabric.port r.port).inUse
  obtain ⟨hwire, hflits⟩ := State.putFlit_direct hdirect r.port { flit with flags := BitVec.ofNat 8 (forwardFlags flit) }
  exact ⟨_, _, sealedBytes s.freeCount 240, hexec, hhop, hlast, hslot, by simp [sealedBytes], hwire, hflits, fun _ => rfl⟩

/-- A flit whose tag fails is dropped. -/
theorem flitArrival_dropped (s : State) (port : Nat) (htag : flit.tagOk = false) : exec (.flitArrival port flit) s = .next s := by
  show execFlitArrival port flit s = _
  unfold execFlitArrival
  dsimp only
  split
  · rfl
  · rw [htag, Bool.not_false, Bool.true_or, if_pos rfl]

/-! ## Links (R358, R359) -/

/-- An event changes a port to one of which something holds, and nothing of memory. -/
def PortAfter (s : State) (port : Nat) (e : Instr) (holds : Port → Prop) : Prop :=
  ∃ s', exec e s = .next s' ∧ holds (s'.fabric.port port) ∧ SameMemory s s'

theorem portAfter_of_onPort {e : Instr} {holds : Port → Prop} {g : Port → Port}
    (hexec : exec e s = .next (s.onFabric fun f => f.onPort port g)) (hport : holds (g (s.fabric.port port))) :
    PortAfter s port e holds := by
  refine ⟨_, hexec, ?_, fun _ => rfl⟩
  rw [State.onFabric_fabric, Fabric.port_onPort, if_pos rfl]
  exact hport

/-- A flit of a reserved type is counted at its port. -/
theorem flitArrival_reserved (hport : port < 36) (hmode : 34 ≤ port ∨ s.fabric.direct = true) (hup : s.fabric.portUp port = true)
    (htag : flit.tagOk = true) (hkey : (sget none (s.fabric.port port).keys (if flit.flags.getLsbD 0 then 1 else 0)).isSome = true)
    (htype : 5 < flit.type.toNat) :
    PortAfter s port (.flitArrival port flit) fun q => q.errors = (s.fabric.port port).errors + 1 := by
  have hbad : flitBad flit = true := by
    rw [flitBad, decide_eq_true_eq]
    exact .inl htype
  refine portAfter_of_onPort (g := fun p => { p with errors := p.errors + 1 }) ?_ rfl
  rw [flitArrival_received hport hmode hup htag hkey, hbad, if_pos rfl]

/-- A lane of a topology port drops. -/
theorem linkLaneFailure_topology (hport : port < 34) (persist : Bool) :
    PortAfter s port (.linkLaneFailure port persist) fun q => q.lanes = (s.fabric.port port).lanes - 1 := by
  have hlow := decide_eq_false (Nat.not_le.mpr hport)
  refine portAfter_of_onPort rfl ?_
  rw [if_neg fun h => absurd hport (Nat.not_lt.mpr h.1), hlow, Bool.false_and, if_neg Bool.false_ne_true]

/-- A lane of a port that signals NRZ drops. -/
theorem linkLaneFailure_of_nrz (hnrz : (s.fabric.port port).nrz = true) :
    PortAfter s port (.linkLaneFailure port true) fun q => q.lanes = (s.fabric.port port).lanes - 1 := by
  refine portAfter_of_onPort rfl ?_
  rw [if_neg fun h => Bool.false_ne_true (h.2.symm.trans hnrz), Bool.not_true, Bool.and_false, if_neg Bool.false_ne_true]

/-- A journal port first moves to NRZ. -/
theorem linkLaneFailure_nrz (hport : 34 ≤ port) (hnrz : (s.fabric.port port).nrz = false) (persist : Bool) :
    PortAfter s port (.linkLaneFailure port persist) fun q => q.nrz = true ∧ q.retraining = true := by
  refine portAfter_of_onPort rfl ?_
  rw [if_pos ⟨hport, hnrz⟩]
  exact ⟨rfl, rfl⟩

/-- A link that has retrained is up where it is to be and its port can carry flits. -/
theorem linkRetrainingComplete_ends (up : Bool) :
    PortAfter s port (.linkRetrainingComplete port up) fun q => q.retraining = false ∧ q.up = (up && s.portReady port) :=
  portAfter_of_onPort rfl ⟨rfl, rfl⟩

/-- A link goes on under the key of its other slot. -/
theorem linkKeyLimit_moves (hkey : (sget none (s.fabric.port port).keys (1 - (s.fabric.port port).inUse)).isSome = true)
    (hspent : (s.fabric.port port).spent.contains (1 - (s.fabric.port port).inUse) = false) :
    PortAfter s port (.linkKeyLimit port) fun q => q.inUse = 1 - (s.fabric.port port).inUse ∧ q.stopped = (s.fabric.port port).stopped ∧
      q.keys = (s.fabric.port port).keys ∧ q.spent.contains (s.fabric.port port).inUse = true := by
  refine portAfter_of_onPort rfl ?_
  dsimp only
  rw [hkey, hspent, Bool.not_false, Bool.and_self, if_pos rfl]
  exact ⟨rfl, rfl, rfl, by simp⟩

/-- A link with no other key stops. -/
theorem linkKeyLimit_stops (hnone : sget none (s.fabric.port port).keys (1 - (s.fabric.port port).inUse) = none ∨
    (s.fabric.port port).spent.contains (1 - (s.fabric.port port).inUse) = true) :
    PortAfter s port (.linkKeyLimit port) fun q => q.stopped = true ∧ q.keys = (s.fabric.port port).keys := by
  have hno : ((sget none (s.fabric.port port).keys (1 - (s.fabric.port port).inUse)).isSome &&
      !(s.fabric.port port).spent.contains (1 - (s.fabric.port port).inUse)) = false := by
    obtain h | h := hnone
    · rw [h, Option.isSome_none, Bool.false_and]
    · rw [h, Bool.not_true, Bool.and_false]
  refine portAfter_of_onPort rfl ?_
  dsimp only
  rw [hno, if_neg Bool.false_ne_true]
  exact ⟨rfl, rfl⟩

/-- A key is installed, and a link that had stopped goes on. -/
theorem linkKeyInstall_installs {kslot : Nat} (hslot : kslot ≤ 1) (key : Nat) :
    PortAfter s port (.linkKeyInstall port kslot key) fun q => sget none q.keys kslot = some key ∧ q.stopped = false := by
  refine portAfter_of_onPort (if_neg (Nat.not_lt.mpr hslot)) ?_
  dsimp only
  split
  · exact ⟨by simp, rfl⟩
  next h =>
    rw [Bool.not_eq_true, Bool.or_eq_false_iff] at h
    exact ⟨by simp, h.1⟩

end

end

/-- Settles O52: a packet is performed, refused or held by its turn, acknowledgements and timers change the counts and the destinations that they
name, a flit goes on by the minimal route, and the events of a link change its port. -/
theorem fabricEvents : Obligations.FabricEvents := by
  intro s pkt i part dest count port kslot key flit k r seq bs up src turn acked done here homed po after
  refine ⟨?_, ?_, fun htop hlow hhigh hapart hother => peerPacketArrival_held htop hlow hhigh hapart hother,
    fun htop hmore hsent => fabricAckArrival_counts htop hmore hsent,
    fun hpackets hpart hdest hseq hopen hreach => ⟨retransmitTimeout_resends hpackets hpart hdest hseq hopen hreach,
      retransmitTimeout_gives_up hpackets hpart hdest hseq hopen hreach⟩, unreachableClear_clears s dest,
    fun hport hmode hup htag hkey => ⟨flitArrival_reserved hport hmode hup htag hkey,
      fun hgood htype hport34 hdst hminimal hroute hhops hcarries =>
        flitArrival_forwards hport34 hmode hup htag hkey hgood htype hdst hminimal hroute hhops hcarries⟩,
    flitArrival_dropped s port, fun hport => linkLaneFailure_topology hport up, fun _ => linkLaneFailure_of_nrz,
    fun hport hnrz => linkLaneFailure_nrz hport hnrz up, linkRetrainingComplete_ends up, linkKeyLimit_moves, linkKeyLimit_stops,
    fun hslot => linkKeyInstall_installs hslot key⟩
  · intro hhomed hearly hahead hwaiters hop hkeys hapart hlow hhigh hadmits
    obtain ⟨htop, hhome⟩ := hhomed
    obtain ⟨s', hexec, hstored, hexpected⟩ :=
      peerPacketArrival_ahead htop hhome hearly hahead hwaiters hop hkeys hapart hlow hhigh hadmits
    exact ⟨s', hexec, hstored.other, hexpected, hstored.bytes, hstored.hostLog⟩
  · intro hhomed hturn hearly hahead hwaiters hop hkeys
    obtain ⟨htop, hhome⟩ := hhomed
    refine ⟨fun hadmits => ?_, fun hadmits => peerPacketArrival_refused htop hturn hearly hahead hop hadmits⟩
    obtain ⟨s', hexec, hstored, hagain⟩ := peerPacketArrival_stores htop hhome hturn hearly hahead hwaiters hop hkeys hadmits
    have hsent := s'.answerPeer_sent pkt .performed
    refine ⟨s', hexec, hstored.other, hstored.bytes, hstored.hostLog, _, hagain, hsent.sameMemory, ?_⟩
    rw [hsent.hostLog, hstored.hostLog, List.append_assoc]
    rfl

end Sys2Proof.Machine
end

section
/-! SUPPORT. The words of the instructions (R35, R50 to R54): a word by its fields, and the round trip between decoder and encoder. -/

namespace Sys2Proof

/-! ## The fields of a word (R35) -/

/-- The bits of a word from lo upwards are the field x. Decoder and encoder are compared field by field: the encoder joins fields, the
decoder reads them. -/
def HasField (w : Word) (lo : Nat) {n : Nat} (x : BitVec n) : Prop := w.extractLsb' lo n = x

theorem hasField_word {w x : Word} : HasField w 0 x ↔ w = x := by
  rw [HasField, BitVec.extractLsb'_eq_self]

theorem hasField_append {w : Word} {lo m n : Nat} {x : BitVec m} {y : BitVec n} :
    HasField w lo (x ++ y) ↔ HasField w (lo + n) x ∧ HasField w lo y := by
  unfold HasField
  rw [← BitVec.extractLsb'_append_extractLsb'_eq_extractLsb' rfl]
  constructor
  · intro h
    exact ⟨by simpa [BitVec.extractLsb'_append_eq_of_le] using congrArg (·.extractLsb' n m) h,
      by simpa [BitVec.extractLsb'_append_eq_of_add_le] using congrArg (·.extractLsb' 0 n) h⟩
  · rintro ⟨rfl, rfl⟩
    rfl

theorem hasField_bit {w : Word} {lo : Nat} {b : Bool} : HasField w lo (BitVec.ofBool b) ↔ w.getLsbD lo = b := by
  rw [HasField, ← BitVec.toNat_inj, BitVec.extractLsb'_toNat, BitVec.toNat_ofBool, Nat.shiftRight_eq_div_pow, BitVec.getLsbD,
    Nat.testBit_eq_decide_div_mod_eq]
  rcases Nat.mod_two_eq_zero_or_one (w.toNat / 2 ^ lo) with h | h <;> cases b <;> simp [h]

/-- A constant field is two fields where it is their concatenation. -/
theorem hasField_split {w : Word} {lo m n : Nat} {c : BitVec (m + n)} (x : BitVec m) (y : BitVec n) (h : x ++ y = c) :
    HasField w lo c ↔ HasField w (lo + n) x ∧ HasField w lo y := h ▸ hasField_append

/-- The opcode is the row and the column of the opcode map (R50). -/
theorem hasField_opcode {w : Word} {o : BitVec 8} :
    HasField w 24 o ↔ wfld w 28 4 = o.extractLsb' 4 4 ∧ wfld w 24 4 = o.extractLsb' 0 4 :=
  hasField_split (o.extractLsb' 4 4) (o.extractLsb' 0 4)
    ((BitVec.extractLsb'_append_extractLsb'_eq_extractLsb' rfl).trans BitVec.extractLsb'_eq_self)

/-! Constants of the encoder that the decoder reads as a form and as bits fixed at zero. -/

theorem hasField_mopSave {w : Word} : HasField w 8 1280#16 ↔ HasField w 16 5#8 ∧ HasField w 8 0#8 :=
  hasField_split (n := 8) _ _ rfl

theorem hasField_noOperands {w : Word} : HasField w 0 0#24 ↔ HasField w 16 0#8 ∧ HasField w 0 0#16 :=
  hasField_split (n := 16) _ _ rfl

theorem hasField_fenceAcq {w : Word} : HasField w 0 65536#24 ↔ HasField w 16 1#8 ∧ HasField w 0 0#16 :=
  hasField_split (n := 16) _ _ rfl

theorem hasField_fenceRel {w : Word} : HasField w 0 131072#24 ↔ HasField w 16 2#8 ∧ HasField w 0 0#16 :=
  hasField_split (n := 16) _ _ rfl

theorem hasField_fenceFull {w : Word} : HasField w 0 196608#24 ↔ HasField w 16 3#8 ∧ HasField w 0 0#16 :=
  hasField_split (n := 16) _ _ rfl

theorem hasField_stclr {w : Word} : HasField w 8 0#16 ↔ HasField w 16 0#8 ∧ HasField w 8 0#8 :=
  hasField_split (n := 8) _ _ rfl

theorem hasField_probe {w : Word} : HasField w 1 0#7 ↔ (wfld w 0 8).toNat < 2 := by
  rw [HasField, ← BitVec.toNat_inj, BitVec.extractLsb'_toNat, BitVec.extractLsb'_toNat, Nat.shiftRight_eq_div_pow]
  simp
  omega

/-! ## Decode and encode (R50 to R54) -/

theorem mem_readableNumbers_of_writable {num : BitVec 16} (h : decide (num ∈ writableNumbers) = true) :
    decide (num ∈ readableNumbers) = true := by
  simp only [writableNumbers, List.mem_cons, List.not_mem_nil, or_false, decide_eq_true_eq] at h
  rcases h with rfl | rfl | rfl <;> simp [readableNumbers]

/-- For each instruction: the fields of its word, then what the decoder makes of them. The instructions named are those of which the decoder
itself checks a field. -/
theorem decodeFields_encode {i : Instr} {w : Word} (hwf : i.wf = true) (h : encode i = some w) : decodeFields w = .ok i := by
  obtain ⟨x, hx, hf⟩ : ∃ x, encode i = some x ∧ HasField w 0 x := ⟨w, h, hasField_word.2 rfl⟩
  clear h
  cases i <;> cases hx
  all_goals
    simp only [hasField_append] at hf
    simp only [Nat.reduceAdd, hasField_bit, hasField_opcode, BitVec.reduceExtractLsb', hasField_mopSave, hasField_noOperands,
      hasField_fenceAcq, hasField_fenceRel, hasField_fenceFull, hasField_stclr, hasField_probe] at hf
    simp only [HasField] at hf
    simp only [decodeFields, decode0, decode1, decode2, decode3, decode4, decode5, decode6, decode7, decode8, decode9, decodeA, decodeB,
      decodeC, decodeD, decodeE, decodeF, wfld, wv, wbit, ws, wzero, hf, BitVec.reduceToNat, whenZero, BitVec.ofNat_eq_ofNat,
      beq_self_eq_true, Bool.and_self, if_true]
  case vlane.refl => exact if_pos hwf
  case vtest.refl => exact if_pos hwf
  case vcmp.refl => exact if_pos hwf
  case fdefi.refl => exact if_pos hwf
  case waitp.refl => exact if_pos hwf
  case srd.refl => exact if_pos hwf
  case swr.refl => exact if_pos (mem_readableNumbers_of_writable hwf)
  case clkrd.refl => exact if_pos (Bool.and_eq_true_iff.1 hwf).2
  case semsigGen.refl => exact if_neg (by simpa using (Bool.and_eq_true_iff.1 hwf).1)
  case rsigGen.refl => exact if_neg (by simpa using (Bool.and_eq_true_iff.1 hwf).1)

/-- For each row and column of the opcode map and each form: the word has the fields that the encoder joins. -/
theorem encode_of_decodeFields {w : Word} {i : Instr} (h : decodeFields w = .ok i) : encode i = some w := by
  suffices h : ∃ x, encode i = some x ∧ HasField w 0 x by
    obtain ⟨x, hx, hf⟩ := h
    rw [hx, hasField_word.1 hf]
  unfold decodeFields at h
  generalize hrow : (wfld w 28 4).toNat = row at h
  have hrow_lt : row < 16 := hrow ▸ (wfld w 28 4).isLt
  interval_cases row <;> simp only [decode0, decode1, decode2, decode3, decode4, decode5, decode6, decode7, decode8, decode9, decodeA,
    decodeB, decodeC, decodeD, decodeE, decodeF, whenZero, wzero, Bool.and_eq_true, beq_iff_eq] at h
  all_goals
    generalize hcol : (wfld w 24 4).toNat = col at h
    have hcol_lt : col < 16 := hcol ▸ (wfld w 24 4).isLt
    interval_cases col
    all_goals
      simp only at h
      repeat' split at h
      all_goals cases h
      all_goals
        refine ⟨_, rfl, ?_⟩
        simp only [hasField_append]
        simp only [Nat.reduceAdd, hasField_bit, hasField_opcode, BitVec.reduceExtractLsb', hasField_mopSave, hasField_noOperands,
          hasField_fenceAcq, hasField_fenceRel, hasField_fenceFull, hasField_stclr, hasField_probe]
        simp only [HasField, ← BitVec.toNat_inj (y := BitVec.ofNat _ _), *, BitVec.reduceToNat, BitVec.ofNat_eq_ofNat, and_self]

theorem decode_eq_ok_iff {w : Word} {i : Instr} : decode w = .ok i ↔ decodeFields w = .ok i ∧ i.wf = true := by
  unfold decode
  cases decodeFields w with
  | error r => simp
  | ok j =>
    by_cases hj : j.wf = true
    · simp only [hj, if_true]
      exact ⟨fun h => ⟨h, Except.ok.inj h ▸ hj⟩, fun h => h.1⟩
    · simp only [hj]
      exact ⟨nofun, fun h => absurd (Except.ok.inj h.1 ▸ h.2) hj⟩

/-- Settles O58: the decoder reads the fields that the encoder joins, and its checks are those of a well-formed instruction. -/
theorem roundTrip : Obligations.RoundTrip := by
  refine ⟨fun i w hwf h => decode_eq_ok_iff.2 ⟨decodeFields_encode hwf h, hwf⟩, fun i w h => ?_⟩
  obtain ⟨hfields, hwf⟩ := decode_eq_ok_iff.1 h
  exact ⟨hwf, encode_of_decodeFields hfields⟩

/-- Settles O57: each word by the field that its row, column and form select. -/
theorem decodeWords : Obligations.DecodeWords := by
  unfold Obligations.DecodeWords
  refine ⟨?_, ?_, ?_, ?_, ?_, ?_, ?_, ?_, ?_, ?_, ?_, ?_, ?_, ?_, ?_, ?_, ?_, ?_, ?_, ?_, ?_, ?_⟩ <;> rfl

end Sys2Proof
end

section
/-! SUPPORT. Scalar registers and the gate of a word instruction (R37, R47, R48, R53, R54, R116, R117). -/

namespace Sys2Proof.Machine

/-! ## The write of a scalar register (R37, R116, R117) -/

/-- Word b of a mask in which words were replaced. -/
theorem maskWord_maskSet (k : Nat) (m : List Word) (b : Nat) (w : Word) {c : Nat} (hc : c < k) :
    maskWord (maskSet k m b w) c = if c = b then w else maskWord m c := by
  unfold maskSet
  rw [maskWord, List.getD_eq_getElem?_getD, List.getElem?_map, List.getElem?_range hc]
  rfl

/-- A cond word that is written loses its poison bits and its token (R117). -/
theorem Team.ws_cond (t : Team) (v : Word) {r : Nat} (h : t.inCond r = true) (hx : t.inExec r = false) :
    maskWord (t.ws r v).ctl.cpois (r - 192) = 0 ∧ maskWord (t.ws r v).ctl.ctok (r - 192) = 0 := by
  have hr : 192 ≤ r ∧ r < 192 + t.beats := by simpa [Team.inCond] using h
  have hw : (t.ws r v).ctl.cpois = maskSet t.beats t.ctl.cpois (r - 192) 0 ∧ (t.ws r v).ctl.ctok = maskSet t.beats t.ctl.ctok (r - 192) 0 := by
    unfold Team.ws
    rw [if_neg (by omega), if_neg (by simp [hx]), if_pos h]
    exact ⟨rfl, rfl⟩
  have hb : r - 192 < t.beats := by omega
  rw [hw.1, hw.2, maskWord_maskSet _ _ _ _ hb, maskWord_maskSet _ _ _ _ hb]
  simp

/-- Settles O1: the reads after a write of a scalar register, and what the write leaves. -/
theorem zeroAndScalarWrite : Obligations.ZeroAndScalarWrite := by
  unfold Obligations.ZeroAndScalarWrite
  refine ⟨fun t v => ⟨by simp [Team.rs], by simp [Team.ws]⟩, fun t r v h0 _ hb => ?_⟩
  refine ⟨?_, fun q hq => t.rs_ws_ne r v (by simpa using hq), fun q l => t.lane_ws r v q l, t.ws_pc r v, fun hc => ?_⟩
  · rw [Team.rs_ws, if_neg h0]
    simp [Team.inExec]
  · exact t.ws_cond v (by simpa [Team.inCond] using hc) (by simp [Team.inExec]; omega)

/-! ## A trap (R378) -/

@[simp] theorem State.trap_mem (s : State) (slot : Nat) (r : Report) : (s.trap slot r).mem = s.mem := by
  unfold State.trap; split <;> rfl

/-- A trap writes no memory (R378). -/
theorem State.sameMemory_trap (s : State) (slot : Nat) (r : Report) : SameMemory s (s.trap slot r) := by
  intro k; simp [memByte]

/-- A trapped team joins the trap queue of its die (R378). -/
theorem State.trap_trapQueue {s : State} {slot : Nat} {t : Team} (ht : s.team? slot = some t) (r : Report) :
    ((s.trap slot r).die (dieOf t.core)).trapQueue = (s.die (dieOf t.core)).trapQueue ++ [slot] := by
  rw [State.trap_eq ht, State.die_onDie]; rfl

/-! ## The gate (R48, R53) -/

/-- The registers a word instruction waits for (R20, R48): its own, the exec window, and under a guard the cond window. -/
def Need.waitsFor (n : Need) (t : Team) (r : Nat) : Prop :=
  r ∈ n.sr ++ n.sw ∨ (n.own = false ∧ r ∈ t.execRegs) ∨ (n.lanes = true ∧ t.guard ≠ 0 ∧ r ∈ t.condRegs)

theorem Need.mem_scalars (n : Need) (t : Team) (r : Nat) : r ∈ n.scalars t ↔ n.waitsFor t r := by
  unfold Need.scalars Need.waitsFor
  simp only [List.mem_append]
  by_cases ho : n.own = true <;> by_cases hl : n.lanes = true <;> by_cases hg : t.guard = 0 <;> simp [ho, hl, hg, or_assoc]

theorem Failure.hits_iff (f : Failure) (ss vs : List Nat) : f.hits ss vs = true ↔ (∃ r ∈ f.sregs, r ∈ ss) ∨ ∃ r ∈ f.vregs, r ∈ vs := by
  simp [Failure.hits, List.any_eq_true]

section
variable {t : Team} {mx : Bool} {i : Instr}

/-- The checks of R53 that give ILLEGAL. -/
theorem Team.gate_illegal (h : (!i.wf || (needOf t mx i).bad || ((needOf t mx i).vr ++ (needOf t mx i).vw).any fun r => decide (t.nvregs ≤ r)) = true) :
    t.gate mx i = .illegal := by
  simp only [Team.gate, h, if_true]

/-- Where no check gives ILLEGAL, the role decides. -/
theorem Team.gate_role (h : t.gate mx i ≠ .illegal) (hr : t.role ∉ (needOf t mx i).roles) : t.gate mx i = .role := by
  have hb := mt Team.gate_illegal h
  simp only [Team.gate, hb, Bool.false_eq_true, if_false]
  simp [hr]

/-- Past the checks of form and role a drain's fault in a register needed comes first (R299). -/
theorem Team.gate_drained (h : t.gate mx i ≠ .illegal) (hr : t.gate mx i ≠ .role) {d : DrainMark}
    (hd : t.drains.find? (fun d => ((needOf t mx i).scalars t).contains d.reg) = some d) : t.gate mx i = .drained d := by
  have hb := mt Team.gate_illegal h
  have hm := not_imp_comm.mp (Team.gate_role h) hr
  simp only [Team.gate, hb, hd, Bool.false_eq_true, if_false, List.contains_iff_mem.mpr hm, Bool.not_true]

/-- Then a failure that left one of them empty (R198). -/
theorem Team.gate_failed (h : t.gate mx i ≠ .illegal) (hr : t.gate mx i ≠ .role) (hd : ∀ d ∈ t.drains, d.reg ∉ (needOf t mx i).scalars t)
    {f : Failure} (hf : t.failures.find? (fun f => f.hits ((needOf t mx i).scalars t) ((needOf t mx i).vr ++ (needOf t mx i).vw)) = some f) :
    t.gate mx i = .failed f := by
  have hb := mt Team.gate_illegal h
  have hm := not_imp_comm.mp (Team.gate_role h) hr
  have hdn : t.drains.find? (fun d => ((needOf t mx i).scalars t).contains d.reg) = none := by
    rw [List.find?_eq_none]; intro d hmem; simpa using hd d hmem
  simp only [Team.gate, hb, hdn, hf, Bool.false_eq_true, if_false, List.contains_iff_mem.mpr hm, Bool.not_true]

/-- With no drain's fault and no failure in the registers needed, emptiness and the exec window decide. -/
theorem Team.gate_free (h : t.gate mx i ≠ .illegal) (hr : t.gate mx i ≠ .role) (hd : ∀ d ∈ t.drains, d.reg ∉ (needOf t mx i).scalars t)
    (hf : ∀ f ∈ t.failures, f.hits ((needOf t mx i).scalars t) ((needOf t mx i).vr ++ (needOf t mx i).vw) = false) :
    t.gate mx i =
      if (((needOf t mx i).scalars t).any t.sEmpty || ((needOf t mx i).vr ++ (needOf t mx i).vw).any t.vEmpty) = true then .wait
      else if (t.noExec && !(needOf t mx i).always) = true then .skip
      else .go := by
  have hb := mt Team.gate_illegal h
  have hm := not_imp_comm.mp (Team.gate_role h) hr
  have hdn : t.drains.find? (fun d => ((needOf t mx i).scalars t).contains d.reg) = none := by
    rw [List.find?_eq_none]; intro d hmem; simpa using hd d hmem
  have hfn : t.failures.find? (fun f => f.hits ((needOf t mx i).scalars t) ((needOf t mx i).vr ++ (needOf t mx i).vw)) = none := by
    rw [List.find?_eq_none]; intro f hmem; simp [hf f hmem]
  simp only [Team.gate, hb, hdn, hfn, Bool.false_eq_true, if_false, List.contains_iff_mem.mpr hm, Bool.not_true]

/-- RET and KILL wait for the cond window where they pop an entry (R141). -/
theorem Team.gate_pops (hi : i = .ret ∨ i = .kill) (hz : t.depth ≠ 0) (hd : t.drains = []) (hf : t.failures = []) (h : t.gate mx i ≠ .illegal)
    (hr : t.gate mx i ≠ .role) (he : ∃ r ∈ t.condRegs, t.sEmpty r = true) : t.gate mx i = .wait := by
  obtain ⟨r, hm, hr0⟩ := he
  have hmem : r ∈ (needOf t mx i).scalars t := by
    rw [Need.mem_scalars]
    left
    rcases hi with rfl | rfl <;> simp [needOf, hz, hm]
  rw [Team.gate_free h hr (by simp [hd]) (by simp [hf]), if_pos]
  rw [Bool.or_eq_true]
  exact .inl (List.any_eq_true.mpr ⟨r, hmem, hr0⟩)

/-- PROBE waits for its destination alone (R136). -/
theorem Team.gate_probe {sd : SReg} {reg : BitVec 8} {vec : Bool} (hw : (Instr.probe sd reg vec).wf = true) (hr : t.role ≤ 3)
    (hv : vec = true → reg.toNat < t.nvregs) (he : t.sEmpty sd.toNat = false) (hd : t.drains = []) (hf : t.failures = []) :
    t.gate mx (.probe sd reg vec) = .go := by
  have hb : (vec && decide (t.nvregs ≤ reg.toNat)) = false := by
    cases vec <;> simp_all
  have hroles : [0, 1, 2, 3].contains t.role = true := by
    simp; omega
  simp only [Team.gate, needOf, hroles]
  simp [hw, hb, hd, hf, Need.scalars, he]

end

/-- Settles O2: the gate, and what `issue` makes of what it finds. -/
theorem gateTraps : Obligations.GateTraps := by
  unfold Obligations.GateTraps
  refine ⟨fun i w s slot t hw hc ht hi hg => ?_, fun i w s slot t hw hc ht hi hg => ?_, fun i w s slot t hw hc ht hi => ?_, fun i t mx => ?_⟩
  · obtain ⟨body, hb⟩ := exec_issue i w s hw
    have he : exec i s = .next (s.illegal slot) := by rw [hb, issue_gate hc ht hi, hg]
    rw [State.illegal_eq ht] at he ⊢
    refine ⟨he, _, _, he, State.trap_team ht _, ?_⟩
    exact ⟨rfl, rfl, rfl, rfl, rfl, rfl, s.sameMemory_trap slot _, State.trap_trapQueue ht _⟩
  · obtain ⟨body, hb⟩ := exec_issue i w s hw
    have he : exec i s = .next (s.trap slot (Report.precise 0x11 t.allLanes)) := by rw [hb, issue_gate hc ht hi, hg]
    refine ⟨he, _, _, he, State.trap_team ht _, ?_⟩
    exact ⟨rfl, rfl, rfl, rfl, rfl, rfl, s.sameMemory_trap slot _⟩
  · obtain ⟨body, hb⟩ := exec_issue i w s hw
    rw [hb, issue_gate hc ht hi]
    exact ⟨fun hg => by rw [hg], fun hg => by rw [hg], fun f hg => by rw [hg], fun d hg => by rw [hg]⟩
  · intro n needs hits stops
    have hss (r : Nat) : r ∈ n.scalars t ↔ needs r := n.mem_scalars t r
    have hhits (f : Failure) : f.hits (n.scalars t) (n.vr ++ n.vw) = true ↔ hits f := by simp only [Failure.hits_iff, hss]; rfl
    have hstops : ((n.scalars t).any t.sEmpty || (n.vr ++ n.vw).any t.vEmpty) = true ↔ stops := by
      simp only [Bool.or_eq_true, List.any_eq_true, hss]
      rfl
    refine ⟨fun h => Team.gate_illegal (by simp [h]), fun r hm hr => Team.gate_illegal ?_, Team.gate_role, fun h hr => ⟨fun d hd => ?_, ?_⟩,
      hss, fun hd hf => ⟨fun hi hz h hr => Team.gate_pops hi hz hd hf h hr, ?_⟩⟩
    · rw [Bool.or_eq_true]
      exact .inr (List.any_eq_true.mpr ⟨r, hm, by simpa using hr⟩)
    · exact Team.gate_drained h hr (by simpa using hd)
    · intro hd
      have hd0 : ∀ d ∈ t.drains, d.reg ∉ n.scalars t := fun d hm hmem => hd d hm ((hss _).mp hmem)
      refine ⟨fun f rest hf hh => ?_, fun hf => ?_⟩
      · exact Team.gate_failed h hr hd0 (by rw [hf]; exact List.find?_cons_of_pos ((hhits f).mpr hh))
      · have hg := Team.gate_free h hr hd0 fun f hm => by
          by_contra hne
          exact hf f hm ((hhits f).mp (by simpa using hne))
        refine ⟨fun hs => by rw [hg, if_pos (hstops.mpr hs)], fun hs => ?_⟩
        rw [hg, if_neg (fun hh => hs (hstops.mp hh))]
        simp [n]
    · rintro sd reg vec rfl hw hrole hv he
      exact Team.gate_probe hw hrole hv he hd hf

end Sys2Proof.Machine
end

section
/-! SUPPORT. Special registers (R37, R232, R361, R375) and uniform branches (R36, R120, R121, R131). -/

namespace Sys2Proof.Machine

/-! ## Special registers (R375) -/

section
variable {s : State} {slot : Nat} {t : Team}

theorem exec_srd {sd : SReg} {num : BitVec 16} (h : Runs s slot t (.srd sd num)) :
    exec (.srd sd num) s = .next (s.setTeam slot (t.ws sd.toNat (s.special t num.toNat)).advance) :=
  scalarInstr_runs h _ _

theorem State.special_lvidx (s : State) (t : Team) {n : Nat} (h : n < 8) : s.special t (0x10 + n) = t.lvidx.getD n 0 := by
  unfold State.special
  rw [if_pos (by omega)]
  simp

theorem State.special_lvext (s : State) (t : Team) {n : Nat} (h : n < 8) : s.special t (0x18 + n) = t.lvext.getD n 0 := by
  unfold State.special
  rw [if_neg (by omega), if_pos (by omega)]
  simp

/-- The ply of a group, low and high half, in a deterministic partition; zero in another (R375). -/
theorem State.special_ply {g : Group} (hg : s.group? t.group = some g) :
    s.special t 0x20 = (if (s.part g.part).det then g.ply.extractLsb' 0 32 else 0) ∧
      s.special t 0x21 = (if (s.part g.part).det then g.ply.extractLsb' 32 32 else 0) := by
  by_cases hd : (s.part g.part).det = true <;> simp [State.special, hg, hd]

/-- SWR, by the register it names (R232, R361, R375). -/
theorem exec_swr {sa : SReg} {num : BitVec 16} (h : Runs s slot t (.swr sa num)) :
    exec (.swr sa num) s =
      if num = 8 then
        if 2 < (t.rs sa.toNat).toNat then .next (s.illegal slot) else s.done slot { t with akind := (t.rs sa.toNat).setWidth 2 }
      else if num = 0x22 then
        if 4096 < (t.rs sa.toNat).toNat % 2 ^ 13 then .next (s.illegal slot)
        else s.done slot { t with brtab := t.brtab.extractLsb' 32 32 ++ t.rs sa.toNat }
      else if num = 0x23 then s.done slot { t with brtab := t.rs sa.toNat ++ t.brtab.extractLsb' 0 32 }
      else .next (s.illegal slot) := by
  have he : exec (.swr sa num) s = execSwr sa num s := rfl
  rw [he, execSwr, issue_runs h]
  by_cases h8 : num = 8
  · subst h8; rfl
  by_cases h22 : num = 0x22
  · subst h22; rfl
  by_cases h23 : num = 0x23
  · subst h23; rfl
  rw [if_neg h8, if_neg h22, if_neg h23]
  have hne {n : BitVec 16} (hn : num ≠ n) : num.toNat ≠ n.toNat := mt BitVec.eq_of_toNat_eq hn
  dsimp only
  split
  · exact absurd ‹_› (hne h8)
  · exact absurd ‹_› (hne h22)
  · exact absurd ‹_› (hne h23)
  · rfl

end

/-- Settles O45: SRD register by register, and SWR by the value of what it writes. -/
theorem specialRegisters : Obligations.SpecialRegisters := by
  unfold Obligations.SpecialRegisters
  intro s slot t sd sa num reads v ring
  refine ⟨fun h => ?_, fun h => ?_⟩
  · have reads_of {w : Word} (hw : s.special t num.toNat = w) : reads w := by
      subst hw; exact exec_srd h
    refine ⟨?_, ?_, ?_, ?_, ?_, ?_, ?_, ?_, ?_, ?_, ?_, ?_, ?_, ?_, ?_, ?_, ?_, ?_⟩
    · rintro rfl; exact reads_of rfl
    · rintro g hg rfl
      exact reads_of (by simp [State.special, hg])
    · rintro rfl; exact reads_of rfl
    · rintro rfl; exact reads_of rfl
    · rintro rfl; exact reads_of rfl
    · rintro rfl; exact reads_of rfl
    · rintro rfl; exact reads_of rfl
    · rintro rfl; exact reads_of rfl
    · rintro rfl; exact reads_of rfl
    · rintro rfl
      exact reads_of (by rw [Nat.mul_comm]; rfl)
    · rintro n hn rfl
      refine reads_of ?_
      rw [BitVec.toNat_ofNat, Nat.mod_eq_of_lt (by omega), State.special_lvidx s t hn]
    · rintro n hn rfl
      refine reads_of ?_
      rw [BitVec.toNat_ofNat, Nat.mod_eq_of_lt (by omega), State.special_lvext s t hn]
    · rintro g hg hdet
      have hply := State.special_ply hg
      rw [hdet] at hply
      exact ⟨by rintro rfl; exact reads_of hply.1, by rintro rfl; exact reads_of hply.2⟩
    · rintro g hg hdet hn
      have hply := State.special_ply hg
      rw [hdet] at hply
      rcases hn with rfl | rfl
      · exact reads_of hply.1
      · exact reads_of hply.2
    · rintro rfl; exact reads_of rfl
    · rintro rfl; exact reads_of rfl
    · rintro rfl; exact reads_of rfl
    · rintro rfl; exact reads_of rfl
  · rw [exec_swr h]
    refine ⟨?_, ?_, ?_, ?_⟩
    · rintro rfl hv
      rw [if_pos rfl, if_neg (Nat.not_lt.mpr hv), BitVec.setWidth_eq_extractLsb' (by decide)]
      rfl
    · rintro rfl hv
      rw [if_neg (by decide), if_pos rfl, if_neg (Nat.not_lt.mpr hv)]
      rfl
    · rintro rfl
      rfl
    · rintro (⟨rfl, hv⟩ | ⟨rfl, hv⟩ | ⟨h8, h22, h23⟩)
      · rw [if_pos rfl, if_pos hv]
      · rw [if_neg (by decide), if_pos rfl, if_pos hv]
      · rw [if_neg h8, if_neg h22, if_neg h23]

/-! ## Uniform branches (R36, R120, R121, R131) -/

theorem Word.ne_zero_iff (w : Word) : w ≠ 0 ↔ ∃ j, j < 32 ∧ w.getLsbD j = true := by
  constructor
  · intro h
    by_contra hn
    refine h (BitVec.eq_of_getLsbD_eq fun j hj => ?_)
    rw [show (0 : Word) = 0#32 from rfl, BitVec.getLsbD_zero]
    by_contra hb
    exact hn ⟨j, hj, by simpa using hb⟩
  · rintro ⟨j, _, hj⟩ rfl
    simp at hj

/-- Lane L's bit of a window of k registers. -/
theorem Team.maskBit_window (t : Team) (r : Nat) {l : Nat} (hl : l < t.lanes) :
    maskBit (t.window r) l = (t.rs (r + l / 32)).getLsbD (l % 32) := by
  have hb : l / 32 < t.beats := by unfold Team.lanes at hl; omega
  rw [maskBit, maskWord, Team.window, List.getD_eq_getElem?_getD, List.getElem?_map, List.getElem?_range hb]
  rfl

/-- The pairs of words of the exec window and a window. -/
theorem Team.zip_window (t : Team) (r : Nat) :
    t.execWindow.zip (t.window r) = (List.range t.beats).map fun b => (t.rs (224 + b), t.rs (r + b)) := by
  simp [Team.execWindow, Team.window, List.zip_map']

/-- A lane is a word and a bit of it. -/
theorem Team.exists_lane {t : Team} {p : Nat → Nat → Prop} :
    (∃ b, b < t.beats ∧ ∃ j, j < 32 ∧ p b j) ↔ ∃ l, l < t.lanes ∧ p (l / 32) (l % 32) := by
  constructor
  · rintro ⟨b, hb, j, hj, h⟩
    refine ⟨32 * b + j, by unfold Team.lanes; omega, ?_⟩
    rwa [show (32 * b + j) / 32 = b by omega, show (32 * b + j) % 32 = j by omega]
  · rintro ⟨l, hl, h⟩
    exact ⟨l / 32, by unfold Team.lanes at hl; omega, l % 32, by omega, h⟩

theorem Team.anyIn_eq (t : Team) (r : Nat) :
    t.anyIn r = (List.range t.lanes).any fun l => t.exec l && maskBit (t.window r) l := by
  rw [Bool.eq_iff_iff, Team.anyIn, Team.zip_window]
  simp only [List.any_eq_true, List.mem_map, List.mem_range, exists_exists_and_eq_and, bne_iff_ne, Word.ne_zero_iff, BitVec.getLsbD_and,
    Team.exists_lane]
  refine exists_congr fun l => and_congr_right fun hl => ?_
  rw [t.maskBit_window r hl]
  rfl

theorem Team.allIn_eq (t : Team) (r : Nat) :
    t.allIn r = (List.range t.lanes).all fun l => !t.exec l || maskBit (t.window r) l := by
  rw [← Bool.not_inj_iff, Bool.eq_iff_iff, Team.allIn, Team.zip_window, List.not_all_eq_any_not, List.not_all_eq_any_not]
  simp only [List.any_eq_true, List.mem_map, List.mem_range, exists_exists_and_eq_and, Bool.not_eq_true', beq_eq_false_iff_ne, Word.ne_zero_iff,
    BitVec.getLsbD_and, Bool.not_or, Bool.not_not]
  have hand {w : Word} {j : Nat} (hj : j < 32) : (~~~w).getLsbD j = !w.getLsbD j := by simp [hj]
  refine (Team.exists_lane (p := fun b j => ((t.rs (224 + b)).getLsbD j && (~~~t.rs (r + b)).getLsbD j) = true)).trans ?_
  refine exists_congr fun l => and_congr_right fun hl => ?_
  rw [t.maskBit_window r hl, hand (Nat.mod_lt _ (by decide))]
  rfl

/-- A branch's target: its own address plus 4 times its offset (R36). -/
theorem branchTo_eq {w : Nat} (pc : Dbl) (off : BitVec w) : branchTo pc off = pc + BitVec.ofInt 64 (4 * off.toInt) := by
  rw [branchTo, Int.mul_comm, BitVec.ofInt_mul]
  rfl

/-- A loop stays while the PC is inside its body, and is inactive with count 0 once the PC has left it (R131, log entry 17). -/
theorem LoopState.leave_inside {l : LoopState} {pc : Dbl} (h : l.active = false ∨ (l.start.toNat ≤ pc.toNat ∧ pc.toNat ≤ l.last.toNat)) :
    l.leave pc = l := by
  unfold LoopState.leave
  rcases h with h | h <;> simp [h]

theorem LoopState.leave_outside {l : LoopState} {pc : Dbl} (ha : l.active = true)
    (h : ¬ (l.start.toNat ≤ pc.toNat ∧ pc.toNat ≤ l.last.toNat)) : l.leave pc = { l with lc := 0, active := false, buffer := [] } := by
  unfold LoopState.leave
  simp only [ha, h, decide_false, Bool.not_false, Bool.and_self, if_true]

/-- Every uniform branch raises the fault of the cond words it reads, or goes to its target where it is taken, else on (R120, R121). -/
theorem exec_branch {i : Instr} {s : State} {slot : Nat} {t : Team} {off : Int} {rs : List Nat} {taken : Bool} (h : Runs s slot t i)
    (hb : Claim.branch t i = some (off, rs, taken)) :
    (∀ r, t.condFault rs = some r → exec i s = .next (s.trap slot r)) ∧
      (t.condFault rs = none →
        exec i s = .next (s.setTeam slot (if taken then t.goto (t.pc + BitVec.ofInt 64 (4 * off)) else t.advance))) := by
  have runs {w : BitVec 16} {reads : Team → List Nat} {tk : Team → Bool} (he : exec i s = branchInstr i s reads w tk) (hr : reads t = rs)
      (ht : tk t = taken) (ho : off = w.toInt) : (∀ r, t.condFault rs = some r → exec i s = .next (s.trap slot r)) ∧
      (t.condFault rs = none →
        exec i s = .next (s.setTeam slot (if taken then t.goto (t.pc + BitVec.ofInt 64 (4 * off)) else t.advance))) := by
    rw [he, branchInstr, issue_runs h, hr, ht, ho, ← branchTo_eq]
    refine ⟨fun r hf => by rw [hf], fun hf => ?_⟩
    rw [hf]
    cases taken <;> rfl
  unfold Claim.branch at hb
  split at hb <;> simp only [Option.some.injEq, Prod.mk.injEq, reduceCtorEq] at hb
  case h_1 w =>
    obtain ⟨rfl, rfl, rfl⟩ := hb
    refine ⟨fun r hr => absurd hr (by simp [Team.condFault, Team.condWordsIn]), fun _ => ?_⟩
    have he : exec (.bra w) s = execBra w s := rfl
    rw [he, execBra, issue_runs h, ← branchTo_eq]
    rfl
  case h_2 sa w =>
    obtain ⟨rfl, rfl, rfl⟩ := hb
    exact runs rfl rfl (t.anyIn_eq _) rfl
  case h_3 sa w =>
    obtain ⟨rfl, rfl, rfl⟩ := hb
    exact runs rfl rfl (t.allIn_eq _) rfl
  case h_4 sa w =>
    obtain ⟨rfl, rfl, rfl⟩ := hb
    exact runs rfl rfl (congrArg Bool.not (t.anyIn_eq _)) rfl
  case h_5 sa w =>
    obtain ⟨rfl, rfl, rfl⟩ := hb
    exact runs rfl rfl (by rw [Bool.eq_iff_iff]; simp [← BitVec.toNat_inj]) rfl
  case h_6 sa w =>
    obtain ⟨rfl, rfl, rfl⟩ := hb
    exact runs rfl rfl (by rw [Bool.eq_iff_iff]; simp [← BitVec.toNat_inj]) rfl

/-- The least element of a rising list is its first. -/
theorem eq_cons_of_least {l : List Nat} (hs : l.Pairwise (· < ·)) {x : Nat} (hx : x ∈ l) (hl : ∀ y ∈ l, x ≤ y) : ∃ tl, l = x :: tl := by
  cases l with
  | nil => cases hx
  | cons y tl =>
    have hxy := hl y List.mem_cons_self
    rcases List.mem_cons.mp hx with rfl | hm
    · exact ⟨tl, rfl⟩
    · have := List.rel_of_pairwise_cons hs hm
      omega

theorem Team.mem_poisonedLanes {t : Team} {b l : Nat} :
    l ∈ t.poisonedLanes b ↔ l / 32 = b ∧ t.exec l = true ∧ maskBit t.ctl.cpois l = true := by
  simp only [Team.poisonedLanes, List.mem_filter, List.mem_map, List.mem_range, Bool.and_eq_true]
  refine and_congr_left fun _ => ⟨?_, fun h => ⟨l % 32, by omega, by omega⟩⟩
  rintro ⟨j, hj, rfl⟩
  omega

/-- The lowest word with a poisoned lane among those read gives its token, and its lanes are named (R121). -/
theorem Team.condFault_lowest {t : Team} {rs : List Nat} {l : Nat} (hl : l < t.lanes) (hr : 192 + l / 32 ∈ rs) (he : t.exec l = true)
    (hp : maskBit t.ctl.cpois l = true)
    (hlow : ∀ m, m < t.lanes → m / 32 < l / 32 → 192 + m / 32 ∈ rs → t.exec m = true → maskBit t.ctl.cpois m = false) :
    ∃ ls, l ∈ ls ∧ t.condFault rs = some (Report.raise (maskWord t.ctl.ctok (l / 32)) (t.lanesMask ls)) := by
  have hlanes {b : Nat} (hb : b < t.beats) {m : Nat} (hm : m / 32 = b) : m < t.lanes := by unfold Team.lanes; omega
  have hin : l ∈ t.poisonedLanes (l / 32) := Team.mem_poisonedLanes.mpr ⟨rfl, he, hp⟩
  have hbeat : l / 32 < t.beats := by unfold Team.lanes at hl; omega
  obtain ⟨bs, hbs⟩ : ∃ bs, ((t.condWordsIn rs).filter fun b => !(t.poisonedLanes b).isEmpty) = l / 32 :: bs := by
    refine eq_cons_of_least (List.Pairwise.filter _ (List.Pairwise.filter _ List.pairwise_lt_range)) ?_ fun b hb => ?_
    · simp only [List.mem_filter, List.mem_range, List.contains_iff_mem]
      exact ⟨⟨hbeat, hr⟩, by simpa using List.ne_nil_of_mem hin⟩
    · simp only [List.mem_filter, List.mem_range, List.contains_iff_mem] at hb
      obtain ⟨⟨hb, hbr⟩, hne⟩ := hb
      obtain ⟨m, hm⟩ := List.exists_mem_of_ne_nil (t.poisonedLanes b) (by simpa using hne)
      obtain ⟨rfl, hme, hmp⟩ := Team.mem_poisonedLanes.mp hm
      by_contra hlt
      have := hlow m (hlanes hb rfl) (by omega) hbr hme
      rw [this] at hmp
      cases hmp
  refine ⟨((l / 32 :: bs).map t.poisonedLanes).flatten, ?_, ?_⟩
  · rw [List.mem_flatten]
    exact ⟨_, List.mem_map_of_mem List.mem_cons_self, hin⟩
  · rw [Team.condFault, hbs]

/-- Settles O16: every uniform branch by `exec_branch`, its loop by `LoopState.leave`, its fault by `Team.condFault_lowest`. -/
theorem uniformBranch : Obligations.UniformBranch := by
  unfold Obligations.UniformBranch
  refine ⟨fun i s slot t off rs taken h hb hn => ?_, fun i s slot t off rs taken l h hb hl hr he hp hlow => ?_⟩
  · have hx := (exec_branch h hb).2 hn
    refine ⟨fun ht => by rw [hx, ht]; rfl, fun ht => ?_⟩
    rw [ht, if_pos rfl] at hx
    refine ⟨_, hx, rfl, rfl, rfl, ?_⟩
    intro inside
    refine ⟨fun hin => ?_, fun ha hout => ?_⟩
    · have hkept : t.ctl.loop.leave (t.pc + BitVec.ofInt 64 (4 * off)) = t.ctl.loop := LoopState.leave_inside hin
      rw [Team.goto, hkept]
    · have hleft : (t.goto (t.pc + BitVec.ofInt 64 (4 * off))).ctl.loop = { t.ctl.loop with lc := 0, active := false, buffer := [] } :=
        LoopState.leave_outside ha hout
      rw [hleft]
      exact ⟨rfl, rfl, rfl, rfl⟩
  · obtain ⟨ls, hmem, hf⟩ := Team.condFault_lowest hl hr he hp hlow
    refine ⟨_, _, (exec_branch h hb).1 _ hf, State.trap_team h.2.1 _, ?_⟩
    refine ⟨rfl, rfl, rfl, ?_⟩
    show maskBit (maskOf t.beats fun l => ls.contains l) l = true
    rw [maskBit_maskOf _ _ _ (by unfold Team.lanes at hl; omega)]
    exact List.contains_iff_mem.mpr hmem

end Sys2Proof.Machine
end

section
/-! SUPPORT. Memory read after writes of numbers; the write of a party that owns no word; the binding of a lazy function (R73 to R75); the
return from a trap (R380). -/

namespace Sys2Proof.Machine

/-! ## Numbers in memory (R2) -/

@[simp] theorem length_leBytes (n x : Nat) : (leBytes n x).length = n := by
  induction n generalizing x with
  | zero => rfl
  | succ n ih => simp [leBytes, ih]

theorem leNat_leBytes (n x : Nat) : leNat (leBytes n x) = x % 256 ^ n := by
  induction n generalizing x with
  | zero => simp [leBytes, leNat, Nat.mod_one]
  | succ n ih =>
    rw [leBytes, leNat, ih, BitVec.toNat_ofNat, show 2 ^ 8 = 256 from rfl, ← Nat.mod_mul, ← Nat.pow_succ']

theorem Memory.nat_congr {m m' : Memory} {k n : Nat} (h : ∀ j, j < n → m'.byte (k + j) = m.byte (k + j)) : m'.nat k n = m.nat k n := by
  unfold Memory.nat Memory.bytes
  rw [List.map_congr_left fun j hj => h j (List.mem_range.mp hj)]

theorem Memory.nat_setBytes_self (m : Memory) (k n x : Nat) : (m.setBytes k (leBytes n x)).nat k n = x % 256 ^ n := by
  rw [← leNat_leBytes, Memory.nat]
  congr 1
  refine List.ext_getElem (by simp [Memory.bytes]) fun j hj _ => ?_
  have hn : j < n := by simpa [Memory.bytes] using hj
  simp [Memory.bytes, Memory.byte_setBytes, hn, List.getD_eq_getElem?_getD]

theorem Memory.nat_setBytes_ne (m : Memory) {k j n : Nat} {bs : List Byte} (h : j + n ≤ k ∨ k + bs.length ≤ j) :
    (m.setBytes k bs).nat j n = m.nat j n :=
  Memory.nat_congr fun i hi => by rw [Memory.byte_setBytes, if_neg (by omega)]

/-! ## Writes at the home (R217, R218) -/

@[simp] theorem State.homeWrite_mem (s : State) (k : Nat) (bs : List Byte) : (s.homeWrite k bs).mem = s.mem.setBytes k bs := by
  obtain ⟨_, _, h⟩ := s.homeWrite_frame k bs; rw [h]
@[simp] theorem State.homeWrite_dies (s : State) (k : Nat) (bs : List Byte) : (s.homeWrite k bs).dies = s.dies := by
  obtain ⟨_, _, h⟩ := s.homeWrite_frame k bs; rw [h]
@[simp] theorem State.homeWrite_semWaiters (s : State) (k : Nat) (bs : List Byte) : (s.homeWrite k bs).semWaiters = s.semWaiters := by
  obtain ⟨_, _, h⟩ := s.homeWrite_frame k bs; rw [h]

theorem State.wordAt_homeWrite_self (s : State) (k x : Nat) : (s.homeWrite k (leBytes 4 x)).wordAt k = word x := by
  apply BitVec.eq_of_toNat_eq
  rw [State.wordAt, State.homeWrite_mem, Memory.nat_setBytes_self]
  simp

theorem State.wordAt_homeWrite_ne (s : State) {k j : Nat} {bs : List Byte} (h : j + 4 ≤ k ∨ k + bs.length ≤ j) :
    (s.homeWrite k bs).wordAt j = s.wordAt j := by
  rw [State.wordAt, State.homeWrite_mem, Memory.nat_setBytes_ne _ h]
  rfl

theorem State.memByte_homeWrite_ne (s : State) {k j : Nat} {bs : List Byte} (h : j < k ∨ k + bs.length ≤ j) :
    memByte (s.homeWrite k bs) j = memByte s j := by
  rw [memByte, State.homeWrite_mem, Memory.byte_setBytes, if_neg (by omega)]
  rfl

/-- With no waiter a signal adds its units to COUNT, which stops at its greatest value (R238). -/
theorem State.signalAt_calm (s : State) (part key : Nat) (n : Word) (h : s.semWaiters = []) :
    s.signalAt part key none n = s.homeWrite key (leBytes 4 (min ((s.wordAt key).toNat + n.toNat) 0xFFFFFFFF)) := by
  simp [State.signalAt, State.grantAt, h, State.grantGo]

/-! ## The binding of a lazy function (R74, R75, R390) -/

/-- Single bytes written one after the other. -/
def State.writeEach (s : State) (ws : List (Nat × Byte)) : State := ws.foldl (fun s w => s.homeWrite w.1 [w.2]) s

theorem State.writeEach_cons (s : State) (w : Nat × Byte) (ws : List (Nat × Byte)) :
    s.writeEach (w :: ws) = (s.homeWrite w.1 [w.2]).writeEach ws := rfl

theorem State.writeEach_dies (s : State) (ws : List (Nat × Byte)) : (s.writeEach ws).dies = s.dies ∧ (s.writeEach ws).semWaiters = s.semWaiters := by
  induction ws generalizing s with
  | nil => exact ⟨rfl, rfl⟩
  | cons w ws ih =>
    obtain ⟨hd, hs⟩ := ih (s.homeWrite w.1 [w.2])
    rw [State.writeEach_cons]
    exact ⟨by simpa using hd, by simpa using hs⟩

theorem State.memByte_writeEach_ne (s : State) (ws : List (Nat × Byte)) {j : Nat} (h : ∀ w ∈ ws, w.1 ≠ j) :
    memByte (s.writeEach ws) j = memByte s j := by
  induction ws generalizing s with
  | nil => rfl
  | cons w ws ih =>
    have hj := h w List.mem_cons_self
    rw [State.writeEach_cons]
    exact (ih _ fun x hx => h x (List.mem_cons_of_mem _ hx)).trans (s.memByte_homeWrite_ne (by simp; omega))

/-- Each byte of a list of writes at different keys stands where it was written. -/
theorem State.memByte_writeEach (s : State) {ks : List Nat} {bs : List Byte} (hk : ks.Nodup) {n x : Nat} {b : Byte} (hx : ks[n]? = some x)
    (hb : bs[n]? = some b) : memByte (s.writeEach (ks.zip bs)) x = b := by
  induction ks generalizing s bs n with
  | nil => simp at hx
  | cons k ks ih =>
    obtain ⟨hnot, hnodup⟩ := List.nodup_cons.mp hk
    match bs, n with
    | [], _ => simp at hb
    | c :: bs, 0 =>
      simp only [List.getElem?_cons_zero, Option.some.injEq] at hx hb
      subst hx hb
      rw [List.zip_cons_cons, State.writeEach_cons]
      refine (State.memByte_writeEach_ne _ _ fun w hw => ?_).trans ?_
      · rintro rfl; exact hnot (List.of_mem_zip hw).1
      · simp [memByte, Memory.byte_setBytes]
    | c :: bs, n + 1 =>
      rw [List.zip_cons_cons, State.writeEach_cons]
      exact ih _ hnodup (by simpa using hx) (by simpa using hb)

theorem State.wordAt_congr {s s' : State} {k : Nat} (h : ∀ j, j < 4 → memByte s' (k + j) = memByte s (k + j)) : s'.wordAt k = s.wordAt k := by
  rw [State.wordAt, State.wordAt, Memory.nat_congr h]

/-- The end of a binding: WAITERS becomes 0 and SEM grows by what it held (R75). -/
def State.releaseWaiters (s : State) (part k : Nat) : State :=
  (s.homeWrite (k + 4) (leBytes 4 0)).signalAt part (k + 8) none (s.wordAt (k + 4))

/-- What a binding's end leaves: the words WAITERS and SEM as R75 says, every other byte, and the dies. -/
theorem State.releaseWaiters_spec (s : State) (part k : Nat) (h : s.semWaiters = []) :
    (s.releaseWaiters part k).dies = s.dies ∧ (s.releaseWaiters part k).wordAt (k + 4) = 0 ∧
      ((s.releaseWaiters part k).wordAt (k + 8)).toNat = min ((s.wordAt (k + 8)).toNat + (s.wordAt (k + 4)).toNat) 0xFFFFFFFF ∧
      ∀ j, j < k + 4 ∨ k + 12 ≤ j → memByte (s.releaseWaiters part k) j = memByte s j := by
  have hr : s.releaseWaiters part k = (s.homeWrite (k + 4) (leBytes 4 0)).homeWrite (k + 8)
      (leBytes 4 (min ((s.wordAt (k + 8)).toNat + (s.wordAt (k + 4)).toNat) 0xFFFFFFFF)) := by
    rw [State.releaseWaiters, State.signalAt_calm _ _ _ _ (by simpa using h), State.wordAt_homeWrite_ne _ (by simp)]
  rw [hr]
  refine ⟨by simp, ?_, ?_, fun j hj => ?_⟩
  · rw [State.wordAt_homeWrite_ne _ (by omega), State.wordAt_homeWrite_self]
    rfl
  · rw [State.wordAt_homeWrite_self, BitVec.toNat_ofNat, Nat.mod_eq_of_lt (by omega)]
  · rw [State.memByte_homeWrite_ne _ (by simp; omega), State.memByte_homeWrite_ne _ (by simp; omega)]

section
variable {s : State} {part k : Nat} {e : Dbl} {place : Option LazyPlace}

/-- An entry that is bound or failed stays (R75). -/
theorem State.bindLazy_bound (hk : s.cpKeys part .write e.toNat 32 = .ok ((List.range 32).map (k + ·))) (hb : 2 ≤ (s.wordAt k).toNat) :
    s.bindLazy part e place = s := by
  have hh : ((List.range 32).map (k + ·)).headD 0 = k := rfl
  simp only [State.bindLazy, hk, hh, hb, if_true]

/-- Without code, or for an entry of no placed object, a binding fails (R75, log entry 41). -/
theorem State.bindLazy_failed (hk : s.cpKeys part .write e.toNat 32 = .ok ((List.range 32).map (k + ·))) (hb : (s.wordAt k).toNat < 2)
    (hp : place = none ∨ s.lazyEntry part e = false) :
    s.bindLazy part e place = (s.homeWrite k (leBytes 4 3)).releaseWaiters part k := by
  have hh : ((List.range 32).map (k + ·)).headD 0 = k := rfl
  have hnone : ((if s.lazyEntry part e then place else none).bind fun p => (s.placeLazy part p).map fun x => (x, p.entry)) = none := by
    rcases hp with rfl | hp
    · simp
    · simp [hp]
  simp only [State.bindLazy, hk, hh, if_neg (Nat.not_le.mpr hb), hnone]
  rfl

/-- With code that teams may fetch a binding places it, then writes ENTRY and STATE (R74, R75). -/
theorem State.bindLazy_placed {p : LazyPlace} {ks : List Nat} (hk : s.cpKeys part .write e.toNat 32 = .ok ((List.range 32).map (k + ·)))
    (hb : (s.wordAt k).toNat < 2) (he : s.lazyEntry part e = true) (hc : p.code ≠ []) (ha : p.entry % 4 = 0)
    (hks : s.cpKeys part .fetch p.entry p.code.length = .ok ks) :
    s.bindLazy part e (some p) =
      (((s.writeEach (ks.zip p.code)).homeWrite (k + 0x10) (leBytes 8 p.entry)).homeWrite k (leBytes 4 2)).releaseWaiters part k := by
  have hh : ((List.range 32).map (k + ·)).headD 0 = k := rfl
  have hpl : s.placeLazy part p = some (s.writeEach (ks.zip p.code)) := by
    simp [State.placeLazy, hc, ha, hks, State.writeEach]
  have hsome : ((if s.lazyEntry part e then some p else none).bind fun p => (s.placeLazy part p).map fun x => (x, p.entry)) =
      some (s.writeEach (ks.zip p.code), p.entry) := by
    simp [he, hpl]
  simp only [State.bindLazy, hk, hh, if_neg (Nat.not_le.mpr hb), hsome]
  rfl

end

/-- With an empty queue a die completes the oldest binding whose team is gone (R75, R380). -/
theorem exec_trapQueueTake_binds {s : State} {die part : Nat} {e : Dbl} {rest : List (Nat × Dbl)} (place : Option LazyPlace)
    (hq : (s.die die).trapQueue = []) (hb : (s.die die).binds = (part, e) :: rest) (hup : s.functionUp (12 + die) = true) :
    exec (.trapQueueTake ⟨die, place⟩) s = .next ((s.onDie die fun d => { d with binds := rest }).bindLazy part e place) := by
  have he : exec (.trapQueueTake ⟨die, place⟩) s = execTrapQueueTake ⟨die, place⟩ s := rfl
  simp [he, execTrapQueueTake, State.coreUp, hup, hq, hb]

/-! ## The return from a trap (R380) -/

theorem State.resume_eq {s : State} {slot : Nat} {t : Team} (ht : s.team? slot = some t) (pc : Option Dbl) :
    s.resume slot pc = (s.setTeam slot { t with status := .running, service := none, pc := pc.getD t.pc }).onCore t.core fun c =>
      { c with copies := [], recCache := [] } := by
  simp [State.resume, ht]

/-! ## Instructions -/

/-- With nothing outstanding a release is performed at once (R222). -/
theorem State.awaitRelease_quiet {s : State} {slot : Nat} {t : Team} (h : Quiet s slot t) : s.awaitRelease slot t = none := by
  obtain ⟨hops, hf, hs⟩ := h
  have hany : (s.ops.any fun o => o.slot == slot && o.gid == t.group && o.counts) = false := by
    rw [List.any_eq_false]
    intro o ho hc
    simp only [Bool.and_eq_true, beq_iff_eq] at hc
    exact hops o ho hc.1.1 hc.1.2
  simp [State.awaitRelease, hany, hf, hs]

/-- A group without a request has nothing to settle (R393). -/
theorem State.settle_idle {s : State} {gid : Nat} (h : ∀ g, s.group? gid = some g → g.request = none) : s.settle gid = s := by
  unfold State.settle
  split
  · rfl
  next g hg => simp only [h g hg]

theorem onCurrent_issues {s : State} {slot : Nat} {t : Team} (hc : s.cur = some slot) (ht : s.team? slot = some t) (hi : t.canIssue = true)
    (f : Nat → Team → State) : onCurrent s f = .next (f slot t) := by
  simp [onCurrent, hc, ht, hi]

/-- A trap leaves the team at its PC with its registers, and its report says the cause (R378, R379). -/
theorem State.trapped_trap {s : State} {slot : Nat} {t : Team} (ht : s.team? slot = some t) (r : Report) :
    ∃ t', Trapped (s.trap slot r) slot t t' r.causeWord r.vaddr ∧ t'.ctl = t.ctl ∧ t'.fmt = t.fmt ∧ t'.report.recpc = r.recpc ∧
      t'.report.token = r.token ∧ t'.report.tcode = r.tcode ∧ t'.report.flw = r.flw := by
  refine ⟨_, ⟨State.trap_team ht r, ?_⟩, ?_⟩
  · exact ⟨rfl, rfl, rfl, rfl, rfl⟩
  · exact ⟨rfl, rfl, rfl, rfl, rfl, rfl⟩

theorem Report.toNat_causeWord (r : Report) :
    r.causeWord.toNat = r.cause % 256 + (if r.deferred then 256 else 0) + (if r.earlier then 512 else 0) := by
  rw [Report.causeWord, BitVec.toNat_ofNat, Nat.mod_eq_of_lt]
  split <;> split <;> omega

/-- Settles O46: the instructions by their bodies, a binding by `State.bindLazy_failed` and `State.bindLazy_placed`. -/
theorem trapInstructions : Obligations.TrapInstructions := by
  unfold Obligations.TrapInstructions
  refine ⟨fun s slot t code => ⟨fun h hq => ?_, fun h hm => ?_, fun h hm => ?_, fun h hm hg => ?_, fun h hm => ?_, fun hc ht hi => ⟨?_, ?_⟩⟩,
    ?_, fun s slot t r pc ht => ⟨?_, ?_⟩⟩
  · have he : exec (.trap code) s = .next ((s.setTeam slot { t with fence := none }).trap slot
        { Report.precise 0x13 t.execWindow with tcode := code.zeroExtend 32 }) := by
      show execTrap code s = _
      rw [execTrap, issue_runs h, State.awaitRelease_quiet hq]
    obtain ⟨t', htrap, _, _, _, _, htcode, hflw⟩ := State.trapped_trap (s := s.setTeam slot { t with fence := none }) (slot := slot)
      (t := { t with fence := none }) (by simp) { Report.precise 0x13 t.execWindow with tcode := code.zeroExtend 32 }
    exact ⟨_, t', he, htrap, htcode, hflw, State.sameMemory_trap _ slot _⟩
  · show execPmask s = _
    rw [execPmask, issue_runs h, if_neg (by omega)]
    rfl
  · show execPmask s = _
    rw [execPmask, issue_runs h, if_pos hm]
  · show execPunmask s = _
    rw [execPunmask, issue_runs h, if_neg (by omega)]
    exact congrArg _ (State.settle_idle hg)
  · show execPunmask s = _
    rw [execPunmask, issue_runs h, if_pos hm]
  · obtain ⟨t', htrap, _, _, _, _, _, hflw⟩ := State.trapped_trap ht (Report.precise 0x10 t.allLanes)
    refine ⟨_, t', ?_, htrap, hflw⟩
    show execIllegalOpcode s = _
    rw [execIllegalOpcode, onCurrent_issues hc ht hi, State.illegal_eq ht]
  · obtain ⟨t', htrap, _, _, _, _, _, hflw⟩ := State.trapped_trap ht (Report.precise 0x15 t.allLanes)
    exact ⟨_, t', onCurrent_issues hc ht hi _, htrap, hflw⟩
  · intro s die part k e rest place i bound hq hb hup hsem hk
    have hx := exec_trapQueueTake_binds place hq hb hup
    let s1 := s.onDie die fun d => { d with binds := rest }
    have hrest : (s1.die die).binds = rest := by simp [s1]
    have hk1 : s1.cpKeys part .write e.toNat 32 = .ok ((List.range 32).map (k + ·)) := hk
    -- the end of a binding, from a state whose STATE is written and whose other words of the entry are those of s
    have ended (s2 : State) (state : Word) (hd : s2.dies = s1.dies) (hw : s2.semWaiters = []) (hs : s2.wordAt k = state)
        (hold : ∀ j, k + 4 ≤ j ∧ j < k + 12 → memByte s2 j = memByte s j)
        (hn : exec i s = .next (s2.releaseWaiters part k)) : bound (s2.releaseWaiters part k) state := by
      obtain ⟨hdies, hwait, hsemw, hbytes⟩ := s2.releaseWaiters_spec part k hw
      have h4 : s2.wordAt (k + 4) = s.wordAt (k + 4) := State.wordAt_congr fun j hj => hold _ (by omega)
      have h8 : s2.wordAt (k + 8) = s.wordAt (k + 8) := State.wordAt_congr fun j hj => hold _ (by omega)
      refine ⟨hn, ?_, ?_, hwait, by rw [hsemw, h4, h8]⟩
      · rw [State.die, hdies, hd]; exact hrest
      · rw [← hs]
        exact State.wordAt_congr fun j hj => hbytes _ (by omega)
    refine ⟨fun hge => ⟨s1, ?_, hrest, fun _ => rfl⟩, fun hlt => ⟨fun hp => ?_, fun p ks hp he hc ha hks hnd hout => ?_⟩⟩
    · show exec (.trapQueueTake ⟨die, place⟩) s = _
      rw [hx, State.bindLazy_bound hk1 hge]
    · have hf := State.bindLazy_failed (place := place) hk1 hlt hp
      refine ⟨_, ended (s1.homeWrite k (leBytes 4 3)) 3 (by simp) (by simpa [s1] using hsem) (State.wordAt_homeWrite_self _ _ _)
        (fun j hj => State.memByte_homeWrite_ne _ (by simp; omega)) (hx.trans (congrArg _ hf)), fun j hj => ?_⟩
      have hj' : j < k ∨ k + 12 ≤ j := by
        by_contra hn
        exact hj (List.mem_map.mpr ⟨j - k, List.mem_range.mpr (by omega), by omega⟩)
      rw [(State.releaseWaiters_spec _ part k (by simpa [s1] using hsem)).2.2.2 j (by omega), State.memByte_homeWrite_ne _ (by simp; omega)]
      rfl
    · subst hp
      have hf := State.bindLazy_placed (p := p) (ks := ks) hk1 hlt he hc ha hks
      have hsem3 : (((s1.writeEach (ks.zip p.code)).homeWrite (k + 0x10) (leBytes 8 p.entry)).homeWrite k (leBytes 4 2)).semWaiters = [] := by
        simpa [s1, (State.writeEach_dies s1 _).2] using hsem
      have hbytes := (State.releaseWaiters_spec _ part k hsem3).2.2.2
      have hwritten (j : Nat) (hj : j < k ∨ (k + 4 ≤ j ∧ j < k + 16) ∨ k + 24 ≤ j) :
          memByte (((s1.writeEach (ks.zip p.code)).homeWrite (k + 0x10) (leBytes 8 p.entry)).homeWrite k (leBytes 4 2)) j =
            memByte (s1.writeEach (ks.zip p.code)) j := by
        rw [State.memByte_homeWrite_ne _ (by simp; omega), State.memByte_homeWrite_ne _ (by simp; omega)]
      have hcode (j : Nat) (hj : k ≤ j ∧ j < k + 32) : memByte (s1.writeEach (ks.zip p.code)) j = memByte s j := by
        refine State.memByte_writeEach_ne _ _ fun w hw => ?_
        have := hout _ (List.of_mem_zip hw).1
        omega
      refine ⟨_, ended _ 2 (by simp [(State.writeEach_dies s1 _).1]) hsem3 (State.wordAt_homeWrite_self _ _ _)
        (fun j hj => by rw [hwritten j (by omega), hcode j (by omega)]) (hx.trans (congrArg _ hf)), ?_, fun n x b hx' hb' => ?_, fun j hj => ?_⟩
      · rw [Memory.nat_congr fun j _ => hbytes _ (by omega), State.homeWrite_mem, Memory.nat_setBytes_ne _ (by simp), State.homeWrite_mem,
          Memory.nat_setBytes_self]
        rfl
      · have hxk := hout x (List.mem_of_getElem? hx')
        rw [hbytes x (by omega), hwritten x (by omega)]
        exact State.memByte_writeEach _ hnd hx' hb'
      · have hjs : j ∉ ks := fun h => hj (List.mem_append_left _ h)
        have hjk : j < k ∨ k + 24 ≤ j := by
          by_contra hn
          exact hj (List.mem_append_right _ (List.mem_map.mpr ⟨j - k, List.mem_range.mpr (by omega), by omega⟩))
        rw [hbytes j (by omega), hwritten j (by omega)]
        exact State.memByte_writeEach_ne _ _ fun w hw hwj => hjs (hwj ▸ (List.of_mem_zip hw).1)
  · refine ⟨_, State.trap_team ht r, ?_⟩
    exact ⟨rfl, rfl, rfl, rfl, rfl, r.toNat_causeWord, rfl, rfl, rfl, rfl, rfl, rfl, State.trap_trapQueue ht r, s.sameMemory_trap slot r⟩
  · rw [State.resume_eq ht]
    refine ⟨{ t with status := .running, service := none, pc := pc.getD t.pc }, by simp, ?_⟩
    exact ⟨rfl, rfl, rfl, rfl, by simp, by simp, fun _ => rfl⟩

end Sys2Proof.Machine
end

section
/-! SUPPORT. Every instruction and event answers a next state (R48, R53, R54, log entry 64). -/

namespace Sys2Proof.Machine

/-! ## Outcomes that are a next state -/

/-- An outcome is a next state: no refusal and no fault. -/
def Goes (o : Host.Outcome State Fault Refusal) : Prop := ∃ s', o = .next s'

/-- An outcome is a next state, or the fault noTeam of a state in which no team is current (log entry 64). -/
def Answers (s : State) (o : Host.Outcome State Fault Refusal) : Prop :=
  Goes o ∨ (o = .fault .noTeam ∧ ∀ slot t, s.cur = some slot → s.team? slot = some t → False)

theorem goes_next (s : State) : Goes (.next s) := ⟨s, rfl⟩

theorem goes_ite {c : Prop} [Decidable c] {a b : Host.Outcome State Fault Refusal} (ha : Goes a) (hb : Goes b) :
    Goes (if c then a else b) := by
  split
  · exact ha
  · exact hb

/-- A condition under which a body stops at once leaves what it does else. -/
theorem goes_else {c : Prop} [Decidable c] {s : State} {b : Host.Outcome State Fault Refusal} (hb : Goes b) :
    Goes (if c then .next s else b) := goes_ite (goes_next s) hb

section
variable {s : State} {slot : Nat} {t : Team} {i : Instr}

/-! ## How bodies end -/

theorem State.issueStore_goes {ws : List ByteWrite} {once : Bool} {d cpol : Nat} {ps : List Nat} {ms : List (Nat × Bool)} :
    Goes (s.issueStore slot t ws once d ps ms cpol) := goes_ite (goes_next _) (goes_next _)

theorem State.issueCommand_goes {c : CommandOp} {n : Nat} {ps : List Nat} {f : Team → Team} : Goes (s.issueCommand slot t c n ps f) :=
  goes_else (goes_next _)

theorem State.issueDrain_goes {sd sb : SReg} {ps : List Word} {r : Option Nat} : Goes (s.issueDrain slot t sd sb ps r) := by
  unfold State.issueDrain
  extract_lets
  split
  · exact goes_next _
  · exact goes_else State.issueCommand_goes

/-! ## The gate, and what all instructions of a kind have in common -/

/-- Without a current team the gate answers noTeam; with one it answers a next state, or runs the body. -/
theorem issue_answers {body : Nat → Team → Host.Outcome State Fault Refusal} (h : ∀ slot t, Goes (body slot t)) :
    Answers s (issue i s body) := by
  unfold issue
  split
  next hc => exact .inr ⟨rfl, fun slot t hs _ => by simp [hc] at hs⟩
  next slot hc =>
    split
    next ht => exact .inr ⟨rfl, fun n t hs hn => by simp_all⟩
    next t ht =>
      refine .inl (goes_else ?_)
      split
      case h_7 => exact h slot t
      all_goals exact goes_next _

theorem onCurrent_answers {f : Nat → Team → State} : Answers s (onCurrent s f) := by
  unfold onCurrent
  split
  next hc => exact .inr ⟨rfl, fun slot t hs _ => by simp [hc] at hs⟩
  next slot hc =>
    split
    next ht => exact .inr ⟨rfl, fun n t hs hn => by simp_all⟩
    next t ht => exact .inl (goes_else (goes_next _))

theorem memInstr_answers {body : Nat → Team → Host.Outcome State Fault Refusal} (h : ∀ slot t, Goes (body slot t)) :
    Answers s (memInstr i s body) := by
  refine issue_answers fun slot t => ?_
  split
  · exact goes_next _
  · exact goes_else (h slot t)

theorem storeInstr_answers {body : Nat → Team → Host.Outcome State Fault Refusal} (h : ∀ slot t, Goes (body slot t)) :
    Answers s (storeInstr i s body) := by
  refine memInstr_answers fun slot t => goes_ite (h slot t) ?_
  split
  · exact goes_next _
  · exact goes_else (h slot t)

theorem matrixInstr_answers {body : Nat → Team → Host.Outcome State Fault Refusal} (h : ∀ slot t, Goes (body slot t)) :
    Answers s (matrixInstr i s body) := issue_answers fun slot t => goes_else (h slot t)

theorem syncInstr_answers {sa : SReg} {body : State → Nat → Team → Nat → Host.Outcome State Fault Refusal}
    (h : ∀ s slot t k, Goes (body s slot t k)) : Answers s (syncInstr i s sa body) := by
  refine memInstr_answers fun slot t => ?_
  extract_lets
  split
  · exact goes_next _
  · exact h _ _ _ _
  · exact goes_next _

theorem bufInstr_answers {write : Bool} {vd va : VReg} {sb : SReg}
    {body : State → Nat → Team → Option BufRec → List BufLane → Host.Outcome State Fault Refusal}
    (h : ∀ s slot t b ls, Goes (body s slot t b ls)) : Answers s (bufInstr i s write vd va sb body) := by
  have reads {f : Nat → Team → Host.Outcome State Fault Refusal} (hf : ∀ slot t, Goes (f slot t)) :
      Answers s ((if write then storeInstr else memInstr) i s f) := by
    cases write
    · exact memInstr_answers hf
    · exact storeInstr_answers hf
  refine reads fun slot t => goes_else <| goes_else ?_
  split
  · exact h _ _ _ _ _
  · exact goes_next _
  · refine goes_else ?_
    split
    · exact goes_next _
    · exact goes_else (h _ _ _ _ _)

/-! ## Bodies that more than one instruction shares -/

theorem branchInstr_answers {reads : Team → List Nat} {off : BitVec 16} {taken : Team → Bool} : Answers s (branchInstr i s reads off taken) := by
  refine issue_answers fun slot t => ?_
  split
  · exact goes_next _
  · exact goes_else (goes_next _)

theorem divergeInstr_answers {first : Bool} {tgt rcv : BitVec 12} : Answers s (divergeInstr i s first tgt rcv) := by
  refine issue_answers fun slot t => ?_
  split
  · exact goes_next _
  · exact goes_else (goes_else (goes_else (goes_next _)))

theorem vtosInstr_answers {va : VReg} {sb : SReg} {la : Bool} {lanes : Team → List Nat} {f : List Word → Option Word} :
    Answers s (vtosInstr i s va sb la lanes f) := by
  refine issue_answers fun slot t => ?_
  dsimp only
  split
  · exact goes_next _
  · exact goes_next _

theorem scalarLoad_answers {size : Nat} {sd sa sb : SReg} : Answers s (scalarLoad i s size sd sa sb) := by
  refine memInstr_answers fun slot t => ?_
  extract_lets
  split
  · exact goes_next _
  · exact goes_next _
  · exact goes_else (goes_next _)

theorem scalarStore_answers {size : Nat} {sd sa sb : SReg} : Answers s (scalarStore i s size sd sa sb) := by
  refine storeInstr_answers fun slot t => ?_
  extract_lets
  split
  · exact goes_next _
  · exact goes_next _
  · exact goes_else State.issueStore_goes

theorem scalarAtomic_answers {fn : AtomFn} {sa sd : SReg} : Answers s (scalarAtomic i s fn sa sd) := by
  refine storeInstr_answers fun slot t => ?_
  extract_lets
  split
  · exact goes_next _
  · exact goes_else (goes_next _)
  · exact goes_next _

theorem fenceRelease_answers {acq : Bool} : Answers s (fenceRelease i s acq) := by
  refine memInstr_answers fun slot t => ?_
  split
  · exact goes_next _
  · split
    · exact goes_next _
    · exact goes_else (goes_next _)

theorem mmaInstr_answers {w4 : Bool} {tile : BitVec 7} {va : VReg} {j : BitVec 5} {ra la ovw : Bool} :
    Answers s (mmaInstr i s w4 tile va j ra la ovw) := by
  refine matrixInstr_answers fun slot t => ?_
  extract_lets
  split
  · exact goes_next _
  · exact goes_else State.issueCommand_goes

theorem bufLoad_answers {spec : Bool} {vd va : VReg} {sb : SReg} {la keep : Bool} : Answers s (bufLoad i s spec vd va sb la keep) :=
  bufInstr_answers fun _ _ _ _ _ => goes_else (goes_else (goes_next _))

theorem queueEvent_goes {part queue op : Nat} {body : Queue → QEntry → State} : Goes (queueEvent s part queue op body) := by
  unfold queueEvent
  split
  · exact goes_ite (goes_next _) (goes_next _)
  · exact goes_next _

/-! ## Bodies of single instructions and events -/

theorem execTaskq_answers {sd sa sb : SReg} : Answers s (execTaskq sd sa sb s) := by
  refine issue_answers fun slot t => goes_else <| goes_else ?_
  -- an unknown state in the place of the one that has read the record: the kernel would compute the reads
  obtain ⟨s1, hs⟩ : ∃ s1, s1 = s.taskReads slot t (pd (t.params sa) 0) := ⟨_, rfl⟩
  rw [← hs]
  extract_lets +onlyGivenNames part rd lid go
  split
  · exact goes_else State.issueCommand_goes
  · exact State.issueCommand_goes
  · extract_lets
    split
    · exact State.issueCommand_goes
    · exact goes_next _

theorem execDivergencePop_answers : Answers s (execDivergencePop s) := by
  unfold execDivergencePop
  split
  next hc => exact .inr ⟨rfl, fun slot t hs _ => by simp [hc] at hs⟩
  next slot hc =>
    split
    next ht => exact .inr ⟨rfl, fun n t hs hn => by simp_all⟩
    next t ht => exact .inl (goes_else (goes_next _))

theorem execGrammarUnitCompletion_goes {op : Nat} : Goes (execGrammarUnitCompletion op s) := by
  unfold execGrammarUnitCompletion
  split
  · exact goes_next _
  next o _ =>
    split
    · exact goes_next _
    next c _ =>
      refine goes_else ?_
      cases c.cmd with
      | gadv => cases s.runGadv _ c <;> exact goes_next _
      | _ => exact goes_next _

theorem execCtrlResume_goes {slot : Nat} {how : Restart} : Goes (execCtrlResume slot how s) := by
  unfold execCtrlResume
  split
  · exact goes_next _
  · refine goes_else (goes_ite ?_ (goes_next _))
    split <;> exact goes_next _

theorem execCtrlKill_goes {slot : Nat} : Goes (execCtrlKill slot s) := by
  unfold execCtrlKill
  split <;> exact goes_next _

theorem execCtrlDetach_goes {slot : Nat} : Goes (execCtrlDetach slot s) := by
  unfold execCtrlDetach
  split
  · exact goes_next _
  · exact goes_ite (goes_next _) (goes_next _)

theorem State.windowWrite_goes {off : Nat} {wide : Bool} {value : Dbl} : Goes (s.windowWrite slot off wide value t) := by
  refine goes_else (goes_ite ?_ (goes_else ?_))
  · exact goes_ite execCtrlResume_goes (goes_ite execCtrlKill_goes (goes_ite execCtrlDetach_goes (goes_next _)))
  · extract_lets +onlyGivenNames fdr src r
    clear_value r
    split <;> exact goes_next _

theorem execTeamStateWindowWrite_goes {die addr : Nat} {wide : Bool} {value : Dbl} : Goes (execTeamStateWindowWrite die addr wide value s) := by
  unfold execTeamStateWindowWrite
  split
  · exact goes_next _
  · split
    · exact goes_next _
    · exact goes_ite State.windowWrite_goes (goes_next _)

theorem execCodeObjectLoad_goes {placing : ObjectPlacing} : Goes (execCodeObjectLoad placing s) := by
  unfold execCodeObjectLoad
  extract_lets +onlyGivenNames obj h n entries
  split
  · exact goes_next _
  · extract_lets +onlyGivenNames xs table tab code bases templates count patches up reach placeable
    clear_value patches
    split
    · exact goes_next _
    · exact goes_else (goes_next _)

theorem execStb_answers {vd va : VReg} {sb : SReg} {la keep : Bool} : Answers s (execStb vd va sb la keep s) := by
  refine bufInstr_answers fun _ _ _ _ _ => goes_else <| goes_else <| goes_else ?_
  extract_lets
  split
  · exact goes_next _
  · refine goes_else <| goes_else ?_
    split
    · extract_lets
      split <;> exact goes_next _
    · exact State.issueStore_goes

theorem execWaitp_answers {path : BitVec 8} {sa : SReg} : Answers s (execWaitp path sa s) := by
  refine memInstr_answers fun _ _ => goes_else ?_
  extract_lets
  split <;> exact goes_next _

theorem State.startSignal_goes {g : Signal} {ps : List Nat} : Goes (s.startSignal slot t g ps) := goes_next _

theorem State.sleepPeer_goes {sd key : Nat} {va : Dbl} {n : Word} {req : SleepReq} : Goes (s.sleepPeer slot t sd key va n req) := goes_next _

theorem execSemsig_answers {sa sb : SReg} : Answers s (execSemsig sa sb s) :=
  syncInstr_answers fun _ _ _ _ => State.startSignal_goes

theorem execSemsigGen_answers {sg sa sb : SReg} : Answers s (execSemsigGen sg sa sb s) :=
  syncInstr_answers fun _ _ _ _ => State.startSignal_goes

theorem execSemwait_answers {sd sa sb : SReg} : Answers s (execSemwait sd sa sb s) := by
  refine syncInstr_answers fun _ _ _ _ => goes_else <| goes_ite State.sleepPeer_goes ?_
  exact goes_else (goes_next _)

theorem execBar_answers {sd sa sb : SReg} : Answers s (execBar sd sa sb s) := by
  refine syncInstr_answers fun _ _ _ _ => ?_
  split
  · exact goes_next _
  · refine goes_else <| goes_else ?_
    extract_lets
    split <;> exact goes_next _

theorem execRgarr_answers {sa sb : SReg} : Answers s (execRgarr sa sb s) := by
  refine memInstr_answers fun _ _ => ?_
  split <;> exact goes_next _

theorem execRgwait_answers {sd sa sb : SReg} : Answers s (execRgwait sd sa sb s) := by
  refine memInstr_answers fun _ _ => ?_
  split
  · exact goes_next _
  · exact goes_else (goes_else (goes_next _))

theorem execMmal_answers {sd sa sb : SReg} : Answers s (execMmal sd sa sb s) := by
  refine matrixInstr_answers fun _ _ => ?_
  extract_lets
  split
  · exact goes_next _
  · exact goes_else State.issueCommand_goes

theorem execAcalloc_answers {sd sa : SReg} : Answers s (execAcalloc sd sa s) := by
  refine matrixInstr_answers fun _ _ => goes_else ?_
  split
  · exact goes_else (goes_next _)
  · exact goes_next _

theorem execAcfree_answers {sa sb : SReg} : Answers s (execAcfree sa sb s) := by
  refine matrixInstr_answers fun _ _ => goes_else ?_
  split <;> exact goes_next _

theorem execAczero_answers {sa sb : SReg} : Answers s (execAczero sa sb s) := by
  refine matrixInstr_answers fun _ _ => goes_else ?_
  split
  · exact goes_next _
  · exact goes_else State.issueCommand_goes

theorem execAcload_answers {sd sa sb : SReg} : Answers s (execAcload sd sa sb s) := by
  refine matrixInstr_answers fun _ _ => ?_
  extract_lets
  split
  · exact goes_next _
  · exact goes_else State.issueCommand_goes

theorem execAcread_answers {vd : VReg} {sb : SReg} {la keep : Bool} : Answers s (execAcread vd sb la keep s) := by
  refine matrixInstr_answers fun _ _ => ?_
  extract_lets
  split
  · exact goes_next _
  · refine goes_else ?_
    split
    · exact goes_next _
    · exact goes_else State.issueCommand_goes

theorem execAcdrain_answers {sd sa sb : SReg} : Answers s (execAcdrain sd sa sb s) := by
  refine matrixInstr_answers fun _ _ => goes_else <| goes_ite State.issueDrain_goes <| goes_else <| goes_else ?_
  split
  · exact goes_next _
  · exact goes_next _
  · exact goes_else State.issueDrain_goes

theorem execTrap_answers {code : BitVec 16} : Answers s (execTrap code s) := by
  refine issue_answers fun _ _ => ?_
  split <;> exact goes_next _

theorem execSwr_answers {sa : SReg} {num : BitVec 16} : Answers s (execSwr sa num s) := by
  refine issue_answers fun _ _ => ?_
  split
  · exact goes_else (goes_next _)
  · exact goes_else (goes_next _)
  · exact goes_next _
  · exact goes_next _

theorem execRet_answers : Answers s (execRet s) := by
  refine issue_answers fun _ _ => ?_
  split
  · exact goes_else (goes_next _)
  · exact goes_next _

theorem execExit_answers : Answers s (execExit s) := by
  refine issue_answers fun _ _ => ?_
  split
  · exact goes_next _
  · split
    · exact goes_next _
    · exact goes_else (goes_next _)

theorem execIfence_answers : Answers s (execIfence s) := by
  refine issue_answers fun _ _ => goes_else ?_
  split
  · exact goes_next _
  · split
    · exact goes_next _
    · exact goes_else (goes_next _)

theorem execLoadDataReturn_goes {op : Nat} {ret : LoadReturn} : Goes (execLoadDataReturn op ret s) := by
  unfold execLoadDataReturn
  split
  · exact goes_next _
  · refine goes_else <| goes_else ?_
    split
    · exact goes_next _
    · split
      · exact goes_next _
      · split <;> exact goes_next _
      · exact goes_next _
      · exact goes_next _

theorem execStorePerformed_goes {op unit : Nat} {fail : Option ReturnFail} : Goes (execStorePerformed op unit fail s) := by
  unfold execStorePerformed
  extract_lets
  split
  · exact goes_next _
  · split
    · split
      · exact goes_next _
      · extract_lets
        split
        · exact goes_ite (goes_next _) (goes_next _)
        · exact goes_ite (goes_next _) (goes_next _)
    · exact goes_next _

theorem execAtomicApplied_goes {op : Nat} {ret : AtomReturn} : Goes (execAtomicApplied op ret s) := by
  unfold execAtomicApplied
  split
  · exact goes_next _
  · extract_lets +onlyGivenNames h o
    split
    · refine goes_else ?_
      split <;> exact goes_next _
    · exact goes_next _
    · refine goes_else <| goes_else ?_
      split <;> exact goes_next _
    · exact goes_next _

theorem execEngineCommandStart_goes {op : Nat} : Goes (execEngineCommandStart op s) := by
  unfold execEngineCommandStart
  extract_lets
  split
  · exact goes_next _
  · split
    · exact goes_next _
    · exact goes_else (goes_else (goes_next _))

theorem execCopyCommandCompletion_goes {op : Nat} {fin : EngineEnd} : Goes (execCopyCommandCompletion op fin s) := by
  unfold execCopyCommandCompletion
  split
  · exact goes_next _
  · split
    · exact goes_next _
    · refine goes_else <| goes_else ?_
      split
      · exact goes_else (goes_next _)
      · exact goes_next _

theorem execMatrixCommandCompletion_goes {op : Nat} {fin : EngineEnd} : Goes (execMatrixCommandCompletion op fin s) := by
  unfold execMatrixCommandCompletion
  split
  · exact goes_next _
  · split
    · exact goes_next _
    · exact goes_else (goes_next _)

theorem execGenerationUnitCompletion_goes {op : Nat} : Goes (execGenerationUnitCompletion op s) := by
  unfold execGenerationUnitCompletion
  split
  · exact goes_next _
  · split
    · exact goes_next _
    · refine goes_else ?_
      split <;> exact goes_next _

theorem execJournalAckReceived_goes {op : Nat} : Goes (execJournalAckReceived op s) := by
  unfold execJournalAckReceived
  split
  · split
    · exact goes_else (goes_next _)
    · exact goes_next _
  · exact goes_next _

theorem execRouterAnswer_goes {op : Nat} : Goes (execRouterAnswer op s) := by
  unfold execRouterAnswer
  split
  · split <;> exact goes_next _
  · exact goes_next _

theorem execCollCompletion_goes {cid : Dbl} {sq : Word} {shares : List RemoteShare} {fin : EngineEnd} : Goes (execCollCompletion cid sq shares fin s) := by
  unfold execCollCompletion
  extract_lets
  split
  · exact goes_next _
  · refine goes_else ?_
    split
    · exact goes_next _
    · exact goes_else (goes_next _)

theorem execPeerPacketArrival_goes {pkt : PeerPacket} : Goes (execPeerPacketArrival pkt s) := by
  unfold execPeerPacketArrival
  refine goes_else <| goes_ite ?_ ?_
  · split <;> exact goes_next _
  · exact goes_else (goes_else (goes_else (goes_next _)))

theorem execRetransmitTimeout_goes {packet : PacketName} : Goes (execRetransmitTimeout packet s) := by
  unfold execRetransmitTimeout
  split
  · exact goes_next _
  · exact goes_else (goes_else (goes_next _))

theorem execPwreqGrant_goes {op : Nat} : Goes (execPwreqGrant op s) := by
  unfold execPwreqGrant
  split
  · exact goes_next _
  · split
    · exact goes_else (goes_else (goes_next _))
    · exact goes_next _

theorem execPwreqTimeout_goes {op : Nat} : Goes (execPwreqTimeout op s) := by
  unfold execPwreqTimeout
  split
  · exact goes_next _
  · split
    · exact goes_else (goes_next _)
    · exact goes_next _

theorem execPowerPermitGrant_goes {op : Nat} : Goes (execPowerPermitGrant op s) := by
  unfold execPowerPermitGrant
  split
  · exact goes_next _
  · split
    · exact goes_next _
    · refine goes_else ?_
      split <;> exact goes_next _

theorem execClkrdAnswer_goes {op : Nat} : Goes (execClkrdAnswer op s) := by
  unfold execClkrdAnswer
  split
  · split
    · exact goes_else (goes_else (goes_next _))
    · exact goes_next _
  · exact goes_next _

theorem execTeamLeaveQuadrant_goes {slot : Nat} : Goes (execTeamLeaveQuadrant slot s) := by
  unfold execTeamLeaveQuadrant
  split
  · exact goes_next _
  · exact goes_else (goes_else (goes_next _))

theorem execGroupCommit_goes {gid : Nat} : Goes (execGroupCommit gid s) := by
  unfold execGroupCommit
  split
  · exact goes_next _
  · exact goes_else (goes_next _)

theorem execLaunchStart_goes {lid : Nat} : Goes (execLaunchStart lid s) := by
  unfold execLaunchStart
  split
  · exact goes_next _
  · exact goes_else (goes_else (goes_next _))

theorem execGroupPlacement_goes {lid : Nat} {group : GroupName} {core : Nat} {quads : List Nat} : Goes (execGroupPlacement lid group core quads s) := by
  unfold execGroupPlacement
  split
  · exact goes_next _
  · split
    · exact goes_next _
    · refine goes_else ?_
      split <;> exact goes_next _

theorem execQueueEntrySkipped_goes {part queue : Nat} : Goes (execQueueEntrySkipped part queue s) := by
  unfold execQueueEntrySkipped
  split
  · exact goes_else (goes_next _)
  · exact goes_next _

theorem execPartitionRestore_goes {part : Nat} : Goes (execPartitionRestore part s) := by
  unfold execPartitionRestore
  split
  · exact goes_next _
  · exact goes_else (goes_next _)

theorem execTrapQueueTake_goes {take : TrapTake} : Goes (execTrapQueueTake take s) := by
  unfold execTrapQueueTake
  refine goes_else ?_
  split
  · split <;> exact goes_next _
  · extract_lets
    split <;> exact goes_next _

theorem execCoreUncorrectableError_goes {err : CoreError} : Goes (execCoreUncorrectableError err s) := by
  unfold execCoreUncorrectableError
  split
  · split <;> exact goes_next _
  · exact goes_next _
  · exact goes_next _

theorem execPartnerAssign_goes {dev : Nat} : Goes (execPartnerAssign dev s) := by
  unfold execPartnerAssign
  split
  · exact goes_next _
  · exact goes_else (goes_next _)

theorem execLaunchCancel_goes {lid : Nat} : Goes (execLaunchCancel lid s) := by
  unfold execLaunchCancel
  split
  · exact goes_next _
  · exact goes_else (goes_next _)

theorem execHostCxlMemAccess_goes {key : Nat} {write : Option (List Byte)} {size : Nat} : Goes (execHostCxlMemAccess key write size s) := by
  unfold execHostCxlMemAccess
  refine goes_else ?_
  split <;> exact goes_next _

theorem execManagementRegisterWrite_goes {reg : MgmtWrite} : Goes (execManagementRegisterWrite reg s) := by
  unfold execManagementRegisterWrite
  split <;> exact goes_next _

end

/-! ## Every instruction and event -/

/-- Every instruction and event answers a next state, or noTeam without a current team. -/
theorem exec_answers (i : Instr) (s : State) : Answers s (exec i s) := by
  cases i with
  | sadd | ssub | smul | smulhi | smulhn | sdivi | sdivn | sremi | sremn | sand | sor | sxor | sshl | sshrn | sshri | smini
  | sminn | smaxi | smaxn | slti | sltn | seq | ssel | saddi | sli | slih | sbitopPopc | sbitopClz | sbitopCtz | sbitopBrev
  | sbfx | sbfi | sadd64 | mode | modeget | bra | call | mopNot | mopAnd | mopOr | mopAndn | mopLoad | mopSave | mopPopc
  | mopFirst | msave | mrest | yield | probe | stkq | vmov | vmovs | vli | vlih | vand | vor | vxor | vandn | vshl | vshrn
  | vshri | vshli | vshrni | vshrii | vrot | vbitopPopc | vbitopClz | vbitopCtz | vbitopBrev | vbfx | vbfi | vprmb | vsel | vadda
  | vmada | vadda64 | vlane | vshfl | vshfliXor | vshfliUp | vshfliDown | vshfliRot | vbcast | vtest | vpack | vunpk | vadd
  | vsub | vmul | vfma | vfms | vfnma | vmin | vmax | vminm | vmaxm | vabs | vneg | vdiv | vsqrt | vrcp | vrsq | vexp2 | vlog2
  | vsin | vcos | vtanh | vcmp | vclass | vcvt | vrnd | vscalb | vmulhi | vdot | vqnt | vdqnt | vredadd | vredmax | vredmin
  | vscanAdd | vscanAddx | vscanMax | vscanMin | vstat | fdefi | fget | stseed | pwrel | clkrd | srd | kill =>
    exact issue_answers fun _ _ => goes_next _
  | modes | calls | brs | loop | brk | fdef | stget | stclr | peerq | pmask | punmask =>
    exact issue_answers fun _ _ => goes_else (goes_next _)
  | bany | ball | bnone | bsz | bsnz => exact branchInstr_answers
  | bdiv | bdivl => exact divergeInstr_answers
  | vtosIdx | vtosFirst | vtosLast => exact vtosInstr_answers
  | vtosOr va sb la keep => exact (vtosInstr_answers : Answers s (execVtosOr va sb la keep s))
  | vtosAnd va sb la keep => exact (vtosInstr_answers : Answers s (execVtosAnd va sb la keep s))
  | vtosAdd va sb la keep => exact (vtosInstr_answers : Answers s (execVtosAdd va sb la keep s))
  | vtosMaxn va sb la keep => exact (vtosInstr_answers : Answers s (execVtosMaxn va sb la keep s))
  | vtosMinn va sb la keep => exact (vtosInstr_answers : Answers s (execVtosMinn va sb la keep s))
  | ld8 | ld16 | ld32 | ld64 | ld128 | lds8 | lds16 | lds32 | lds64 | lds128 | chkb | prefL1 | prefL2 =>
    exact memInstr_answers fun _ _ => goes_else (goes_else (goes_next _))
  | st8 | st16 | st32 | st64 | st128 =>
    exact storeInstr_answers fun _ _ => goes_else (goes_else (goes_else State.issueStore_goes))
  | ldb | ldbs => exact bufLoad_answers
  | stb => exact execStb_answers
  | sld32 | sld64 => exact scalarLoad_answers
  | sst32 | sst64 => exact scalarStore_answers
  | chk | fenceAcq => exact memInstr_answers fun _ _ => goes_else (goes_next _)
  | ptest | pclr => exact memInstr_answers fun _ _ => goes_next _
  | waitp => exact execWaitp_answers
  | cflushWb | cflushInv => exact memInstr_answers fun _ _ => goes_else (goes_else (goes_else (goes_next _)))
  | aadd | amin | amax | aand | aor | axor | axch | acas =>
    exact storeInstr_answers fun _ _ => goes_else (goes_else (goes_else (goes_else (goes_next _))))
  | bar => exact execBar_answers
  | semsig => exact execSemsig_answers
  | semsigGen => exact execSemsigGen_answers
  | semwait => exact execSemwait_answers
  | rgarr => exact execRgarr_answers
  | rgwait => exact execRgwait_answers
  | sigx => exact memInstr_answers fun _ _ => goes_ite (goes_else (goes_next _)) (goes_else (goes_next _))
  | saopAdd sa sd => exact (scalarAtomic_answers : Answers s (execSaopAdd sa sd s))
  | saopMini sa sd => exact (scalarAtomic_answers : Answers s (execSaopMini sa sd s))
  | saopMinn sa sd => exact (scalarAtomic_answers : Answers s (execSaopMinn sa sd s))
  | saopMaxi sa sd => exact (scalarAtomic_answers : Answers s (execSaopMaxi sa sd s))
  | saopMaxn sa sd => exact (scalarAtomic_answers : Answers s (execSaopMaxn sa sd s))
  | saopAnd sa sd => exact (scalarAtomic_answers : Answers s (execSaopAnd sa sd s))
  | saopOr sa sd => exact (scalarAtomic_answers : Answers s (execSaopOr sa sd s))
  | saopXor sa sd => exact (scalarAtomic_answers : Answers s (execSaopXor sa sd s))
  | saopXch sa sd => exact (scalarAtomic_answers : Answers s (execSaopXch sa sd s))
  | saopCas sa sd => exact (scalarAtomic_answers : Answers s (execSaopCas sa sd s))
  | xcopy | xexp | xfill | xgath | xtrn | layic | gmask | gadv | sample | route | emit | jtrunc | jreplay | jstat =>
    exact issue_answers fun _ _ => goes_else (goes_else State.issueCommand_goes)
  | xcancel | pwreq => exact issue_answers fun _ _ => goes_else (goes_else (goes_next _))
  | mma | mmaw4 => exact mmaInstr_answers
  | mmal => exact execMmal_answers
  | mfmt => exact matrixInstr_answers fun _ _ => goes_next _
  | acalloc => exact execAcalloc_answers
  | acfree => exact execAcfree_answers
  | aczero => exact execAczero_answers
  | acload => exact execAcload_answers
  | acread => exact execAcread_answers
  | acdrain => exact execAcdrain_answers
  | atload => exact matrixInstr_answers fun _ _ => goes_else State.issueCommand_goes
  | rsig | rsigGen => exact issue_answers fun _ _ => goes_else (goes_else (goes_else (goes_next _)))
  | coll | launch => exact issue_answers fun _ _ => goes_else State.issueCommand_goes
  | trap => exact execTrap_answers
  | taskq => exact execTaskq_answers
  | swr => exact execSwr_answers
  | ret => exact execRet_answers
  | exit => exact execExit_answers
  | ifence => exact execIfence_answers
  | fenceRel | fenceFull => exact fenceRelease_answers
  | sfuResultWritten | l1LineEviction | heartbeatSend | heartbeatReceived | resynchronisationComplete | linkLaneFailure
  | linkKeyLimit | dieHotThreshold | dieCriticalThreshold | teamPromotion | yieldExpiry | maskWatchdogExpiry
  | handlerWatchdogExpiry | powerUp | bootImageLoad | referenceTimeWrite | setVaultSplit | setShadowStorage | setPartitionColumns
  | setHbmShare | setDeterministicMode | setDebug | wakeBitsWrite | castlingCandidateName | journalCapacitySet | deviceFence
  | unreachableClear | collectiveAbort | pageTableRootSet | tlbInvalidation | collectiveLogBaseSet | tswBaseSet | restoreWrite
  | hostPreemptionRequest | hotThresholdCleared | linkRetrainingComplete => exact .inl (goes_next _)
  | loadDataReturn => exact .inl execLoadDataReturn_goes
  | storePerformed => exact .inl execStorePerformed_goes
  | atomicApplied => exact .inl execAtomicApplied_goes
  | engineCommandStart => exact .inl execEngineCommandStart_goes
  | copyCommandCompletion => exact .inl execCopyCommandCompletion_goes
  | matrixCommandCompletion => exact .inl execMatrixCommandCompletion_goes
  | grammarUnitCompletion => exact .inl execGrammarUnitCompletion_goes
  | generationUnitCompletion => exact .inl execGenerationUnitCompletion_goes
  | journalAckReceived => exact .inl execJournalAckReceived_goes
  | journalRecordReceived | partnerLost | fabricAckArrival | preemptionRequest | pageServiceComplete | pageServiceRefusal
  | memoryUncorrectableError | attestationRequest | powerctlWrite | queueCreate | linkKeyInstall | statusPageUpdate
  | tlbInvalidationComplete => exact .inl (goes_else (goes_next _))
  | routerAnswer => exact .inl execRouterAnswer_goes
  | collCompletion => exact .inl execCollCompletion_goes
  | peerPacketArrival => exact .inl execPeerPacketArrival_goes
  | retransmitTimeout => exact .inl execRetransmitTimeout_goes
  | flitArrival => exact .inl (goes_else (goes_else (goes_else (goes_else (goes_next _)))))
  | pwreqGrant => exact .inl execPwreqGrant_goes
  | pwreqTimeout => exact .inl execPwreqTimeout_goes
  | powerPermitGrant => exact .inl execPowerPermitGrant_goes
  | clkrdAnswer => exact .inl execClkrdAnswer_goes
  | illegalOpcode | reservedOpcodePark => exact onCurrent_answers
  | divergencePop => exact execDivergencePop_answers
  | teamLeaveQuadrant => exact .inl execTeamLeaveQuadrant_goes
  | groupCommit => exact .inl execGroupCommit_goes
  | launchStart => exact .inl execLaunchStart_goes
  | groupPlacement => exact .inl execGroupPlacement_goes
  | queueLaunch | queueDrain | queueWrite | queueWaitwake | queueNop => exact .inl queueEvent_goes
  | queueEntrySkipped => exact .inl execQueueEntrySkipped_goes
  | partitionRestore => exact .inl execPartitionRestore_goes
  | trapQueueTake => exact .inl execTrapQueueTake_goes
  | ctrlResume => exact .inl execCtrlResume_goes
  | ctrlKill => exact .inl execCtrlKill_goes
  | ctrlDetach => exact .inl execCtrlDetach_goes
  | teamStateWindowWrite => exact .inl execTeamStateWindowWrite_goes
  | coreUncorrectableError => exact .inl execCoreUncorrectableError_goes
  | functionReady => exact .inl (goes_else (goes_else (goes_next _)))
  | partnerAssign => exact .inl execPartnerAssign_goes
  | launchCancel => exact .inl execLaunchCancel_goes
  | codeObjectLoad => exact .inl execCodeObjectLoad_goes
  | hostCxlMemAccess => exact .inl execHostCxlMemAccess_goes
  | managementRegisterWrite => exact .inl execManagementRegisterWrite_goes

/-- Settles O3: `exec_answers`, whose fault noTeam is that of a state without a current team. -/
theorem neverRefused : Obligations.NeverRefused := by
  unfold Obligations.NeverRefused
  exact exec_answers

end Sys2Proof.Machine
end

section
/-! SUPPORT. Last-use marks and the tokens of the cond window (R44, R117): what the lane, cross-lane and format instructions leave of the dead
marks of the vector registers, and which token each word of the cond window keeps. -/

namespace Sys2Proof.Machine

/-! ## The dead marks that last-use marks leave (R44) -/

theorem Team.active_of_regs {t u : Team} (hb : u.beats = t.beats) (hm : u.mode = t.mode) (hs : u.regs.s = t.regs.s) (l : Nat) :
    u.active l = t.active l := by
  have hrs (r : Nat) : u.rs r = t.rs r := by rw [Team.rs, Team.rs, hs]
  have hlanes : u.lanes = t.lanes := by rw [Team.lanes, Team.lanes, hb]
  have hguard : u.guard = t.guard := by rw [Team.guard, Team.guard, hm]
  rw [Team.active, Team.active, Team.exec, Team.exec, Team.cond, Team.cond, hrs, hrs, hlanes, hguard]

theorem Team.active_kill (t : Team) (r l : Nat) : (t.kill r).active l = t.active l := Team.active_of_regs rfl rfl rfl l

theorem Team.dead_kill (t : Team) {r q l : Nat} (hl : l < t.lanes) :
    ((t.kill r).lane q l).dead = true ↔ (t.lane q l).dead = true ∨ (t.active l = true ∧ q = r) := by
  unfold Team.kill
  rw [Team.lane_wv t r _ q l hl]
  by_cases hq : q = r
  · subst hq
    cases ha : t.active l <;> simp
  · simp [hq]

/-- A lane is dead after last-use marks where it was, and in the active lanes of the registers whose hint bit is set. -/
theorem Team.dead_lastUse (t : Team) {ms : List (Nat × Bool)} {q l : Nat} (hl : l < t.lanes) :
    ((t.lastUse ms).lane q l).dead = true ↔ (t.lane q l).dead = true ∨ (t.active l = true ∧ (q, true) ∈ ms) := by
  unfold Team.lastUse
  induction ms generalizing t with
  | nil => simp
  | cons m ms ih =>
    obtain ⟨r, hint⟩ := m
    rw [List.foldl_cons]
    cases hint with
    | false => simpa using ih t hl
    | true =>
      rw [if_pos rfl, ih (t.kill r) hl, t.dead_kill hl, t.active_kill]
      simp only [List.mem_cons, Prod.mk.injEq, and_true]
      tauto

/-- What R44 leaves of a team's vector registers: the marks of the hint bits ms outside the registers vw, which an instruction writes, and the
lanes of vw that are not active as they were. -/
def Team.MarkedFor (t : Team) (ms : List (Nat × Bool)) (vw : List Nat) (u : Team) : Prop :=
  u.lanes = t.lanes ∧ ∀ r l, l < t.lanes →
    (r ∉ vw → ((u.lane r l).dead = true ↔ (t.lane r l).dead = true ∨ (t.active l = true ∧ (r, true) ∈ ms))) ∧
    (r ∈ vw → t.active l = false → u.lane r l = t.lane r l)

section
variable {t u v : Team} {ms : List (Nat × Bool)} {vw : List Nat}

theorem Team.markedFor_lastUse : t.MarkedFor ms vw (t.lastUse ms) :=
  ⟨t.lanes_lastUse ms, fun r _ hl => ⟨fun _ => t.dead_lastUse hl, fun _ ha => t.lane_lastUse_inactive ms r _ hl ha⟩⟩

/-- A write of active lanes of a register that the instruction writes. -/
theorem Team.MarkedFor.wv (h : t.MarkedFor ms vw u) {r : Nat} {f : Nat → Option Lane} (hr : r ∈ vw)
    (hf : ∀ l, t.active l = false → f l = none) : t.MarkedFor ms vw (u.wv r f) := by
  obtain ⟨hlanes, hmarks⟩ := h
  refine ⟨hlanes, fun q l hl => ?_⟩
  obtain ⟨hout, hin⟩ := hmarks q l hl
  rw [Team.lane_wv u r f q l (hlanes ▸ hl)]
  refine ⟨fun hq => ?_, fun hq ha => ?_⟩
  · rw [if_neg fun he : q = r => hq (he ▸ hr)]
    exact hout hq
  · rw [hf l ha]
    by_cases he : q = r
    · subst he
      rw [if_pos rfl]
      exact hin hq ha
    · rw [if_neg he]
      exact hin hq ha

theorem Team.MarkedFor.wvAll (h : t.MarkedFor ms vw u) {ws : List (Nat × (Nat → Option Lane))}
    (hws : ∀ w ∈ ws, w.1 ∈ vw ∧ ∀ l, t.active l = false → w.2 l = none) : t.MarkedFor ms vw (u.wvAll ws) := by
  unfold Team.wvAll
  induction ws generalizing u with
  | nil => exact h
  | cons w ws ih =>
    obtain ⟨hr, hf⟩ := hws w List.mem_cons_self
    exact ih (h.wv hr hf) fun w hw => hws w (List.mem_cons_of_mem _ hw)

/-- What leaves the vector registers leaves the marks. -/
theorem Team.MarkedFor.of_regs (h : t.MarkedFor ms vw u) (hb : v.beats = u.beats) (hv : v.regs.v = u.regs.v) : t.MarkedFor ms vw v := by
  simpa only [Team.MarkedFor, Team.lanes, Team.lane, hb, hv] using h

theorem Team.condLanes_regs_v (f : Nat → Option (Except Word Bool)) : (t.condLanes f).regs.v = t.regs.v ∧ (t.condLanes f).beats = t.beats := by
  have hpoke (g : Nat → Word) (bs : List Nat) (u : Team) :
      (bs.foldl (fun t b => t.pokeS (192 + b) (g b)) u).regs.v = u.regs.v ∧ (bs.foldl (fun t b => t.pokeS (192 + b) (g b)) u).beats = u.beats := by
    induction bs generalizing u with
    | nil => exact ⟨rfl, rfl⟩
    | cons b bs ih => exact ih (u.pokeS (192 + b) (g b))
  exact hpoke _ _ t

theorem Team.MarkedFor.condLanes (h : t.MarkedFor ms vw u) (f : Nat → Option (Except Word Bool)) : t.MarkedFor ms vw (u.condLanes f) :=
  h.of_regs (u.condLanes_regs_v f).2 (u.condLanes_regs_v f).1

theorem Team.countSr_regs (t : Team) (n : Nat) : (t.countSr n).regs = t.regs ∧ (t.countSr n).beats = t.beats ∧ (t.countSr n).ctl = t.ctl := by
  unfold Team.countSr
  split <;> exact ⟨rfl, rfl, rfl⟩

theorem Team.MarkedFor.countSr (h : t.MarkedFor ms vw u) (n : Nat) : t.MarkedFor ms vw (u.countSr n) := by
  obtain ⟨hregs, hbeats, -⟩ := u.countSr_regs n
  exact h.of_regs hbeats (congrArg _ hregs)

theorem Team.MarkedFor.marked (h : t.MarkedFor ms vw u) (e : Bool) (d : Dest) : t.MarkedFor ms vw (u.mark e d) := by
  obtain ⟨a, b, hmark⟩ := u.mark_frame e d
  rw [hmark]
  exact h

theorem Team.MarkedFor.counted (h : t.MarkedFor ms vw u) (n m : Nat) (x : Stat) : t.MarkedFor ms vw ((u.addStat n x).countSr m) :=
  Team.MarkedFor.countSr (u := u.addStat n x) h m

theorem Team.MarkedFor.advance (h : t.MarkedFor ms vw u) : t.MarkedFor ms vw u.advance :=
  h.of_regs u.advance_beats (congrArg _ u.advance_regs)

/-- The writes to the registers of a slot, in the lanes that are active. -/
theorem slotWrites_active {f : Fmt} {r : Nat} {g : Nat → Option (Except Word Nat)} (hg : ∀ l, t.active l = false → g l = none) :
    ∀ w ∈ slotWrites f r g, w.1 ∈ span r (if f.pack then 2 else 1) ∧ ∀ l, t.active l = false → w.2 l = none := by
  have hpart {w : Nat × (Nat → Option Lane)} {lo : Nat} (hw : w.2 = fun l => (g l).map fun x => laneOf (x.map fun c => word (c / 2 ^ lo))) :
      ∀ l, t.active l = false → w.2 l = none := fun l ha => by simp [hw, hg l ha]
  intro w hw
  unfold slotWrites at hw
  cases hp : f.pack with
  | true =>
    simp only [hp, if_true, List.mem_cons, List.not_mem_nil, or_false] at hw
    rcases hw with rfl | rfl
    · exact ⟨by simp [span, List.range_succ], hpart rfl⟩
    · exact ⟨by simp [span, List.range_succ], hpart rfl⟩
  | false =>
    simp only [hp, Bool.false_eq_true, if_false, List.mem_cons, List.not_mem_nil, or_false] at hw
    subst hw
    exact ⟨by simp [span], hpart rfl⟩

end

/-! ## The instructions that mark registers (R44) -/

/-- An outcome is a next state whose team in a slot satisfies P. -/
def Leaves (o : Host.Outcome State Fault Refusal) (slot : Nat) (P : Team → Prop) : Prop :=
  ∃ s' t', o = .next s' ∧ s'.team? slot = some t' ∧ P t'

section
variable {s : State} {slot : Nat} {t u : Team} {i : Instr} {ms : List (Nat × Bool)} {vw : List Nat} {vd va : VReg} {keep : Bool}

theorem State.done_leaves {P : Team → Prop} (h : P u.advance) : Leaves (s.done slot u) slot P := ⟨_, _, rfl, State.team?_setTeam _ _ _, h⟩

/-- The marks under the name that the claim gives them. -/
theorem Leaves.of_lastUses {o : Host.Outcome State Fault Refusal} {ns : List (Nat × Bool)} (hms : some ns = some ms)
    (h : Leaves o slot (t.MarkedFor ns vw)) : Leaves o slot (t.MarkedFor ms vw) := Option.some.inj hms ▸ h

theorem laneInstr_marks {r : Nat} {f : Team → Nat → Except Word Word} (h : Runs s slot t i) (hr : r ∈ vw) :
    Leaves (laneInstr i s r keep ms f) slot (t.MarkedFor ms vw) := by
  rw [laneInstr, issue_runs h]
  exact State.done_leaves (Team.markedFor_lastUse.wv hr fun l ha => by simp [ha]).advance

theorem crossInstr_marks {r : Nat} {f : Team → Nat → Option (Except Word Word) × Bool} (h : Runs s slot t i) (hr : r ∈ vw) :
    Leaves (crossInstr i s r keep ms f) slot (t.MarkedFor ms vw) := by
  rw [crossInstr, issue_runs h]
  exact State.done_leaves ((Team.markedFor_lastUse.wv hr fun l ha => by simp [ha]).condLanes _).advance

theorem condInstr_marks {f : Team → Nat → Except Word Bool} (h : Runs s slot t i) : Leaves (condInstr i s ms f) slot (t.MarkedFor ms vw) := by
  rw [condInstr, issue_runs h]
  exact State.done_leaves (Team.markedFor_lastUse.condLanes _).advance

theorem slotCond_marks {marks : Team → List (Nat × Bool)} {g : Team → Nat → Except Word (Bool × Stat)} (h : Runs s slot t i) :
    Leaves (slotCond i s marks g) slot (t.MarkedFor (marks t) vw) := by
  rw [slotCond, issue_runs h]
  exact State.done_leaves ((Team.markedFor_lastUse.condLanes _).counted _ _ _).advance

/-- Last-use marks, then the writes of the active lanes of the registers of a slot. -/
theorem Team.markedFor_slotWrites {g : Nat → Option (Except Word Nat)} {r : Nat} (hg : ∀ l, t.active l = false → g l = none) :
    t.MarkedFor ms (t.slotRegs t.slot r) ((t.lastUse ms).wvAll (slotWrites (t.fmtAt t.slot) r g)) :=
  Team.markedFor_lastUse.wvAll (slotWrites_active hg)

theorem slotInstr_marks {marks : Team → List (Nat × Bool)} {g : Team → Nat → LaneCodes} {r : Nat} (h : Runs s slot t i) :
    Leaves (slotInstr i s r keep marks g) slot (t.MarkedFor (marks t) (t.slotRegs t.slot r)) := by
  rw [slotInstr, issue_runs h]
  exact State.done_leaves ((Team.markedFor_slotWrites fun l ha => by simp [ha]).counted _ _ _).advance

theorem reduceInstr_marks {node : Team → Nat → Nat → Val × Stat → Val × Stat → Val × Stat} {la : Bool} (h : Runs s slot t i) :
    Leaves (reduceInstr i s vd va la keep node) slot (t.MarkedFor (hints1 va la t) (t.slotRegs t.slot vd.toNat)) := by
  rw [reduceInstr, issue_runs h]
  exact State.done_leaves ((Team.markedFor_slotWrites fun l ha => by simp [ha]).counted _ _ _).advance

theorem scanInstr_marks {step : Team → Nat → Nat → Val → Val → Val × Stat} {la before : Bool} (h : Runs s slot t i) :
    Leaves (scanInstr i s vd va la keep before step) slot (t.MarkedFor (hints1 va la t) (t.slotRegs t.slot vd.toNat)) := by
  rw [scanInstr, issue_runs h]
  exact State.done_leaves ((Team.markedFor_slotWrites fun l ha => by simp [ha]).counted _ _ _).advance

/-- A special-function instruction marks its registers at issue and writes none (R170). -/
theorem sfuInstr_marks {marks : Team → List (Nat × Bool)} {g : Team → Nat → LaneCodes} {r : Nat} (h : Runs s slot t i) :
    Leaves (sfuInstr i s r keep marks g) slot (t.MarkedFor (marks t) vw) := by
  rw [sfuInstr, issue_runs h]
  exact State.done_leaves ((Team.markedFor_lastUse.marked _ _).countSr _).advance

end

/-- Every instruction that the claim names leaves the marks of its hint bits. -/
theorem exec_lastUses {i : Instr} {s : State} {slot : Nat} {t : Team} {ms : List (Nat × Bool)} (h : Runs s slot t i)
    (hms : Claim.lastUses t i = some ms) : Leaves (exec i s) slot (t.MarkedFor ms (needOf t (s.mxsel t) i).vw) := by
  cases i
  case vmov | vmovs | vli | vlih | vand | vor | vxor | vandn | vshl | vshrn | vshri | vshli | vshrni | vshrii | vrot | vbitopPopc | vbitopClz
      | vbitopCtz | vbitopBrev | vbfx | vbfi | vprmb | vsel | vadda | vmada | vlane =>
    exact .of_lastUses hms (laneInstr_marks h List.mem_cons_self)
  case vshfl | vshfliXor | vshfliUp | vshfliDown | vshfliRot | vbcast | vpack | vunpk =>
    exact .of_lastUses hms (crossInstr_marks h List.mem_cons_self)
  case vtest => exact .of_lastUses hms (condInstr_marks h)
  case vcmp | vclass => exact .of_lastUses hms (slotCond_marks h)
  case vadd | vsub | vmul | vfma | vfms | vfnma | vmin | vmax | vminm | vmaxm | vabs | vneg | vrnd | vscalb | vcvt | vmulhi =>
    exact .of_lastUses hms (slotInstr_marks h)
  case vdiv | vsqrt | vrcp | vrsq | vexp2 | vlog2 | vsin | vcos | vtanh => exact .of_lastUses hms (sfuInstr_marks h)
  case vredadd | vredmax | vredmin => exact .of_lastUses hms (reduceInstr_marks h)
  case vscanAdd | vscanAddx | vscanMax | vscanMin => exact .of_lastUses hms (scanInstr_marks h)
  case vadda64 =>
    refine .of_lastUses hms ⟨_, _, issue_runs h _, State.team?_setTeam _ _ _, Team.MarkedFor.advance ?_⟩
    exact (Team.markedFor_lastUse.wv (by simp [needOf, span]) fun l ha => by simp [ha]).wv (by simp [needOf, span]) fun l ha => by simp [ha]
  case vdot =>
    refine .of_lastUses hms ⟨_, _, issue_runs h _, State.team?_setTeam _ _ _, Team.MarkedFor.advance ?_⟩
    exact (Team.markedFor_lastUse.wv List.mem_cons_self fun l ha => by simp [ha]).counted _ _ _
  case vqnt =>
    refine .of_lastUses hms ⟨_, _, issue_runs h _, State.team?_setTeam _ _ _, Team.MarkedFor.advance ?_⟩
    exact ((Team.markedFor_slotWrites fun l ha => by simp [ha]).condLanes _).counted _ _ _
  case vdqnt =>
    refine .of_lastUses hms ⟨_, _, issue_runs h _, State.team?_setTeam _ _ _, Team.MarkedFor.advance ?_⟩
    exact ((Team.markedFor_lastUse.wv List.mem_cons_self fun l ha => by simp [ha]).condLanes _).counted _ _ _
  case vstat => exact .of_lastUses hms ⟨_, _, issue_runs h _, State.team?_setTeam _ _ _, (Team.markedFor_lastUse.counted _ _ _).advance⟩
  all_goals cases hms

/-! ## The tokens of the cond window (R117) -/

theorem lowestIn_eq_some {b m : Nat} {p : Nat → Bool} (hlo : 32 * b ≤ m) (hhi : m < 32 * b + 32) (hp : p m = true)
    (hleast : ∀ l, 32 * b ≤ l → l < m → p l = false) : lowestIn b p = some m := by
  have hfind : (List.range 32).find? (p ∘ (32 * b + ·)) = some (m - 32 * b) := by
    rw [List.find?_range_eq_some]
    refine ⟨?_, List.mem_range.mpr (by omega), fun j hj => ?_⟩
    · rw [Function.comp, show 32 * b + (m - 32 * b) = m by omega]
      exact hp
    · simp [hleast (32 * b + j) (by omega) (by omega)]
  rw [lowestIn, List.find?_map, hfind, Option.map_some, show 32 * b + (m - 32 * b) = m by omega]

theorem lowestIn_eq_none {b : Nat} {p : Nat → Bool} : lowestIn b p = none ↔ ∀ l, 32 * b ≤ l → l < 32 * b + 32 → p l = false := by
  simp only [lowestIn, List.find?_eq_none, List.mem_map, List.mem_range, Bool.not_eq_true]
  constructor
  · exact fun h l hlo hhi => h l ⟨l - 32 * b, by omega, by omega⟩
  · rintro h l ⟨j, hj, rfl⟩
    exact h _ (by omega) (by omega)

/-- A word of a mask is zero where no lane of it has its bit set. -/
theorem maskWord_eq_zero {m : List Word} {b : Nat} : maskWord m b = 0 ↔ ∀ l, 32 * b ≤ l → l < 32 * b + 32 → maskBit m l = false := by
  have hbit (j : Nat) (hj : j < 32) : maskBit m (32 * b + j) = (maskWord m b).getLsbD j := by
    rw [maskBit, show (32 * b + j) / 32 = b by omega, show (32 * b + j) % 32 = j by omega]
  constructor
  · intro h l hlo hhi
    obtain ⟨j, rfl⟩ := Nat.exists_eq_add_of_le hlo
    rw [hbit j (by omega), h]
    exact BitVec.getLsbD_zero
  · intro h
    by_contra hne
    obtain ⟨j, hj, hset⟩ := (Word.ne_zero_iff _).mp hne
    rw [← hbit j hj, h _ (by omega) (by omega)] at hset
    cases hset

/-- The token that a lane's outcome carries. -/
def tokenIn : Option (Except Word Bool) → Option Word
  | some (.error k) => some k
  | _ => none

/-- The poison bits of the cond window after `Team.condLanes`. -/
def Team.condPoison (t : Team) (f : Nat → Option (Except Word Bool)) (l : Nat) : Bool :=
  match f l with
  | some (.ok _) => false
  | some (.error _) => true
  | none => maskBit t.ctl.cpois l

section
variable {t u : Team} {f : Nat → Option (Except Word Bool)} {b m : Nat} {k : Word}

theorem Team.maskBit_condLanes {l : Nat} (hl : l < t.lanes) : maskBit (t.condLanes f).ctl.cpois l = t.condPoison f l :=
  maskBit_maskOf t.beats (t.condPoison f) l hl

theorem Team.condPoison_of_token {l : Nat} (h : tokenIn (f l) = some k) : t.condPoison f l = true := by
  unfold Team.condPoison
  split
  next hf => simp [tokenIn, hf] at h
  next => rfl
  next hf => simp [tokenIn, hf] at h

/-- The token of a word of the cond window after `Team.condLanes`. -/
theorem Team.condLanes_token (hb : b < t.beats) : maskWord (t.condLanes f).ctl.ctok b =
    if maskWord (t.condLanes f).ctl.cpois b = 0 then 0
    else (lowestIn b fun l => (tokenIn (f l)).isSome).elim (maskWord t.ctl.ctok b) fun m =>
      if (lowestIn b fun l => decide (l < m) && maskBit t.ctl.cpois l && maskBit (t.condLanes f).ctl.cpois l).isSome
      then maskWord t.ctl.ctok b else (tokenIn (f m)).getD (maskWord t.ctl.ctok b) := by
  have hnew : (fun l => (tokenIn (f l)).isSome) = fun l => match f l with | some (.error _) => true | _ => false := by
    funext l
    unfold tokenIn
    split <;> rfl
  have htoken (m : Nat) (w : Word) : (tokenIn (f m)).getD w = match f m with | some (.error k) => k | _ => w := by
    unfold tokenIn
    split <;> rfl
  unfold Team.condLanes
  dsimp only
  conv_lhs => rw [maskWord, List.getD_eq_getElem?_getD, List.getElem?_map, List.getElem?_range hb]
  simp only [Option.map_some, Option.getD_some]
  split
  · rfl
  · split
    next hm => rw [(congrArg (lowestIn b) hnew).trans hm]; rfl
    next m hm =>
      rw [(congrArg (lowestIn b) hnew).trans hm, Option.elim_some, htoken] <;> rfl

/-- What R117 says of the tokens, where `Team.condLanes` ran on a team with the cond window of t and gave the tokens bad. -/
theorem Team.tokenRule_condLanes (hbeats : u.beats = t.beats) (hctl : u.ctl = t.ctl) {bad : Nat → Option Word}
    (hbad : ∀ l, bad l = tokenIn (f l)) : Claim.tokenRule t (u.condLanes f) bad := by
  obtain rfl : bad = fun l => tokenIn (f l) := funext hbad
  intro b hb was now inWord token
  have htoken : token = _ := Team.condLanes_token (hbeats.symm ▸ hb)
  have hzero : maskWord (u.condLanes f).ctl.cpois b = 0 ↔ ∀ l, 32 * b ≤ l → l < 32 * b + 32 → now l = false := maskWord_eq_zero
  rw [hctl] at htoken
  refine ⟨fun hnone => ?_, fun hsome hquiet => ?_, fun m k hm hk hleast => ?_⟩
  · rw [htoken, if_pos (hzero.mpr fun l hlo hhi => hnone l ⟨hlo, hhi⟩)]
  · obtain ⟨l, ⟨hlo, hhi⟩, hl⟩ := hsome
    have hquiet' : lowestIn b (fun l => (tokenIn (f l)).isSome) = none :=
      lowestIn_eq_none.mpr fun l hlo hhi => by rw [show tokenIn (f l) = none from hquiet l ⟨hlo, hhi⟩]; rfl
    rw [htoken, if_neg fun h => by simp [hzero.mp h l hlo hhi] at hl, hquiet', Option.elim_none]
  · obtain ⟨hlo, hhi⟩ := hm
    have hlowest : lowestIn b (fun l => (tokenIn (f l)).isSome) = some m :=
      lowestIn_eq_some hlo hhi (by simp only [show tokenIn (f m) = some k from hk, Option.isSome_some])
        fun l h1 h2 => by rw [show tokenIn (f l) = none from hleast l ⟨h1, by omega⟩ h2]; rfl
    have hnow : now m = true := by
      have hlanes : m < u.lanes := by
        have : u.lanes = 32 * t.beats := by rw [Team.lanes, hbeats]
        omega
      exact (Team.maskBit_condLanes hlanes).trans (Team.condPoison_of_token hk)
    rw [htoken, if_neg fun h => by simp [hzero.mp h m hlo hhi] at hnow, hlowest, Option.elim_some]
    constructor
    · rintro ⟨l, ⟨h1, h2⟩, hlm, hwas, hstill⟩
      rw [if_pos]
      rw [Option.isSome_iff_ne_none, Ne, lowestIn_eq_none]
      intro hnone
      have := hnone l h1 h2
      simp only [Bool.and_eq_false_iff, decide_eq_false_iff_not] at this
      rcases this with (h | h) | h
      · exact h hlm
      · exact absurd (hwas.symm.trans h) (by decide)
      · exact absurd (hstill.symm.trans h) (by decide)
    · intro hgone
      rw [if_neg, show tokenIn (f m) = some k from hk, Option.getD_some]
      rw [Bool.not_eq_true, Option.isSome_eq_false_iff, Option.isNone_iff_eq_none, lowestIn_eq_none]
      intro l h1 h2
      by_cases hlm : l < m
      · by_cases hwas : was l = true
        · rw [show maskBit (u.condLanes f).ctl.cpois l = false from hgone l ⟨h1, h2⟩ hlm hwas, Bool.and_false]
        · rw [show maskBit t.ctl.cpois l = false by simpa using hwas, Bool.and_false, Bool.false_and]
      · simp [hlm]

end

/-! ## The instructions that store tokens (R117, R151, R152, R172, R173) -/

theorem Claim.tokenRule_congr {t u v : Team} {bad : Nat → Option Word} (hpois : v.ctl.cpois = u.ctl.cpois) (htok : v.ctl.ctok = u.ctl.ctok)
    (h : Claim.tokenRule t u bad) : Claim.tokenRule t v bad := by
  simpa only [Claim.tokenRule, hpois, htok] using h

theorem Team.advance_tokens (t : Team) : t.advance.ctl.cpois = t.ctl.cpois ∧ t.advance.ctl.ctok = t.ctl.ctok := by
  unfold Team.advance
  dsimp only
  split
  · split <;> exact ⟨rfl, rfl⟩
  · exact ⟨rfl, rfl⟩

/-- The token of a cross-lane result. -/
def moveToken : Option (Except Word Word) → Option Word
  | some (.error k) => some k
  | _ => none

/-- What a cross-lane move gives the lane whose source lane the claim names (R152). -/
def moveFrom (t : Team) (va : Nat) : Except Word (Option Nat) → Option (Except Word Word) × Bool
  | .error k => (some (.error k), false)
  | .ok n => fromLane t va n

section
variable {s : State} {slot : Nat} {t u : Team} {i : Instr} {bad : Nat → Option Word} {vd va : VReg}

theorem Claim.tokenRule_advance (h : Claim.tokenRule t u bad) : Claim.tokenRule t u.advance bad :=
  Claim.tokenRule_congr u.advance_tokens.1 u.advance_tokens.2 h

/-- The tokens after last-use marks and the outcomes of the active lanes, whatever vector register is written between. -/
theorem Team.tokenRule_active {g : Nat → Except Word Bool} (hbeats : u.beats = t.beats) (hctl : u.ctl = t.ctl)
    (hactive : ∀ l, t.active l = true → bad l = tokenIn (some (g l))) (hidle : ∀ l, t.active l = false → bad l = none) :
    Claim.tokenRule t (u.condLanes fun l => if t.active l then some (g l) else none) bad := by
  refine Team.tokenRule_condLanes hbeats hctl fun l => ?_
  cases ha : t.active l with
  | true => exact hactive l ha
  | false => exact hidle l ha

theorem Team.lastUse_control (t : Team) (ms : List (Nat × Bool)) : (t.lastUse ms).beats = t.beats ∧ (t.lastUse ms).ctl = t.ctl := by
  obtain ⟨v, h⟩ := t.lastUse_frame ms
  rw [h]
  exact ⟨rfl, rfl⟩

theorem condInstr_tokens {ms : List (Nat × Bool)} {f : Team → Nat → Except Word Bool} (h : Runs s slot t i)
    (hactive : ∀ l, t.active l = true → bad l = tokenIn (some (f t l))) (hidle : ∀ l, t.active l = false → bad l = none) :
    Leaves (condInstr i s ms f) slot (Claim.tokenRule t · bad) := by
  obtain ⟨hbeats, hctl⟩ := t.lastUse_control ms
  rw [condInstr, issue_runs h]
  exact State.done_leaves (Claim.tokenRule_advance (Team.tokenRule_active hbeats hctl hactive hidle))

theorem slotCond_tokens {marks : Team → List (Nat × Bool)} {g : Team → Nat → Except Word (Bool × Stat)} (h : Runs s slot t i)
    (hactive : ∀ l, t.active l = true → bad l = tokenIn (some ((g t l).map (·.1)))) (hidle : ∀ l, t.active l = false → bad l = none) :
    Leaves (slotCond i s marks g) slot (Claim.tokenRule t · bad) := by
  obtain ⟨hbeats, hctl⟩ := t.lastUse_control (marks t)
  rw [slotCond, issue_runs h]
  refine State.done_leaves (Claim.tokenRule_advance ?_)
  refine Claim.tokenRule_congr ?_ ?_ (Team.tokenRule_active hbeats hctl hactive hidle)
  all_goals
    rw [(Team.countSr_regs _ _).2.2]
    rfl

theorem crossInstr_tokens {ms : List (Nat × Bool)} {r : Nat} {keep : Bool} {f : Team → Nat → Option (Except Word Word) × Bool}
    (h : Runs s slot t i) (hactive : ∀ l, t.active l = true → bad l = moveToken (f t l).1) (hidle : ∀ l, t.active l = false → bad l = none) :
    Leaves (crossInstr i s r keep ms f) slot (Claim.tokenRule t · bad) := by
  obtain ⟨hbeats, hctl⟩ := t.lastUse_control ms
  rw [crossInstr, issue_runs h]
  refine State.done_leaves (Claim.tokenRule_advance (Team.tokenRule_condLanes hbeats hctl fun l => ?_))
  cases ha : t.active l with
  | true =>
    rw [hactive l ha, if_pos rfl]
    rcases (f t l).1 with _ | (k | w) <;> rfl
  | false => exact hidle l ha

/-- A cross-lane move whose source lanes the claim names. -/
theorem exec_crossSource {src : Nat → Except Word (Option Nat)} (hsrc : ∀ l, Claim.crossSource t l i = some (vd, va, src l)) :
    ∃ (keep : Bool) (ms : List (Nat × Bool)) (f : Team → Nat → Option (Except Word Word) × Bool),
      exec i s = crossInstr i s vd.toNat keep ms f ∧ ∀ l, f t l = moveFrom t va.toNat (src l) := by
  have hsame {vd' va' : VReg} {x : Nat → Except Word (Option Nat)} (h : ∀ l, some (vd', va', x l) = some (vd, va, src l)) :
      vd' = vd ∧ va' = va ∧ x = src :=
    ⟨(Prod.mk.inj (Option.some.inj (h 0))).1, (Prod.mk.inj (Prod.mk.inj (Option.some.inj (h 0))).2).1,
      funext fun l => (Prod.mk.inj (Prod.mk.inj (Option.some.inj (h l))).2).2⟩
  cases i
  case vshfl =>
    obtain ⟨rfl, rfl, rfl⟩ := hsame hsrc
    refine ⟨_, _, _, rfl, fun l => ?_⟩
    dsimp only
    cases t.rv _ l <;> rfl
  case vshfliXor | vshfliUp | vshfliDown | vbcast =>
    obtain ⟨rfl, rfl, rfl⟩ := hsame hsrc
    exact ⟨_, _, _, rfl, fun _ => rfl⟩
  case vshfliRot =>
    obtain ⟨rfl, rfl, rfl⟩ := hsame hsrc
    exact ⟨_, _, _, rfl, fun l => by rw [Nat.mul_comm]; rfl⟩
  all_goals cases hsrc 0

end

/-- Settles O9: the marks by `exec_lastUses`, the tokens by the lane outcomes of the comparisons and the cross-lane moves. -/
theorem marksAndTokens : Obligations.MarksAndTokens := by
  intro i s slot t tokens h
  refine ⟨fun ms hms => ?_, ?_, ?_, ?_, ?_⟩
  · obtain ⟨s', t', hexec, hteam, -, hmarks⟩ := exec_lastUses h hms
    exact ⟨s', t', hexec, hteam, hmarks⟩
  · rintro code va vb la lb keep rfl
    refine condInstr_tokens h (fun l ha => ?_) fun l ha => by simp [ha]
    rw [if_pos ha]
    cases t.rv va.toNat l <;> cases t.rv vb.toNat l <;> rfl
  · rintro code va vb la lb keep rfl
    refine slotCond_tokens h (fun l ha => ?_) fun l ha => by simp [Claim.badSource, ha]
    rw [Claim.badSource, if_pos ha]
    dsimp only [List.findSome?]
    cases t.readIn (t.fmtAt t.slot) va.toNat l <;> cases t.readIn (t.fmtAt t.slot) vb.toNat l <;> rfl
  · rintro code va la lb keep rfl
    refine slotCond_tokens h (fun l ha => ?_) fun l ha => by simp [Claim.badSource, ha]
    rw [Claim.badSource, if_pos ha]
    dsimp only [List.findSome?]
    cases t.readIn (t.fmtAt t.slot) va.toNat l <;> rfl
  · intro vd va src hsrc
    obtain ⟨keep, ms, f, hexec, hf⟩ := exec_crossSource (s := s) hsrc
    show Leaves (exec i s) slot _
    rw [hexec]
    refine crossInstr_tokens h (fun l ha => ?_) fun l ha => by simp [ha]
    rw [if_pos ha, hf]
    rcases src l with k | _ | n
    · rfl
    · rfl
    · show (if t.active n then _ else none) = moveToken (if t.active n then (some (t.rv va.toNat n), true) else (none, false)).1
      cases t.active n with
      | true => cases t.rv va.toNat n <;> rfl
      | false => rfl

end Sys2Proof.Machine
end

section
/-! SUPPORT. A load through a buffer record whose only lane holds a token while its element lies at a peer (R190, R204, R340): the counterexample
to the claim about returning loads. -/

namespace Sys2Proof.Machine

/-- A load of v4 by lane 0, which holds a token; the element of the lane lies at a peer. -/
def peerElementLoad : LoadOp :=
  { dest := .vec 4 1, size := 4, accs := [{ lane := 0, va := 0x20000, keys := [], token := some 7 }],
    buf := some (recordOf 0, 0, [{ lane := 0, q := 0, va := 0x20000, keys := [2 ^ 60], bit := 0, scale := [] }]),
    spec := true, keep := false, acquire := false, once := false, detail := 0 }

/-- That load, issued by the team of the bench. -/
def peerElementOp : Op :=
  { id := 2, slot := 0, gid := 1, part := 0, core := 0, pc := 0x10000, snapshot := [], sent := [], handed := true, orphan := false,
    kind := .load peerElementLoad }

/-- The bench with that load outstanding. -/
def peerElementState : State := { State.reset.bench with ops := [peerElementOp], nextId := 3 }

/-- The team that issued it. -/
def peerElementTeam : Team := newTeam benchRecord 0 0 1 0 0 0

theorem peerElement_live : Live peerElementState peerElementOp peerElementTeam :=
  ⟨by decide +kernel, rfl, by decide +kernel, rfl, by decide +kernel⟩

theorem peerElement_calm : Calm peerElementState := by
  refine ⟨fun p hp st hk => ?_, fun w hw => ?_⟩
  · obtain rfl := List.mem_singleton.mp hp
    cases hk
  · rw [show peerElementState.semWaiters = [] by decide +kernel] at hw
    cases hw

theorem peerElement_ordinary : Ordinary peerElementState peerElementOp.gid :=
  ⟨newGroup (benchLaunch 1) 0 { child := none, index := 0, reruns := 0, again := false } 0 0 1 [], by decide +kernel, by decide +kernel,
    rfl, rfl, rfl⟩

/-- The return of the load sends the packet of its element, and the load stays outstanding. -/
theorem peerElement_stays {s' : State} (h : exec (.loadDataReturn 2 { useCopies := false, fails := [], peer := [] }) peerElementState = .next s') :
    s'.op? 2 ≠ none := by
  have hstays : (match exec (.loadDataReturn 2 { useCopies := false, fails := [], peer := [] }) peerElementState with
      | .next s' => (s'.op? 2).isSome
      | _ => false) = true := by decide +kernel
  rw [h] at hstays
  exact Option.isSome_iff_ne_none.mp hstays

/-- Refutes O32: the claim asks only of the keys that `LoadOp.reads` lists, those of lanes without a token, that none lies at a peer, while the
packets that must leave before a return counts are those of every element of the load (`Op.questions`). Where the lane of an element at a peer
holds a token, the return sends the element's packet, and the load stays outstanding. -/
theorem not_loadReturns : ¬ Obligations.LoadReturns := by
  unfold Obligations.LoadReturns
  intro h
  obtain ⟨s', t', hexec, -, hgone, -⟩ := h.2 peerElementState peerElementOp peerElementTeam peerElementLoad 4 1 (recordOf 0) 0
    [{ lane := 0, q := 0, va := 0x20000, keys := [2 ^ 60], bit := 0, scale := [] }] peerElement_live (by decide +kernel) (by decide +kernel)
    peerElement_calm peerElement_ordinary rfl rfl (by decide +kernel) (by decide +kernel) (by decide) rfl (by decide) (.inl rfl)
  exact peerElement_stays hexec hgone

end Sys2Proof.Machine
end

section
/-! SUPPORT. A team in its handler for an emulation routine, of which more accesses are counted than a counter of R190 holds: the counterexample
to the claim about the handler's events. -/

namespace Sys2Proof.Machine

/-- The team of the bench, in its handler for a routine, with 1,025 accesses counted on path 0. -/
def crowdedTeam : Team :=
  { newTeam benchRecord 0 0 1 0 0 0 with
    status := .inHandler, service := some .routine, flight := List.replicate 1025 { op := 9, path := 0, returned := false } }

/-- The bench with that team. -/
def crowdedState : State := State.reset.bench.setTeam 0 crowdedTeam

/-- The group of the bench. -/
def crowdedGroup : Group := newGroup (benchLaunch 1) 0 { child := none, index := 0, reruns := 0, again := false } 0 0 1 []

/-- The commit of a routine that writes s4 and accesses no memory. -/
def writeS4 : RoutineCommit := ⟨[], [(4, 7)], [], crowdedTeam.mode, [], [], [], 0, 0, none⟩

theorem crowdedState_team : crowdedState.team? 0 = some crowdedTeam := by decide +kernel

theorem crowdedState_group : crowdedState.group? crowdedTeam.group = some crowdedGroup := by decide +kernel

/-- Path 0 alone makes the routine's commit step wait (R190). -/
theorem crowdedTeam_overCounts (uses : List (List Nat)) : crowdedTeam.overCounts uses = true := by
  refine List.any_eq_true.mpr ⟨0, by decide, decide_eq_true ?_⟩
  have hflight : Config.maxInFlight < crowdedTeam.inflight 0 := by decide +kernel
  omega

/-- The commit step waits: the routine's end leaves the state as it was. -/
theorem crowdedState_commit_waits :
    exec (.ctrlResume 0 ⟨none, some (.commit writeS4)⟩) crowdedState = .next crowdedState := by
  have hresume : crowdedState.mayResume crowdedTeam = true := by decide +kernel
  have hfits : crowdedTeam.commitFits writeS4 = true := by decide +kernel
  have hraises : crowdedTeam.routineRaises (crowdedState.checkRoutine crowdedTeam writeS4) = none := by decide +kernel
  have hfailed : (crowdedState.checkRoutine crowdedTeam writeS4).failed = none := by decide +kernel
  have hwaits : crowdedState.routineWaits 0 crowdedTeam writeS4 (crowdedState.checkRoutine crowdedTeam writeS4) = true := by
    simp [State.routineWaits, crowdedTeam_overCounts]
  have hcommit : crowdedState.commitRoutine 0 crowdedTeam writeS4 = crowdedState := by
    simp [State.commitRoutine, hfits, hraises, hfailed, hwaits]
  have hservice : crowdedTeam.service = some .routine := rfl
  change execCtrlResume 0 ⟨none, some (.commit writeS4)⟩ crowdedState = _
  simp [execCtrlResume, crowdedState_team, hresume, hservice, State.endRoutine, hcommit]

/-- Refutes O47: the claim has a routine's commit without accesses succeed in every state, while the commit step waits where a counter of the
team stands above 1,024 (`State.routineWaits`, R190), which no premise of the claim excludes: the team then stays in its handler. -/
theorem not_handlerEvents : ¬ Obligations.HandlerEvents := by
  unfold Obligations.HandlerEvents
  intro h
  obtain ⟨-, hstopped, -, -⟩ :=
    h.1 crowdedState 0 crowdedTeam crowdedGroup none 0 0 0 4 [] none 7 crowdedState_team crowdedState_group rfl rfl
  obtain ⟨-, -, -, -, hroutine, -⟩ := hstopped (.inl rfl)
  obtain ⟨⟨s', t', hexec, hteam, hrunning, -⟩, -⟩ := hroutine rfl (by decide) (by decide) (by decide +kernel)
  obtain rfl : crowdedState = s' := Host.Outcome.next.inj (crowdedState_commit_waits.symm.trans hexec)
  obtain rfl : crowdedTeam = t' := Option.some.inj (crowdedState_team.symm.trans hteam)
  cases hrunning

end Sys2Proof.Machine
end

section
/-! SUPPORT. The status page's register of the management interface (R409, R410) written with a base that is wider than the register: the
counterexample to the claim about the host's events. -/

namespace Sys2Proof.Machine

variable {s : State} {part base : Nat}

/-- Where a management core runs, a base that is not 0 and leaves a byte of the page outside the partition's share is refused with group 7
(log entry 93). -/
theorem statusPageWrite_refused (hup : s.anyCoreUp = true) (hzero : base ≠ 0) (hout : s.inShare part base 4096 = false) :
    exec (.managementRegisterWrite (.statusPage part base)) s = .next (s.refuse 7) := by
  have houtside : ¬(base = 0 ∨ s.inShare part base 4096 = true) := by simp [hzero, hout]
  change execManagementRegisterWrite (.statusPage part base) s = _
  simp [execManagementRegisterWrite, hup, houtside]

/-- A refused write leaves every partition as it was. -/
theorem State.part_refuse (s : State) (group p : Nat) : (s.refuse group).part p = s.part p := rfl

/-- A base of 65 bits, whose low 64 bits are the address 0x30000. -/
def wideBase : Nat := 2 ^ 64 + 0x30000

/-- The page at the low 64 bits of the base lies in the share of the bench's partition, 0 to 2^30. -/
theorem low_wideBase_inShare : State.reset.bench.inShare 0 (dbl wideBase).toNat 4096 = true := by decide +kernel

/-- The page at the base itself does not. -/
theorem wideBase_outside : State.reset.bench.inShare 0 wideBase 4096 = false := by decide +kernel

theorem bench_anyCoreUp : State.reset.bench.anyCoreUp = true := by decide +kernel

/-- The partition of the bench has no status page set. -/
theorem bench_statusPage : (State.reset.bench.part 0).statusPage = 0 := by decide +kernel

/-- Refutes O55: its clause on the status page asks that the low 64 bits of the base, `(dbl key).toNat`, begin a page in the partition's share,
while the write tests the base itself (log entry 93), and no premise keeps the base below 2^64. With `wideBase` the write is refused with group 7
and the partition's status page stays unset. -/
theorem not_hostEvents : ¬ Obligations.HostEvents := by
  unfold Obligations.HostEvents
  intro h
  obtain ⟨-, -, -, -, -, -, -, -, -, -, hstatusPage, -⟩ := h State.reset.bench wideBase 0 0 0 [] ⟨0, 0, [], 0⟩ ⟨0, 0, 0, 0, false⟩
    ⟨0, 0, 0, 0, 0, 0, false, false, false⟩ ⟨0, 0, 0, [], [], 0, []⟩ [] (0, 0) 0 []
  obtain ⟨s', hexec, hwritten⟩ := hstatusPage bench_anyCoreUp low_wideBase_inShare
  have hrefused := statusPageWrite_refused bench_anyCoreUp (by decide) wideBase_outside
  obtain rfl : State.reset.bench.refuse 7 = s' := Host.Outcome.next.inj (hrefused.symm.trans hexec)
  rw [State.part_refuse, bench_statusPage] at hwritten
  exact absurd hwritten (by decide)

end Sys2Proof.Machine
end

section
/-! SUPPORT. The format state of a team (R99 to R107) and the fields of the mode register (R41 to R43). -/

namespace Sys2Proof.Machine

/-! ## The mode register -/

/-- The bits of the mode register that the enable bits name (R38, R41). -/
def modeFields (en : BitVec 5) : Half :=
  (if en.getLsbD 0 then 0x000F else 0) ||| (if en.getLsbD 1 then 0x0070 else 0) ||| (if en.getLsbD 2 then 0x0080 else 0) |||
    (if en.getLsbD 3 then 0x0300 else 0) ||| (if en.getLsbD 4 then 0x0C00 else 0)

theorem setMode_eq (mode v : Half) (en : BitVec 5) : setMode mode en v = (mode &&& ~~~modeFields en) ||| (v &&& modeFields en) := rfl

theorem modeFields_bit : ∀ (en : BitVec 5) (b : Nat), b < 16 → ((modeFields en).getLsbD b = true ↔
    (b < 4 ∧ en.getLsbD 0 = true) ∨ (4 ≤ b ∧ b < 7 ∧ en.getLsbD 1 = true) ∨ (b = 7 ∧ en.getLsbD 2 = true) ∨
      ((b = 8 ∨ b = 9) ∧ en.getLsbD 3 = true) ∨ ((b = 10 ∨ b = 11) ∧ en.getLsbD 4 = true)) := by
  decide

theorem setMode_bit (mode v : Half) (en : BitVec 5) {b : Nat} (hb : b < 16) :
    (setMode mode en v).getLsbD b = if (b < 4 ∧ en.getLsbD 0 = true) ∨ (4 ≤ b ∧ b < 7 ∧ en.getLsbD 1 = true) ∨ (b = 7 ∧ en.getLsbD 2 = true) ∨
      ((b = 8 ∨ b = 9) ∧ en.getLsbD 3 = true) ∨ ((b = 10 ∨ b = 11) ∧ en.getLsbD 4 = true) then v.getLsbD b else mode.getLsbD b := by
  simp only [← modeFields_bit en b hb, setMode_eq, BitVec.getLsbD_or, BitVec.getLsbD_and, BitVec.getLsbD_not, hb]
  cases (modeFields en).getLsbD b <;> simp

/-! ## Format definitions and statistics -/

theorem Team.fdr_setFdr (t : Team) (n : Nat) (d : Dbl) (m : Nat) : (t.setFdr n d).fdr m = if m = n then d else t.fdr m :=
  sget_sput _ _ _ _ _

theorem Team.fdr_advance (t : Team) (m : Nat) : t.advance.fdr m = t.fdr m := by rw [Team.fdr, Team.advance_fmt, Team.fdr]

theorem builtinPacked_eq (pair : Bool) (idx : Nat) :
    builtinPacked pair idx = if pair then builtin idx ||| (1 <<< 40) else builtin idx := rfl

section
variable (t : Team) (co cn ca c1 : Bool) (n : Nat)

/-- STCLR clears OVC by its first bit and the three flags of special values by its second (R106). -/
theorem Team.clearStats_flags : (t.clearStats co cn ca c1 n).fmt.flags.getLsbD 3 = (t.fmt.flags.getLsbD 3 && !co) ∧
    ∀ b, b < 3 → (t.clearStats co cn ca c1 n).fmt.flags.getLsbD b = (t.fmt.flags.getLsbD b && !cn) := by
  have hkeep : ∀ co cn : Bool, ((if co then 0 else flagOvc) ||| (if cn then 0 else flagNan ||| flagNinf ||| flagPinf) : BitVec 4).getLsbD 3 = !co ∧
      ∀ b, b < 3 → ((if co then 0 else flagOvc) ||| (if cn then 0 else flagNan ||| flagNinf ||| flagPinf) : BitVec 4).getLsbD b = !cn := by
    decide
  obtain ⟨hovc, hspecial⟩ := hkeep co cn
  exact ⟨(BitVec.getLsbD_and).trans (congrArg _ hovc), fun b hb => (BitVec.getLsbD_and).trans (congrArg _ (hspecial b hb))⟩

theorem Team.clearStats_amax (m : Nat) :
    sget 0 (t.clearStats co cn ca c1 n).fmt.amax m = if ca ∨ (c1 ∧ m = n) then 0 else sget 0 t.fmt.amax m := by
  show sget 0 (if ca then [] else if c1 then sput 0 t.fmt.amax n 0 else t.fmt.amax) m = _
  cases ca with
  | true => simp
  | false =>
    cases c1 with
    | true => simp [sget_sput]
    | false => simp

end

section
variable {s : State} {slot : Nat} {t u : Team} {i : Instr} {body : Nat → Team → Host.Outcome State Fault Refusal}

/-- A body that goes on, at the next instruction. -/
theorem issue_done (h : Runs s slot t i) (hbody : body slot t = s.done slot u) : issue i s body = .next (s.setTeam slot u.advance) :=
  (issue_runs h body).trans hbody

/-- A body that takes ILLEGAL. -/
theorem issue_illegal (h : Runs s slot t i) (hbody : body slot t = .next (s.illegal slot)) :
    issue i s body = .next (s.trap slot (Report.precise 0x10 t.allLanes)) := by
  obtain ⟨-, hteam, -⟩ := id h
  rw [issue_runs h, hbody, State.illegal_eq hteam]

/-- A body that sets a definition register. -/
theorem issue_setFdr (h : Runs s slot t i) {n : Nat} {d : Dbl} (hbody : body slot t = s.done slot (t.setFdr n d)) :
    ∃ t', issue i s body = .next (s.setTeam slot t') ∧ t'.fdr n = d ∧ (∀ m, m ≠ n → t'.fdr m = t.fdr m) ∧ t'.pc = t.advance.pc ∧
      t'.regs = t.regs := by
  refine ⟨_, issue_done h hbody, ?_, fun m hm => ?_, Team.advance_pc_congr rfl rfl, Team.advance_regs _⟩
  · rw [Team.fdr_advance, Team.fdr_setFdr, if_pos rfl]
  · rw [Team.fdr_advance, Team.fdr_setFdr, if_neg hm]

/-- A body that replaces the enabled fields of the mode register. -/
theorem issue_setMode (h : Runs s slot t i) {en : BitVec 5} {v : Half} (hbody : body slot t = s.done slot { t with mode := setMode t.mode en v }) :
    ∃ t', issue i s body = .next (s.setTeam slot t') ∧ t'.regs = t.regs ∧ t'.pc = t.advance.pc ∧ t'.fmt = t.fmt ∧ ∀ b, b < 16 →
      t'.mode.getLsbD b = if (b < 4 ∧ en.getLsbD 0 = true) ∨ (4 ≤ b ∧ b < 7 ∧ en.getLsbD 1 = true) ∨ (b = 7 ∧ en.getLsbD 2 = true) ∨
        ((b = 8 ∨ b = 9) ∧ en.getLsbD 3 = true) ∨ ((b = 10 ∨ b = 11) ∧ en.getLsbD 4 = true) then v.getLsbD b else t.mode.getLsbD b := by
  refine ⟨_, issue_done h hbody, Team.advance_regs _, Team.advance_pc_congr rfl rfl, Team.advance_fmt _, fun b hb => ?_⟩
  rw [Team.advance_mode]
  exact setMode_bit t.mode v en hb

end

/-- Settles O15: each instruction by its body on the current team, the mode register field by field. -/
theorem formatState : Obligations.FormatState := by
  constructor
  · intro s slot t n sa sd pair co cn ca c1 idx sel
    refine ⟨fun h hvalid => issue_setFdr h (if_pos hvalid), fun h hinvalid => issue_illegal h (if_neg (ne_true_of_eq_false hinvalid)), fun h => ?_,
      fun h => issue_done h rfl, fun h hquiet => issue_done h (if_neg (ne_true_of_eq_false hquiet)),
      fun hbusy => ⟨fun h => (issue_runs h _).trans (if_pos hbusy), fun h => (issue_runs h _).trans (if_pos hbusy)⟩, fun h hquiet => ?_, fun h => ?_⟩
    · obtain ⟨t', hexec, hfdr, -, -, hregs⟩ :=
        issue_setFdr h (body := fun slot t => s.done slot (t.setFdr n.toNat (builtinPacked pair idx.toNat))) rfl
      exact ⟨t', hexec, hfdr.trans (builtinPacked_eq pair idx.toNat), hregs⟩
    · obtain ⟨hovc, hspecial⟩ := t.clearStats_flags co cn ca c1 n.toNat
      refine ⟨_, issue_done h (if_neg (ne_true_of_eq_false hquiet)), Team.advance_regs _, ?_⟩
      rw [Team.advance_fmt]
      exact ⟨rfl, hovc, hspecial, fun m _ => t.clearStats_amax co cn ca c1 n.toNat m⟩
    · refine ⟨_, issue_done h rfl, ?_⟩
      rw [Team.advance_fmt]
      exact ⟨rfl, rfl, Team.advance_regs _, rfl, rfl, Team.advance_pc_congr rfl rfl⟩
  · intro s slot t en imm sa sd set
    refine ⟨fun h => issue_setMode h rfl, fun h hhigh hok => issue_setMode h (if_neg ?_), fun h hbad => issue_illegal h (if_pos hbad),
      fun h => scalarInstr_runs h _ _⟩
    simp [hhigh, hok]

end Sys2Proof.Machine
end

section
/-! SUPPORT. What format instructions leave in the registers of their slot and in the statistics (R92 to R98, R160 to R171, R176, R180). -/

namespace Sys2Proof.Machine

/-! ## The statistics of a list of lanes (R97, R98) -/

theorem maxPattern_toNat (a b : Word) : (maxPattern a b).toNat = max a.toNat b.toNat := by
  unfold maxPattern
  split <;> omega

theorem Stat.foldl_join_flags (xs : List Stat) (a : Stat) (b : Nat) :
    (xs.foldl Stat.join a).flags.getLsbD b = (a.flags.getLsbD b || xs.any fun x => x.flags.getLsbD b) := by
  induction xs generalizing a with
  | nil => simp
  | cons x xs ih => simp [ih, Stat.join, Bool.or_assoc]

/-- A flag of several statistics is set where one of them sets it. -/
theorem Stat.all_flags (xs : List Stat) (b : Nat) : (Stat.all xs).flags.getLsbD b = xs.any fun x => x.flags.getLsbD b := by
  simp [Stat.all, Stat.foldl_join_flags, Stat.none]

theorem Stat.foldl_join_amax (xs : List Stat) (a : Stat) :
    (xs.foldl Stat.join a).amax.toNat = xs.foldl (fun m x => max m x.amax.toNat) a.amax.toNat := by
  induction xs generalizing a with
  | nil => rfl
  | cons x xs ih => simp [ih, Stat.join, maxPattern_toNat]

theorem foldl_max_max {α : Type} (g : α → Nat) (xs : List α) (m n : Nat) :
    xs.foldl (fun k x => max k (g x)) (max m n) = max m (xs.foldl (fun k x => max k (g x)) n) := by
  induction xs generalizing n with
  | nil => rfl
  | cons x xs ih => rw [List.foldl_cons, List.foldl_cons, max_assoc, ih]

/-- The greatest magnitude of several statistics, raised from an old one. -/
theorem Stat.max_all_amax (xs : List Stat) (m : Nat) : max m (Stat.all xs).amax.toNat = xs.foldl (fun k x => max k x.amax.toNat) m := by
  rw [Stat.all, Stat.foldl_join_amax, ← foldl_max_max]
  exact congrArg (fun n => xs.foldl _ n) (Nat.max_zero m)

/-! ## The format state after an instruction (R89, R97) -/

/-- The format state with the statistics x added for a slot and the count raised where the slot rounds stochastically. -/
def Team.statistics (t : Team) (x : Stat) : FormatState :=
  { t.fmt with
    flags := t.fmt.flags ||| x.flags
    amax := sput 0 t.fmt.amax t.slot (maxPattern (sget 0 t.fmt.amax t.slot) x.amax)
    srcnt := if t.rounding t.slot = 5 then t.fmt.srcnt + 1 else t.fmt.srcnt }

theorem Team.countSr_fmt (t : Team) (n : Nat) :
    (t.countSr n).fmt = { t.fmt with srcnt := if t.rounding n = 5 then t.fmt.srcnt + 1 else t.fmt.srcnt } := by
  unfold Team.countSr
  split <;> rfl

theorem Team.counted_fmt {t u : Team} (hfmt : u.fmt = t.fmt) (hmode : u.mode = t.mode) (x : Stat) :
    ((u.addStat t.slot x).countSr t.slot).fmt = t.statistics x := by
  have hround : (u.addStat t.slot x).rounding t.slot = t.rounding t.slot := by
    simp only [Team.rounding, Team.rnd, Team.fmtAt, Team.fdr, Team.addStat, hfmt, hmode]; rfl
  rw [Team.countSr_fmt, hround]
  simp only [Team.addStat, Team.statistics, hfmt]

section
variable (t : Team) (x : Stat)

theorem Team.statistics_flags (b : Nat) : (t.statistics x).flags.getLsbD b = (t.fmt.flags.getLsbD b || x.flags.getLsbD b) := BitVec.getLsbD_or

theorem Team.statistics_amax_slot : (sget 0 (t.statistics x).amax t.slot).toNat = max (sget 0 t.fmt.amax t.slot).toNat x.amax.toNat := by
  rw [Team.statistics, sget_sput_self, maxPattern_toNat]

theorem Team.statistics_amax_other {n : Nat} (h : n ≠ t.slot) : sget 0 (t.statistics x).amax n = sget 0 t.fmt.amax n := sget_sput_ne 0 _ _ h

end

/-! ## The registers of a slot after a write (R92, R93, R96) -/

theorem laneOf_slotLane (f : Fmt) (c : LaneCodes) (h : Nat) :
    laneOf ((LaneCodes.lane f c).map fun n => word (n / 2 ^ (32 * h))) = Claim.slotLane f c h := by
  cases c <;> rfl

/-- What a register of a slot receives in a lane to which codes are given. -/
theorem slotWrites_lane (f : Fmt) (c : Option LaneCodes) (h : Nat) (d : Lane) :
    ((c.map (LaneCodes.lane f)).map fun x => laneOf (x.map fun n => word (n / 2 ^ (32 * h)))).getD d = (c.map (Claim.slotLane f · h)).getD d := by
  cases c with
  | none => rfl
  | some x => exact laneOf_slotLane f x h

/-- A register of a slot after codes are written in the lanes for which c gives some. -/
theorem Team.lane_slotWrites (u : Team) {f : Fmt} {r h l : Nat} (c : Nat → Option LaneCodes) (hl : l < u.lanes) (hh : h < if f.pack then 2 else 1) :
    (u.wvAll (slotWrites f r fun l => (c l).map (LaneCodes.lane f))).lane (r + h) l =
      ((c l).map (Claim.slotLane f · h)).getD (u.lane (r + h) l) := by
  rw [← slotWrites_lane]
  unfold Team.wvAll slotWrites
  cases hp : f.pack with
  | false =>
    obtain rfl : h = 0 := by simpa [hp] using hh
    exact (Team.lane_wv u r _ r l hl).trans (if_pos rfl)
  | true =>
    simp only [if_true, List.foldl_cons, List.foldl_nil]
    rw [hp, if_pos rfl] at hh
    rw [Team.lane_wv (u.wv r _) _ _ _ _ hl]
    interval_cases h
    · rw [if_neg (by omega), Team.lane_wv _ _ _ _ _ hl]
      exact if_pos rfl
    · rw [if_pos rfl, Team.lane_wv _ _ _ _ _ hl, if_neg (by omega)]

/-- A team after a format instruction that gives lane l the codes c l and adds the statistics x (R160). -/
def Team.writeSlot (t : Team) (ms : List (Nat × Bool)) (vd : Nat) (c : Nat → LaneCodes) (x : Stat) : Team :=
  (((t.lastUse ms).wvAll (slotWrites (t.fmtAt t.slot) vd fun l => if t.active l then some (LaneCodes.lane (t.fmtAt t.slot) (c l)) else none)).addStat
    t.slot x).countSr t.slot

theorem Team.wvAll_frame (t : Team) (ws : List (Nat × (Nat → Option Lane))) : ∃ v, t.wvAll ws = { t with regs := { t.regs with v := v } } := by
  unfold Team.wvAll
  induction ws generalizing t with
  | nil => exact ⟨_, rfl⟩
  | cons w ws ih =>
    obtain ⟨v, h⟩ := ih (t.wv w.1 w.2)
    exact ⟨v, h⟩

section
variable (t : Team) (ms : List (Nat × Bool)) (vd : Nat) (c : Nat → LaneCodes) (x : Stat)

theorem Team.lane_writeSlot {h l : Nat} (hl : l < t.lanes) (hh : h < Claim.slotWidth t) :
    (t.writeSlot ms vd c x).advance.lane (vd + h) l =
      if t.active l then Claim.slotLane (t.fmtAt t.slot) (c l) h else t.lane (vd + h) l := by
  have hwrites : (fun l => if t.active l then some (LaneCodes.lane (t.fmtAt t.slot) (c l)) else none) =
      fun l => (if t.active l then some (c l) else none).map (LaneCodes.lane (t.fmtAt t.slot)) := by
    funext l
    split <;> rfl
  rw [Team.lane_advance, Team.writeSlot, Team.lane_regs (congrArg _ (Team.countSr_regs _ _).1)]
  show (((t.lastUse ms).wvAll (slotWrites (t.fmtAt t.slot) vd fun l => _)).lane (vd + h) l) = _
  rw [hwrites, Team.lane_slotWrites _ _ ((t.lanes_lastUse ms).symm ▸ hl) hh]
  cases ha : t.active l with
  | true => rfl
  | false => exact t.lane_lastUse_inactive ms _ l hl ha

theorem Team.writeSlot_fmt : (t.writeSlot ms vd c x).advance.fmt = t.statistics x := by
  obtain ⟨v, hmarks⟩ := t.lastUse_frame ms
  obtain ⟨w, hwrites⟩ := (t.lastUse ms).wvAll_frame
    (slotWrites (t.fmtAt t.slot) vd fun l => if t.active l then some (LaneCodes.lane (t.fmtAt t.slot) (c l)) else none)
  rw [Team.advance_fmt, Team.writeSlot]
  refine Team.counted_fmt ?_ ?_ x <;> rw [hwrites, hmarks]

end

/-! ## The element-wise instructions (R164 to R167, R171) -/

section
variable {s : State} {slot : Nat} {t : Team} {i : Instr} {vd va : VReg} {keep : Bool}

/-- An element-wise instruction that runs leaves the codes of its lanes and their statistics. -/
theorem slotInstr_leaves (h : Runs s slot t i) {r : Nat} {marks : Team → List (Nat × Bool)} {g : Team → Nat → LaneCodes} {P : Team → Prop}
    (hP : P (t.writeSlot (marks t) r (g t) (t.laneStats (g t))).advance) : Leaves (slotInstr i s r keep marks g) slot P := by
  rw [slotInstr, issue_runs h]
  exact State.done_leaves hP

/-- Two operands read one after the other, the token of the first poisoned one first (R10). -/
theorem twoOperands_eq_map {α β γ : Type} {x : Except Word α} {y : Except Word β} {f g : α → β → γ} (h : ∀ a b, g a b = f a b) :
    (do let a ← x; let b ← y; pure (g a b)) = x.bind fun a => y.map fun b => f a b := by
  cases x with
  | error k => rfl
  | ok a =>
    cases y with
    | error k => rfl
    | ok b => exact congrArg Except.ok (h a b)

/-- An instruction is an element-wise write of the codes c. -/
def IsSlotWrite (i : Instr) (s : State) (t : Team) (vd : VReg) (c : Nat → LaneCodes) : Prop :=
  ∃ (keep : Bool) (marks : Team → List (Nat × Bool)) (g : Team → Nat → LaneCodes), exec i s = slotInstr i s vd.toNat keep marks g ∧ g t = c

theorem isSlotWrite_of_eq {vd' : VReg} {c c' : Nat → LaneCodes} (h : IsSlotWrite i s t vd c) (heq : ∀ l, some (vd, c l) = some (vd', c' l)) :
    IsSlotWrite i s t vd' c' := by
  have hvd : vd = vd' := (Prod.mk.inj (Option.some.inj (heq 0))).1
  have hc : c = c' := funext fun l => (Prod.mk.inj (Option.some.inj (heq l))).2
  exact hvd ▸ hc ▸ h

/-- Each element-wise instruction writes the codes that the rules give. -/
theorem exec_isSlotWrite {c : Nat → LaneCodes} (hc : ∀ l, Claim.slotWrite t l i = some (vd, c l)) : IsSlotWrite i s t vd c := by
  cases i
  case vadd | vsub | vmul | vfma | vfms | vfnma | vmin | vmax | vminm | vmaxm | vabs | vneg | vrnd | vscalb | vcvt =>
    exact isSlotWrite_of_eq ⟨_, _, _, rfl, rfl⟩ hc
  case vmulhi =>
    exact isSlotWrite_of_eq ⟨_, _, _, rfl, rfl⟩ fun l => .trans (congrArg (fun c => some (_, c)) (twoOperands_eq_map fun a b => by simp only [List.map_map]; rfl)) (hc l)
  all_goals cases hc 0

end

/-! ## Reductions and VSTAT (R174, R176, R180) -/

section
variable {α β : Type} {op : Nat → Nat → α → α → α} {op' : Nat → Nat → β → β → β} {φ : α → β}

theorem pairUp_map (h : ∀ lv i a b, φ (op lv i a b) = op' lv i (φ a) (φ b)) (lv i : Nat) (xs : List α) :
    pairUp (op' lv) i (xs.map φ) = (pairUp (op lv) i xs).map φ := by
  induction i, xs using pairUp.induct with
  | case1 i a b xs ih => simp [pairUp, h, ih]
  | case2 i xs hshort =>
    rcases xs with _ | ⟨a, _ | ⟨b, xs⟩⟩
    · rfl
    · rfl
    · exact absurd rfl (hshort a b xs)

/-- A map that commutes with the nodes commutes with the tree. -/
theorem tree_map (h : ∀ lv i a b, φ (op lv i a b) = op' lv i (φ a) (φ b)) (xs : List α) : tree op' (xs.map φ) = (tree op xs).map φ := by
  have hlevels (n lv : Nat) (xs : List α) : treeGo op' n lv (xs.map φ) = (treeGo op n lv xs).map φ := by
    induction n generalizing lv xs with
    | zero => rfl
    | succ n ih =>
      simp only [treeGo, List.length_map]
      split
      · rfl
      · rw [pairUp_map h, ih]
  rw [tree, List.length_map, hlevels, List.head?_map, tree]

end

/-- The codes that a reduction gives every active lane (R176). -/
def Team.reduced (t : Team) (va : Nat) (node : Nat → Nat → Val × Stat → Val × Stat → Val × Stat) : LaneCodes :=
  match firstToken (t.elements va) with
  | some k => .error k
  | none =>
    let r := (tree node ((t.elements va).map fun e => (elementVal e, Stat.none))).getD (.nan, Stat.none)
    let e := encodeVal (t.fmtAt t.slot) 0 false 0 r.1.exact
    .ok (List.replicate (t.fmtAt t.slot).count e.code,
      ((statOf (t.fmtAt t.slot) e).join r.2).join (Stat.all ((t.elements va).map fun e => statSrc (elementVal e))))

section
variable {s : State} {slot : Nat} {t : Team} {i : Instr} {vd va : VReg} {la lb keep : Bool}

theorem reduceInstr_leaves {node : Team → Nat → Nat → Val × Stat → Val × Stat → Val × Stat} {P : Team → Prop} (h : Runs s slot t i)
    (hP : ∀ x, P (t.writeSlot (hints1 va la t) vd.toNat (fun _ => t.reduced va.toNat (node t)) x).advance) :
    Leaves (reduceInstr i s vd va la keep node) slot P := by
  rw [reduceInstr, issue_runs h]
  exact State.done_leaves (hP _)

/-- VREDADD, VREDMAX and VREDMIN are reductions by some node. -/
theorem exec_reduction (s : State) (hi : i = .vredadd vd va la lb keep ∨ i = .vredmax vd va la lb keep ∨ i = .vredmin vd va la lb keep) :
    ∃ node, exec i s = reduceInstr i s vd va la keep node := by
  rcases hi with rfl | rfl | rfl <;> exact ⟨_, rfl⟩

/-- Every active lane receives the same codes. -/
def AllLanes (t : Team) (vd : VReg) (c : LaneCodes) (u : Team) : Prop := ∀ h l, h < Claim.slotWidth t → l < t.lanes →
  u.lane (vd.toNat + h) l = if t.active l then Claim.slotLane (t.fmtAt t.slot) c h else t.lane (vd.toNat + h) l

theorem reduceInstr_allLanes {node : Team → Nat → Nat → Val × Stat → Val × Stat → Val × Stat} {c : LaneCodes} (h : Runs s slot t i)
    (hc : t.reduced va.toNat (node t) = c) : Leaves (reduceInstr i s vd va la keep node) slot (AllLanes t vd c) :=
  reduceInstr_leaves h fun x _ _ hh hl => hc ▸ t.lane_writeSlot _ _ _ x hl hh

theorem Team.reduced_of_token {va : Nat} {k : Word} {node : Nat → Nat → Val × Stat → Val × Stat → Val × Stat}
    (h : firstToken (t.elements va) = some k) : t.reduced va node = .error k := by
  rw [Team.reduced, h]

theorem Team.reduced_of_none {va : Nat} (node : Nat → Nat → Val × Stat → Val × Stat → Val × Stat) (h : firstToken (t.elements va) = none) :
    ∃ x, t.reduced va node = .ok (List.replicate (t.fmtAt t.slot).count (encodeVal (t.fmtAt t.slot) 0 false 0
      ((tree node ((t.elements va).map fun e => (elementVal e, Stat.none))).getD (.nan, Stat.none)).1.exact).code, x) := by
  rw [Team.reduced, h]
  exact ⟨_, rfl⟩

/-- A reduction whose node works on the values alone gives the code of the tree over the values. -/
theorem Team.reduced_of_best {va c : Nat} {op : Val → Val → Val} (h : firstToken (t.elements va) = none)
    (hc : (tree (fun _ _ a b => op a b) ((t.elements va).map elementVal)).map
      (fun v => (encodeVal (t.fmtAt t.slot) 0 false 0 v.exact).code) = some c) :
    ∃ x, t.reduced va (fun _ _ a b => (op a.1 b.1, Stat.none)) = .ok (List.replicate (t.fmtAt t.slot).count c, x) := by
  obtain ⟨v, hv, rfl⟩ := Option.map_eq_some_iff.mp hc
  obtain ⟨x, hx⟩ := t.reduced_of_none (fun _ _ a b => (op a.1 b.1, Stat.none)) h
  refine ⟨x, hx.trans ?_⟩
  have htree := tree_map (op := fun _ _ (a b : Val × Stat) => (op a.1 b.1, Stat.none)) (op' := fun _ _ a b => op a b) (φ := Prod.fst)
    (fun _ _ _ _ => rfl) ((t.elements va).map fun e => (elementVal e, Stat.none))
  rw [List.map_map] at htree
  obtain ⟨y, hy, hyv⟩ := Option.map_eq_some_iff.mp (htree.symm.trans hv)
  rw [hy, ← hyv]
  rfl

/-- What VSTAT adds for a value (R180). -/
def Val.stat (v : Val) : Stat :=
  match v with
  | .nan => { flags := flagNan, amax := 0 }
  | .inf neg => { flags := if neg then flagNinf else flagPinf, amax := 0 }
  | .fin n m e => { flags := 0, amax := magPattern (.fin n m e) }

/-- What VSTAT adds for an element: nothing for a poisoned one (R180). -/
def elementStat (e : Nat × Nat × Except Word Val) : Stat :=
  match e.2.2 with
  | .ok v => v.stat
  | .error _ => Stat.none

section
variable (es : List (Nat × Nat × Except Word Val))

theorem elementStat_any (b : Nat) : (es.map elementStat).any (fun x => x.flags.getLsbD b) =
    (es.filterMap fun e => e.2.2.toOption).any fun v => v.stat.flags.getLsbD b := by
  induction es with
  | nil => rfl
  | cons e es ih =>
    obtain ⟨l, q, v | v⟩ := e
    · simpa [elementStat, Except.toOption, Stat.none] using ih
    · simp [elementStat, Except.toOption, ih]

theorem elementStat_foldl (m : Nat) : (es.map elementStat).foldl (fun k x => max k x.amax.toNat) m =
    (es.filterMap fun e => e.2.2.toOption).foldl (fun k v => max k v.stat.amax.toNat) m := by
  induction es generalizing m with
  | nil => rfl
  | cons e es ih =>
    obtain ⟨l, q, v | v⟩ := e
    · simpa [elementStat, Except.toOption, Stat.none] using ih m
    · simpa [elementStat, Except.toOption] using ih _

end

theorem vstat_leaves {P : Team → Prop} (h : Runs s slot t (.vstat va la lb keep))
    (hP : P ((((t.lastUse (hints1 va la t)).addStat t.slot (Stat.all ((t.elements va.toNat).map elementStat))).countSr t.slot).advance)) :
    Leaves (exec (.vstat va la lb keep) s) slot P := by
  have hstat : (t.elements va.toNat).map elementStat = (t.elements va.toNat).map fun e => match e.2.2 with
      | .ok v => (match v with
        | .nan => { flags := flagNan, amax := 0 }
        | .inf s => { flags := if s then flagNinf else flagPinf, amax := 0 }
        | v => { flags := 0, amax := magPattern v })
      | .error _ => Stat.none := by
    refine List.map_congr_left fun e _ => ?_
    obtain ⟨l, q, k | v⟩ := e
    · rfl
    · cases v <;> rfl
  rw [hstat] at hP
  refine ⟨_, _, issue_runs h _, State.team?_setTeam _ _ _, hP⟩

end

/-- Settles O10: the element-wise instructions and the reductions write their slot by `Team.writeSlot`, and VSTAT adds the statistics of its
elements. -/
theorem formatResults : Obligations.FormatResults := by
  refine ⟨?_, ?_, ?_, ?_⟩
  · intro i s slot t vd c h hruns hc hh
    obtain ⟨keep, marks, g, hexec, rfl⟩ := exec_isSlotWrite (s := s) hc
    rw [hexec]
    exact slotInstr_leaves hruns fun l hl => t.lane_writeSlot _ _ _ _ hl hh
  · intro i s slot t vd c hruns hc stats
    obtain ⟨keep, marks, g, hexec, rfl⟩ := exec_isSlotWrite (s := s) hc
    rw [hexec]
    refine slotInstr_leaves hruns ?_
    rw [Team.writeSlot_fmt]
    refine ⟨fun b _ => ?_, ?_, fun n hn => t.statistics_amax_other _ hn, rfl⟩
    · rw [t.statistics_flags, Team.laneStats, Stat.all_flags]
    · rw [t.statistics_amax_slot, Team.laneStats, Stat.max_all_amax]
  · intro s slot t vd va la lb keep i hruns f es all
    constructor
    · intro hi
      obtain ⟨node, hexec⟩ := exec_reduction s hi
      have hall (c : LaneCodes) (hc : t.reduced va.toNat (node t) = c) : all i c := by
        show Leaves (exec i s) slot (AllLanes t vd c)
        rw [hexec]
        exact reduceInstr_allLanes hruns hc
      refine ⟨fun k hk => hall _ (Team.reduced_of_token hk), fun hnone => ?_⟩
      obtain ⟨x, hx⟩ := t.reduced_of_none (node t) hnone
      exact ⟨_, x, hall _ hx⟩
    · intro hnone best
      constructor
      all_goals
        rintro rfl c hc
        obtain ⟨x, hx⟩ := Team.reduced_of_best hnone hc
        exact ⟨x, reduceInstr_allLanes hruns hx⟩
  · intro s slot t va la lb keep hruns vs
    refine vstat_leaves hruns ?_
    obtain ⟨v, hmarks⟩ := t.lastUse_frame (hints1 va la t)
    rw [Team.advance_fmt, Team.counted_fmt (t := t) (by rw [hmarks]) (by rw [hmarks])]
    refine ⟨fun r _ => ?_, fun r _ l hl => ?_, fun b _ => ?_, ?_, fun n hn => t.statistics_amax_other _ hn⟩
    · rw [Team.rs_advance, Team.rs_regs (congrArg _ (Team.countSr_regs _ _).1)]
      exact t.lastUse_rs _ r
    · rw [Team.lane_advance, Team.lane_regs (congrArg _ (Team.countSr_regs _ _).1)]
      exact t.lane_lastUse _ r l hl
    · rw [t.statistics_flags, Stat.all_flags, elementStat_any]
      refine congrArg _ (congrArg (List.any _) (funext fun v => ?_))
      cases v <;> simp [Val.stat]
    · rw [t.statistics_amax_slot, Stat.max_all_amax, elementStat_foldl]
      refine congrArg (fun g => List.foldl g _ _) (funext fun m => funext fun v => ?_)
      cases v <;> simp [Val.stat]

end Sys2Proof.Machine
end

section
/-! SUPPORT. Special functions (R99, R168 to R170): their issue, and the writing of their result. -/

namespace Sys2Proof.Machine

/-! ## The issue of a special function (R99, R170) -/

theorem State.cacheOperands_frame (s : State) (slot : Nat) (t : Team) (keep : Bool) (rs : List Nat) :
    ∃ x, rs.foldl (fun s r => s.cacheOperand slot t r keep) s = { s with cores := x } := by
  induction rs generalizing s with
  | nil => exact ⟨_, rfl⟩
  | cons r rs ih =>
    obtain ⟨x, h⟩ := s.cacheOperand_frame slot t r keep
    obtain ⟨y, h'⟩ := ih (s.cacheOperand slot t r keep)
    exact ⟨y, by rw [List.foldl_cons, h', h]⟩

/-- The operand caches after an instruction that hints at its sources and writes a slot: nothing else of the state changes (R46). -/
theorem State.slotOperands_frame (s : State) (slot : Nat) (t : Team) (ms : List (Nat × Bool)) (keep : Bool) (rs : List Nat) :
    ∃ x, rs.foldl (fun s r => s.cacheOperand slot t r keep) (s.dropOperands slot t ms) = { s with cores := x } := by
  obtain ⟨x, h⟩ := s.dropOperands_frame slot t ms
  obtain ⟨y, h'⟩ := (s.dropOperands slot t ms).cacheOperands_frame slot t keep rs
  exact ⟨y, by rw [h', h]⟩

/-- What a special function keeps for its completion: the lanes of its registers and the statistics, of the operands at issue (R99, R170). -/
def Team.sfuResult (t : Team) (vd : Nat) (c : Nat → LaneCodes) : SfuOp :=
  let f := t.fmtAt t.slot
  let ws := slotWrites f vd fun l => if t.active l then some (LaneCodes.lane f (c l)) else none
  { vd := ws.map fun w => (w.1, (List.range t.lanes).map w.2), slot := t.slot, amax := (t.laneStats c).amax, flags := (t.laneStats c).flags }

/-- The team after the issue of a special function: its destination is empty (R170). -/
def Team.sfuIssue (t : Team) (ms : List (Nat × Bool)) (vd : Nat) : Team :=
  ((t.lastUse ms).mark true (.vec vd (Claim.slotWidth t))).countSr t.slot

section
variable {s : State} {slot : Nat} {t : Team} {i : Instr} {vd : VReg} {keep : Bool}

theorem slotWrites_length (f : Fmt) (r : Nat) (g : Nat → Option (Except Word Nat)) : (slotWrites f r g).length = if f.pack then 2 else 1 := by
  unfold slotWrites
  split <;> rfl

/-- A special function that runs adds one operation to the list and moves its team on. -/
theorem sfuInstr_runs (h : Runs s slot t i) (r : Nat) (marks : Team → List (Nat × Bool)) (g : Team → Nat → LaneCodes) :
    ∃ x, sfuInstr i s r keep marks g =
      .next ((({ s with cores := x } : State).addOp slot t (.sfu (t.sfuResult r (g t)))).setTeam slot (t.sfuIssue (marks t) r).advance) := by
  obtain ⟨x, hx⟩ := s.slotOperands_frame slot t (marks t) keep (t.slotRegs t.slot r)
  refine ⟨x, ?_⟩
  rw [sfuInstr, issue_runs h]
  simp only [slotWrites_length, hx]
  rfl

/-- The writes to the registers of a slot, one by one. -/
theorem slotWrites_getElem? (f : Fmt) (r : Nat) (c : Nat → Option LaneCodes) {h : Nat} (hh : h < if f.pack then 2 else 1) :
    (slotWrites f r fun l => (c l).map (LaneCodes.lane f))[h]? = some (r + h, fun l => (c l).map (Claim.slotLane f · h)) := by
  have hpart (h : Nat) : (fun l => ((c l).map (LaneCodes.lane f)).map fun x => laneOf (x.map fun n => word (n / 2 ^ (32 * h)))) =
      fun l => (c l).map (Claim.slotLane f · h) := by
    funext l
    cases c l with
    | none => rfl
    | some x => exact congrArg some (laneOf_slotLane f x h)
  unfold slotWrites
  cases hp : f.pack with
  | false =>
    obtain rfl : h = 0 := by simpa [hp] using hh
    exact congrArg (fun g => some (r, g)) (hpart 0)
  | true =>
    rw [hp, if_pos rfl] at hh
    interval_cases h
    · exact congrArg (fun g => some (r, g)) (hpart 0)
    · exact congrArg (fun g => some (r + 1, g)) (hpart 1)

/-- The registers of a slot as a special function keeps them, lane by lane. -/
theorem Team.sfuResult_lanes (t : Team) (vd : Nat) (c : Nat → LaneCodes) {h : Nat} (hh : h < Claim.slotWidth t) :
    ∃ ls, (t.sfuResult vd c).vd[h]? = some (vd + h, ls) ∧
      ∀ l, l < t.lanes → ls[l]? = some (if t.active l then some (Claim.slotLane (t.fmtAt t.slot) (c l) h) else none) := by
  have hwrites : (fun l => if t.active l then some (LaneCodes.lane (t.fmtAt t.slot) (c l)) else none) =
      fun l => (if t.active l then some (c l) else none).map (LaneCodes.lane (t.fmtAt t.slot)) := by
    funext l
    split <;> rfl
  rw [Team.sfuResult, hwrites, List.getElem?_map, slotWrites_getElem? _ _ _ hh]
  refine ⟨_, rfl, fun l hl => ?_⟩
  rw [List.getElem?_map, List.getElem?_range hl, Option.map_some]
  dsimp only
  cases t.active l <;> rfl

/-- What the issue of a special function leaves of its team (R99, R170). -/
theorem Team.sfuIssue_advance (t : Team) (ms : List (Nat × Bool)) (vd : Nat) : let u := (t.sfuIssue ms vd).advance
    u.pc = t.advance.pc ∧ (∀ h, h < Claim.slotWidth t → u.vEmpty (vd + h) = true) ∧ SameScalars t u [] ∧ SameVectors t u [] ∧
      u.fmt.flags = t.fmt.flags ∧ u.fmt.amax = t.fmt.amax := by
  obtain ⟨v, hmarks⟩ := t.lastUse_frame ms
  obtain ⟨a, b, hempty⟩ := (t.lastUse ms).mark_frame true (.vec vd (Claim.slotWidth t))
  obtain ⟨hregs, -, hctl⟩ := ((t.lastUse ms).mark true (.vec vd (Claim.slotWidth t))).countSr_regs t.slot
  have hpc : (t.sfuIssue ms vd).pc = t.pc := by
    rw [Team.sfuIssue, Team.countSr]
    split <;> rw [hempty, hmarks]
  refine ⟨Team.advance_pc_congr hpc ?_, fun h hh => ?_, fun r _ => ?_, fun r _ l hl => ?_, ?_⟩
  · rw [Team.sfuIssue, hctl, hempty, hmarks]
  · rw [Team.vEmpty, Team.advance_regs, Team.sfuIssue, hregs]
    exact Team.vEmpty_mark_vec _ _ _ _ _ hh
  · rw [Team.rs_advance, Team.sfuIssue, Team.rs_regs (congrArg _ hregs), Team.mark_rs, Team.lastUse_rs]
  · rw [Team.lane_advance, Team.sfuIssue, Team.lane_regs (congrArg _ hregs), Team.mark_lane]
    exact t.lane_lastUse ms r l hl
  · rw [Team.advance_fmt, Team.sfuIssue, Team.countSr_fmt, hempty, hmarks]
    exact ⟨rfl, rfl⟩

/-- Each special function issues the codes that the rules give. -/
theorem exec_sfuWrite (s : State) {c : Nat → LaneCodes} (hc : ∀ l, Claim.sfuWrite t l i = some (vd, c l)) :
    ∃ (keep : Bool) (marks : Team → List (Nat × Bool)) (g : Team → Nat → LaneCodes), exec i s = sfuInstr i s vd.toNat keep marks g ∧ g t = c := by
  have hsame {vd' : VReg} {c' : Nat → LaneCodes} (h : ∀ l, some (vd', c' l) = some (vd, c l)) : vd' = vd ∧ c' = c :=
    ⟨(Prod.mk.inj (Option.some.inj (h 0))).1, funext fun l => (Prod.mk.inj (Option.some.inj (h l))).2⟩
  cases i
  case vdiv | vsqrt | vrcp | vrsq | vexp2 | vlog2 | vsin | vcos | vtanh =>
    obtain ⟨rfl, rfl⟩ := hsame hc
    exact ⟨_, _, _, rfl, rfl⟩
  all_goals cases hc 0

end

/-! ## The result of a special function (R49, R170) -/

section
variable {s : State} {o : Op} {t : Team} {r n : Nat} {ls : List (Option Lane)} {am : Word} {fl : BitVec 4}

theorem State.op?_dropOp (s : State) (id : Nat) : (s.dropOp id).op? id = none := by
  simp [State.op?, State.dropOp]

/-- A change of the team that issued an operation, where it still holds its slot. -/
theorem State.onIssuer_live (s : State) (horphan : o.orphan = false) (hteam : s.team? o.slot = some t) (hgroup : t.group = o.gid)
    (hstatus : t.status ≠ .exited) (f : Team → Team) : s.onIssuer o f = s.setTeam o.slot (f t) := by
  simp [State.onIssuer, State.onTeamOf, horphan, hteam, hgroup, hstatus]

/-- A team to which one register of a special function's result is written (R49, R170). -/
def Team.sfuLanded (t : Team) (r : Nat) (ls : List (Option Lane)) (n : Nat) (x : Stat) : Team :=
  ((t.wv r fun l => ls.getD l none).markV false r).addStat n x

/-- A result that no special function of its core stands before lands on the team that still holds the slot. -/
theorem State.sfuWritten_eq (hop : s.op? o.id = some o) (horphan : o.orphan = false) (hteam : s.team? o.slot = some t)
    (hgroup : t.group = o.gid) (hstatus : t.status ≠ .exited) (hkind : o.kind = .sfu { vd := [(r, ls)], slot := n, amax := am, flags := fl })
    (hfirst : ∀ p ∈ s.ops, p.id < o.id → p.core = o.core → ∀ f, p.kind ≠ .sfu f) :
    s.sfuWritten o.id = (s.dropOp o.id).setTeam o.slot (t.sfuLanded r ls n { flags := fl, amax := am }) := by
  unfold State.sfuWritten
  simp only [hop, hkind]
  rw [if_neg, State.onIssuer_live (s.dropOp o.id) horphan hteam hgroup hstatus]
  · rfl
  · intro hbehind
    obtain ⟨p, hp, hahead⟩ := List.any_eq_true.mp hbehind
    obtain ⟨hbefore, hsfu⟩ := (Bool.and_eq_true_iff).mp hahead
    obtain ⟨hid, hcore, -⟩ := of_decide_eq_true hbefore
    cases hk : p.kind with
    | sfu f => exact hfirst p hp hid hcore f hk
    | _ => simp [hk] at hsfu

theorem Team.sfuLanded_vEmpty (t : Team) (x : Stat) : (t.sfuLanded r ls n x).vEmpty r = false := sget_sput_self false t.regs.vEmpty r false

theorem Team.sfuLanded_lane (t : Team) (x : Stat) {l : Nat} (hl : l < t.lanes) :
    (t.sfuLanded r ls n x).lane r l = (ls.getD l none).getD (t.lane r l) :=
  (Team.lane_wv t r _ r l hl).trans (if_pos rfl)

end

/-- Settles O14: an issue by `sfuInstr_runs`, which adds the operation that keeps the lanes, and a result by `State.sfuWritten_eq`. -/
theorem specialFunctions : Obligations.SpecialFunctions := by
  constructor
  · intro i s slot t vd c h hc
    obtain ⟨keep, marks, g, hexec, rfl⟩ := exec_sfuWrite s hc
    obtain ⟨x, hruns⟩ := sfuInstr_runs (keep := keep) h vd.toNat marks g
    obtain ⟨hpc, hempty, hscalars, hvectors, hflags, hamax⟩ := t.sfuIssue_advance (marks t) vd.toNat
    exact ⟨_, _, t.sfuResult vd.toNat (g t), hexec.trans hruns, State.team?_setTeam _ _ _, hpc, fun _ => rfl, hempty, hscalars, hvectors, hflags,
      hamax, ⟨_, rfl, rfl, rfl, rfl⟩, fun h hh => t.sfuResult_lanes vd.toNat (g t) hh⟩
  · intro s o t r ls n am fl hop horphan hteam hgroup hstatus hkind hfirst
    exact ⟨_, _, congrArg Host.Outcome.next (State.sfuWritten_eq hop horphan hteam hgroup hstatus hkind hfirst), State.team?_setTeam _ _ _, s.op?_dropOp o.id,
      t.sfuLanded_vEmpty _, fun l hl => t.sfuLanded_lane _ hl, rfl, rfl, fun _ => rfl, fun _ _ => rfl⟩

end Sys2Proof.Machine
end

section
/-! SUPPORT. Numbers (R81 to R84, R161, R165): the value of a code, exact sums, products and the order of values, and the magnitudes of
quotients and roots as real numbers. -/

namespace Sys2Proof.Machine

/-! ## Finite values as numbers (R81) -/

theorem Claim.number_zero (n : Bool) (e : Int) : Claim.number n 0 e = 0 := by simp [Claim.number]

theorem Claim.number_ofInt (i e : Int) : Claim.number (decide (i < 0)) i.natAbs e = i * (2 : ℚ) ^ e := by
  unfold Claim.number
  by_cases h : i < 0
  · have : (i.natAbs : ℚ) = -i := by rw [← Int.cast_natCast, Int.ofNat_natAbs_of_nonpos h.le, Int.cast_neg]
    simp [h, this]
  · have : (i.natAbs : ℚ) = i := by rw [← Int.cast_natCast, Int.natAbs_of_nonneg (not_lt.mp h)]
    simp [h, this]

theorem Claim.number_real (m : Nat) (e : Int) : ((Claim.number false m e : ℚ) : ℝ) = m * (2 : ℝ) ^ e := by
  simp [Claim.number]

/-- The number that a value stands for, 0 for an infinity or a NaN. -/
def Val.number : Val → ℚ
  | .fin n m e => Claim.number n m e
  | _ => 0

/-- Neither an infinity nor a NaN. -/
def Val.IsFinite (v : Val) : Prop := ∃ n m e, v = .fin n m e

theorem Val.number_eq_zero {n : Bool} {m : Nat} {e : Int} : Claim.number n m e = 0 ↔ m = 0 := by
  have h2 : (2 : ℚ) ^ e ≠ 0 := zpow_ne_zero _ two_ne_zero
  cases n <;> simp [Claim.number, h2]

theorem Val.intAt_fin (n : Bool) (m : Nat) (x e : Int) : (Val.fin n m x).intAt e = (if n then -1 else 1) * (m * 2 ^ (x - e).toNat) := by
  simp only [Val.intAt, Nat.shiftLeft_eq]
  cases n <;> simp

/-- A finite value as an integer multiple of a lower power of two. -/
theorem Val.intAt_number {n : Bool} {m : Nat} {x e : Int} (h : e ≤ x) : ((Val.fin n m x).intAt e : ℚ) * (2 : ℚ) ^ e = Claim.number n m x := by
  obtain ⟨k, rfl⟩ := Int.le.dest h
  rw [Val.intAt_fin, add_sub_cancel_left, Int.toNat_natCast, Claim.number, zpow_add₀ two_ne_zero, zpow_natCast]
  push_cast
  ring

/-! ## Exact sums (R161) -/

theorem foldl_min_le (f : Val → Int) (vs : List Val) (a : Int) :
    vs.foldl (fun e v => min e (f v)) a ≤ a ∧ ∀ v ∈ vs, vs.foldl (fun e v => min e (f v)) a ≤ f v := by
  induction vs generalizing a with
  | nil => simp
  | cons v vs ih =>
    obtain ⟨hacc, hall⟩ := ih (min a (f v))
    refine ⟨hacc.trans (min_le_left _ _), fun w hw => ?_⟩
    rcases List.mem_cons.mp hw with rfl | hw
    · exact hacc.trans (min_le_right _ _)
    · exact hall w hw

theorem foldl_add_eq_sum (f : Val → Int) (vs : List Val) (a : Int) : vs.foldl (fun a v => a + f v) a = a + (vs.map f).sum := by
  induction vs generalizing a with
  | nil => simp
  | cons v vs ih => simp [ih, add_assoc]

/-- Terms of one power of two add up as their integers do. -/
theorem sum_intAt_number (vs : List Val) {e : Int} (hfin : ∀ v ∈ vs, v.IsFinite) (he : ∀ v ∈ vs, e ≤ v.expo) :
    (((vs.map fun v => v.intAt e).sum : Int) : ℚ) * (2 : ℚ) ^ e = (vs.map Val.number).sum := by
  induction vs with
  | nil => simp
  | cons v vs ih =>
    obtain ⟨n, m, x, rfl⟩ := hfin v List.mem_cons_self
    have hhead : (((Val.fin n m x).intAt e : Int) : ℚ) * (2 : ℚ) ^ e = (Val.fin n m x).number := Val.intAt_number (he _ List.mem_cons_self)
    have htail := ih (fun w hw => hfin w (List.mem_cons_of_mem _ hw)) fun w hw => he w (List.mem_cons_of_mem _ hw)
    rw [List.map_cons, List.sum_cons, List.map_cons, List.sum_cons, ← hhead, ← htail]
    push_cast
    ring

theorem any_isNan {vs : List Val} : vs.any Val.isNan = true ↔ Val.nan ∈ vs := by
  simp [Val.isNan]

theorem any_isInf {vs : List Val} {n : Bool} : (vs.any fun v => v.isInf n) = true ↔ Val.inf n ∈ vs := by
  simp [Val.isInf]

/-- A sum with a NaN, or with infinities of both signs, is a NaN. -/
theorem sumVals_nan {down : Bool} {vs : List Val} (h : Val.nan ∈ vs ∨ (Val.inf true ∈ vs ∧ Val.inf false ∈ vs)) : sumVals down vs = .nan := by
  refine if_pos ?_
  simp only [Bool.or_eq_true, Bool.and_eq_true, any_isNan, any_isInf]
  tauto

/-- A sum with infinities of one sign is that infinity. -/
theorem sumVals_inf {down n : Bool} {vs : List Val} (hnan : Val.nan ∉ vs) (hinf : Val.inf n ∈ vs) (hother : Val.inf (!n) ∉ vs) :
    sumVals down vs = .inf n := by
  unfold sumVals
  simp only [Bool.or_eq_true, Bool.and_eq_true, any_isNan, any_isInf]
  cases n <;> simp_all

/-- The sign of an exact zero sum (R161). -/
def zeroSumNeg (down : Bool) (vs : List Val) : Bool :=
  if vs.all Val.isZero && vs.all (fun v => v.neg == true) && !vs.isEmpty then true
  else if vs.all Val.isZero && vs.all (fun v => v.neg == false) then false else down

/-- A sum of finite values is exact, and has its own sign rule where it is zero. -/
theorem sumVals_finite {vs : List Val} (down : Bool) (hfin : ∀ v ∈ vs, v.IsFinite) :
    ∃ n m e, sumVals down vs = .fin n m e ∧ Claim.number n m e = (vs.map Val.number).sum ∧ (m = 0 → n = zeroSumNeg down vs) := by
  have hnan : Val.nan ∉ vs := fun h => by obtain ⟨n, m, e, h⟩ := hfin _ h; cases h
  have hinf (n : Bool) : Val.inf n ∉ vs := fun h => by obtain ⟨k, m, e, h⟩ := hfin _ h; cases h
  have hone (n : Bool) : ¬ (vs.any fun v => v.isInf n) = true := any_isInf.not.mpr (hinf n)
  have hspecial : ¬ (vs.any Val.isNan || (vs.any (·.isInf false) && vs.any (·.isInf true))) = true := by
    simp only [Bool.or_eq_true, Bool.and_eq_true, any_isNan]
    exact not_or.mpr ⟨hnan, fun h => hone false h.1⟩
  unfold sumVals
  rw [if_neg hspecial, if_neg (hone false), if_neg (hone true)]
  extract_lets e n
  have hsum : (n : ℚ) * (2 : ℚ) ^ e = (vs.map Val.number).sum := by
    have hn : n = (vs.map fun v => v.intAt e).sum := (foldl_add_eq_sum _ vs 0).trans (zero_add _)
    rw [hn, sum_intAt_number vs hfin (foldl_min_le Val.expo vs _).2]
  by_cases hn : n = 0
  · rw [if_pos hn]
    have hzero : (vs.map Val.number).sum = 0 := by rw [← hsum, hn]; simp
    refine ⟨zeroSumNeg down vs, 0, 0, ?_, by rw [hzero, Claim.number_zero], fun _ => rfl⟩
    unfold zeroSumNeg
    split
    · rfl
    · split <;> rfl
  · rw [if_neg hn]
    exact ⟨_, _, _, rfl, (Claim.number_ofInt n e).trans hsum, fun h => absurd (Int.natAbs_eq_zero.mp h) hn⟩

theorem zeroSumNeg_eq {down : Bool} {vs : List Val} (hne : vs ≠ []) :
    ((∀ v ∈ vs, v.isZero = true ∧ v.neg = false) → zeroSumNeg down vs = false) ∧
    ((∀ v ∈ vs, v.isZero = true ∧ v.neg = true) → zeroSumNeg down vs = true) ∧
    (¬ (∀ v ∈ vs, v.isZero = true ∧ v.neg = false) → ¬ (∀ v ∈ vs, v.isZero = true ∧ v.neg = true) → zeroSumNeg down vs = down) := by
  have hall (n : Bool) : (vs.all Val.isZero && vs.all (fun v => v.neg == n)) = true ↔ ∀ v ∈ vs, v.isZero = true ∧ v.neg = n := by
    simp only [Bool.and_eq_true, List.all_eq_true, beq_iff_eq]
    exact ⟨fun h v hv => ⟨h.1 v hv, h.2 v hv⟩, fun h => ⟨fun v hv => (h v hv).1, fun v hv => (h v hv).2⟩⟩
  have hnegative : (vs.all Val.isZero && vs.all (fun v => v.neg == true) && !vs.isEmpty) = true ↔ ∀ v ∈ vs, v.isZero = true ∧ v.neg = true := by
    rw [Bool.and_eq_true, hall]
    simp [hne]
  unfold zeroSumNeg
  simp only [hall, hnegative]
  refine ⟨fun h => ?_, fun h => if_pos h, fun hp hn => by rw [if_neg hn, if_neg hp]⟩
  obtain ⟨v, hv⟩ := List.exists_mem_of_ne_nil vs hne
  rw [if_neg fun h' => absurd ((h v hv).2.symm.trans (h' v hv).2) (by decide), if_pos h]

/-! ## Order (R165, R172) -/

theorem Val.lt_iff_below (a b : Val) : a.lt b = true ↔ Claim.below a b := by
  cases a with
  | nan => cases b <;> simp [Val.lt, Claim.below]
  | inf n => cases b <;> simp [Val.lt, Claim.below]
  | fin n m e =>
    cases b with
    | nan => simp [Val.lt, Claim.below]
    | inf k => simp [Val.lt, Claim.below]
    | fin k p q =>
      have hpos : (0 : ℚ) < 2 ^ min e q := zpow_pos two_pos _
      rw [Val.lt, decide_eq_true_iff, Claim.below, ← Val.intAt_number (min_le_left e q), ← Val.intAt_number (min_le_right e q),
        mul_lt_mul_iff_left₀ hpos, Int.cast_lt]

theorem Claim.below_asymm {a b : Val} (h : Claim.below a b) : ¬ Claim.below b a := by
  cases a <;> cases b <;> simp_all [Claim.below, le_of_lt]

theorem Claim.equals_not_below {a b : Val} (h : Claim.equals a b) : ¬ Claim.below a b ∧ ¬ Claim.below b a := by
  cases a <;> cases b <;> simp_all [Claim.below, Claim.equals]

theorem Val.isNan_eq_false {v : Val} (h : v ≠ .nan) : v.isNan = false := by simpa [Val.isNan] using h

section
variable {a b : Val}

/-- The minimum and the maximum of a NaN and another value are the other one. -/
theorem minMax_nan_left (b : Val) : minVal .nan b = b ∧ maxVal .nan b = b ∧ minMag .nan b = b ∧ maxMag .nan b = b := ⟨rfl, rfl, rfl, rfl⟩

theorem minMax_nan_right (a : Val) : minVal a .nan = a ∧ maxVal a .nan = a ∧ minMag a .nan = a ∧ maxMag a .nan = a := by
  simp only [minVal, maxVal, minMag, maxMag, Val.isNan, beq_iff_eq, if_pos, and_self]
  exact ite_eq_right_iff.mpr Eq.symm

variable (ha : a ≠ .nan) (hb : b ≠ .nan)
include ha hb

theorem minMax_below (h : Claim.below a b) : minVal a b = a ∧ maxVal a b = b := by
  simp [minVal, maxVal, Val.isNan_eq_false ha, Val.isNan_eq_false hb, (Val.lt_iff_below a b).mpr h]

theorem minMax_above (h : Claim.below b a) : minVal a b = b ∧ maxVal a b = a := by
  have hlt : a.lt b = false := Bool.eq_false_iff.mpr ((Val.lt_iff_below a b).not.mpr (Claim.below_asymm h))
  simp [minVal, maxVal, Val.isNan_eq_false ha, Val.isNan_eq_false hb, hlt, (Val.lt_iff_below b a).mpr h]

theorem minMax_equals (h : Claim.equals a b) : minVal a b = (if a.neg then a else b) ∧ maxVal a b = if a.neg then b else a := by
  obtain ⟨h1, h2⟩ := Claim.equals_not_below h
  have hlt : a.lt b = false := Bool.eq_false_iff.mpr ((Val.lt_iff_below a b).not.mpr h1)
  have hgt : b.lt a = false := Bool.eq_false_iff.mpr ((Val.lt_iff_below b a).not.mpr h2)
  simp [minVal, maxVal, Val.isNan_eq_false ha, Val.isNan_eq_false hb, hlt, hgt]

theorem minMaxMag_below (h : Claim.below a.abs b.abs) : minMag a b = a ∧ maxMag a b = b := by
  simp [minMag, maxMag, Val.isNan_eq_false ha, Val.isNan_eq_false hb, (Val.lt_iff_below _ _).mpr h]

theorem minMaxMag_above (h : Claim.below b.abs a.abs) : minMag a b = b ∧ maxMag a b = a := by
  have hlt : a.abs.lt b.abs = false := Bool.eq_false_iff.mpr ((Val.lt_iff_below _ _).not.mpr (Claim.below_asymm h))
  simp [minMag, maxMag, Val.isNan_eq_false ha, Val.isNan_eq_false hb, hlt, (Val.lt_iff_below _ _).mpr h]

theorem minMaxMag_equals (h : Claim.equals a.abs b.abs) : minMag a b = minVal a b ∧ maxMag a b = maxVal a b := by
  obtain ⟨h1, h2⟩ := Claim.equals_not_below h
  have hlt : a.abs.lt b.abs = false := Bool.eq_false_iff.mpr ((Val.lt_iff_below _ _).not.mpr h1)
  have hgt : b.abs.lt a.abs = false := Bool.eq_false_iff.mpr ((Val.lt_iff_below _ _).not.mpr h2)
  simp [minMag, maxMag, Val.isNan_eq_false ha, Val.isNan_eq_false hb, hlt, hgt]

end

/-! ## Products (R161) -/

theorem Claim.number_mul (n k : Bool) (m p : Nat) (e q : Int) :
    Claim.number (n != k) (m * p) (e + q) = Claim.number n m e * Claim.number k p q := by
  unfold Claim.number
  rw [zpow_add₀ two_ne_zero]
  push_cast
  cases n <;> cases k <;> simp <;> ring

/-! ## Magnitudes as real numbers (R168) -/

/-- A natural number with a mark is the floor of x, marked where x is that number. -/
def FloorOf (r : Nat × Bool) (x : ℝ) : Prop := (r.1 : ℝ) ≤ x ∧ x < r.1 + 1 ∧ (r.2 = true ↔ x = r.1)

theorem FloorOf.div (a : Nat) {b : Nat} (hb : 0 < b) : FloorOf (a / b, decide (a % b = 0)) (a / b : ℝ) := by
  have hb' : (0 : ℝ) < b := Nat.cast_pos.mpr hb
  refine ⟨Nat.cast_div_le, ?_, ?_⟩
  · rw [div_lt_iff₀ hb']
    exact_mod_cast Nat.lt_mul_of_div_lt (Nat.lt_succ_self _) hb
  · show decide (a % b = 0) = true ↔ (a / b : ℝ) = (a / b : Nat)
    rw [decide_eq_true_iff, div_eq_iff hb'.ne']
    constructor
    · intro h
      exact_mod_cast (Nat.div_mul_cancel (Nat.dvd_of_mod_eq_zero h)).symm
    · intro h
      exact Nat.mod_eq_zero_of_dvd ⟨a / b, by rw [mul_comm]; exact_mod_cast h⟩

/-- A number below one that is not zero. -/
theorem FloorOf.fraction {x : ℝ} (hpos : 0 < x) (hlt : x < 1) : FloorOf (0, false) x :=
  ⟨by simpa using hpos.le, by simpa using hlt, by simp [hpos.ne']⟩

theorem FloorOf.nat (n : Nat) : FloorOf (n, true) n := ⟨le_rfl, lt_add_one _, by simp⟩

/-- n 2^k / d with its floor, k of either sign. -/
theorem FloorOf.scaledDiv (n : Nat) {d : Nat} (hd : 0 < d) (k : Int) :
    FloorOf (if 0 ≤ k then ((n <<< k.toNat) / d, decide ((n <<< k.toNat) % d = 0))
      else (n / (d <<< (-k).toNat), decide (n % (d <<< (-k).toNat) = 0))) (n / d * (2 : ℝ) ^ k) := by
  split
  next hk =>
    obtain ⟨j, rfl⟩ := Int.eq_ofNat_of_zero_le hk
    rw [Int.toNat_natCast, zpow_natCast, ← mul_div_right_comm]
    simpa [Nat.shiftLeft_eq] using FloorOf.div (n <<< j) hd
  next hk =>
    obtain ⟨j, rfl⟩ := Int.exists_eq_neg_ofNat (not_le.mp hk).le
    rw [neg_neg, Int.toNat_natCast, zpow_neg, zpow_natCast, ← div_eq_mul_inv, div_div]
    simpa [Nat.shiftLeft_eq] using FloorOf.div n (b := d <<< j) (by rw [Nat.shiftLeft_eq]; positivity)

theorem shiftFloor_floorOf (m : Nat) (k : Int) : FloorOf (shiftFloor m k) (m * (2 : ℝ) ^ k) := by
  have h := FloorOf.scaledDiv m Nat.one_pos k
  rw [Nat.cast_one, div_one] at h
  unfold shiftFloor
  split
  next hk => simpa [hk, Nat.mod_one] using h
  next hk => simpa [hk, Nat.shiftLeft_eq, Nat.shiftRight_eq_div_pow] using h

theorem denotes_iff (x : Mag) (v : ℝ) :
    Claim.denotes x v ↔ (2 : ℝ) ^ x.log ≤ v ∧ v < (2 : ℝ) ^ (x.log + 1) ∧ ∀ j : Int, FloorOf (x.scale j) (v * (2 : ℝ) ^ j) := Iff.rfl

/-- The floor of the logarithm of a natural number, as real powers. -/
theorem log2_bounds {m : Nat} (hm : m ≠ 0) : (2 : ℝ) ^ (Nat.log2 m : Int) ≤ m ∧ (m : ℝ) < (2 : ℝ) ^ ((Nat.log2 m : Int) + 1) := by
  rw [zpow_natCast, ← Nat.cast_succ, zpow_natCast]
  exact ⟨by exact_mod_cast Nat.log2_self_le hm, by exact_mod_cast Nat.lt_log2_self⟩

theorem log_scale {v : ℝ} {l : Int} (e : Int) (h : (2 : ℝ) ^ l ≤ v ∧ v < (2 : ℝ) ^ (l + 1)) :
    (2 : ℝ) ^ (l + e) ≤ v * (2 : ℝ) ^ e ∧ v * (2 : ℝ) ^ e < (2 : ℝ) ^ (l + e + 1) := by
  have hpos : (0 : ℝ) < 2 ^ e := zpow_pos two_pos e
  rw [add_right_comm, zpow_add₀ two_ne_zero, zpow_add₀ two_ne_zero (l + 1)]
  exact ⟨mul_le_mul_of_nonneg_right h.1 hpos.le, mul_lt_mul_of_pos_right h.2 hpos⟩

theorem dyadic_denotes {m : Nat} (hm : m ≠ 0) (e : Int) : Claim.denotes (Mag.dyadic m e) (m * (2 : ℝ) ^ e) := by
  obtain ⟨hlow, hhigh⟩ := log_scale e (log2_bounds hm)
  refine (denotes_iff _ _).mpr ⟨hlow, hhigh, fun j => ?_⟩
  rw [mul_assoc, ← zpow_add₀ two_ne_zero]
  exact shiftFloor_floorOf m (e + j)

theorem FloorOf.one_le_iff {r : Nat × Bool} {x : ℝ} (h : FloorOf r x) : 1 ≤ r.1 ↔ 1 ≤ x := by
  obtain ⟨hlow, hhigh, -⟩ := h
  constructor
  · intro h1
    exact le_trans (by exact_mod_cast h1) hlow
  · intro h1
    have : (0 : ℝ) < r.1 := by linarith
    exact_mod_cast this

/-- Between the powers of two around the quotient of the logarithms' powers lies one more, which decides the logarithm. -/
theorem quot_log {n d : Nat} (hn : n ≠ 0) (hd : d ≠ 0) : let g : Int := (Nat.log2 n : Int) - Nat.log2 d
    (2 : ℝ) ^ (g - 1) ≤ n / d ∧ (n / d : ℝ) < (2 : ℝ) ^ (g + 1) := by
  intro g
  obtain ⟨hn1, hn2⟩ := log2_bounds hn
  obtain ⟨hd1, hd2⟩ := log2_bounds hd
  have hd' : (0 : ℝ) < d := by exact_mod_cast Nat.pos_of_ne_zero hd
  rw [le_div_iff₀ hd', div_lt_iff₀ hd']
  constructor
  · calc (2 : ℝ) ^ (g - 1) * d ≤ 2 ^ (g - 1) * 2 ^ ((Nat.log2 d : Int) + 1) := mul_le_mul_of_nonneg_left hd2.le (by positivity)
      _ = 2 ^ (Nat.log2 n : Int) := by rw [← zpow_add₀ two_ne_zero]; congr 1; omega
      _ ≤ n := hn1
  · calc (n : ℝ) < 2 ^ ((Nat.log2 n : Int) + 1) := hn2
      _ = 2 ^ (g + 1) * 2 ^ (Nat.log2 d : Int) := by rw [← zpow_add₀ two_ne_zero]; congr 1; omega
      _ ≤ 2 ^ (g + 1) * d := mul_le_mul_of_nonneg_left hd1 (by positivity)

theorem quot_denotes {n d : Nat} (hn : n ≠ 0) (hd : d ≠ 0) (e : Int) : Claim.denotes (Mag.quot n d e) (n / d * (2 : ℝ) ^ e) := by
  obtain ⟨hlow, hhigh⟩ := quot_log hn hd
  have hfloor := FloorOf.scaledDiv n (Nat.pos_of_ne_zero hd)
  have hlog : (2 : ℝ) ^ ((Mag.quot n d e).log - e) ≤ n / d ∧ (n / d : ℝ) < (2 : ℝ) ^ ((Mag.quot n d e).log - e + 1) := by
    have hone := (hfloor (-((Nat.log2 n : Int) - Nat.log2 d))).one_le_iff
    rw [zpow_neg, ← div_eq_mul_inv, one_le_div (zpow_pos two_pos _)] at hone
    rw [Mag.quot, add_sub_cancel_right]
    simp only [hone]
    split
    next h => exact ⟨h, hhigh⟩
    next h =>
      rw [sub_add_cancel]
      exact ⟨hlow, not_le.mp h⟩
  have hscaled := log_scale e hlog
  rw [sub_add_cancel] at hscaled
  refine (denotes_iff _ _).mpr ⟨hscaled.1, hscaled.2, fun j => ?_⟩
  rw [mul_assoc, ← zpow_add₀ two_ne_zero]
  exact hfloor (e + j)

/-! ## Roots -/

theorem isqrtGo_spec {n i r : Nat} (hlow : r * r ≤ n) (hhigh : n < (r + 2 ^ i) * (r + 2 ^ i)) :
    isqrtGo n i r * isqrtGo n i r ≤ n ∧ n < (isqrtGo n i r + 1) * (isqrtGo n i r + 1) := by
  induction i generalizing r with
  | zero => exact ⟨hlow, hhigh⟩
  | succ i ih =>
    rw [isqrtGo]
    split
    next h => exact ih h (by rwa [add_assoc, ← two_mul, ← pow_succ'])
    next h => exact ih hlow (not_le.mp h)

theorem isqrt_spec (n : Nat) : isqrt n * isqrt n ≤ n ∧ n < (isqrt n + 1) * (isqrt n + 1) := by
  refine isqrtGo_spec (Nat.zero_le _) ?_
  rw [zero_add, ← pow_add]
  exact Nat.lt_log2_self.trans_le (Nat.pow_le_pow_right two_pos (by omega))

/-- The floor of a root is the integer root of the floor. -/
theorem FloorOf.root {y : Nat × Bool} {w : ℝ} (hw : 0 ≤ w) (h : FloorOf y (w ^ 2)) :
    FloorOf (isqrt y.1, y.2 && decide (isqrt y.1 * isqrt y.1 = y.1)) w := by
  obtain ⟨hlow, hhigh, hexact⟩ := h
  obtain ⟨hr1, hr2⟩ := isqrt_spec y.1
  set r := isqrt y.1
  have hr1' : (r : ℝ) ^ 2 ≤ y.1 := by rw [pow_two]; exact_mod_cast hr1
  have hr2' : (y.1 : ℝ) + 1 ≤ (r + 1) ^ 2 := by rw [pow_two]; exact_mod_cast hr2
  refine ⟨le_of_sq_le_sq (hr1'.trans hlow) hw, lt_of_pow_lt_pow_left₀ 2 (by positivity) (hhigh.trans_le hr2'), ?_⟩
  rw [Bool.and_eq_true, decide_eq_true_iff, hexact]
  constructor
  · rintro ⟨hz, hr⟩
    refine (pow_left_inj₀ hw r.cast_nonneg two_ne_zero).mp (hz.trans ?_)
    rw [pow_two]
    exact_mod_cast hr.symm
  · intro hwr
    have hr : r * r = y.1 := by
      refine le_antisymm hr1 (Nat.lt_succ_iff.mp ?_)
      have : (y.1 : ℝ) < (r * r + 1 : Nat) := by
        rw [hwr] at hlow
        push_cast
        linarith [hlow]
      exact_mod_cast this
    exact ⟨by rw [hwr, pow_two]; exact_mod_cast hr, hr⟩

theorem root_log {w z : ℝ} {l : Int} (hw : 0 ≤ w) (hz : w ^ 2 = z) (hlow : (2 : ℝ) ^ (2 * l) ≤ z) (hhigh : z < (2 : ℝ) ^ (2 * l + 2)) :
    (2 : ℝ) ^ l ≤ w ∧ w < (2 : ℝ) ^ (l + 1) := by
  have hsq (k : Int) : ((2 : ℝ) ^ k) ^ 2 = 2 ^ (2 * k) := by rw [← zpow_natCast, ← zpow_mul, mul_comm]; rfl
  have hpos (k : Int) : (0 : ℝ) ≤ 2 ^ k := (zpow_pos two_pos k).le
  rw [← hsq, ← hz] at hlow
  rw [← mul_add_one, ← hsq, ← hz] at hhigh
  exact ⟨le_of_sq_le_sq hlow hw, lt_of_pow_lt_pow_left₀ 2 (hpos _) hhigh⟩

theorem sqrt_denotes {m : Nat} (hm : m ≠ 0) (e : Int) : Claim.denotes (Mag.sqrt m e) (Real.sqrt (m * (2 : ℝ) ^ e)) := by
  have hz : Real.sqrt (m * (2 : ℝ) ^ e) ^ 2 = m * (2 : ℝ) ^ e := Real.sq_sqrt (by positivity)
  obtain ⟨hlow, hhigh⟩ := log_scale e (log2_bounds hm)
  obtain ⟨hw1, hw2⟩ := root_log (l := ((Nat.log2 m : Int) + e) / 2) (Real.sqrt_nonneg _) hz
    ((zpow_le_zpow_right₀ one_le_two (by omega)).trans hlow) (hhigh.trans_le (zpow_le_zpow_right₀ one_le_two (by omega)))
  refine (denotes_iff _ _).mpr ⟨hw1, hw2, fun j => FloorOf.root (by positivity) ?_⟩
  rw [mul_pow, hz, mul_assoc, ← zpow_natCast, ← zpow_mul, ← zpow_add₀ two_ne_zero, mul_comm j]
  exact shiftFloor_floorOf m (e + 2 * j)

/-- 2^k / m with its floor as the reciprocal root computes it: a floor of 0 without a division where k is negative. -/
theorem FloorOf.powDiv {m : Nat} (hm : m ≠ 0) (k : Int) :
    FloorOf (if 0 ≤ k then 2 ^ k.toNat / m else 0, if 0 ≤ k then decide (2 ^ k.toNat % m = 0) else false) (1 / m * (2 : ℝ) ^ k) := by
  have hpos : 0 < m := Nat.pos_of_ne_zero hm
  by_cases hk : 0 ≤ k
  · have h := FloorOf.scaledDiv 1 hpos k
    simp only [if_pos hk, Nat.one_shiftLeft, Nat.cast_one] at h ⊢
    exact h
  · rw [if_neg hk, if_neg hk]
    have hinv : 1 / (m : ℝ) ≤ 1 := (div_le_one₀ (by exact_mod_cast hpos)).mpr (by exact_mod_cast hpos)
    have hsmall : (2 : ℝ) ^ k < 1 := zpow_lt_one_of_neg₀ one_lt_two (not_le.mp hk)
    exact FloorOf.fraction (by positivity) (mul_lt_one_of_nonneg_of_lt_one_right hinv (by positivity) hsmall)

/-- The logarithm of a reciprocal root: half of -log, rounded down, which an exact power of two reaches. -/
theorem rsqrt_log {m : Nat} (hm : m ≠ 0) (e : Int) : (2 : ℝ) ^ (2 * (Mag.rsqrt m e).log) ≤ 1 / (m * (2 : ℝ) ^ e) ∧
    1 / (m * (2 : ℝ) ^ e) < (2 : ℝ) ^ (2 * (Mag.rsqrt m e).log + 2) := by
  obtain ⟨hlow, hhigh⟩ := log_scale e (log2_bounds hm)
  have hpow (k : Int) : (2 : ℝ) ^ (-k) = 1 / 2 ^ k := by rw [zpow_neg, one_div]
  rw [Mag.rsqrt]
  dsimp only
  split
  next h =>
    have hexact : 1 / (m * (2 : ℝ) ^ e) = 2 ^ (-((Nat.log2 m : Int) + e)) := by
      have hcast : (m : ℝ) = 2 ^ (Nat.log2 m : Int) := by rw [zpow_natCast]; exact_mod_cast h
      conv_lhs => rw [hcast]
      rw [hpow, zpow_add₀ two_ne_zero]
    rw [hexact]
    exact ⟨zpow_le_zpow_right₀ one_le_two (by omega), zpow_lt_zpow_right₀ one_lt_two (by omega)⟩
  next h =>
    have hstrict : (2 : ℝ) ^ ((Nat.log2 m : Int) + e) < m * 2 ^ e := by
      refine lt_of_le_of_ne hlow fun heq => h ?_
      rw [zpow_add₀ two_ne_zero, zpow_natCast] at heq
      exact_mod_cast (mul_right_cancel₀ (zpow_ne_zero e two_ne_zero) heq).symm
    constructor
    · calc (2 : ℝ) ^ (2 * (-(((Nat.log2 m : Int) + e) / 2) - 1)) ≤ 2 ^ (-((Nat.log2 m : Int) + e + 1)) :=
            zpow_le_zpow_right₀ one_le_two (by omega)
        _ = 1 / 2 ^ ((Nat.log2 m : Int) + e + 1) := hpow _
        _ ≤ 1 / (m * 2 ^ e) := one_div_le_one_div_of_le ((zpow_pos two_pos _).trans hstrict) hhigh.le
    · calc 1 / (m * (2 : ℝ) ^ e) < 1 / 2 ^ ((Nat.log2 m : Int) + e) := one_div_lt_one_div_of_lt (zpow_pos two_pos _) hstrict
        _ = 2 ^ (-((Nat.log2 m : Int) + e)) := (hpow _).symm
        _ ≤ 2 ^ (2 * (-(((Nat.log2 m : Int) + e) / 2) - 1) + 2) := zpow_le_zpow_right₀ one_le_two (by omega)

theorem rsqrt_denotes {m : Nat} (hm : m ≠ 0) (e : Int) : Claim.denotes (Mag.rsqrt m e) (1 / Real.sqrt (m * (2 : ℝ) ^ e)) := by
  have hz : (1 / Real.sqrt (m * (2 : ℝ) ^ e)) ^ 2 = 1 / (m * (2 : ℝ) ^ e) := by
    rw [div_pow, Real.sq_sqrt (by positivity), one_pow]
  obtain ⟨hlow, hhigh⟩ := rsqrt_log hm e
  obtain ⟨hw1, hw2⟩ := root_log (by positivity) hz hlow hhigh
  refine (denotes_iff _ _).mpr ⟨hw1, hw2, fun j => FloorOf.root (y := (if 0 ≤ 2 * j - e then 2 ^ (2 * j - e).toNat / m else 0,
    if 0 ≤ 2 * j - e then decide (2 ^ (2 * j - e).toNat % m = 0) else false)) (by positivity) ?_⟩
  have hscaled : 1 / (m * (2 : ℝ) ^ e) * (2 ^ j) ^ 2 = 1 / m * 2 ^ (2 * j - e) := by
    rw [zpow_sub₀ two_ne_zero, ← zpow_natCast, ← zpow_mul, mul_comm j, Nat.cast_two]
    field_simp
  rw [mul_pow, hz, hscaled]
  exact FloorOf.powDiv hm (2 * j - e)

/-! ## The value of a code (R81 to R84) -/

/-- What a valid float definition satisfies (R80). -/
structure Fmt.Float (f : Fmt) : Prop where
  kind : f.kind = 0
  width : (if f.sign then 1 else 0) + f.e + f.m = f.w
  exponent : 1 ≤ f.e
  sub : f.sub ≤ 2
  inf : f.inf ≤ 2
  nan : f.nan ≤ 3
  inf_iff : f.inf = 1 ↔ f.nan = 1
  inf_fields : f.inf = 1 → 1 ≤ f.m ∧ 2 ≤ f.e
  nan_sign : f.nan = 3 → f.sign = true
  overflow : f.ovf = false → f.inf = 0 → f.nan ≠ 0

/-- What a valid definition of another kind satisfies (R80). -/
structure Fmt.Whole (f : Fmt) : Prop where
  kind : f.kind = 1 ∨ f.kind = 2 ∨ f.kind = 3
  width : 1 ≤ f.w

theorem fmtOf_float {d : Dbl} (h : fmtValid d = true) (hk : (fmtOf d).kind = 0) : (fmtOf d).Float := by
  have hsub : (fmtOf d).sub < 4 := BitVec.isLt _
  have hinf : (fmtOf d).inf < 4 := BitVec.isLt _
  have hnan : (fmtOf d).nan < 4 := BitVec.isLt _
  unfold fmtValid at h
  simp only [hk, Bool.and_eq_true, decide_eq_true_eq] at h
  obtain ⟨-, hwidth, he, -, -, hs, hi, hiff, hfields, hsign, hover⟩ := h
  exact ⟨hk, hwidth, he, by omega, by omega, by omega, hiff, hfields, hsign, fun h1 h2 => hover ⟨h1, h2⟩⟩

theorem fmtOf_whole {d : Dbl} (h : fmtValid d = true) (hk : (fmtOf d).kind ≠ 0) : (fmtOf d).Whole := by
  have hkind : (fmtOf d).kind < 4 := BitVec.isLt _
  unfold fmtValid at h
  simp only [Bool.and_eq_true, decide_eq_true_eq] at h
  obtain ⟨⟨-, hw, -⟩, -⟩ := h
  exact ⟨by omega, hw⟩

/-- The fields of a code that make it a NaN (R82). -/
def Fmt.NanFields (f : Fmt) (s : Bool) (x fr : Nat) : Prop :=
  (f.nan = 1 ∧ x = 2 ^ f.e - 1 ∧ fr ≠ 0) ∨ (f.nan = 2 ∧ x = 2 ^ f.e - 1 ∧ fr = 2 ^ f.m - 1) ∨ (f.nan = 3 ∧ s = true ∧ x = 0 ∧ fr = 0)

/-- The fields of a code that make it an infinity (R82). -/
def Fmt.InfFields (f : Fmt) (x fr : Nat) : Prop := f.inf = 1 ∧ x = 2 ^ f.e - 1 ∧ fr = 0

/-- The value of a float code by its sign, exponent field and mantissa (R81, R82). -/
def Fmt.decodeFields (f : Fmt) (s : Bool) (x fr : Nat) : Val :=
  if f.nan = 1 ∧ x = 2 ^ f.e - 1 then (if fr = 0 then .inf s else .nan)
  else if f.nan = 2 ∧ x = 2 ^ f.e - 1 ∧ fr = 2 ^ f.m - 1 then .nan
  else if f.nan = 3 ∧ s = true ∧ x = 0 ∧ fr = 0 then .nan
  else if x = 0 ∧ f.sub = 1 then .fin s 0 0
  else if x = 0 ∧ f.sub = 0 then .fin s fr (1 - f.bias - f.m)
  else .fin s (2 ^ f.m + fr) ((x : Int) - f.bias - f.m)

section
variable {f : Fmt}

theorem Fmt.Float.decodeVal_eq (hf : f.Float) (c : Nat) :
    decodeVal f c = f.decodeFields (f.sign && c.testBit (f.w - 1)) (c / 2 ^ f.m % 2 ^ f.e) (c % 2 ^ f.m) := by
  have hint : f.isInt = false := by simp [Fmt.isInt, hf.kind]
  rw [decodeVal, hint, Nat.shiftRight_eq_div_pow]
  rfl

variable {s : Bool} {x fr : Nat}

theorem Fmt.decodeFields_nan (h : f.NanFields s x fr) : f.decodeFields s x fr = .nan := by
  unfold Fmt.decodeFields
  rcases h with ⟨h, hx, hfr⟩ | ⟨h, hx, hfr⟩ | ⟨h, hs, hx, hfr⟩
  · rw [if_pos ⟨h, hx⟩, if_neg hfr]
  · rw [if_neg (by omega), if_pos ⟨h, hx, hfr⟩]
  · rw [if_neg (by omega), if_neg (by omega), if_pos ⟨h, hs, hx, hfr⟩]

theorem Fmt.Float.decodeFields_inf (hf : f.Float) (h : f.InfFields x fr) : f.decodeFields s x fr = .inf s := by
  obtain ⟨hinf, hx, hfr⟩ := h
  rw [Fmt.decodeFields, if_pos ⟨hf.inf_iff.mp hinf, hx⟩, if_pos hfr]

/-- A subnormal, where the format has them (R81). -/
theorem fieldValue_subnormal (h : x = 0 ∧ f.sub = 0) (s : Bool) :
    Claim.number s fr (1 - f.bias - f.m) = (if s then -1 else 1) * Claim.fieldValue f x fr := by
  rw [Claim.number, Claim.fieldValue, if_pos h, zpow_sub₀ two_ne_zero _ (f.m : Int), zpow_natCast]
  ring

/-- A normal number (R81). -/
theorem fieldValue_normal (h : ¬ (x = 0 ∧ f.sub = 0)) (s : Bool) :
    Claim.number s (2 ^ f.m + fr) ((x : Int) - f.bias - f.m) = (if s then -1 else 1) * Claim.fieldValue f x fr := by
  rw [Claim.number, Claim.fieldValue, if_neg h, zpow_sub₀ two_ne_zero _ (f.m : Int), zpow_natCast]
  push_cast
  field_simp

theorem Fmt.Float.decodeFields_fin (hf : f.Float) (hnan : ¬ f.NanFields s x fr) (hinf : ¬ f.InfFields x fr) :
    ∃ m e, f.decodeFields s x fr = .fin s m e ∧
      Claim.number s m e = if x = 0 ∧ f.sub = 1 then 0 else (if s then -1 else 1) * Claim.fieldValue f x fr := by
  obtain ⟨hnan1, hnan2, hnan3⟩ : ¬ (f.nan = 1 ∧ x = 2 ^ f.e - 1) ∧ ¬ (f.nan = 2 ∧ x = 2 ^ f.e - 1 ∧ fr = 2 ^ f.m - 1) ∧
      ¬ (f.nan = 3 ∧ s = true ∧ x = 0 ∧ fr = 0) := by
    refine ⟨fun ⟨h, hx⟩ => ?_, fun h => hnan (.inr (.inl h)), fun h => hnan (.inr (.inr h))⟩
    by_cases hfr : fr = 0
    · exact hinf ⟨hf.inf_iff.mpr h, hx, hfr⟩
    · exact hnan (.inl ⟨h, hx, hfr⟩)
  rw [Fmt.decodeFields, if_neg hnan1, if_neg hnan2, if_neg hnan3]
  by_cases hsub : x = 0 ∧ f.sub = 1
  · rw [if_pos hsub, if_pos hsub]
    exact ⟨0, 0, rfl, Claim.number_zero s 0⟩
  · rw [if_neg hsub, if_neg hsub]
    by_cases h : x = 0 ∧ f.sub = 0
    · rw [if_pos h]
      exact ⟨_, _, rfl, fieldValue_subnormal h s⟩
    · rw [if_neg h]
      exact ⟨_, _, rfl, fieldValue_normal h s⟩

end

theorem Fmt.Whole.isSigned_iff {f : Fmt} (hf : f.Whole) : f.isSigned = true ↔ f.kind = 1 ∨ (f.kind = 3 ∧ f.sign = true) := by
  unfold Fmt.isSigned
  rcases hf.kind with h | h | h <;> simp [h]

/-- The W-bit integer of a code of an integer or fixed kind (R84). -/
theorem Fmt.Whole.decodeVal_eq {f : Fmt} (hf : f.Whole) {c : Nat} (hc : c < 2 ^ f.w) :
    decodeVal f c = Val.ofInt (if (Claim.intRange f).2 < c then (c : Int) - 2 ^ f.w else c) (-(f.frac : Int)) := by
  have hint : f.isInt = true := by
    rcases hf.kind with h | h | h <;> simp [Fmt.isInt, h]
  have hw : f.w ≠ 0 := by have := hf.width; omega
  rw [decodeVal, if_pos hint, Nat.mod_eq_of_lt hc]
  dsimp only
  congr 1
  rw [Claim.intRange]
  by_cases hs : f.isSigned = true
  · rw [if_pos hs, if_pos (hf.isSigned_iff.mp hs), signedOf, Nat.mod_eq_of_lt hc]
    have hcast : ((2 : Int) ^ (f.w - 1) - 1 < c) ↔ ¬ (c < 2 ^ (f.w - 1) ∨ f.w = 0) := by
      rw [Int.sub_one_lt_iff, ← Nat.cast_ofNat, ← Nat.cast_pow, Nat.cast_le]
      omega
    by_cases h : c < 2 ^ (f.w - 1) ∨ f.w = 0
    · rw [if_pos h, if_neg (hcast.not.mpr (not_not.mpr h))]
    · rw [if_neg h, if_pos (hcast.mpr h), Nat.cast_pow, Nat.cast_ofNat]
  · rw [if_neg hs, if_neg (hf.isSigned_iff.not.mp hs), if_neg]
    have hc' : (c : Int) < 2 ^ f.w := by exact_mod_cast hc
    dsimp only
    omega

theorem Claim.number_frac (i : Int) (n : Nat) : Claim.number (decide (i < 0)) i.natAbs (-(n : Int)) = (i : ℚ) / 2 ^ n := by
  rw [Claim.number_ofInt, zpow_neg, zpow_natCast, div_eq_mul_inv]

/-! ## Quotients and roots of finite values (R161, R168) -/

section
variable {m p : Nat} (n k : Bool) (e q : Int)

theorem mulVals_divVals_nan {a b : Val} (h : a = .nan ∨ b = .nan) : mulVals a b = .nan ∧ divVals a b = .nan := by
  rcases h with rfl | rfl
  · exact ⟨rfl, rfl⟩
  · cases a <;> exact ⟨rfl, rfl⟩

theorem divVals_by_zero : divVals (.fin n m e) (.fin k 0 q) = if m = 0 then .nan else .inf (n != k) := rfl

theorem divVals_zero (hp : p ≠ 0) : divVals (.fin n 0 e) (.fin k p q) = .zero (n != k) := if_neg hp

theorem divVals_real (hm : m ≠ 0) (hp : p ≠ 0) : ∃ x, divVals (.fin n m e) (.fin k p q) = .real (n != k) x ∧
    Claim.denotes x ((Claim.number false m e / Claim.number false p q : ℚ) : ℝ) := by
  refine ⟨_, (if_neg hp).trans (if_neg hm), ?_⟩
  have hvalue : ((Claim.number false m e / Claim.number false p q : ℚ) : ℝ) = m / p * 2 ^ (e - q) := by
    rw [Rat.cast_div, Claim.number_real, Claim.number_real, zpow_sub₀ two_ne_zero, mul_div_mul_comm]
  rw [hvalue]
  exact quot_denotes hm hp (e - q)

theorem rcpVal_real (hm : m ≠ 0) :
    ∃ x, rcpVal (.fin n m e) = .real n x ∧ Claim.denotes x ((1 / Claim.number false m e : ℚ) : ℝ) := by
  refine ⟨_, if_neg hm, ?_⟩
  have hvalue : ((1 / Claim.number false m e : ℚ) : ℝ) = (1 : Nat) / m * 2 ^ (-e) := by
    rw [Rat.cast_div, Claim.number_real, Rat.cast_one, Nat.cast_one, zpow_neg, div_mul_eq_div_div, div_eq_mul_inv (1 / (m : ℝ))]
  rw [hvalue]
  exact quot_denotes one_ne_zero hm (-e)

theorem sqrtVal_real (hm : m ≠ 0) :
    ∃ x, sqrtVal (.fin false m e) = .real false x ∧ Claim.denotes x (Real.sqrt (Claim.number false m e : ℝ)) :=
  ⟨_, if_neg hm, Claim.number_real m e ▸ sqrt_denotes hm e⟩

theorem rsqVal_real (hm : m ≠ 0) :
    ∃ x, rsqVal (.fin false m e) = .real false x ∧ Claim.denotes x (1 / Real.sqrt (Claim.number false m e : ℝ)) :=
  ⟨_, if_neg hm, Claim.number_real m e ▸ rsqrt_denotes hm e⟩

theorem exact_real (hm : m ≠ 0) : ∃ x, Val.exact (.fin n m e) = .real n x ∧ Claim.denotes x (Claim.number false m e : ℝ) :=
  ⟨_, if_neg hm, Claim.number_real m e ▸ dyadic_denotes hm e⟩

end

/-- Settles O12: codes by their fields, sums by a common power of two, quotients and roots as real magnitudes, minima and maxima by the order. -/
theorem numberValues : Obligations.NumberValues := by
  refine ⟨?_, ?_, ?_, ?_⟩
  · intro d c hvalid hc f S X F is nan inf
    constructor
    · intro hk
      have hf := fmtOf_float hvalid hk
      have hdecode : decodeVal f c = f.decodeFields S X F := hf.decodeVal_eq c
      rw [hdecode]
      refine ⟨Fmt.decodeFields_nan, hf.decodeFields_inf, fun hnan hinf => ?_⟩
      obtain ⟨m, e, hval, hnumber⟩ := hf.decodeFields_fin hnan hinf
      exact ⟨S, m, e, hdecode.trans hval, hnumber, fun _ => rfl⟩
    · intro hk
      exact ⟨_, _, _, (fmtOf_whole hvalid hk).decodeVal_eq hc, Claim.number_frac _ _, fun h => absurd h hk⟩
  · intro down vs has
    refine ⟨sumVals_nan, fun n => sumVals_inf, fun hne hfin => ?_⟩
    obtain ⟨n, m, e, hsum, hnumber, hzero⟩ := sumVals_finite down hfin
    obtain ⟨hplus, hminus, hother⟩ := zeroSumNeg_eq (down := down) hne
    refine ⟨n, m, e, hsum, hnumber.trans ?_, fun hm => ?_⟩
    · refine congrArg List.sum (List.map_congr_left fun v _ => ?_)
      cases v <;> rfl
    · rw [hzero hm]
      exact ⟨hplus, hminus, hother⟩
  · intro a b n k m p e q
    refine ⟨mulVals_divVals_nan, ⟨rfl, rfl⟩, ⟨rfl, rfl⟩, ⟨rfl, rfl⟩, ⟨_, _, rfl, Claim.number_mul n k m p e q⟩, ?_, ?_,
      fun hp hm => divVals_real n k e q hm hp, fun hm => ⟨rcpVal_real n e hm, sqrtVal_real e hm, rsqVal_real e hm, exact_real n e hm⟩⟩
    · rintro rfl
      exact divVals_by_zero n k e q
    · rintro hp rfl
      exact divVals_zero n k e q hp
  · intro a b
    refine ⟨?_, ?_, fun ha hb => ⟨minMax_below ha hb, minMax_above ha hb, fun h => ?_, minMaxMag_below ha hb, minMaxMag_above ha hb,
      minMaxMag_equals ha hb⟩⟩
    · rintro rfl
      exact minMax_nan_left b
    · rintro rfl
      exact minMax_nan_right a
    · obtain ⟨hmin, hmax⟩ := minMax_equals ha hb h
      rw [hmin, hmax]
      cases hneg : a.neg <;> simp [hneg]

end Sys2Proof.Machine
end

section
/-! SUPPORT. Rounding (R85): what the whole steps of a magnitude, its next 32 bits and the mark of exactness make of a number between two
neighbours, and the integer kinds (R86, R87). -/

namespace Sys2Proof.Machine

/-! ## The steps of a magnitude -/

/-- Whole steps, the next 32 bits and the mark of exactness of a number of steps. -/
def StepsOf (st : Nat × Nat × Bool) (z : ℝ) : Prop := (st.1 : ℝ) ≤ z ∧ z < st.1 + 1 ∧ FloorOf st.2 (2 ^ 32 * (z - st.1))

/-- The whole steps and the 32 bits below them, of a floor of 2^32 z. -/
theorem FloorOf.stepsOf {r : Nat × Bool} {z : ℝ} (h : FloorOf r (2 ^ 32 * z)) : StepsOf (r.1 / 2 ^ 32, r.1 % 2 ^ 32, r.2) z := by
  obtain ⟨n, ex⟩ := r
  obtain ⟨hlow, hhigh, hexact⟩ := h
  dsimp only [StepsOf, FloorOf] at *
  have hn : (n : ℝ) = 2 ^ 32 * (n / 2 ^ 32 : Nat) + (n % 2 ^ 32 : Nat) := by exact_mod_cast (Nat.div_add_mod n (2 ^ 32)).symm
  have hmod : ((n % 2 ^ 32 : Nat) : ℝ) + 1 ≤ 2 ^ 32 := by exact_mod_cast Nat.mod_lt n (by norm_num)
  have hmod0 : (0 : ℝ) ≤ (n % 2 ^ 32 : Nat) := Nat.cast_nonneg _
  rw [hexact]
  generalize n / 2 ^ 32 = a at *
  generalize n % 2 ^ 32 = b at *
  exact ⟨by linarith, by linarith, by linarith, by linarith, fun h => by linarith, fun h => by linarith⟩

theorem steps_stepsOf {x : Mag} {v : ℝ} (h : Claim.denotes x v) (q : Int) : StepsOf (x.steps q) (v * (2 : ℝ) ^ (-q)) := by
  obtain ⟨hlow, hhigh, hscale⟩ := (denotes_iff x v).mp h
  have hv : 0 < v := (zpow_pos two_pos _).trans_le hlow
  unfold Mag.steps
  split
  next hq =>
    have hsmall : v * (2 : ℝ) ^ (-q) < 2 ^ (-40 : Int) := by
      calc v * (2 : ℝ) ^ (-q) < 2 ^ (x.log + 1) * 2 ^ (-q) := mul_lt_mul_of_pos_right hhigh (by positivity)
        _ = 2 ^ (x.log + 1 - q) := by rw [← zpow_add₀ two_ne_zero, sub_eq_add_neg]
        _ ≤ 2 ^ (-40 : Int) := zpow_le_zpow_right₀ one_le_two (by omega)
    have hsmall' : (2 : ℝ) ^ 32 * (v * (2 : ℝ) ^ (-q)) < 1 := by
      calc (2 : ℝ) ^ 32 * (v * (2 : ℝ) ^ (-q)) < 2 ^ 32 * 2 ^ (-40 : Int) := mul_lt_mul_of_pos_left hsmall (by positivity)
        _ < 1 := by norm_num
    exact (FloorOf.fraction (by positivity) hsmall').stepsOf
  next hq =>
    have hsplit : v * (2 : ℝ) ^ (32 - q) = 2 ^ 32 * (v * 2 ^ (-q)) := by
      rw [sub_eq_add_neg, zpow_add₀ two_ne_zero]
      norm_num
      ring
    exact (hsplit ▸ hscale (32 - q)).stepsOf

/-! ## Rounding between two neighbours (R85) -/

/-- The fraction of a step of a magnitude between two neighbours: its first 32 bits and the mark of exactness. -/
def FractionOf (fr : Nat) (ex : Bool) (φ : ℝ) : Prop := 0 < φ ∧ φ < 1 ∧ FloorOf (fr, ex) (2 ^ 32 * φ)

section
variable {fr : Nat} {ex : Bool} {φ : ℝ}

theorem FractionOf.ne_zero (h : FractionOf fr ex φ) : ¬ (fr = 0 ∧ ex = true) := by
  obtain ⟨hpos, -, -, -, hexact⟩ := h
  rintro ⟨rfl, rfl⟩
  have := hexact.mp rfl
  simp at this
  exact hpos.ne' this

theorem FractionOf.half (h : FractionOf fr ex φ) : (φ < 1 / 2 ↔ fr < 2 ^ 31) ∧ (φ = 1 / 2 ↔ fr = 2 ^ 31 ∧ ex = true) := by
  obtain ⟨-, -, hlow, hhigh, hexact⟩ := h
  dsimp only at hlow hhigh hexact
  have hbelow : fr < 2 ^ 31 ↔ φ < 1 / 2 := by
    constructor
    · intro hlt
      have : (fr : ℝ) + 1 ≤ 2 ^ 31 := by exact_mod_cast hlt
      linarith
    · intro hlt
      have : (fr : ℝ) < 2 ^ 31 := by linarith
      exact_mod_cast this
  refine ⟨hbelow.symm, fun heq => ?_, fun ⟨hfr, hex⟩ => ?_⟩
  · subst heq
    have h1 : (fr : ℝ) ≤ 2 ^ 31 := by linarith
    have h2 : ¬ fr < 2 ^ 31 := fun h => lt_irrefl _ (hbelow.mp h)
    have hfr : fr = 2 ^ 31 := le_antisymm (by exact_mod_cast h1) (not_lt.mp h2)
    exact ⟨hfr, hexact.mpr (by rw [hfr]; norm_num)⟩
  · have := hexact.mp hex
    rw [hfr] at this
    push_cast at this
    linarith

variable (h : FractionOf fr ex φ)
include h

/-- The nearer neighbour, or the even one of two that are as near. -/
theorem roundsUp_nearestEven (neg odd : Bool) (draw : Nat) : (φ < 1 / 2 → roundsUp 0 neg fr ex odd draw = false) ∧
    (1 / 2 < φ → roundsUp 0 neg fr ex odd draw = true) ∧ (φ = 1 / 2 → roundsUp 0 neg fr ex odd draw = odd) := by
  obtain ⟨hbelow, hhalf⟩ := h.half
  have hup : roundsUp 0 neg fr ex odd draw = if fr = 2 ^ 31 ∧ ex = true then odd else decide (2 ^ 31 ≤ fr) := if_neg h.ne_zero
  simp only [hup, ← hhalf]
  refine ⟨fun hlt => ?_, fun hgt => ?_, fun heq => if_pos heq⟩
  · rw [if_neg hlt.ne, decide_eq_false_iff_not, not_le]
    exact hbelow.mp hlt
  · rw [if_neg hgt.ne', decide_eq_true_iff, ← not_lt, ← hbelow]
    exact hgt.le.not_gt

/-- The nearer neighbour, or the greater magnitude of two that are as near. -/
theorem roundsUp_nearestAway (neg odd : Bool) (draw : Nat) : (φ < 1 / 2 → roundsUp 4 neg fr ex odd draw = false) ∧
    (1 / 2 ≤ φ → roundsUp 4 neg fr ex odd draw = true) := by
  obtain ⟨hbelow, -⟩ := h.half
  have hup : roundsUp 4 neg fr ex odd draw = decide (2 ^ 31 ≤ fr) := if_neg h.ne_zero
  rw [hup, decide_eq_false_iff_not, decide_eq_true_iff, not_le]
  exact ⟨hbelow.mp, fun hge => not_lt.mp (hbelow.not.mp (not_lt.mpr hge))⟩

theorem FractionOf.floor : ⌊2 ^ 32 * φ⌋ = fr := by
  obtain ⟨-, -, hlow, hhigh, -⟩ := h
  exact Int.floor_eq_iff.mpr ⟨by exact_mod_cast hlow, by exact_mod_cast hhigh⟩

/-- The floor of the fraction that is left. -/
theorem FractionOf.floor_rest : ⌊2 ^ 32 * (1 - φ)⌋ = ((2 ^ 32 - fr - (if ex then 0 else 1) : Nat) : Int) := by
  obtain ⟨-, hlt, hlow, hhigh, hexact⟩ := h
  dsimp only at hlow hhigh hexact
  have hfr : fr < 2 ^ 32 := by
    have : (fr : ℝ) < 2 ^ 32 := by linarith
    exact_mod_cast this
  rw [Int.floor_eq_iff]
  cases ex with
  | true =>
    have hex : 2 ^ 32 * φ = fr := hexact.mp rfl
    rw [if_pos rfl, Nat.sub_zero, Int.cast_natCast, Nat.cast_sub hfr.le]
    push_cast
    constructor <;> linarith
  | false =>
    have hne : (fr : ℝ) < 2 ^ 32 * φ := lt_of_le_of_ne hlow fun heq => by simpa using hexact.mpr heq.symm
    rw [if_neg Bool.false_ne_true, Int.cast_natCast, Nat.cast_sub (by omega), Nat.cast_sub hfr.le]
    push_cast
    constructor <;> linarith

/-- Stochastic rounding goes to the upper neighbour where the first 32 bits of the distance from the lower one and the draw carry. -/
theorem roundsUp_stochastic (n : Nat) (odd : Bool) (draw : Nat) :
    (roundsUp (n + 5) false fr ex odd draw = true ↔ (2 : Int) ^ 32 ≤ ⌊2 ^ 32 * φ⌋ + (draw : Int)) ∧
    (roundsUp (n + 5) true fr ex odd draw = false ↔ (2 : Int) ^ 32 ≤ ⌊2 ^ 32 * (1 - φ)⌋ + (draw : Int)) := by
  have hplus : roundsUp (n + 5) false fr ex odd draw = decide (2 ^ 32 ≤ fr + draw) := if_neg h.ne_zero
  have hminus : roundsUp (n + 5) true fr ex odd draw = !decide (2 ^ 32 ≤ 2 ^ 32 - fr - (if ex then 0 else 1) + draw) := if_neg h.ne_zero
  rw [h.floor, h.floor_rest, hplus, hminus, decide_eq_true_iff, Bool.not_eq_false', decide_eq_true_iff]
  constructor <;> norm_cast

end

/-! ### The signed neighbours -/

/-- A magnitude with a sign. -/
def signed (neg : Bool) (x : ℝ) : ℝ := if neg then -x else x

/-- Rounding of a signed number of magnitude v between the magnitudes g and k, of which g is even or not. -/
def RoundsTo (rnd draw : Nat) (neg : Bool) (v g k : ℝ) (even : Prop) (r : ℝ) : Prop :=
  if neg then Claim.rounded rnd draw (-v) (-k) (-g) (¬ even) r else Claim.rounded rnd draw v g k even r

section
variable {fr : Nat} {ex : Bool} {φ g u : ℝ} (hg : 0 ≤ g) (hu : 0 < u)
include hg hu

/-- A positive number between two neighbours of distance u, by the fraction of a step: its comparisons are those of the fraction with a half. -/
theorem neighbours : |g| < |g + u| ∧ (g + φ * u - g < g + u - (g + φ * u) ↔ φ < 1 / 2) ∧ (g + u - (g + φ * u) < g + φ * u - g ↔ 1 / 2 < φ) ∧
    (g + φ * u - g = g + u - (g + φ * u) ↔ φ = 1 / 2) ∧ (g + φ * u - g) / (g + u - g) = φ ∧ (g + u - (g + φ * u)) / (g + u - g) = 1 - φ := by
  have hdown : g + φ * u - g = φ * u := by ring
  have hup : g + u - (g + φ * u) = (1 - φ) * u := by ring
  rw [hdown, hup, add_sub_cancel_left, mul_div_cancel_right₀ _ hu.ne', mul_div_cancel_right₀ _ hu.ne', mul_lt_mul_iff_left₀ hu,
    mul_lt_mul_iff_left₀ hu, mul_left_inj' hu.ne', abs_of_nonneg hg, abs_of_pos (by positivity)]
  refine ⟨by linarith, ?_, ?_, ?_, rfl, rfl⟩ <;> constructor <;> intro <;> linarith

variable (h : FractionOf fr ex φ)
include h

theorem roundsUp_rounded_pos (rnd draw : Nat) (odd : Bool) :
    Claim.rounded rnd draw (g + φ * u) g (g + u) (odd = false) (if roundsUp rnd false fr ex odd draw then g + u else g) := by
  obtain ⟨hsmaller, hless, hmore, hsame, hfrac, -⟩ := neighbours (φ := φ) hg hu
  rcases rnd with _ | _ | _ | _ | _ | n
  · obtain ⟨hlt, hgt, heq⟩ := roundsUp_nearestEven h false odd draw
    refine ⟨fun hl => ?_, fun hm => ?_, fun hs => ?_⟩
    · rw [hlt (hless.mp hl)]; rfl
    · rw [hgt (hmore.mp hm)]; rfl
    · rw [heq (hsame.mp hs)]
      cases odd <;> simp
  · have hup : roundsUp 1 false fr ex odd draw = false := if_neg h.ne_zero
    rw [zero_add, hup]
    exact ⟨fun _ => rfl, fun hgt => absurd hgt hsmaller.not_gt⟩
  · exact if_pos (if_neg h.ne_zero)
  · exact if_neg (ne_true_of_eq_false (if_neg h.ne_zero))
  · obtain ⟨hlt, hge⟩ := roundsUp_nearestAway h false odd draw
    refine ⟨fun hl => ?_, fun hm => ?_, fun hs => ⟨fun _ => ?_, fun hgt => absurd hgt hsmaller.not_gt⟩⟩
    · rw [hlt (hless.mp hl)]; rfl
    · rw [hge (hmore.mp hm).le]; rfl
    · rw [hge (hsame.mp hs).ge]; rfl
  · obtain ⟨hcarry, -⟩ := roundsUp_stochastic h n odd draw
    show (_ ≤ ⌊2 ^ 32 * ((g + φ * u - g) / (g + u - g))⌋ + (draw : Int) → _) ∧ _
    rw [hfrac]
    exact ⟨fun hc => if_pos (hcarry.mpr hc), fun hc => if_neg (hcarry.not.mpr (not_le.mpr hc))⟩

theorem roundsUp_rounded_neg (rnd draw : Nat) (odd : Bool) :
    Claim.rounded rnd draw (-(g + φ * u)) (-(g + u)) (-g) (¬ odd = false) (-(if roundsUp rnd true fr ex odd draw then g + u else g)) := by
  obtain ⟨hsmaller, hless, hmore, hsame, -, hfrac⟩ := neighbours (φ := φ) hg hu
  have hdown : -(g + φ * u) - -(g + u) = g + u - (g + φ * u) := by ring
  have hup : -g - -(g + φ * u) = g + φ * u - g := by ring
  have hgap : -g - -(g + u) = g + u - g := by ring
  have habs : |-g| < |-(g + u)| := by rwa [abs_neg, abs_neg]
  rcases rnd with _ | _ | _ | _ | _ | n
  · obtain ⟨hlt, hgt, heq⟩ := roundsUp_nearestEven h true odd draw
    simp only [Claim.rounded, hdown, hup]
    refine ⟨fun hm => ?_, fun hl => ?_, fun hs => ?_⟩
    · rw [hgt (hmore.mp hm)]; rfl
    · rw [hlt (hless.mp hl)]; rfl
    · rw [heq (hsame.mp hs.symm)]
      cases odd <;> simp
  · have hstay : roundsUp 1 true fr ex odd draw = false := if_neg h.ne_zero
    rw [zero_add, hstay]
    exact ⟨fun hgt => absurd hgt habs.not_gt, fun _ => rfl⟩
  · exact congrArg Neg.neg (if_neg (ne_true_of_eq_false (if_neg h.ne_zero)))
  · exact congrArg Neg.neg (if_pos (if_neg h.ne_zero))
  · obtain ⟨hlt, hge⟩ := roundsUp_nearestAway h true odd draw
    simp only [Claim.rounded, hdown, hup]
    refine ⟨fun hm => ?_, fun hl => ?_, fun hs => ⟨fun hgt => absurd hgt habs.not_gt, fun _ => ?_⟩⟩
    · rw [hge (hmore.mp hm).le]; rfl
    · rw [hlt (hless.mp hl)]; rfl
    · rw [hge (hsame.mp hs.symm).ge]; rfl
  · obtain ⟨-, hcarry⟩ := roundsUp_stochastic h n odd draw
    simp only [Claim.rounded, hdown, hgap, hfrac]
    refine ⟨fun hc => ?_, fun hc => ?_⟩
    · rw [hcarry.mpr hc]; rfl
    · rw [(Bool.not_eq_false _).mp (hcarry.not.mpr (not_le.mpr hc))]; rfl

/-- What `roundsUp` chooses between two neighbours is what R85 says. -/
theorem roundsUp_roundsTo (rnd draw : Nat) (neg odd : Bool) :
    RoundsTo rnd draw neg (g + φ * u) g (g + u) (odd = false) (signed neg (if roundsUp rnd neg fr ex odd draw then g + u else g)) := by
  cases neg with
  | false => exact roundsUp_rounded_pos hg hu h rnd draw odd
  | true => exact roundsUp_rounded_neg hg hu h rnd draw odd

end

/-! ## What rounding determines -/

theorem Claim.rounded_unique {rnd draw : Nat} {x lo hi r r' : ℝ} {even : Prop} (habs : |lo| ≠ |hi|) (h : Claim.rounded rnd draw x lo hi even r)
    (h' : Claim.rounded rnd draw x lo hi even r') : r = r' := by
  rcases rnd with _ | _ | _ | _ | _ | n
  · obtain ⟨hlt, hgt, heq⟩ := h
    obtain ⟨hlt', hgt', heq'⟩ := h'
    rcases lt_trichotomy (x - lo) (hi - x) with hc | hc | hc
    · exact (hlt hc).trans (hlt' hc).symm
    · by_cases he : even
      · exact ((heq hc).1 he).trans ((heq' hc).1 he).symm
      · exact ((heq hc).2 he).trans ((heq' hc).2 he).symm
    · exact (hgt hc).trans (hgt' hc).symm
  · rcases lt_or_gt_of_ne habs with hc | hc
    · exact (h.1 hc).trans (h'.1 hc).symm
    · exact (h.2 hc).trans (h'.2 hc).symm
  · exact h.trans h'.symm
  · exact h.trans h'.symm
  · obtain ⟨hlt, hgt, heq⟩ := h
    obtain ⟨hlt', hgt', heq'⟩ := h'
    rcases lt_trichotomy (x - lo) (hi - x) with hc | hc | hc
    · exact (hlt hc).trans (hlt' hc).symm
    · rcases lt_or_gt_of_ne habs with ha | ha
      · exact ((heq hc).1 ha).trans ((heq' hc).1 ha).symm
      · exact ((heq hc).2 ha).trans ((heq' hc).2 ha).symm
    · exact (hgt hc).trans (hgt' hc).symm
  · rcases le_or_gt (2 ^ 32) (⌊2 ^ 32 * ((x - lo) / (hi - lo))⌋ + (draw : Int)) with hc | hc
    · exact (h.1 hc).trans (h'.1 hc).symm
    · exact (h.2 hc).trans (h'.2 hc).symm

/-- A signed number rounds to one magnitude. -/
theorem RoundsTo.unique {rnd draw : Nat} {neg : Bool} {v g k r r' : ℝ} {even : Prop} (hg : 0 ≤ g) (hk : g < k)
    (h : RoundsTo rnd draw neg v g k even r) (h' : RoundsTo rnd draw neg v g k even r') : r = r' := by
  have habs : |g| ≠ |k| := by rw [abs_of_nonneg hg, abs_of_nonneg (hg.trans hk.le)]; exact hk.ne
  cases neg with
  | false => exact Claim.rounded_unique habs h h'
  | true => exact Claim.rounded_unique (by rw [abs_neg, abs_neg]; exact habs.symm) h h'

/-! ## The integer and fixed kinds (R86, R87) -/

theorem denotes_pos {x : Mag} {v : ℝ} (h : Claim.denotes x v) : 0 < v := (zpow_pos two_pos _).trans_le ((denotes_iff x v).mp h).1

/-- A magnitude rounded to an integer of steps, before its sign. -/
def roundSteps (x : Mag) (q : Int) (rnd draw : Nat) (neg : Bool) : Nat :=
  if roundsUp rnd neg (x.steps q).2.1 (x.steps q).2.2 (decide ((x.steps q).1 % 2 = 1)) draw then (x.steps q).1 + 1 else (x.steps q).1

theorem roundInt_eq (rnd draw : Nat) (neg : Bool) (x : Mag) (frac : Nat) :
    roundInt rnd draw neg x frac = if neg then -(roundSteps x (-(frac : Int)) rnd draw neg : Int) else roundSteps x (-(frac : Int)) rnd draw neg := rfl

section
variable {st : Nat × Nat × Bool} {z : ℝ} (h : StepsOf st z)
include h

/-- Between two whole steps lies a fraction. -/
theorem StepsOf.fraction (hne : z ≠ st.1) : FractionOf st.2.1 st.2.2 (z - st.1) := by
  obtain ⟨hlow, hhigh, hfloor⟩ := h
  exact ⟨sub_pos.mpr (lt_of_le_of_ne hlow hne.symm), by linarith, hfloor⟩

/-- A whole number of steps does not round up. -/
theorem StepsOf.exact (heq : z = st.1) (rnd draw : Nat) (neg odd : Bool) : roundsUp rnd neg st.2.1 st.2.2 odd draw = false := by
  obtain ⟨-, -, hlow, -, hexact⟩ := h
  rw [heq, sub_self, mul_zero] at hlow hexact
  have hzero : st.2.1 = 0 := by exact_mod_cast le_antisymm hlow (Nat.cast_nonneg _)
  exact if_pos ⟨hzero, hexact.mpr (by rw [hzero, Nat.cast_zero])⟩

/-- A whole number between the same neighbours. -/
theorem StepsOf.floor_eq {n : Nat} (h1 : (n : ℝ) ≤ z) (h2 : z < n + 1) : st.1 = n := by
  obtain ⟨hlow, hhigh, -⟩ := h
  have h3 : (st.1 : ℝ) < n + 1 := hlow.trans_lt h2
  have h4 : (n : ℝ) < st.1 + 1 := h1.trans_lt hhigh
  have h3' : st.1 < n + 1 := by exact_mod_cast h3
  have h4' : n < st.1 + 1 := by exact_mod_cast h4
  omega

end

theorem signed_natCast (neg : Bool) (n : Nat) : (((if neg then -(n : Int) else n : Int)) : ℝ) = signed neg n := by
  cases neg <;> simp [signed]

/-- A number of steps with a sign rounds as R85 says: it stays where it is whole, and else goes to a neighbour. -/
theorem roundInt_spec {x : Mag} {v : ℝ} (h : Claim.denotes x v) (rnd draw : Nat) (neg : Bool) (frac : Nat) :
    (∀ k : Int, signed neg v * 2 ^ frac = k → roundInt rnd draw neg x frac = k) ∧
    (∀ k : Int, (k : ℝ) < signed neg v * 2 ^ frac → signed neg v * 2 ^ frac < k + 1 →
      Claim.rounded rnd draw (signed neg v * 2 ^ frac) k (k + 1) (k % 2 = 0) (roundInt rnd draw neg x frac)) := by
  have hv := denotes_pos h
  have hsteps := steps_stepsOf h (-(frac : Int))
  rw [neg_neg, zpow_natCast] at hsteps
  have hsign : signed neg v * 2 ^ frac = signed neg (v * 2 ^ frac) := by cases neg <;> simp [signed]
  have hz : 0 < v * 2 ^ frac := by positivity
  rw [hsign, roundInt_eq, signed_natCast]
  generalize hst : x.steps (-(frac : Int)) = st at *
  generalize v * 2 ^ frac = z at *
  have hround : roundSteps x (-(frac : Int)) rnd draw neg =
      if roundsUp rnd neg st.2.1 st.2.2 (decide (st.1 % 2 = 1)) draw then st.1 + 1 else st.1 := by rw [roundSteps, hst]
  rw [hround]
  constructor
  · intro k hk
    have hwhole : z = (k.natAbs : ℝ) := by
      rw [Nat.cast_natAbs, Int.cast_abs, ← hk]
      cases neg <;> simp [signed, abs_of_pos hz]
    have hfloor := hsteps.floor_eq hwhole.ge (by linarith)
    rw [hsteps.exact (by rw [hfloor, hwhole]), if_neg Bool.false_ne_true, hfloor]
    cases neg with
    | false =>
      have : (0 : ℝ) < k := hk ▸ hz
      have : 0 < k := by exact_mod_cast this
      simp only [Bool.false_eq_true, if_false]
      omega
    | true =>
      have : (k : ℝ) < 0 := hk ▸ neg_lt_zero.mpr hz
      have : k < 0 := by exact_mod_cast this
      simp only [if_true]
      omega
  · intro k hlo hhi
    obtain ⟨n, hn1, hn2, hk⟩ : ∃ n : Nat, (n : ℝ) < z ∧ z < n + 1 ∧ k = if neg then -((n : Int) + 1) else n := by
      cases neg with
      | false =>
        have : (0 : ℝ) < k + 1 := hz.trans hhi
        have : 0 < k + 1 := by exact_mod_cast this
        obtain ⟨n, rfl⟩ := Int.eq_ofNat_of_zero_le (Int.lt_add_one_iff.mp this)
        exact ⟨n, hlo, hhi, rfl⟩
      | true =>
        simp only [signed, if_true] at hlo hhi
        have : (k : ℝ) < 0 := by linarith
        have : k < 0 := by exact_mod_cast this
        obtain ⟨n, hn⟩ := Int.eq_ofNat_of_zero_le (a := -k - 1) (by omega)
        have hcast : (n : ℝ) = -k - 1 := by exact_mod_cast hn.symm
        exact ⟨n, by linarith, by linarith, by simp only [if_true]; omega⟩
    have hfloor := hsteps.floor_eq hn1.le hn2
    have hbetween := roundsUp_roundsTo (g := n) (u := 1) n.cast_nonneg one_pos (hsteps.fraction (by rw [hfloor]; exact hn1.ne')) rnd draw neg
      (decide (n % 2 = 1))
    rw [hfloor, mul_one, add_sub_cancel] at hbetween
    rw [hfloor, hk, Nat.cast_ite, Nat.cast_succ]
    cases neg with
    | false =>
      have heven : ((n : Int) % 2 = 0) = (decide (n % 2 = 1) = false) := propext (by rw [decide_eq_false_iff_not]; omega)
      rw [if_neg Bool.false_ne_true, heven, Int.cast_natCast]
      exact hbetween
    | true =>
      have heven : (-((n : Int) + 1) % 2 = 0) = ¬ (decide (n % 2 = 1) = false) := propext (by rw [decide_eq_false_iff_not]; omega)
      have hnext : ((-((n : Int) + 1) : Int) : ℝ) + 1 = -n := by push_cast; ring
      rw [if_pos rfl, heven, hnext, Int.cast_neg, Int.cast_add, Int.cast_natCast, Int.cast_one]
      exact hbetween

/-! ### Encoding an integer -/

section
variable {f : Fmt} (hf : f.Whole)
include hf

theorem Fmt.Whole.intRange_eq : Claim.intRange f = (f.minInt, f.maxInt) := by
  unfold Claim.intRange Fmt.minInt Fmt.maxInt
  by_cases h : f.isSigned = true
  · rw [if_pos (hf.isSigned_iff.mp h), if_pos h, if_pos h, Nat.cast_pow, Nat.cast_ofNat]
  · rw [if_neg (hf.isSigned_iff.not.mp h), if_neg h, if_neg h, Nat.cast_pow, Nat.cast_ofNat]

/-- An integer outside the range saturates to the end beyond which it lies (R86, R87). -/
theorem Fmt.Whole.encodeInt_eq (sat : Bool) (i : Int) :
    ((Claim.intRange f).1 ≤ i ∧ i ≤ (Claim.intRange f).2 → encodeInt f sat i = ⟨f.wrap i, false⟩) ∧
    (¬ ((Claim.intRange f).1 ≤ i ∧ i ≤ (Claim.intRange f).2) → encodeInt f sat i = ⟨if sat = true ∨ f.ovf = true then
      f.wrap (if i < (Claim.intRange f).1 then (Claim.intRange f).1 else (Claim.intRange f).2) else f.wrap i, true⟩) := by
  have hmin : f.minInt ≤ 0 := by unfold Fmt.minInt; split <;> simp
  have hmax : 0 ≤ f.maxInt := by
    have := Nat.one_le_two_pow (n := f.w - 1)
    have := Nat.one_le_two_pow (n := f.w)
    unfold Fmt.maxInt
    split <;> omega
  rw [hf.intRange_eq]
  refine ⟨fun h => if_pos h, fun h => (if_neg h).trans ?_⟩
  have hside : i < 0 ↔ i < f.minInt := by dsimp only at h; omega
  simp only [hside, Bool.or_eq_true]
  split <;> rfl

end

theorem Fmt.wrap_eq (f : Fmt) (i : Int) : f.wrap i = (i % 2 ^ f.w).toNat := by rw [Fmt.wrap, Nat.cast_pow, Nat.cast_ofNat]

end Sys2Proof.Machine
end

section
/-! SUPPORT. The magnitudes of a float format on their grid (R81, R83): the value of each magnitude code, the neighbours of a number, and which
code an encoding reaches (R85 to R87). -/

namespace Sys2Proof.Machine

/-! ## Magnitude codes (R81) -/

/-- The value of a magnitude code: its exponent field and its mantissa; beyond the largest finite one the spacing goes on (R87). -/
noncomputable def Fmt.mag (f : Fmt) (c : Nat) : ℝ := (Claim.fieldValue f (c / 2 ^ f.m) (c % 2 ^ f.m) : ℚ)

/-- The exponent of the spacing above a magnitude code. -/
def Fmt.spacing (f : Fmt) (x : Nat) : Int := (if x = 0 ∧ f.sub = 0 then 1 - f.bias else (x : Int) - f.bias) - f.m

section
variable (f : Fmt)

/-- A value as a whole number of steps of its spacing. -/
theorem fieldValue_steps (x fr : Nat) : ((Claim.fieldValue f x fr : ℚ) : ℝ) =
    ((if x = 0 ∧ f.sub = 0 then fr else 2 ^ f.m + fr : Nat) : ℝ) * 2 ^ f.spacing x := by
  unfold Claim.fieldValue Fmt.spacing
  split
  · rw [zpow_sub₀ two_ne_zero _ (f.m : Int), zpow_natCast]
    push_cast
    ring
  · rw [zpow_sub₀ two_ne_zero _ (f.m : Int), zpow_natCast]
    push_cast
    field_simp

theorem fields_of_code {x fr m : Nat} (hfr : fr < 2 ^ m) : (x * 2 ^ m + fr) / 2 ^ m = x ∧ (x * 2 ^ m + fr) % 2 ^ m = fr := by
  rw [add_comm, Nat.add_mul_div_right _ _ (by positivity), Nat.div_eq_of_lt hfr, zero_add, Nat.add_mul_mod_self_right, Nat.mod_eq_of_lt hfr]
  exact ⟨rfl, rfl⟩

theorem code_fields (m c : Nat) : ∃ x fr, fr < 2 ^ m ∧ c = x * 2 ^ m + fr :=
  ⟨c / 2 ^ m, c % 2 ^ m, Nat.mod_lt _ (by positivity), by rw [mul_comm, Nat.div_add_mod]⟩

/-- The value of a magnitude code by its fields. -/
theorem Fmt.mag_fields {x fr : Nat} (hfr : fr < 2 ^ f.m) : f.mag (x * 2 ^ f.m + fr) =
    ((if x = 0 ∧ f.sub = 0 then fr else 2 ^ f.m + fr : Nat) : ℝ) * 2 ^ f.spacing x := by
  obtain ⟨hx, hfr'⟩ := fields_of_code (x := x) hfr
  rw [Fmt.mag, hx, hfr', fieldValue_steps]

/-- The next magnitude code is one step of the spacing away, also from one exponent field to the next. -/
theorem Fmt.mag_succ (c : Nat) : f.mag (c + 1) = f.mag c + 2 ^ f.spacing (c / 2 ^ f.m) := by
  obtain ⟨x, fr, hfr, rfl⟩ := code_fields f.m c
  rw [(fields_of_code hfr).1, f.mag_fields hfr]
  by_cases hnext : fr + 1 < 2 ^ f.m
  · rw [add_assoc, f.mag_fields hnext]
    split <;> push_cast <;> ring
  · have hlast : fr + 1 = 2 ^ f.m := le_antisymm hfr (not_lt.mp hnext)
    have hcarry : x * 2 ^ f.m + fr + 1 = (x + 1) * 2 ^ f.m + 0 := by rw [add_assoc, hlast]; ring
    have hlast' : (fr : ℝ) + 1 = 2 ^ f.m := by exact_mod_cast hlast
    rw [hcarry, f.mag_fields (by positivity), if_neg (by omega), Nat.add_zero]
    by_cases h : x = 0 ∧ f.sub = 0
    · have hspacing : f.spacing (x + 1) = f.spacing x := by simp [Fmt.spacing, h]
      rw [if_pos h, hspacing, ← add_one_mul, hlast', Nat.cast_pow, Nat.cast_ofNat]
    · have hspacing : f.spacing (x + 1) = f.spacing x + 1 := by simp [Fmt.spacing, h]; ring
      rw [if_neg h, hspacing, ← add_one_mul, Nat.cast_add, add_assoc, hlast', zpow_add_one₀ two_ne_zero]
      push_cast
      ring

/-- The value of a finite code by its fields (R81). -/
theorem Fmt.signed_number {neg : Bool} {x fr : Nat} (hfr : fr < 2 ^ f.m) :
    (((if x = 0 ∧ f.sub = 1 then 0 else (if neg then -1 else 1) * Claim.fieldValue f x fr : ℚ)) : ℝ) =
      if x = 0 ∧ f.sub = 1 then 0 else signed neg (f.mag (x * 2 ^ f.m + fr)) := by
  obtain ⟨hx, hfr'⟩ := fields_of_code (x := x) hfr
  rw [Fmt.mag, hx, hfr', signed]
  split
  · exact Rat.cast_zero
  · cases neg <;> simp

theorem Fmt.mag_strictMono : StrictMono f.mag :=
  strictMono_nat_of_lt_succ fun c => by rw [f.mag_succ]; exact lt_add_of_pos_right _ (zpow_pos two_pos _)

theorem Fmt.mag_zero : f.mag 0 = if f.sub = 0 then 0 else 2 ^ (-f.bias) := by
  have h := f.mag_fields (x := 0) (fr := 0) (by positivity)
  rw [Nat.zero_mul] at h
  rw [h]
  by_cases hs : f.sub = 0
  · simp [hs]
  · simp only [hs, and_false, if_false, Fmt.spacing]
    rw [zpow_sub₀ two_ne_zero, zpow_natCast]
    push_cast
    field_simp
    simp

theorem Fmt.mag_nonneg (c : Nat) : 0 ≤ f.mag c := by
  refine le_trans ?_ (f.mag_strictMono.monotone (Nat.zero_le c))
  rw [f.mag_zero]
  split <;> positivity

/-- Only the magnitude code 0 of a format with subnormals is a zero. -/
theorem Fmt.mag_eq_zero {c : Nat} (h : f.mag c = 0) : c = 0 ∧ f.sub = 0 := by
  have hc : c = 0 := by
    by_contra hne
    exact absurd h (((f.mag_nonneg 0).trans_lt (f.mag_strictMono (Nat.pos_of_ne_zero hne))).ne')
  subst hc
  rw [f.mag_zero] at h
  by_contra hs
  rw [if_neg fun hs' => hs ⟨rfl, hs'⟩] at h
  exact absurd h (zpow_ne_zero _ two_ne_zero)

end

/-! ## The largest magnitude (R83) -/

section
variable {f : Fmt}

theorem topField_eq (f : Fmt) : Claim.topField f = (f.xmax, if f.nan = 2 ∧ 1 ≤ f.m ∧ f.xmax = 2 ^ f.e - 1 then 2 ^ f.m - 2 else 2 ^ f.m - 1) := rfl

theorem topMantissa_lt (f : Fmt) : (Claim.topField f).2 < 2 ^ f.m := by
  have := Nat.one_le_two_pow (n := f.m)
  rw [topField_eq]
  dsimp only
  split <;> omega

theorem top_eq (f : Fmt) : f.top = (Claim.topField f).1 * 2 ^ f.m + (Claim.topField f).2 := rfl

theorem mag_top (f : Fmt) : f.mag f.top = (Claim.fieldValue f (Claim.topField f).1 (Claim.topField f).2 : ℚ) := by
  obtain ⟨hx, hfr⟩ := fields_of_code (x := (Claim.topField f).1) (topMantissa_lt f)
  rw [Fmt.mag, top_eq, hx, hfr]

theorem mag_top_succ (f : Fmt) : f.mag (f.top + 1) = f.mag f.top + 2 ^ f.spacing (Claim.topField f).1 := by
  rw [f.mag_succ, top_eq, (fields_of_code (topMantissa_lt f)).1]

theorem top_lt (f : Fmt) : f.top < (f.xmax + 1) * 2 ^ f.m := by
  have h := topMantissa_lt f
  rw [top_eq, topField_eq, add_one_mul] at *
  dsimp only at *
  omega

/-- The exponent of the lowest binade that holds normal numbers (R81). -/
def Fmt.bottom (f : Fmt) : Int := if f.sub = 2 then -f.bias else 1 - f.bias

/-- The exponent of the highest binade. -/
def Fmt.topExp (f : Fmt) : Int := max ((f.xmax : Int) - f.bias) f.bottom

theorem mag_top_succ_le (f : Fmt) : f.mag (f.top + 1) ≤ 2 ^ (f.topExp + 1) := by
  have h : f.mag (f.top + 1) ≤ f.mag ((f.xmax + 1) * 2 ^ f.m + 0) := f.mag_strictMono.monotone (top_lt f)
  rw [f.mag_fields (by positivity), if_neg (by omega), Nat.add_zero (2 ^ f.m), Nat.cast_pow, Nat.cast_ofNat, ← zpow_natCast, ← zpow_add₀ two_ne_zero] at h
  refine h.trans (zpow_le_zpow_right₀ one_le_two ?_)
  have hmax : (f.xmax : Int) - f.bias ≤ f.topExp := le_max_left _ _
  rw [Fmt.spacing, if_neg (by omega)]
  push_cast
  omega

end

/-! ## Codes and magnitudes (R81 to R83) -/

section
variable {f : Fmt}

theorem xmax_lt (f : Fmt) : f.xmax < 2 ^ f.e := by
  have := Nat.one_le_two_pow (n := f.e)
  unfold Fmt.xmax
  split <;> omega

theorem code_lt_pow {x fr e m : Nat} (hx : x < 2 ^ e) (hfr : fr < 2 ^ m) : x * 2 ^ m + fr < 2 ^ (e + m) := by
  calc x * 2 ^ m + fr < (x + 1) * 2 ^ m := by rw [add_one_mul]; omega
    _ ≤ 2 ^ e * 2 ^ m := Nat.mul_le_mul_right _ hx
    _ = 2 ^ (e + m) := (pow_add _ _ _).symm

theorem code_le_iff {x fr x' fr' m : Nat} (hfr : fr < 2 ^ m) (hfr' : fr' < 2 ^ m) : x * 2 ^ m + fr ≤ x' * 2 ^ m + fr' ↔ x < x' ∨ (x = x' ∧ fr ≤ fr') := by
  rcases lt_trichotomy x x' with h | rfl | h
  · have := Nat.mul_le_mul_right (2 ^ m) (Nat.succ_le_of_lt h)
    rw [Nat.succ_mul] at this
    omega
  · omega
  · have := Nat.mul_le_mul_right (2 ^ m) (Nat.succ_le_of_lt h)
    rw [Nat.succ_mul] at this
    omega

theorem top_lt_pow (f : Fmt) : f.top < 2 ^ (f.e + f.m) := code_lt_pow (xmax_lt f) (topMantissa_lt f)

variable (hf : f.Float)
include hf

/-- The fields of a code with a sign bit (R79). -/
theorem Fmt.Float.decodeVal_signBit {neg : Bool} (hneg : neg = true → f.sign = true) {x fr : Nat} (hx : x < 2 ^ f.e) (hfr : fr < 2 ^ f.m) :
    decodeVal f (f.signBit neg + (x * 2 ^ f.m + fr)) = f.decodeFields neg x fr := by
  have hc := code_lt_pow hx hfr
  have hwidth := hf.width
  rw [hf.decodeVal_eq]
  cases hs : f.sign with
  | false =>
    obtain rfl : neg = false := by cases neg <;> simp_all
    obtain ⟨h1, h2⟩ := fields_of_code (x := x) hfr
    have hbit : f.signBit false = 0 := by simp [Fmt.signBit]
    rw [hbit, Nat.zero_add, h1, h2, Nat.mod_eq_of_lt hx, Bool.false_and]
  | true =>
    have hw : f.w - 1 = f.e + f.m := by rw [hs, if_pos rfl] at hwidth; omega
    have hbit : f.signBit neg = (if neg then 1 else 0) * 2 ^ (f.e + f.m) := by
      rw [Fmt.signBit, hs, Bool.and_true, hw]
      split <;> simp
    obtain ⟨h1, h2⟩ := fields_of_code (x := (if neg then 1 else 0) * 2 ^ f.e + x) hfr
    have hcode : f.signBit neg + (x * 2 ^ f.m + fr) = ((if neg then 1 else 0) * 2 ^ f.e + x) * 2 ^ f.m + fr := by
      rw [hbit, pow_add]; ring
    have htest : (f.signBit neg + (x * 2 ^ f.m + fr)).testBit (f.w - 1) = neg := by
      rw [hbit, hw]
      cases neg
      · simpa using Nat.testBit_lt_two_pow hc
      · rw [if_pos rfl, Nat.one_mul, Nat.testBit_two_pow_add_eq, Nat.testBit_lt_two_pow hc]; rfl
    rw [htest, hcode, h1, h2, Nat.mul_comm, Nat.mul_add_mod, Nat.mod_eq_of_lt hx, Bool.true_and]

/-- Where the largest finite magnitude stands: below the highest exponent field, below its last mantissa, or at the end (R83). -/
theorem Fmt.Float.top_cases : (f.nan = 1 ∧ Claim.topField f = (2 ^ f.e - 2, 2 ^ f.m - 1)) ∨
    (f.nan = 2 ∧ f.m = 0 ∧ Claim.topField f = (2 ^ f.e - 2, 0)) ∨
    (f.nan = 2 ∧ 1 ≤ f.m ∧ Claim.topField f = (2 ^ f.e - 1, 2 ^ f.m - 2)) ∨
    (f.nan ≠ 1 ∧ f.nan ≠ 2 ∧ Claim.topField f = (2 ^ f.e - 1, 2 ^ f.m - 1)) := by
  have hiff := hf.inf_iff
  rw [topField_eq, Fmt.xmax]
  by_cases h1 : f.nan = 1
  · exact .inl ⟨h1, by rw [if_pos (.inl (hiff.mpr h1)), if_neg (by omega)]⟩
  by_cases h2 : f.nan = 2
  · by_cases hm : f.m = 0
    · exact .inr (.inl ⟨h2, hm, by rw [if_pos (.inr ⟨h2, hm⟩), if_neg (by omega), hm]; rfl⟩)
    · rw [if_neg (by omega), if_pos ⟨h2, Nat.one_le_iff_ne_zero.mpr hm, rfl⟩]
      exact .inr (.inr (.inl ⟨h2, Nat.one_le_iff_ne_zero.mpr hm, rfl⟩))
  · rw [if_neg (by omega), if_neg (by omega)]
    exact .inr (.inr (.inr ⟨h1, h2, rfl⟩))

/-- The fields of finite values are those up to the largest magnitude, but for the negative zero that is a NaN. -/
theorem Fmt.Float.fields_finite_iff {neg : Bool} {x fr : Nat} (hx : x < 2 ^ f.e) (hfr : fr < 2 ^ f.m) :
    (¬ f.NanFields neg x fr ∧ ¬ f.InfFields x fr) ↔ x * 2 ^ f.m + fr ≤ f.top ∧ ¬ (f.nan = 3 ∧ neg = true ∧ x = 0 ∧ fr = 0) := by
  have he := Nat.pow_le_pow_right two_pos hf.exponent
  have hiff := hf.inf_iff
  rw [top_eq, code_le_iff hfr (topMantissa_lt f), Fmt.NanFields, Fmt.InfFields]
  rcases hf.top_cases with ⟨hnan, htop⟩ | ⟨hnan, hm, htop⟩ | ⟨hnan, hm, htop⟩ | ⟨hnan1, hnan2, htop⟩ <;> rw [htop] <;> dsimp only
  · simp only [hnan, hiff.mpr hnan, true_and, OfNat.one_ne_ofNat, false_and, or_false, not_false_eq_true, and_true]
    omega
  · simp only [hnan, show f.inf ≠ 1 by omega, hm, true_and, OfNat.ofNat_ne_one, Nat.reduceEqDiff, false_and, false_or, or_false, not_false_eq_true,
      and_true, pow_zero] at hfr ⊢
    omega
  · have hm2 := Nat.pow_le_pow_right two_pos hm
    simp only [hnan, show f.inf ≠ 1 by omega, true_and, OfNat.ofNat_ne_one, Nat.reduceEqDiff, false_and, false_or, or_false, not_false_eq_true, and_true]
    omega
  · have hinf : f.inf ≠ 1 := hiff.not.mpr hnan1
    have hle : x < 2 ^ f.e - 1 ∨ x = 2 ^ f.e - 1 ∧ fr ≤ 2 ^ f.m - 1 := by omega
    simp only [hnan1, hnan2, hinf, hle, false_and, false_or, true_and, not_false_eq_true, and_true]

/-- What value a code has: a magnitude up to the largest, with its sign; below the normal numbers 0 where those are zeros (R81 to R83). -/
theorem Fmt.Float.finite_iff {neg : Bool} (hneg : neg = true → f.sign = true) {c : Nat} (hc : c < 2 ^ (f.e + f.m)) (w : ℝ) :
    Claim.finite f (f.signBit neg + c) w ↔ (c ≤ f.top ∧ ¬ (f.nan = 3 ∧ neg = true ∧ c = 0)) ∧
      w = if c < 2 ^ f.m ∧ f.sub = 1 then 0 else signed neg (f.mag c) := by
  obtain ⟨x, fr, hfr, rfl⟩ := code_fields f.m c
  have hx : x < 2 ^ f.e := by
    by_contra hx
    have := Nat.mul_le_mul_right (2 ^ f.m) (not_lt.mp hx)
    rw [← pow_add] at this
    omega
  have hpos := Nat.two_pow_pos f.m
  have hlow : x * 2 ^ f.m + fr < 2 ^ f.m ↔ x = 0 := by
    refine ⟨fun h => ?_, fun h => by rw [h]; omega⟩
    by_contra hne
    have := Nat.mul_le_mul_right (2 ^ f.m) (Nat.one_le_iff_ne_zero.mpr hne)
    omega
  have hzero : x * 2 ^ f.m + fr = 0 ↔ x = 0 ∧ fr = 0 := by
    rw [Nat.add_eq_zero_iff, Nat.mul_eq_zero]
    omega
  simp only [hlow, hzero, ← hf.fields_finite_iff hx hfr, Claim.finite, hf.decodeVal_signBit hneg hx hfr]
  constructor
  · rintro ⟨n, m, e, hfin, rfl⟩
    have hspecial : ¬ f.NanFields neg x fr ∧ ¬ f.InfFields x fr :=
      ⟨fun h => Val.noConfusion ((Fmt.decodeFields_nan h).symm.trans hfin),
        fun h => Val.noConfusion ((hf.decodeFields_inf h).symm.trans hfin)⟩
    obtain ⟨m', e', hfin', hnumber⟩ := hf.decodeFields_fin (s := neg) hspecial.1 hspecial.2
    rw [hfin] at hfin'
    cases hfin'
    exact ⟨hspecial, by rw [hnumber]; exact f.signed_number hfr⟩
  · rintro ⟨hspecial, rfl⟩
    obtain ⟨m', e', hfin', hnumber⟩ := hf.decodeFields_fin (s := neg) hspecial.1 hspecial.2
    exact ⟨neg, m', e', hfin', by rw [hnumber]; exact (f.signed_number hfr).symm⟩

/-- A code is a sign bit and a magnitude code (R79). -/
theorem Fmt.Float.code_signBit {c : Nat} (hc : c < 2 ^ f.w) : ∃ neg c', (neg = true → f.sign = true) ∧ c' < 2 ^ (f.e + f.m) ∧ c = f.signBit neg + c' := by
  have hwidth := hf.width
  by_cases hlow : c < 2 ^ (f.e + f.m)
  · exact ⟨false, c, Bool.noConfusion, hlow, by simp [Fmt.signBit]⟩
  · cases hs : f.sign with
    | false => rw [hs, if_neg Bool.false_ne_true, Nat.zero_add] at hwidth; rw [← hwidth] at hc; exact absurd hc hlow
    | true =>
      rw [hs, if_pos rfl] at hwidth
      have hw : f.w - 1 = f.e + f.m := by omega
      rw [show f.w = f.e + f.m + 1 by omega, pow_succ] at hc
      refine ⟨true, c - 2 ^ (f.e + f.m), fun _ => rfl, by omega, ?_⟩
      rw [Fmt.signBit, hs, hw, Bool.and_true, if_pos rfl]
      omega

/-- The sign bit is even. -/
theorem Fmt.Float.signBit_even (neg : Bool) : f.signBit neg % 2 = 0 := by
  have hwidth := hf.width
  have he := hf.exponent
  unfold Fmt.signBit
  split
  next h =>
    rw [(Bool.and_eq_true_iff.mp h).2, if_pos rfl] at hwidth
    rw [show f.w - 1 = (f.w - 2) + 1 by omega, pow_succ, Nat.mul_mod_left]
  · rfl

end

end Sys2Proof.Machine
end

section
/-! SUPPORT. What a float format encodes: a magnitude on the format's grid, rounded to a magnitude code (R85), and the code that stands for it
(R86, R87). -/

namespace Sys2Proof.Machine

/-! ## The two halves of an encoding -/

/-- The exponent of the binade whose grid a magnitude is rounded on. -/
def Fmt.gridExp (f : Fmt) (log : Int) : Int := min (max log f.bottom) f.topExp

/-- The magnitude code of n steps of the grid of a binade. -/
def Fmt.gridCode (f : Fmt) (ex : Int) (n : Nat) : Nat := ((ex + f.bias - 1) * 2 ^ f.m + n).toNat

/-- A magnitude rounded to a magnitude code; a code above the largest finite one is an overflow. -/
def Fmt.roundMag (f : Fmt) (rnd draw : Nat) (neg : Bool) (x : Mag) : Nat :=
  if f.topExp + 1 < x.log then f.top + 1
  else if f.sub = 2 ∧ x.log < f.bottom then 0
  else
    let st := x.steps (f.gridExp x.log - f.m)
    let lo := f.gridCode (f.gridExp x.log) st.1
    if roundsUp rnd neg st.2.1 st.2.2 (decide (lo % 2 = 1)) draw then lo + 1 else lo

/-- The code of a magnitude code with a sign. -/
def Fmt.place (f : Fmt) (rnd : Nat) (sat neg : Bool) (c : Nat) : Enc :=
  if f.top < c then ⟨overflowCode f rnd sat neg, true⟩
  else if f.sub = 1 ∧ c < 2 ^ f.m then ⟨f.zeroCode neg, false⟩
  else if c = 0 ∧ f.sub ≠ 2 then ⟨f.zeroCode neg, false⟩
  else ⟨f.signBit neg + c, false⟩

theorem encodeFloat_unsigned {f : Fmt} (h : f.sign = false) (rnd draw : Nat) (sat : Bool) (x : Mag) : encodeFloat f rnd sat draw true x = ⟨0, true⟩ := by
  rw [encodeFloat, if_pos (by simp [h])]

theorem encodeFloat_eq {f : Fmt} {neg : Bool} (hneg : neg = true → f.sign = true) (rnd draw : Nat) (sat : Bool) (x : Mag) :
    encodeFloat f rnd sat draw neg x = f.place rnd sat neg (f.roundMag rnd draw neg x) := by
  have hsign : ¬ (neg && !f.sign) = true := by cases neg <;> simp_all
  have hbase (field : Int) (n : Nat) : (if f.sub = 2 then field * 2 ^ f.m + n - 2 ^ f.m else (field - 1) * 2 ^ f.m + n) = (field - 1) * 2 ^ f.m + n := by
    split
    · ring
    · rfl
  rw [encodeFloat, if_neg hsign]
  simp only [hbase]
  rw [Fmt.roundMag]
  by_cases hbig : f.topExp + 1 < x.log
  · rw [if_pos hbig, Fmt.place, if_pos (Nat.lt_succ_self _)]
    exact if_pos hbig
  · rw [if_neg hbig]
    refine (if_neg hbig).trans ?_
    by_cases hsmall : f.sub = 2 ∧ x.log < f.bottom
    · have hplace : f.place rnd sat neg 0 = ⟨f.signBit neg, false⟩ := by simp [Fmt.place, hsmall.1]
      rw [if_pos hsmall, hplace]
      exact if_pos hsmall
    · rw [if_neg hsmall]
      exact if_neg hsmall

/-! ## The grid -/

section
variable {f : Fmt}

/-- The magnitude code of a number of steps of a grid has that many steps as its value. -/
theorem gridCode_spec {ex : Int} {n : Nat} (hex : f.bottom ≤ ex) (hn : n < 2 ^ (f.m + 1)) (hlow : 2 ^ f.m ≤ n ∨ (f.sub = 0 ∧ ex = f.bottom)) :
    f.mag (f.gridCode ex n) = n * 2 ^ (ex - f.m) ∧ f.spacing (f.gridCode ex n / 2 ^ f.m) = ex - f.m := by
  rw [pow_succ] at hn
  unfold Fmt.bottom at hex hlow
  by_cases hnormal : 2 ^ f.m ≤ n
  · obtain ⟨fr, rfl⟩ := Nat.exists_eq_add_of_le hnormal
    obtain ⟨X, hX⟩ := Int.eq_ofNat_of_zero_le (a := ex + f.bias) (by split at hex <;> omega)
    have hfr : fr < 2 ^ f.m := by omega
    have hsub : ¬ (X = 0 ∧ f.sub = 0) := by
      rintro ⟨rfl, hs⟩
      rw [if_neg (by omega)] at hex
      omega
    have hcode : f.gridCode ex (2 ^ f.m + fr) = X * 2 ^ f.m + fr := by
      have : (ex + f.bias - 1) * 2 ^ f.m + ((2 ^ f.m + fr : Nat) : Int) = ((X * 2 ^ f.m + fr : Nat) : Int) := by
        rw [hX]; push_cast; ring
      rw [Fmt.gridCode, this, Int.toNat_natCast]
    have hspacing : f.spacing X = ex - f.m := by rw [Fmt.spacing, if_neg hsub]; omega
    rw [hcode, (fields_of_code hfr).1, f.mag_fields hfr, if_neg hsub, hspacing]
    exact ⟨rfl, rfl⟩
  · obtain ⟨hs, hex'⟩ := hlow.resolve_left hnormal
    rw [if_neg (by omega)] at hex'
    have hcode : f.gridCode ex n = 0 * 2 ^ f.m + n := by
      rw [Fmt.gridCode, hex', sub_add_cancel, sub_self, zero_mul, zero_add, Int.toNat_natCast, zero_mul, zero_add]
    have hspacing : f.spacing 0 = ex - f.m := by rw [Fmt.spacing, if_pos ⟨rfl, hs⟩, hex']
    have hfr := not_le.mp hnormal
    rw [hcode, (fields_of_code hfr).1, f.mag_fields hfr, if_pos ⟨rfl, hs⟩, hspacing]
    exact ⟨rfl, rfl⟩

/-- Steps of the top binade beyond its end are beyond the largest magnitude. -/
theorem top_lt_gridCode {n : Nat} (hn : 2 ^ (f.m + 1) ≤ n) : f.top < f.gridCode f.topExp n := by
  have htop := top_lt f
  have hmax : (f.xmax : Int) - f.bias ≤ f.topExp := le_max_left _ _
  have hfield : ((f.xmax : Int) - 1) * 2 ^ f.m ≤ (f.topExp + f.bias - 1) * 2 ^ f.m := Int.mul_le_mul_of_nonneg_right (by omega) (by positivity)
  have hn' : (2 : Int) ^ f.m * 2 ≤ n := by rw [← pow_succ]; exact_mod_cast hn
  have hcode : (((f.xmax + 1) * 2 ^ f.m : Nat) : Int) ≤ (f.topExp + f.bias - 1) * 2 ^ f.m + n := by
    push_cast
    linarith
  have := Int.toNat_le_toNat hcode
  rw [Int.toNat_natCast] at this
  exact htop.trans_le this

section
variable {x : Mag} {v : ℝ} (h : Claim.denotes x v)
include h

/-- The steps of a magnitude of a grid: their bounds by the binades. -/
theorem steps_lt {q : Int} {k : Nat} (hlog : x.log + 1 - q ≤ k) : (x.steps q).1 < 2 ^ k := by
  obtain ⟨-, hhigh, -⟩ := (denotes_iff x v).mp h
  obtain ⟨hle, -, -⟩ := steps_stepsOf h q
  have : ((x.steps q).1 : ℝ) < 2 ^ k := by
    calc ((x.steps q).1 : ℝ) ≤ v * 2 ^ (-q) := hle
      _ < 2 ^ (x.log + 1) * 2 ^ (-q) := mul_lt_mul_of_pos_right hhigh (by positivity)
      _ = 2 ^ (x.log + 1 - q) := by rw [← zpow_add₀ two_ne_zero, sub_eq_add_neg]
      _ ≤ 2 ^ (k : Int) := zpow_le_zpow_right₀ one_le_two hlog
      _ = 2 ^ k := zpow_natCast _ _
  exact_mod_cast this

theorem le_steps {q : Int} {k : Nat} (hlog : k ≤ x.log - q) : 2 ^ k ≤ (x.steps q).1 := by
  obtain ⟨hlow, -, -⟩ := (denotes_iff x v).mp h
  obtain ⟨-, hlt, -⟩ := steps_stepsOf h q
  have : (2 : ℝ) ^ k < (x.steps q).1 + 1 := by
    calc (2 : ℝ) ^ k = 2 ^ (k : Int) := (zpow_natCast _ _).symm
      _ ≤ 2 ^ (x.log - q) := zpow_le_zpow_right₀ one_le_two hlog
      _ = 2 ^ x.log * 2 ^ (-q) := by rw [← zpow_add₀ two_ne_zero, sub_eq_add_neg]
      _ ≤ v * 2 ^ (-q) := mul_le_mul_of_nonneg_right hlow (by positivity)
      _ < _ := hlt
  have : 2 ^ k < (x.steps q).1 + 1 := by exact_mod_cast this
  omega

/-- What rounding on the grid gives: beyond the top binade an overflow; else the magnitude code at or below the number, or the one above it as
R85 says. -/
theorem Fmt.Float.roundMag_spec (hf : f.Float) (hsub1 : f.sub ≠ 1) (hsub2 : f.sub = 2 → (2 : ℝ) ^ (-f.bias) ≤ v) (rnd draw : Nat) (neg : Bool) :
    (f.mag (f.top + 1) ≤ v ∧ f.top < f.roundMag rnd draw neg x) ∨
    ∃ base, f.mag base ≤ v ∧ v < f.mag (base + 1) ∧ base ≤ f.roundMag rnd draw neg x ∧ f.roundMag rnd draw neg x ≤ base + 1 ∧
      (v = f.mag base → f.roundMag rnd draw neg x = base) ∧
      (v ≠ f.mag base → RoundsTo rnd draw neg v (f.mag base) (f.mag (base + 1)) (base % 2 = 0) (signed neg (f.mag (f.roundMag rnd draw neg x)))) := by
  obtain ⟨hlow, hhigh, -⟩ := (denotes_iff x v).mp h
  have hbottom : f.bottom ≤ f.topExp := le_max_right _ _
  have hsmall : ¬ (f.sub = 2 ∧ x.log < f.bottom) := by
    rintro ⟨hs, hlog⟩
    rw [Fmt.bottom, if_pos hs] at hlog
    exact absurd ((hsub2 hs).trans_lt hhigh) (not_lt.mpr (zpow_le_zpow_right₀ one_le_two (by omega)))
  have hover (hlog : f.topExp + 1 ≤ x.log) : f.mag (f.top + 1) ≤ v :=
    (mag_top_succ_le f).trans ((zpow_le_zpow_right₀ one_le_two hlog).trans hlow)
  by_cases hbig : f.topExp + 1 < x.log
  · rw [Fmt.roundMag, if_pos hbig]
    exact .inl ⟨hover hbig.le, Nat.lt_succ_self _⟩
  rw [Fmt.roundMag, if_neg hbig, if_neg hsmall]
  dsimp only
  by_cases htop : x.log = f.topExp + 1
  · have hex : f.gridExp x.log = f.topExp := by unfold Fmt.gridExp; omega
    have hlo := top_lt_gridCode (f := f) (le_steps h (q := f.topExp - f.m) (k := f.m + 1) (by push_cast; omega))
    rw [hex]
    refine .inl ⟨hover htop.ge, ?_⟩
    split
    · exact hlo.trans (Nat.lt_succ_self _)
    · exact hlo
  have hex : f.gridExp x.log = max x.log f.bottom := by unfold Fmt.gridExp; omega
  have hsteps := steps_stepsOf h (f.gridExp x.log - f.m)
  have hlt : (x.steps (f.gridExp x.log - f.m)).1 < 2 ^ (f.m + 1) := steps_lt h (by push_cast; omega)
  have hnormal : 2 ^ f.m ≤ (x.steps (f.gridExp x.log - f.m)).1 ∨ (f.sub = 0 ∧ f.gridExp x.log = f.bottom) := by
    have hsub := hf.sub
    by_cases hlog : f.bottom ≤ x.log
    · exact .inl (le_steps h (by omega))
    · have : f.sub ≠ 2 := fun hs => hsmall ⟨hs, by omega⟩
      exact .inr (by omega)
  obtain ⟨hmag, hspacing⟩ := gridCode_spec (f := f) (by omega) hlt hnormal
  generalize f.gridExp x.log - f.m = q at *
  generalize x.steps q = st at *
  generalize f.gridCode (f.gridExp x.log) st.1 = base at *
  have hu : (0 : ℝ) < 2 ^ q := zpow_pos two_pos _
  have hnext : f.mag (base + 1) = f.mag base + 2 ^ q := by rw [f.mag_succ, hspacing]
  have hv : v = f.mag base + (v * 2 ^ (-q) - st.1) * 2 ^ q := by
    rw [hmag, zpow_neg]
    field_simp
    ring
  obtain ⟨hle, hgt, -⟩ := id hsteps
  right
  refine ⟨base, ?_, ?_, ?_, ?_, fun heq => ?_, fun hne => ?_⟩
  · rw [hv]
    have := mul_nonneg (sub_nonneg.mpr hle) hu.le
    linarith
  · rw [hv, hnext]
    have := mul_lt_mul_of_pos_right (sub_lt_iff_lt_add'.mpr hgt) hu
    linarith
  · split <;> omega
  · split <;> omega
  · have hwhole : v * 2 ^ (-q) = st.1 := by
      rw [heq, hmag, zpow_neg]
      field_simp
    rw [hsteps.exact hwhole, if_neg Bool.false_ne_true]
  · have hfrac : v * 2 ^ (-q) ≠ st.1 := fun hwhole => hne (by rw [hv, hwhole]; ring)
    have hbetween := roundsUp_roundsTo (f.mag_nonneg base) hu (hsteps.fraction hfrac) rnd draw neg (decide (base % 2 = 1))
    rw [← hv, ← hnext] at hbetween
    have heven : (base % 2 = 0) = (decide (base % 2 = 1) = false) := propext (by rw [decide_eq_false_iff_not]; omega)
    rw [heven, apply_ite f.mag]
    exact hbetween

end
end
end Sys2Proof.Machine
end

section
/-! SUPPORT. Rounding into a float format by the values of codes (R85 to R88). -/

namespace Sys2Proof.Machine

section
variable {f : Fmt}

/-! ## Signed magnitudes -/

theorem abs_signed (neg : Bool) (c : Nat) : |signed neg (f.mag c)| = f.mag c := by
  cases neg
  · exact abs_of_nonneg (f.mag_nonneg c)
  · exact (abs_neg _).trans (abs_of_nonneg (f.mag_nonneg c))

theorem mag_code_inj {neg neg' : Bool} {c c' : Nat} (h : signed neg (f.mag c) = signed neg' (f.mag c')) : c = c' :=
  f.mag_strictMono.injective (by rw [← abs_signed neg c, h, abs_signed])

theorem signBit_eq {neg : Bool} (hneg : neg = true → f.sign = true) : f.signBit neg = if neg then 2 ^ (f.w - 1) else 0 := by
  cases neg with
  | false => rfl
  | true => simp [Fmt.signBit, hneg rfl]

theorem zeroCode_eq {neg : Bool} (hneg : neg = true → f.sign = true) (hsub : f.sub ≠ 2) :
    f.zeroCode neg = if neg = true ∧ f.nan ≠ 3 then 2 ^ (f.w - 1) else 0 := by
  rw [Fmt.zeroCode, if_neg hsub, signBit_eq hneg]
  split <;> split <;> simp_all

theorem place_overflow {c : Nat} (hc : f.top < c) (rnd : Nat) (sat neg : Bool) : f.place rnd sat neg c = ⟨overflowCode f rnd sat neg, true⟩ := if_pos hc

end

section
variable {f : Fmt} (hf : f.Float)
include hf

/-! ## Rounded magnitudes by the magnitudes around a number -/

section
variable {x : Mag} {v : ℝ} (h : Claim.denotes x v) (hsub1 : f.sub ≠ 1) (hsub2 : f.sub = 2 → (2 : ℝ) ^ (-f.bias) ≤ v) (rnd draw : Nat) (neg : Bool)
include h hsub1 hsub2

/-- A number at or beyond the next step after the largest magnitude overflows (R87). -/
theorem Fmt.Float.top_lt_roundMag (hv : f.mag (f.top + 1) ≤ v) : f.top < f.roundMag rnd draw neg x := by
  rcases hf.roundMag_spec h hsub1 hsub2 rnd draw neg with ⟨-, hover⟩ | ⟨base, -, hlt, hbase, -⟩
  · exact hover
  · have : f.top + 1 < base + 1 := f.mag_strictMono.lt_iff_lt.mp (hv.trans_lt hlt)
    omega

/-- Below that step a number lies at or above a finite magnitude. -/
theorem Fmt.Float.exists_base (hv : v < f.mag (f.top + 1)) : ∃ base, base ≤ f.top ∧ f.mag base ≤ v ∧ v < f.mag (base + 1) := by
  rcases hf.roundMag_spec h hsub1 hsub2 0 0 false with ⟨hover, -⟩ | ⟨base, hle, hlt, -⟩
  · exact absurd hv (not_lt.mpr hover)
  · exact ⟨base, Nat.lt_add_one_iff.mp (f.mag_strictMono.lt_iff_lt.mp (hle.trans_lt hv)), hle, hlt⟩

/-- A number between two magnitudes stays at the lower one where it equals it, and else becomes one of them as R85 says. -/
theorem Fmt.Float.roundMag_between {base : Nat} (hbase : base ≤ f.top) (hle : f.mag base ≤ v) (hlt : v < f.mag (base + 1)) :
    base ≤ f.roundMag rnd draw neg x ∧ f.roundMag rnd draw neg x ≤ base + 1 ∧ (v = f.mag base → f.roundMag rnd draw neg x = base) ∧
    (v ≠ f.mag base → RoundsTo rnd draw neg v (f.mag base) (f.mag (base + 1)) (base % 2 = 0) (signed neg (f.mag (f.roundMag rnd draw neg x)))) := by
  rcases hf.roundMag_spec h hsub1 hsub2 rnd draw neg with ⟨hover, -⟩ | ⟨base', hle', hlt', hround⟩
  · exact absurd (hover.trans_lt hlt) (not_lt.mpr (f.mag_strictMono.monotone (Nat.succ_le_succ hbase)))
  · have h1 : base < base' + 1 := f.mag_strictMono.lt_iff_lt.mp (hle.trans_lt hlt')
    have h2 : base' < base + 1 := f.mag_strictMono.lt_iff_lt.mp (hle'.trans_lt hlt)
    obtain rfl : base = base' := by omega
    exact hround

end

/-! ## The codes of rounded magnitudes -/

/-- Up to the largest magnitude the value of a sign and a magnitude stands in the format. -/
theorem Fmt.Float.place_finite (hsub1 : f.sub ≠ 1) (hexcl : ¬ (f.nan = 3 ∧ f.sub = 2)) {neg : Bool} (hneg : neg = true → f.sign = true) {c : Nat}
    (hc : c ≤ f.top) (rnd : Nat) (sat : Bool) : (f.place rnd sat neg c).ovc = false ∧ Claim.finite f (f.place rnd sat neg c).code (signed neg (f.mag c)) ∧
    (signed neg (f.mag c) = 0 → (f.place rnd sat neg c).code = if neg = true ∧ f.nan ≠ 3 then 2 ^ (f.w - 1) else 0) := by
  have hlt := hc.trans_lt (top_lt_pow f)
  rw [Fmt.place, if_neg (by omega), if_neg (by omega)]
  by_cases hzero : c = 0 ∧ f.sub ≠ 2
  · obtain ⟨rfl, hsub⟩ := hzero
    have hsub0 : f.sub = 0 := by have := hf.sub; omega
    have hmag : f.mag 0 = 0 := by rw [f.mag_zero, if_pos hsub0]
    rw [if_pos ⟨rfl, hsub⟩]
    refine ⟨rfl, ?_, fun _ => zeroCode_eq hneg hsub⟩
    dsimp only
    rw [Fmt.zeroCode, if_neg hsub]
    split
    · have hfin := (hf.finite_iff (neg := false) Bool.noConfusion hlt 0).mpr ⟨⟨hc, by simp⟩, by simp [signed, hmag]⟩
      rw [hmag]
      cases neg <;> simpa [signed, Fmt.signBit] using hfin
    · exact (hf.finite_iff hneg hlt _).mpr ⟨⟨hc, by omega⟩, by rw [if_neg (by omega)]⟩
  · rw [if_neg hzero]
    refine ⟨rfl, (hf.finite_iff hneg hlt _).mpr ⟨⟨hc, ?_⟩, by rw [if_neg (by omega)]⟩, fun h => ?_⟩
    · rintro ⟨h3, -, h0⟩
      exact hzero ⟨h0, fun h2 => hexcl ⟨h3, h2⟩⟩
    · have hmag : f.mag c = 0 := by rw [← abs_signed neg c, h, abs_zero]
      obtain ⟨h0, hs⟩ := f.mag_eq_zero hmag
      exact absurd ⟨h0, by omega⟩ hzero

/-- A finite code without SUB = 1 is a sign and a magnitude. -/
theorem Fmt.Float.finite_code (hsub1 : f.sub ≠ 1) {c : Nat} (hc : c < 2 ^ f.w) {w : ℝ} (h : Claim.finite f c w) :
    ∃ neg c', (neg = true → f.sign = true) ∧ c' ≤ f.top ∧ c % 2 = c' % 2 ∧ w = signed neg (f.mag c') := by
  obtain ⟨neg, c', hneg, hlt, rfl⟩ := hf.code_signBit hc
  obtain ⟨⟨htop, -⟩, hw⟩ := (hf.finite_iff hneg hlt w).mp h
  have heven := hf.signBit_even neg
  exact ⟨neg, c', hneg, htop, by omega, by rw [hw, if_neg (by omega)]⟩

theorem Fmt.Float.place_code_lt {neg : Bool} (hneg : neg = true → f.sign = true) {c : Nat} (hc : c ≤ f.top) (rnd : Nat) (sat : Bool) :
    (f.place rnd sat neg c).code < 2 ^ f.w := by
  have hlt := hc.trans_lt (top_lt_pow f)
  have hbit : f.signBit neg + c < 2 ^ f.w := by
    have hwidth := hf.width
    rw [signBit_eq hneg]
    cases neg with
    | false => exact (Nat.zero_add c).symm ▸ hlt.trans_le (Nat.pow_le_pow_right two_pos (by omega))
    | true =>
      rw [hneg rfl, if_pos rfl] at hwidth
      rw [if_pos rfl, ← hwidth, show 1 + f.e + f.m = f.e + f.m + 1 by omega, Nat.add_sub_cancel, pow_succ]
      omega
  have hzero : f.zeroCode neg < 2 ^ f.w := by
    have := Nat.two_pow_pos f.w
    unfold Fmt.zeroCode
    split
    · omega
    · split <;> omega
  rw [Fmt.place, if_neg (by omega)]
  split
  · exact hzero
  · split
    · exact hzero
    · exact hbit

/-! ## Numbers up to the largest finite value (R85) -/

section
variable {x : Mag} {v : ℝ} (h : Claim.denotes x v) (hsub1 : f.sub ≠ 1) (hsub2 : f.sub = 2 → (2 : ℝ) ^ (-f.bias) ≤ v)
  (hexcl : ¬ (f.nan = 3 ∧ f.sub = 2)) {neg : Bool} (hneg : neg = true → f.sign = true) (rnd draw : Nat) (sat : Bool)
include h hsub1 hsub2 hexcl hneg

/-- A number that is a value of the format keeps it. -/
theorem Fmt.Float.encode_exact {c : Nat} {w : ℝ} (hc : c < 2 ^ f.w) (hw : Claim.finite f c w) (heq : signed neg v = w) :
    (f.place rnd sat neg (f.roundMag rnd draw neg x)).ovc = false ∧ Claim.finite f (f.place rnd sat neg (f.roundMag rnd draw neg x)).code w := by
  have hv := denotes_pos h
  obtain ⟨neg', base, -, htop, -, rfl⟩ := hf.finite_code hsub1 hc hw
  have habs : |signed neg v| = v := by cases neg <;> simp [signed, abs_of_pos hv]
  have hbase : v = f.mag base := by rw [← abs_signed neg' base, ← heq, habs]
  obtain ⟨-, -, hexact, -⟩ := hf.roundMag_between h hsub1 hsub2 rnd draw neg htop hbase.ge (hbase.trans_lt (f.mag_strictMono (Nat.lt_succ_self _)))
  obtain ⟨hovc, hfin, -⟩ := hf.place_finite hsub1 hexcl hneg htop rnd sat
  rw [hexact hbase, ← heq, hbase]
  exact ⟨hovc, hfin⟩

/-- The magnitudes around a number between adjacent finite values are those values (R83). -/
theorem Fmt.Float.adjacent_eq (hv : v ≤ f.mag f.top) {lo hi : ℝ} {cl ch : Nat} (hcl : cl < 2 ^ f.w) (hch : ch < 2 ^ f.w) (hlo : Claim.finite f cl lo)
    (hhi : Claim.finite f ch hi) (hlt : lo < signed neg v) (hgt : signed neg v < hi)
    (hadj : ∀ c w, c < 2 ^ f.w → Claim.finite f c w → w ≤ lo ∨ hi ≤ w) :
    ∃ base, base + 1 ≤ f.top ∧ f.mag base < v ∧ v < f.mag (base + 1) ∧
      if neg then lo = -f.mag (base + 1) ∧ hi = -f.mag base ∧ cl % 2 = (base + 1) % 2 else lo = f.mag base ∧ hi = f.mag (base + 1) ∧ cl % 2 = base % 2 := by
  have hvalue {c : Nat} (hc : c ≤ f.top) : signed neg (f.mag c) ≤ lo ∨ hi ≤ signed neg (f.mag c) :=
    hadj _ _ (hf.place_code_lt hneg hc 0 false) (hf.place_finite hsub1 hexcl hneg hc 0 false).2.1
  obtain ⟨base, hbase, hle, hnext⟩ := hf.exists_base h hsub1 hsub2 (hv.trans_lt (f.mag_strictMono (Nat.lt_succ_self _)))
  have hne : f.mag base ≠ v := fun heq => by
    have := hvalue hbase
    rw [heq] at this
    exact this.elim (fun h => absurd hlt (not_lt.mpr h)) fun h => absurd hgt (not_lt.mpr h)
  have hbelow := lt_of_le_of_ne hle hne
  have htop : base + 1 ≤ f.top := f.mag_strictMono.lt_iff_lt.mp (hbelow.trans_le hv)
  have hgap (c : Nat) : f.mag c ≤ f.mag base ∨ f.mag (base + 1) ≤ f.mag c := by
    rcases Nat.lt_or_ge base c with hc | hc
    · exact .inr (f.mag_strictMono.monotone hc)
    · exact .inl (f.mag_strictMono.monotone hc)
  obtain ⟨nl, c1, -, -, hpar, rfl⟩ := hf.finite_code hsub1 hcl hlo
  obtain ⟨nh, c2, -, -, -, rfl⟩ := hf.finite_code hsub1 hch hhi
  refine ⟨base, htop, hbelow, hnext, ?_⟩
  have hv1 := hvalue hbase
  have hv2 := hvalue htop
  have hb := f.mag_nonneg base
  have h1 := f.mag_nonneg c1
  have h2 := f.mag_nonneg c2
  cases neg with
  | false =>
    have hlow : signed nl (f.mag c1) = signed false (f.mag base) := by
      have hge := hv1.resolve_right fun hle => absurd (hgt.trans_le hle) hbelow.not_gt
      refine le_antisymm ?_ hge
      cases nl with
      | false => exact (hgap c1).resolve_right fun hk => absurd (hk.trans_lt hlt) hnext.not_gt
      | true => exact (neg_nonpos.mpr h1).trans hb
    have hhigh : signed nh (f.mag c2) = signed false (f.mag (base + 1)) := by
      have hle := hv2.resolve_left fun hge => absurd (hge.trans_lt hlt) hnext.not_gt
      refine le_antisymm hle ?_
      cases nh with
      | false => exact (hgap c2).resolve_left fun hg => absurd (hgt.trans_le hg) hbelow.not_gt
      | true => exact absurd (hgt.trans_le (neg_nonpos.mpr h2)) (hb.trans_lt hbelow).not_gt
    exact ⟨hlow, hhigh, by rw [hpar, mag_code_inj hlow]⟩
  | true =>
    have hlow : signed nl (f.mag c1) = signed true (f.mag (base + 1)) := by
      have hge := hv2.resolve_right fun hle => absurd (hgt.trans_le hle) (neg_lt_neg hnext).not_gt
      refine le_antisymm ?_ hge
      cases nl with
      | false => exact absurd (h1.trans_lt hlt) (neg_neg_of_pos (hb.trans_lt hbelow)).not_gt
      | true => exact neg_le_neg ((hgap c1).resolve_left fun hg => absurd (hbelow.trans (neg_lt_neg_iff.mp hlt)) hg.not_gt)
    have hhigh : signed nh (f.mag c2) = signed true (f.mag base) := by
      have hle := hv1.resolve_left fun hge => absurd (hge.trans_lt hlt) (neg_lt_neg hbelow).not_gt
      refine le_antisymm hle ?_
      cases nh with
      | false => exact (neg_nonpos.mpr hb).trans h2
      | true => exact neg_le_neg ((hgap c2).resolve_right fun hk => absurd ((neg_lt_neg_iff.mp hgt).trans hnext) hk.not_gt)
    exact ⟨hlow, hhigh, by rw [hpar, mag_code_inj hlow]⟩

/-- A number between adjacent finite values becomes one of them as R85 says. -/
theorem Fmt.Float.encode_between (hv : v ≤ f.mag f.top) {lo hi : ℝ} {cl ch : Nat} (hcl : cl < 2 ^ f.w) (hch : ch < 2 ^ f.w)
    (hlo : Claim.finite f cl lo) (hhi : Claim.finite f ch hi) (hlt : lo < signed neg v) (hgt : signed neg v < hi)
    (hadj : ∀ c w, c < 2 ^ f.w → Claim.finite f c w → w ≤ lo ∨ hi ≤ w) :
    (f.place rnd sat neg (f.roundMag rnd draw neg x)).ovc = false ∧ ∃ w, Claim.finite f (f.place rnd sat neg (f.roundMag rnd draw neg x)).code w ∧
      Claim.rounded rnd draw (signed neg v) lo hi (cl % 2 = 0) w ∧
      (w = 0 → (f.place rnd sat neg (f.roundMag rnd draw neg x)).code = if neg = true ∧ f.nan ≠ 3 then 2 ^ (f.w - 1) else 0) := by
  obtain ⟨base, htop, hbelow, hnext, hends⟩ := hf.adjacent_eq h hsub1 hsub2 hexcl hneg hv hcl hch hlo hhi hlt hgt hadj
  obtain ⟨-, hmax, -, hround⟩ := hf.roundMag_between h hsub1 hsub2 rnd draw neg (Nat.le_of_succ_le htop) hbelow.le hnext
  obtain ⟨hovc, hfin, hzero⟩ := hf.place_finite hsub1 hexcl hneg (hmax.trans htop) rnd sat
  refine ⟨hovc, _, hfin, ?_, hzero⟩
  have hto := hround hbelow.ne'
  cases neg with
  | false =>
    obtain ⟨rfl, rfl, hpar⟩ := hends
    rw [hpar]
    exact hto
  | true =>
    obtain ⟨rfl, rfl, hpar⟩ := hends
    have heven : (cl % 2 = 0) = ¬ (base % 2 = 0) := propext (by omega)
    rw [heven]
    exact hto

/-! ## Numbers above the largest finite value (R87) -/

/-- A number stays at the largest finite value where it is below the next step and rounds down to it. -/
theorem Fmt.Float.encode_above (hv : f.mag f.top < v) :
    let stays := v < f.mag (f.top + 1) ∧ RoundsTo rnd draw neg v (f.mag f.top) (f.mag (f.top + 1)) (f.top % 2 = 0) (signed neg (f.mag f.top))
    (stays → (f.place rnd sat neg (f.roundMag rnd draw neg x)).ovc = false ∧
      Claim.finite f (f.place rnd sat neg (f.roundMag rnd draw neg x)).code (signed neg (f.mag f.top))) ∧
    (¬ stays → f.place rnd sat neg (f.roundMag rnd draw neg x) = ⟨overflowCode f rnd sat neg, true⟩) := by
  intro stays
  constructor
  · rintro ⟨hlt, hdown⟩
    obtain ⟨-, -, -, hround⟩ := hf.roundMag_between h hsub1 hsub2 rnd draw neg le_rfl hv.le hlt
    have hcode := mag_code_inj ((hround hv.ne').unique (f.mag_nonneg _) (f.mag_strictMono (Nat.lt_succ_self _)) hdown)
    obtain ⟨hovc, hfin, -⟩ := hf.place_finite hsub1 hexcl hneg le_rfl rnd sat
    rw [hcode]
    exact ⟨hovc, hfin⟩
  · intro hover
    apply place_overflow
    by_cases hlt : v < f.mag (f.top + 1)
    · obtain ⟨hmin, -, -, hround⟩ := hf.roundMag_between h hsub1 hsub2 rnd draw neg le_rfl hv.le hlt
      refine lt_of_le_of_ne hmin fun heq => hover ⟨hlt, ?_⟩
      have := hround hv.ne'
      rwa [← heq] at this
    · exact hf.top_lt_roundMag h hsub1 hsub2 rnd draw neg (not_lt.mp hlt)

end

end

end Sys2Proof.Machine
end

section
/-! SUPPORT. Overflows, infinities, NaNs and zeros of a float format, and formats whose subnormals are zeros (R82, R86 to R88). -/

namespace Sys2Proof.Machine

section
variable {f : Fmt}

/-! ## Encoding by kinds -/

section
variable (rnd draw : Nat) (sat : Bool)

section
variable (hf : f.Float)
include hf

theorem Fmt.Float.not_isInt : ¬ f.isInt = true := by simp [Fmt.isInt, hf.kind]

theorem Fmt.Float.encodeVal_real (neg : Bool) (x : Mag) : encodeVal f rnd sat draw (.real neg x) = encodeFloat f rnd sat draw neg x :=
  if_neg hf.not_isInt

theorem Fmt.Float.encodeVal_zero (neg : Bool) : encodeVal f rnd sat draw (.zero neg) = ⟨f.zeroCode neg, false⟩ := if_neg hf.not_isInt

theorem Fmt.Float.encodeVal_nan : encodeVal f rnd sat draw .nan = if f.nan = 0 then ⟨0, true⟩ else ⟨f.nanCode, false⟩ := if_neg hf.not_isInt

theorem Fmt.Float.encodeVal_inf (neg : Bool) : encodeVal f rnd sat draw (.inf neg) =
    if neg && !f.sign then ⟨0, true⟩
    else if f.inf = 1 then ⟨f.infCode neg, false⟩
    else if f.inf = 2 ∨ sat = true ∨ f.ovf = true then ⟨f.signBit neg + f.top, true⟩
    else ⟨f.nanCode, true⟩ := if_neg hf.not_isInt

end

section
variable (hf : f.Whole)
include hf

theorem Fmt.Whole.isInt : f.isInt = true := by
  have hkind := hf.kind
  exact decide_eq_true (by omega)

theorem Fmt.Whole.encodeVal_real (neg : Bool) (x : Mag) :
    encodeVal f rnd sat draw (.real neg x) = encodeInt f sat (roundInt rnd draw neg x f.frac) := if_pos hf.isInt

theorem Fmt.Whole.encodeVal_zero (neg : Bool) : encodeVal f rnd sat draw (.zero neg) = ⟨0, false⟩ := if_pos hf.isInt

theorem Fmt.Whole.encodeVal_nan : encodeVal f rnd sat draw .nan = ⟨0, true⟩ := if_pos hf.isInt

theorem Fmt.Whole.encodeVal_inf (neg : Bool) :
    encodeVal f rnd sat draw (.inf neg) = ⟨f.wrap (if neg then f.minInt else f.maxInt), true⟩ := if_pos hf.isInt

end

end

/-- An overflow into a format with infinities keeps the largest value where the rounding is towards 0 on that side (R87). -/
theorem overflowCode_inf {sat : Bool} (hs : sat = false) (ho : f.ovf = false) (hi : f.inf = 1) (rnd : Nat) (neg : Bool) :
    overflowCode f rnd sat neg =
      if rnd = 1 ∨ (rnd = 2 ∧ neg = true) ∨ (rnd = 3 ∧ neg = false) then f.signBit neg + f.top else f.infCode neg := by
  unfold overflowCode
  rw [if_neg (by simp [hs, ho, hi]), if_pos hi]
  rcases rnd with _ | _ | _ | _ | n
  · exact (if_neg (by omega)).symm
  · exact (if_pos (by omega)).symm
  · cases neg
    · exact (if_neg (by simp)).symm
    · exact (if_pos (by simp)).symm
  · cases neg
    · exact (if_pos (by simp)).symm
    · exact (if_neg (by simp)).symm
  · exact (if_neg (by omega)).symm

variable (hf : f.Float)
include hf

/-! ## Special codes (R82, R88) -/

theorem Fmt.Float.decodeVal_nanCode (hnan : f.nan ≠ 0) : decodeVal f f.nanCode = .nan := by
  have hones : 2 ^ f.e - 1 < 2 ^ f.e := Nat.sub_lt (Nat.two_pow_pos _) one_pos
  have hlast : 2 ^ f.m - 1 < 2 ^ f.m := Nat.sub_lt (Nat.two_pow_pos _) one_pos
  obtain h | h | h : f.nan = 1 ∨ f.nan = 2 ∨ f.nan = 3 := by have := hf.nan; omega
  · obtain ⟨hm, -⟩ := hf.inf_fields (hf.inf_iff.mpr h)
    have hquiet : 2 ^ (f.m - 1) < 2 ^ f.m := Nat.pow_lt_pow_right one_lt_two (by omega)
    have hcode : f.nanCode = f.signBit false + ((2 ^ f.e - 1) * 2 ^ f.m + 2 ^ (f.m - 1)) := by simp [Fmt.nanCode, Fmt.signBit, h]
    rw [hcode, hf.decodeVal_signBit Bool.noConfusion hones hquiet, Fmt.decodeFields_nan (.inl ⟨h, rfl, (Nat.two_pow_pos _).ne'⟩)]
  · have hcode : f.nanCode = f.signBit false + ((2 ^ f.e - 1) * 2 ^ f.m + (2 ^ f.m - 1)) := by
      have : 2 ^ (f.e + f.m) - 1 = (2 ^ f.e - 1) * 2 ^ f.m + (2 ^ f.m - 1) := by
        have := Nat.two_pow_pos f.m
        have : 2 ^ f.m ≤ 2 ^ f.e * 2 ^ f.m := Nat.le_mul_of_pos_left _ (Nat.two_pow_pos _)
        rw [pow_add, Nat.sub_one_mul]
        omega
      simpa [Fmt.nanCode, Fmt.signBit, h] using this
    rw [hcode, hf.decodeVal_signBit Bool.noConfusion hones hlast, Fmt.decodeFields_nan (.inr (.inl ⟨h, rfl, rfl⟩))]
  · have hsign := hf.nan_sign h
    have hcode : f.nanCode = f.signBit true + (0 * 2 ^ f.m + 0) := by simp [Fmt.nanCode, Fmt.signBit, h, hsign]
    rw [hcode, hf.decodeVal_signBit (fun _ => hsign) (Nat.two_pow_pos _) (Nat.two_pow_pos _), Fmt.decodeFields_nan (.inr (.inr ⟨h, rfl, rfl, rfl⟩))]

section
variable {neg : Bool} (hneg : neg = true → f.sign = true)
include hneg

theorem Fmt.Float.decodeVal_infCode (hinf : f.inf = 1) : decodeVal f (f.infCode neg) = .inf neg := by
  have hones : 2 ^ f.e - 1 < 2 ^ f.e := Nat.sub_lt (Nat.two_pow_pos _) one_pos
  have hcode : f.infCode neg = f.signBit neg + ((2 ^ f.e - 1) * 2 ^ f.m + 0) := rfl
  rw [hcode, hf.decodeVal_signBit hneg hones (Nat.two_pow_pos _), hf.decodeFields_inf ⟨hinf, rfl, rfl⟩]

theorem Fmt.Float.largest_finite (hsub1 : f.sub ≠ 1) : Claim.finite f (f.signBit neg + f.top) (signed neg (f.mag f.top)) := by
  refine (hf.finite_iff hneg (top_lt_pow f) _).mpr ⟨⟨le_rfl, ?_⟩, by rw [if_neg (by omega)]⟩
  rintro ⟨hnan, -, hzero⟩
  have hones := Nat.pow_le_pow_right two_pos hf.exponent
  obtain ⟨h, -⟩ | ⟨h, -⟩ | ⟨h, -⟩ | ⟨-, -, htop⟩ := hf.top_cases
  · omega
  · omega
  · omega
  · have := Nat.mul_pos (show 0 < 2 ^ f.e - 1 by omega) (Nat.two_pow_pos f.m)
    rw [top_eq, htop] at hzero
    dsimp only at hzero
    omega

/-- What an overflow gives (R87). -/
theorem Fmt.Float.overflowCode_spec (hsub1 : f.sub ≠ 1) {rnd : Nat} (sat : Bool) :
    (sat = true ∨ f.ovf = true ∨ f.inf = 2 → Claim.finite f (overflowCode f rnd sat neg) (signed neg (f.mag f.top))) ∧
    (sat = false → f.ovf = false → f.inf = 1 → if rnd = 1 ∨ (rnd = 2 ∧ neg = true) ∨ (rnd = 3 ∧ neg = false) then
      Claim.finite f (overflowCode f rnd sat neg) (signed neg (f.mag f.top)) else decodeVal f (overflowCode f rnd sat neg) = .inf neg) ∧
    (sat = false → f.ovf = false → f.inf = 0 → decodeVal f (overflowCode f rnd sat neg) = .nan) := by
  have hlargest := hf.largest_finite hneg hsub1
  refine ⟨fun h => ?_, fun hs ho hi => ?_, fun hs ho hi => ?_⟩
  · have hcode : overflowCode f rnd sat neg = f.signBit neg + f.top := if_pos (by simpa [or_assoc] using h)
    rwa [hcode]
  · have hinf := hf.decodeVal_infCode hneg hi
    rw [overflowCode_inf hs ho hi]
    split
    · exact hlargest
    · exact hinf
  · have hcode : overflowCode f rnd sat neg = f.nanCode := by
      unfold overflowCode
      rw [if_neg (by simp [hs, ho, hi]), if_neg (by omega)]
    rw [hcode]
    exact hf.decodeVal_nanCode (hf.overflow ho hi)

end

/-! ## Below the smallest magnitude (R86) -/

section
variable {x : Mag} {v : ℝ} (h : Claim.denotes x v) {neg : Bool} (hneg : neg = true → f.sign = true) (rnd draw : Nat) (sat : Bool)
include h hneg

omit hf hneg in
/-- Where a format has no zero, a number below its smallest magnitude goes to that magnitude. -/
theorem roundMag_smallest (hsub2 : f.sub = 2) (hv : v < (2 : ℝ) ^ (-f.bias)) : f.roundMag rnd draw neg x = 0 := by
  have hbottom : f.bottom = -f.bias := if_pos hsub2
  have hlow : x.log < -f.bias := by
    have hle := ((denotes_iff x v).mp h).1
    exact (zpow_lt_zpow_iff_right₀ one_lt_two).mp (hle.trans_lt hv)
  have hmax : f.bottom ≤ f.topExp := le_max_right _ _
  rw [Fmt.roundMag, if_neg (by omega), if_pos ⟨hsub2, by omega⟩]

theorem Fmt.Float.encode_smallest (hsub2 : f.sub = 2) (hexcl : ¬ (f.nan = 3 ∧ f.sub = 2)) (hv : v < (2 : ℝ) ^ (-f.bias)) :
    f.place rnd sat neg (f.roundMag rnd draw neg x) = ⟨if neg then 2 ^ (f.w - 1) else 0, false⟩ ∧
    Claim.finite f (f.place rnd sat neg (f.roundMag rnd draw neg x)).code (signed neg (2 ^ (-f.bias))) := by
  obtain ⟨-, hfin, -⟩ := hf.place_finite (by omega) hexcl hneg (Nat.zero_le _) rnd sat
  have hmag : f.mag 0 = 2 ^ (-f.bias) := by rw [f.mag_zero, if_neg (by omega)]
  rw [roundMag_smallest h rnd draw hsub2 hv, ← hmag]
  refine ⟨?_, hfin⟩
  rw [Fmt.place, if_neg (Nat.not_lt_zero _), if_neg (by omega), if_neg (by omega), Nat.add_zero, signBit_eq hneg]

end

end

/-! ## Subnormals that are zeros (R86) -/

theorem Claim.finite_unique {f : Fmt} {c : Nat} {w w' : ℝ} (h : Claim.finite f c w) (h' : Claim.finite f c w') : w = w' := by
  obtain ⟨n, m, e, hfin, rfl⟩ := h
  obtain ⟨n', m', e', hfin', rfl⟩ := h'
  rw [hfin] at hfin'
  cases hfin'
  rfl

/-- The format that has the subnormals. -/
def Fmt.gradual (f : Fmt) : Fmt := { f with sub := 0 }

theorem Fmt.Float.gradual {f : Fmt} (hf : f.Float) : f.gradual.Float :=
  ⟨hf.kind, hf.width, hf.exponent, Nat.zero_le _, hf.inf, hf.nan, hf.inf_iff, hf.inf_fields, hf.nan_sign, hf.overflow⟩

section
variable {f : Fmt} (hsub : f.sub = 1)
include hsub

theorem roundMag_gradual (rnd draw : Nat) (neg : Bool) (x : Mag) : f.gradual.roundMag rnd draw neg x = f.roundMag rnd draw neg x := by
  have hbottom : f.gradual.bottom = f.bottom := by simp [Fmt.bottom, Fmt.gradual, hsub]
  have htop : f.gradual.topExp = f.topExp := by rw [Fmt.topExp, Fmt.topExp, hbottom]; rfl
  have hgrid : f.gradual.gridExp = f.gridExp := by funext; rw [Fmt.gridExp, Fmt.gridExp, hbottom, htop]
  unfold Fmt.roundMag
  rw [hbottom, htop, hgrid, if_neg (show ¬ (f.sub = 2 ∧ x.log < f.bottom) by omega), if_neg (show ¬ (f.gradual.sub = 2 ∧ x.log < f.bottom) from
    fun h => absurd h.1 (by simp [Fmt.gradual]))]
  rfl

/-- Below the normal numbers a format whose subnormals are zeros gives a zero, and else what the format with subnormals gives. -/
theorem place_gradual (rnd : Nat) (sat neg : Bool) (c : Nat) : f.place rnd sat neg c =
    if (f.gradual.place rnd sat neg c).ovc = false ∧ c < 2 ^ f.m then ⟨f.zeroCode neg, false⟩ else f.gradual.place rnd sat neg c := by
  have hpos := Nat.two_pow_pos f.m
  have hsub0 : f.gradual.sub = 0 := rfl
  by_cases hover : f.top < c
  · rw [place_overflow hover, place_overflow (f := f.gradual) hover, if_neg (by simp)]
    rfl
  · by_cases hlow : c < 2 ^ f.m
    · have hovc : (f.gradual.place rnd sat neg c).ovc = false := by
        rw [Fmt.place, if_neg (show ¬ f.gradual.top < c from hover), if_neg (by omega)]
        split <;> rfl
      rw [if_pos ⟨hovc, hlow⟩, Fmt.place, if_neg hover, if_pos ⟨hsub, hlow⟩]
    · rw [if_neg fun h => hlow h.2, Fmt.place, Fmt.place, if_neg hover, if_neg (show ¬ f.gradual.top < c from hover), if_neg (fun h => hlow h.2),
        if_neg (by omega), if_neg (by omega), if_neg (by omega)]
      rfl

/-- A format whose subnormals are zeros flushes the values below 2^(1-B) that the format with subnormals gives. -/
theorem Fmt.Float.encode_flush (hf : f.Float) {neg : Bool} (hneg : neg = true → f.sign = true) (rnd draw : Nat) (sat : Bool) (x : Mag) {w : ℝ}
    (hk : (f.gradual.place rnd sat neg (f.gradual.roundMag rnd draw neg x)).ovc = true ∨
      Claim.finite f.gradual (f.gradual.place rnd sat neg (f.gradual.roundMag rnd draw neg x)).code w) :
    f.place rnd sat neg (f.roundMag rnd draw neg x) =
      if (f.gradual.place rnd sat neg (f.gradual.roundMag rnd draw neg x)).ovc = false ∧ |w| < (2 : ℝ) ^ (1 - f.bias) then
        ⟨if neg = true ∧ f.nan ≠ 3 then 2 ^ (f.w - 1) else 0, false⟩
      else f.gradual.place rnd sat neg (f.gradual.roundMag rnd draw neg x) := by
  rw [roundMag_gradual hsub, place_gradual hsub, zeroCode_eq hneg (by omega)]
  rw [roundMag_gradual hsub] at hk
  generalize f.roundMag rnd draw neg x = c at *
  by_cases hover : f.top < c
  · have hplace := place_overflow (f := f.gradual) hover rnd sat neg
    rw [hplace, if_neg (by simp), if_neg (by simp)]
  · obtain ⟨hovc, hfin, -⟩ := hf.gradual.place_finite (by simp [Fmt.gradual]) (by simp [Fmt.gradual]) hneg (not_lt.mp hover) rnd sat
    have hw : |w| = f.gradual.mag c := by
      rw [Claim.finite_unique (hk.resolve_left (by simp [hovc])) hfin, abs_signed]
    have hnormal : f.gradual.mag (2 ^ f.m) = 2 ^ (1 - f.bias) := by
      have hfields := f.gradual.mag_fields (x := 1) (fr := 0) (Nat.two_pow_pos _)
      have hspacing : f.gradual.spacing 1 = 1 - f.bias - f.m := rfl
      rw [one_mul, if_neg (by omega), hspacing, zpow_sub₀ two_ne_zero _ (f.m : Int), zpow_natCast] at hfields
      have hm : f.gradual.m = f.m := rfl
      rw [hm, Nat.add_zero, Nat.cast_pow, Nat.cast_ofNat, mul_div_cancel₀ _ (pow_ne_zero _ two_ne_zero)] at hfields
      exact hfields
    have hlow : |w| < (2 : ℝ) ^ (1 - f.bias) ↔ c < 2 ^ f.m := by rw [hw, ← hnormal, f.gradual.mag_strictMono.lt_iff_lt]
    simp only [hlow]

end

end Sys2Proof.Machine
end

section
/-! SUPPORT. O13: each kind's encoding (R83, R85 to R88). -/

namespace Sys2Proof.Machine

/-- Rounding and encoding into an integer kind. -/
theorem Fmt.Whole.encode_real {f : Fmt} (hf : f.Whole) {x : Mag} {v : ℝ} (h : Claim.denotes x v) {neg : Bool} (rnd draw : Nat) (sat : Bool) : ∃ i : Int, (∀ k : Int, signed neg v * 2 ^ f.frac = k → i = k) ∧
    (∀ k : Int, (k : ℝ) < signed neg v * 2 ^ f.frac → signed neg v * 2 ^ f.frac < k + 1 →
      Claim.rounded rnd draw (signed neg v * 2 ^ f.frac) k (k + 1) (k % 2 = 0) i) ∧
    ((Claim.intRange f).1 ≤ i ∧ i ≤ (Claim.intRange f).2 → encodeVal f rnd sat draw (.real neg x) = ⟨(i % 2 ^ f.w).toNat, false⟩) ∧
    (¬ ((Claim.intRange f).1 ≤ i ∧ i ≤ (Claim.intRange f).2) → encodeVal f rnd sat draw (.real neg x) =
      ⟨if sat = true ∨ f.ovf = true then ((if i < (Claim.intRange f).1 then (Claim.intRange f).1 else (Claim.intRange f).2) % 2 ^ f.w).toNat
        else (i % 2 ^ f.w).toNat, true⟩) := by
  obtain ⟨hwhole, hbetween⟩ := roundInt_spec h rnd draw neg f.frac
  obtain ⟨hfits, hout⟩ := hf.encodeInt_eq sat (roundInt rnd draw neg x f.frac)
  simp only [Fmt.wrap_eq] at hfits hout
  refine ⟨_, hwhole, hbetween, ?_⟩
  rw [hf.encodeVal_real]
  exact ⟨hfits, hout⟩

/-! ## Zeros, infinities and NaNs (R86 to R88) -/

theorem Fmt.Whole.encode_special {f : Fmt} (hf : f.Whole) (rnd draw : Nat) (sat neg : Bool) :
    encodeVal f rnd sat draw (.zero neg) = ⟨0, false⟩ ∧ encodeVal f rnd sat draw .nan = ⟨0, true⟩ ∧
    encodeVal f rnd sat draw (.inf neg) = ⟨((if neg then (Claim.intRange f).1 else (Claim.intRange f).2) % 2 ^ f.w).toNat, true⟩ := by
  rw [hf.intRange_eq, ← Fmt.wrap_eq]
  exact ⟨hf.encodeVal_zero rnd draw sat neg, hf.encodeVal_nan rnd draw sat, hf.encodeVal_inf rnd draw sat neg⟩

section
variable {f : Fmt} (hf : f.Float) (rnd draw : Nat) (sat : Bool)
include hf

theorem Fmt.Float.encode_zero (hexcl : ¬ (f.nan = 3 ∧ f.sub = 2)) (neg : Bool) : encodeVal f rnd sat draw (.zero neg) =
    ⟨if neg = true ∧ f.sign = true ∧ f.nan ≠ 3 then 2 ^ (f.w - 1) else 0, false⟩ := by
  have hcode : f.zeroCode neg = if neg = true ∧ f.sign = true ∧ f.nan ≠ 3 then 2 ^ (f.w - 1) else 0 := by
    by_cases hnan : f.nan = 3
    · rw [Fmt.zeroCode, if_neg fun hs => hexcl ⟨hnan, hs⟩, if_pos hnan, if_neg fun h => h.2.2 hnan]
    · rw [Fmt.zeroCode, if_neg hnan, ite_self]
      simp [Fmt.signBit, hnan]
  rw [hf.encodeVal_zero, hcode]

theorem Fmt.Float.encode_nan : (f.nan = 0 → encodeVal f rnd sat draw .nan = ⟨0, true⟩) ∧
    (f.nan ≠ 0 → decodeVal f (encodeVal f rnd sat draw .nan).code = .nan ∧ encodeVal f rnd sat draw .nan = ⟨f.nanCode, false⟩) := by
  rw [hf.encodeVal_nan]
  refine ⟨fun h => if_pos h, fun h => ?_⟩
  rw [if_neg h]
  exact ⟨hf.decodeVal_nanCode h, rfl⟩

theorem Fmt.Float.encode_inf_unsigned (hsign : f.sign = false) : encodeVal f rnd sat draw (.inf true) = ⟨0, true⟩ := by
  rw [hf.encodeVal_inf]
  exact if_pos (by simp [hsign])

theorem Fmt.Float.encode_inf {neg : Bool} (hneg : neg = true → f.sign = true) :
    (f.inf = 1 → decodeVal f (encodeVal f rnd sat draw (.inf neg)).code = .inf neg ∧ (encodeVal f rnd sat draw (.inf neg)).ovc = false) ∧
    (f.inf ≠ 1 → (encodeVal f rnd sat draw (.inf neg)).ovc = true ∧
      (f.inf = 2 ∨ sat = true ∨ f.ovf = true → f.sub ≠ 1 →
        Claim.finite f (encodeVal f rnd sat draw (.inf neg)).code (signed neg (f.mag f.top))) ∧
      (f.inf = 0 → sat = false → f.ovf = false → decodeVal f (encodeVal f rnd sat draw (.inf neg)).code = .nan)) := by
  have hsign : ¬ (neg && !f.sign) = true := by cases neg <;> simp_all
  rw [hf.encodeVal_inf, if_neg hsign]
  refine ⟨fun hi => ?_, fun hi => ?_⟩
  · rw [if_pos hi]
    exact ⟨hf.decodeVal_infCode hneg hi, rfl⟩
  · rw [if_neg hi]
    refine ⟨by split <;> rfl, fun hl hsub1 => ?_, fun h0 hs ho => ?_⟩
    · rw [if_pos hl]
      exact hf.largest_finite hneg hsub1
    · rw [if_neg (by simp [h0, hs, ho])]
      exact hf.decodeVal_nanCode (hf.overflow ho h0)

end

/-- Settles O13: an encoding is a rounding to a magnitude code on the format's grid (`roundMag_spec`) and the code that stands for it
(`place_finite`, `overflowCode_spec`), in terms of the values of codes. -/
theorem rounding : Obligations.Rounding := by
  intro d rnd draw sat neg x v hvalid _ _ hx hexcl f y r gives lim fits wrap field L U even least signedL
  have hmagtop : L = f.mag f.top := (mag_top f).symm
  have hmagnext : L + U = f.mag (f.top + 1) := by rw [mag_top_succ, hmagtop]; rfl
  have hsignedL (e : Enc) : signedL e ↔ Claim.finite f e.code (signed neg (f.mag f.top)) := by
    rw [← hmagtop]
    cases neg <;> exact Iff.rfl
  have hreal (hk : f.kind = 0) (hneg : neg = true → f.sign = true) : r = f.place rnd sat neg (f.roundMag rnd draw neg x) := by
    rw [← encodeFloat_eq hneg]
    exact (fmtOf_float hvalid hk).encodeVal_real rnd draw sat neg x
  refine ⟨fun hk => (fmtOf_whole hvalid hk).encode_real hx rnd draw sat, ?_, ?_, ?_, ?_, ?_⟩
  · intro hk hneg hsign
    subst hneg
    exact ((fmtOf_float hvalid hk).encodeVal_real rnd draw sat true x).trans (encodeFloat_unsigned hsign rnd draw sat x)
  · intro hk hsub w hneg k hw
    have hk' : k = f.gradual.place rnd sat neg (f.gradual.roundMag rnd draw neg x) := by
      rw [← encodeFloat_eq (f := f.gradual) hneg]
      exact (fmtOf_float hvalid hk).gradual.encodeVal_real rnd draw sat neg x
    have hflush := (fmtOf_float hvalid hk).encode_flush hsub hneg rnd draw sat x (w := w) (hk' ▸ hw)
    rw [hreal hk hneg, hflush, hk']
    cases neg <;> rfl
  · intro hk hsub2 hneg hv
    obtain ⟨hcode, hfin⟩ := (fmtOf_float hvalid hk).encode_smallest hx hneg rnd draw sat hsub2 hexcl hv
    rw [hreal hk hneg]
    exact ⟨hcode, by cases neg <;> exact hfin⟩
  · intro hk hsub1 hneg hsub2
    rw [hreal hk hneg]
    refine ⟨fun hv => ?_, ?_⟩
    · rw [hmagtop] at hv
      refine ⟨fun w c hc hw heq => (fmtOf_float hvalid hk).encode_exact hx hsub1 hsub2 hexcl hneg rnd draw sat hc hw heq, ?_⟩
      intro lo hi cl ch hcl hch hlo hhi hlt hgt hadj
      obtain ⟨hovc, w, hfin, hround, hzero⟩ :=
        (fmtOf_float hvalid hk).encode_between hx hsub1 hsub2 hexcl hneg rnd draw sat hv hcl hch hlo hhi hlt hgt hadj
      refine ⟨hovc, w, hfin, hround, fun hw => ?_⟩
      rw [hzero hw]
      cases neg <;> rfl
    · intro hv stays
      rw [hmagtop] at hv
      obtain ⟨hstays, hover⟩ := (fmtOf_float hvalid hk).encode_above hx hsub1 hsub2 hexcl hneg rnd draw sat hv
      have hiff : stays ↔ v < f.mag (f.top + 1) ∧
          RoundsTo rnd draw neg v (f.mag f.top) (f.mag (f.top + 1)) (f.top % 2 = 0) (signed neg (f.mag f.top)) := by
        dsimp only [stays]
        rw [hmagnext, hmagtop]
        cases neg <;> exact Iff.rfl
      simp only [hsignedL]
      rw [hiff]
      refine ⟨hstays, fun hnot => ?_⟩
      rw [hover hnot]
      exact ⟨rfl, (fmtOf_float hvalid hk).overflowCode_spec hneg hsub1 sat⟩
  · intro z i n
    refine ⟨fun hk => (fmtOf_whole hvalid hk).encode_special rnd draw sat neg, fun hk => ?_⟩
    have hf := fmtOf_float hvalid hk
    obtain ⟨hnan0, hnan⟩ := hf.encode_nan rnd draw sat
    refine ⟨?_, hnan0, hnan, fun hneg hsign => hneg ▸ hf.encode_inf_unsigned rnd draw sat hsign, fun hneg => ?_⟩
    · dsimp only [z]
      rw [hf.encode_zero rnd draw sat hexcl neg]
      cases neg <;> rfl
    · simp only [hsignedL]
      exact hf.encode_inf rnd draw sat hneg

end Sys2Proof.Machine
end

section
/-! SUPPORT. Cross-lane data (R152 to R159): what the cross-lane moves, VPACK and VUNPK leave in their lanes and in the cond window, and what VTOS
leaves in its scalar register. -/

namespace Sys2Proof.Machine

/-! ## The cond window written from lane values (R117) -/

/-- The cond words after words of the cond window were stored. -/
theorem Team.rs_pokeCond (g : Nat → Word) (bs : List Nat) (t : Team) (b : Nat) :
    (bs.foldl (fun t b => t.pokeS (192 + b) (g b)) t).rs (192 + b) = if b ∈ bs then g b else t.rs (192 + b) := by
  induction bs generalizing t with
  | nil => rfl
  | cons a bs ih =>
    rw [List.foldl_cons, ih, Team.rs_pokeS]
    by_cases hab : b = a
    · simp [hab]
    · simp [hab]

/-- The cond bit of a lane after `Team.condLanes`: the bit that the lane is given, 0 where it is poisoned, else what it was. -/
def Team.condBit (t : Team) (f : Nat → Option (Except Word Bool)) (l : Nat) : Bool :=
  match f l with
  | some (.ok c) => c
  | some (.error _) => false
  | none => t.cond l

theorem Team.cond_condLanes (t : Team) (f : Nat → Option (Except Word Bool)) {l : Nat} (hl : l < t.lanes) :
    (t.condLanes f).cond l = t.condBit f l := by
  have hb : l / 32 < t.beats := by unfold Team.lanes at hl; omega
  have hword : (t.condLanes f).rs (192 + l / 32) = _ := (Team.rs_pokeCond _ _ t _).trans (if_pos (List.mem_range.mpr hb))
  rw [Team.cond, hword]
  refine (maskBit_maskOf t.beats _ l hl).trans ?_
  rw [show maskBit t.condWindow l = t.cond l from t.maskBit_window 192 hl]
  rfl

/-- The move of the PC leaves the cond window. -/
theorem Team.advance_cond (t : Team) (l : Nat) : t.advance.cond l = t.cond l := by rw [Team.cond, Team.cond, Team.rs_advance]

theorem Team.cond_lastUse (t : Team) (ms : List (Nat × Bool)) (l : Nat) : (t.lastUse ms).cond l = t.cond l := by
  rw [Team.cond, Team.cond, Team.lastUse_rs]

/-! ## What a cross-lane result leaves in its lane (R152) -/

/-- A lane of vd and its cond bit after a cross-lane result: no value keeps data and tag, a word comes with the cond bit, a token poisons the
lane and its cond bit. -/
def Team.Received (t t' : Team) (vd l : Nat) : Option (Except Word Word) × Bool → Prop
  | (none, c) => (t'.lane vd l).data = (t.lane vd l).data ∧ (t'.lane vd l).tag = (t.lane vd l).tag ∧ t'.cond l = c ∧
      maskBit t'.ctl.cpois l = false
  | (some (.ok w), c) => t'.lane vd l = laneOf (.ok w) ∧ t'.cond l = c ∧ maskBit t'.ctl.cpois l = false
  | (some (.error k), _) => t'.lane vd l = laneOf (.error k) ∧ maskBit t'.ctl.cpois l = true

/-- A team after a cross-lane instruction: each active lane received its result, a lane that is not active keeps vd and its cond bit. -/
def Team.Crossed (t : Team) (vd : Nat) (r : Nat → Option (Except Word Word) × Bool) (t' : Team) : Prop :=
  ∀ l, l < t.lanes → (t.active l = false → t'.lane vd l = t.lane vd l ∧ t'.cond l = t.cond l) ∧
    (t.active l = true → t.Received t' vd l (r l))

/-- The lanes that a cross-lane instruction writes. -/
def Team.crossWrite (t : Team) (r : Nat → Option (Except Word Word) × Bool) (l : Nat) : Option Lane :=
  if t.active l then (r l).1.map laneOf else none

/-- What a cross-lane instruction gives the cond window. -/
def Team.crossCond (t : Team) (r : Nat → Option (Except Word Word) × Bool) (l : Nat) : Option (Except Word Bool) :=
  if t.active l then
    match (r l).1 with
    | some (.error k) => some (.error k)
    | _ => some (.ok (r l).2)
  else none

section
variable {s : State} {slot : Nat} {t : Team} {i : Instr} {vd : Nat} {ms : List (Nat × Bool)}

/-- The team that a cross-lane instruction leaves: last-use marks, the lanes, the cond window and the next PC. -/
theorem Team.crossed_writes (r : Nat → Option (Except Word Word) × Bool) :
    t.Crossed vd r (((t.lastUse ms).wv vd (t.crossWrite r)).condLanes (t.crossCond r)).advance := by
  intro l hl
  have hl' : l < (t.lastUse ms).lanes := (t.lanes_lastUse ms).symm ▸ hl
  set u := (t.lastUse ms).wv vd (t.crossWrite r)
  set t' := (u.condLanes (t.crossCond r)).advance
  have hlane : t'.lane vd l = (t.crossWrite r l).getD ((t.lastUse ms).lane vd l) := by
    rw [Team.lane_advance, Team.lane_regs (u.condLanes_regs_v _).1, Team.lane_wv _ _ _ _ _ hl', if_pos rfl]
  have hcond : t'.cond l = u.condBit (t.crossCond r) l := (Team.advance_cond _ l).trans (u.cond_condLanes _ hl')
  have hpois : maskBit t'.ctl.cpois l = u.condPoison (t.crossCond r) l :=
    (congrArg (maskBit · l) (Team.advance_tokens _).1).trans (Team.maskBit_condLanes hl')
  simp only [Team.condBit, Team.condPoison, Team.crossWrite, Team.crossCond] at hlane hcond hpois
  refine ⟨fun ha => ?_, fun ha => ?_⟩
  · simp only [ha, Bool.false_eq_true, if_false] at hlane hcond
    exact ⟨hlane.trans (t.lane_lastUse_inactive ms vd l hl ha), hcond.trans (t.cond_lastUse ms l)⟩
  · simp only [ha, if_true] at hlane hcond hpois
    rcases hr : r l with ⟨_ | k | w, c⟩
    · obtain ⟨hdata, htag⟩ := t.lane_lastUse ms vd l hl
      simp only [hr] at hlane hcond hpois
      exact ⟨hlane ▸ hdata, hlane ▸ htag, hcond, hpois⟩
    · simp only [hr] at hlane hpois
      exact ⟨hlane, hpois⟩
    · simp only [hr] at hlane hcond hpois
      exact ⟨hlane, hcond, hpois⟩

theorem crossInstr_crossed {keep : Bool} {f : Team → Nat → Option (Except Word Word) × Bool} (h : Runs s slot t i) :
    Leaves (crossInstr i s vd keep ms f) slot (t.Crossed vd (f t)) := by
  rw [crossInstr, issue_runs h]
  exact State.done_leaves (Team.crossed_writes (f t))

end

/-! ## The source lane of a cross-lane move (R152 to R155) -/

theorem moveFrom_none {t : Team} {va : Nat} {x : Option Nat} (h : ∀ n, x = some n → t.active n = false) :
    moveFrom t va (.ok x) = (none, false) := by
  cases x with
  | none => rfl
  | some n => simp [moveFrom, fromLane, h n rfl]

theorem moveFrom_some {t : Team} {n : Nat} (va : Nat) (h : t.active n = true) : moveFrom t va (.ok (some n)) = (some (t.rv va n), true) := by
  simp [moveFrom, fromLane, h]

/-- What a lane received from an active source lane. -/
theorem Team.Received.of_move {t t' : Team} {vd l : Nat} {x : Except Word Word} (h : t.Received t' vd l (some x, true)) :
    t'.lane vd l = laneOf x ∧ (∀ w, x = .ok w → t'.cond l = true ∧ maskBit t'.ctl.cpois l = false) ∧
      (∀ k, x = .error k → maskBit t'.ctl.cpois l = true) := by
  cases x with
  | error k =>
    obtain ⟨hlane, hpois⟩ := h
    exact ⟨hlane, nofun, fun _ _ => hpois⟩
  | ok w =>
    obtain ⟨hlane, hcond, hpois⟩ := h
    exact ⟨hlane, fun _ _ => ⟨hcond, hpois⟩, nofun⟩

/-- A cross-lane move leaves in each active lane what its source lane gives. -/
theorem exec_move {i : Instr} {s : State} {slot : Nat} {t : Team} {vd va : VReg} {src : Nat → Except Word (Option Nat)} (h : Runs s slot t i)
    (hsrc : ∀ l, Claim.crossSource t l i = some (vd, va, src l)) :
    Leaves (exec i s) slot (t.Crossed vd.toNat fun l => moveFrom t va.toNat (src l)) := by
  obtain ⟨keep, ms, f, hexec, hf⟩ := exec_crossSource (s := s) hsrc
  rw [hexec, ← funext hf]
  exact crossInstr_crossed h

/-! ## Sub-elements of a word (R156, R157) -/

/-- A number put together of n fields of w bits lies below 2^(n·w). -/
theorem sumFields_lt (p : Nat → Nat) (n w : Nat) : ((List.range n).map fun q => p q % 2 ^ w * 2 ^ (q * w)).sum < 2 ^ (n * w) := by
  induction n with
  | zero => simp
  | succ n ih =>
    rw [List.range_succ, List.map_append, List.sum_append, List.map_singleton, List.sum_singleton]
    have hfield : p n % 2 ^ w + 1 ≤ 2 ^ w := Nat.mod_lt _ (Nat.two_pow_pos w)
    calc _ < 2 ^ (n * w) + p n % 2 ^ w * 2 ^ (n * w) := Nat.add_lt_add_right ih _
      _ = (p n % 2 ^ w + 1) * 2 ^ (n * w) := by ring
      _ ≤ 2 ^ w * 2 ^ (n * w) := Nat.mul_le_mul_right _ hfield
      _ = 2 ^ ((n + 1) * w) := by rw [← pow_add]; ring_nf

/-- Bit b of a number put together of n fields of w bits is bit b mod w of field b / w. -/
theorem testBit_sumFields (p : Nat → Nat) (n : Nat) {w : Nat} (hw : 0 < w) (b : Nat) :
    ((List.range n).map fun q => p q % 2 ^ w * 2 ^ (q * w)).sum.testBit b = (decide (b / w < n) && (p (b / w)).testBit (b % w)) := by
  induction n with
  | zero => simp
  | succ n ih =>
    rw [List.range_succ, List.map_append, List.sum_append, List.map_singleton, List.sum_singleton, Nat.add_comm, Nat.mul_comm,
      Nat.testBit_two_pow_mul_add _ (sumFields_lt p n w), Nat.testBit_mod_two_pow, ih]
    by_cases hlow : b < n * w
    · have hq : b / w < n := (Nat.div_lt_iff_lt_mul hw).mpr hlow
      rw [if_pos hlow, decide_eq_true hq, decide_eq_true (Nat.lt_succ_of_lt hq)]
    · rw [if_neg hlow]
      have hq : ¬ b / w < n := fun h => hlow ((Nat.div_lt_iff_lt_mul hw).mp h)
      by_cases heq : b / w = n
      · have hmod : b - n * w = b % w := by rw [← heq, Nat.mod_eq_sub_div_mul]
        rw [hmod, heq, decide_eq_true (Nat.mod_lt b hw), decide_eq_true (Nat.lt_succ_self n)]
      · have hhigh : ¬ b - n * w < w := by
          intro h
          refine heq ((Nat.div_eq_iff hw).mpr ?_)
          omega
        rw [decide_eq_false hhigh, decide_eq_false (by omega)]
        rfl

/-! ## The first token of values read one after another (R10) -/

section
variable {α β : Type} {g : α → Except Word β} {k : Word}

theorem mapM_of_ok {x : α → β} {as : List α} (h : ∀ a ∈ as, g a = .ok (x a)) : as.mapM g = .ok (as.map x) := by
  induction as with
  | nil => rfl
  | cons a as ih =>
    obtain ⟨ha, has⟩ := List.forall_mem_cons.mp h
    rw [List.mapM_cons, ha, ih has]
    rfl

theorem mapM_of_error {as bs : List α} {a : α} (h : ∀ b ∈ as, ∃ x, g b = .ok x) (ha : g a = .error k) :
    (as ++ a :: bs).mapM g = .error k := by
  induction as with
  | nil => rw [List.nil_append, List.mapM_cons, ha]; rfl
  | cons b as ih =>
    obtain ⟨⟨x, hb⟩, has⟩ := List.forall_mem_cons.mp h
    rw [List.cons_append, List.mapM_cons, hb, ih has]
    rfl

end

/-! ## The container of a lane packed from sub-elements (R156, R178) -/

/-- The number of a container: sub-elements where they are given, else the bits of the old container; the first token where one is poisoned. -/
def packNumber (n w : Nat) (f : Nat → Option (Except Word Nat)) (old : Except Word Nat) : Except Word Nat :=
  ((List.range n).mapM fun q => (f q).getD (.ok 0)).bind fun ps =>
    (if (List.range n).all fun q => (f q).isSome then .ok 0 else old).map fun o =>
      (((List.range n).zip ps).map fun p => ((if (f p.1).isSome then p.2 else o / 2 ^ (p.1 * w)) % 2 ^ w) * 2 ^ (p.1 * w)).sum

section
variable {n w : Nat} {f : Nat → Option (Except Word Nat)} {old : Except Word Nat}

theorem packLanes_none (h : ∀ q, q < n → f q = none) : packLanes n w f old = (none, false) := by
  refine if_pos ?_
  simpa [List.all_eq_true] using h

theorem packLanes_some (h : ∃ q, q < n ∧ f q ≠ none) :
    packLanes n w f old = (some (packNumber n w f old), (List.range n).all fun q => (f q).isSome) := by
  refine if_neg ?_
  simpa [List.all_eq_true] using h

/-- The sub-elements that are read where none of them is poisoned. -/
theorem packParts_of_ok {x : Nat → Nat} (hx : ∀ q, q < n → f q ≠ none → f q = some (.ok (x q))) :
    ((List.range n).mapM fun q => (f q).getD (.ok 0)) = .ok ((List.range n).map fun q => if f q = none then 0 else x q) := by
  refine mapM_of_ok fun q hq => ?_
  by_cases hnone : f q = none
  · rw [if_pos hnone, hnone]
    rfl
  · rw [if_neg hnone, hx q (List.mem_range.mp hq) hnone]
    rfl

theorem all_isSome_iff : ((List.range n).all fun q => (f q).isSome) = true ↔ ∀ q, q < n → f q ≠ none := by
  simp [List.all_eq_true, Option.isSome_iff_ne_none]

theorem not_all_isSome (hmiss : ∃ q, q < n ∧ f q = none) : ¬ ((List.range n).all fun q => (f q).isSome) = true := by
  obtain ⟨q, hq, hnone⟩ := hmiss
  exact fun h => all_isSome_iff.mp h q hq hnone

/-- The old container is read where a sub-element is missing, and only there. -/
theorem packOld_of_ok {d : Nat} (hd : (∃ q, q < n ∧ f q = none) → old = .ok d) :
    ∃ o, (if (List.range n).all fun q => (f q).isSome then .ok 0 else old) = .ok o ∧ ∀ q, q < n → f q = none → o = d := by
  by_cases hmiss : ∃ q, q < n ∧ f q = none
  · exact ⟨d, (if_neg (not_all_isSome hmiss)).trans (hd hmiss), fun _ _ _ => rfl⟩
  · push Not at hmiss
    exact ⟨0, if_pos (all_isSome_iff.mpr hmiss), fun q hq hnone => absurd hnone (hmiss q hq)⟩

/-- The number where no contributor is poisoned, bit by bit. -/
theorem packNumber_of_ok {x : Nat → Nat} {d : Nat} (hw : 0 < w) (hx : ∀ q, q < n → f q ≠ none → f q = some (.ok (x q)))
    (hd : (∃ q, q < n ∧ f q = none) → old = .ok d) : ∃ m, packNumber n w f old = .ok m ∧ ∀ b, m.testBit b =
      (decide (b / w < n) && if f (b / w) = none then d.testBit b else (x (b / w)).testBit (b % w)) := by
  obtain ⟨o, ho, hod⟩ := packOld_of_ok hd
  have hzip (part : Nat → Nat) : (List.range n).zip ((List.range n).map part) = (List.range n).map fun q => (q, part q) := by
    simpa using List.zip_map' (f := id) (g := part) (l := List.range n)
  refine ⟨_, by rw [packNumber, packParts_of_ok hx, ho]; rfl, fun b => ?_⟩
  dsimp only
  rw [hzip, List.map_map]
  refine (testBit_sumFields (fun q => if (f q).isSome then (if f q = none then 0 else x q) else o / 2 ^ (q * w)) n hw b).trans ?_
  by_cases hq : b / w < n
  · by_cases hnone : f (b / w) = none
    · rw [hnone, hod _ hq hnone, if_neg (by simp), if_pos rfl, ← Nat.shiftRight_eq_div_pow, Nat.testBit_shiftRight, Nat.div_add_mod']
    · rw [if_pos (Option.isSome_iff_ne_none.mpr hnone), if_neg hnone, if_neg hnone]
  · rw [decide_eq_false hq, Bool.false_and, Bool.false_and]

/-- The first poisoned sub-element gives the token. -/
theorem packNumber_of_error {q : Nat} {k : Word} (hq : q < n) (hk : f q = some (.error k))
    (hbefore : ∀ p, p < q → f p ≠ none → ∃ x, f p = some (.ok x)) : packNumber n w f old = .error k := by
  obtain ⟨m, rfl⟩ := Nat.exists_eq_add_of_lt hq
  have hsplit : List.range (q + m + 1) = List.range q ++ q :: (List.range m).map fun j => q + (j + 1) := by
    rw [Nat.add_assoc, List.range_add, List.range_succ_eq_map, List.map_cons, List.map_map]
    rfl
  have hparts : ((List.range (q + m + 1)).mapM fun q => (f q).getD (.ok 0)) = .error k := by
    rw [hsplit]
    refine mapM_of_error (fun p hp => ?_) (by rw [hk]; rfl)
    by_cases hnone : f p = none
    · exact ⟨0, by rw [hnone]; rfl⟩
    · obtain ⟨x, hx⟩ := hbefore p (List.mem_range.mp hp) hnone
      exact ⟨x, by rw [hx]; rfl⟩
  rw [packNumber, hparts]
  rfl

/-- A poisoned old container gives its token where no sub-element is poisoned and one is missing. -/
theorem packNumber_of_old_error {x : Nat → Nat} {k : Word} (hx : ∀ q, q < n → f q ≠ none → f q = some (.ok (x q)))
    (hmiss : ∃ q, q < n ∧ f q = none) (hk : old = .error k) : packNumber n w f old = .error k := by
  rw [packNumber, packParts_of_ok hx, if_neg (not_all_isSome hmiss), hk]
  rfl

end
/-! ## VPACK and VUNPK (R156, R157) -/

section
variable {s : State} {slot : Nat} {t t' : Team} {vd va : VReg} {la lb keep sx : Bool} {w7 : BitVec 7} {w6 : BitVec 6} {j l : Nat}

/-- The sub-element that VPACK takes for position q of lane j, where its source lane is active. -/
def Team.packPart (t : Team) (va : VReg) (n j q : Nat) : Option (Except Word Nat) :=
  if t.active (j * n + q) then some ((t.rv va.toNat (j * n + q)).map BitVec.toNat) else none

/-- What VPACK gives lane j. -/
def Team.packed (t : Team) (vd va : VReg) (w : Nat) (j : Nat) : Option (Except Word Word) × Bool :=
  let r := packLanes (32 / w) w (t.packPart va (32 / w) j) ((t.rv vd.toNat j).map BitVec.toNat)
  (r.1.map fun x => x.map word, r.2)

theorem exec_vpack (h : Runs s slot t (.vpack vd va w7 la lb keep)) :
    Leaves (exec (.vpack vd va w7 la lb keep) s) slot (t.Crossed vd.toNat (t.packed vd va w7.toNat)) := crossInstr_crossed h

theorem Team.packPart_none {n q : Nat} : t.packPart va n j q = none ↔ t.active (j * n + q) = false := by simp [packPart]

theorem Team.packPart_some {n q : Nat} {x : Except Word Word} (ha : t.active (j * n + q) = true) (hx : t.rv va.toNat (j * n + q) = x) :
    t.packPart va n j q = some (x.map BitVec.toNat) := by rw [packPart, if_pos ha, hx]

section
variable {w : Nat} {x : Nat → Word} {d k : Word}

theorem Team.packed_none (h : ∀ q, q < 32 / w → t.active (j * (32 / w) + q) = false) : t.packed vd va w j = (none, false) := by
  rw [packed, packLanes_none fun q hq => Team.packPart_none.mpr (h q hq)]
  rfl

/-- With an active source lane VPACK gives the number of its container, and the cond bit says whether every source lane is active. -/
theorem Team.packed_some (h : ∃ q, q < 32 / w ∧ t.active (j * (32 / w) + q) = true) : ∃ c,
    t.packed vd va w j =
      (some ((packNumber (32 / w) w (t.packPart va (32 / w) j) ((t.rv vd.toNat j).map BitVec.toNat)).map word), c) ∧
    (c = true ↔ ∀ q, q < 32 / w → t.active (j * (32 / w) + q) = true) := by
  obtain ⟨q, hq, ha⟩ := h
  have hsome : t.packPart va (32 / w) j q ≠ none := by simp [packPart, ha]
  refine ⟨_, by rw [packed, packLanes_some ⟨q, hq, hsome⟩]; rfl, all_isSome_iff.trans ?_⟩
  simp [Team.packPart_none]

/-- The sub-elements of source lanes that are not poisoned. -/
theorem Team.packPart_of_ok (hx : ∀ q, q < 32 / w → t.active (j * (32 / w) + q) = true → t.rv va.toNat (j * (32 / w) + q) = .ok (x q)) :
    ∀ q, q < 32 / w → t.packPart va (32 / w) j q ≠ none → t.packPart va (32 / w) j q = some (.ok (x q).toNat) := by
  intro q hq hsome
  have ha : t.active (j * (32 / w) + q) = true := by simpa [Team.packPart_none] using hsome
  exact Team.packPart_some ha (hx q hq ha)

/-- The word that VPACK makes of sub-elements that are not poisoned (R156). -/
theorem Team.packed_of_ok (hsome : ∃ q, q < 32 / w ∧ t.active (j * (32 / w) + q) = true)
    (hx : ∀ q, q < 32 / w → t.active (j * (32 / w) + q) = true → t.rv va.toNat (j * (32 / w) + q) = .ok (x q))
    (hd : (∃ q, q < 32 / w ∧ t.active (j * (32 / w) + q) = false) → t.rv vd.toNat j = .ok d) :
    ∃ v c, t.packed vd va w j = (some (.ok v), c) ∧ (c = true ↔ ∀ q, q < 32 / w → t.active (j * (32 / w) + q) = true) ∧
      ∀ b, b < 32 → v.getLsbD b =
        (decide (b / w < 32 / w) && if t.active (j * (32 / w) + b / w) then (x (b / w)).getLsbD (b % w) else d.getLsbD b) := by
  have hw : 0 < w := by
    obtain ⟨q, hq, -⟩ := hsome
    by_contra hzero
    simp [Nat.eq_zero_of_not_pos hzero] at hq
  obtain ⟨c, hpacked, hc⟩ := Team.packed_some (vd := vd) (va := va) hsome
  obtain ⟨m, hm, hbits⟩ := packNumber_of_ok (old := (t.rv vd.toNat j).map BitVec.toNat) (d := d.toNat) hw (Team.packPart_of_ok hx) fun hmiss => by
    rw [hd (by simpa only [Team.packPart_none] using hmiss)]
    rfl
  refine ⟨word m, c, by rw [hpacked, hm]; rfl, hc, fun b hb => ?_⟩
  rw [BitVec.getLsbD_ofNat, decide_eq_true hb, Bool.true_and, hbits]
  cases ha : t.active (j * (32 / w) + b / w) with
  | true => rw [if_neg (by simp [packPart, ha])]; rfl
  | false => rw [if_pos (Team.packPart_none.mpr ha)]; rfl

/-- The first poisoned source lane poisons what VPACK makes. -/
theorem Team.packed_of_error {q : Nat} (hq : q < 32 / w) (ha : t.active (j * (32 / w) + q) = true)
    (hk : t.rv va.toNat (j * (32 / w) + q) = .error k)
    (hbefore : ∀ p, p < q → t.active (j * (32 / w) + p) = true → ∃ x, t.rv va.toNat (j * (32 / w) + p) = .ok x) :
    ∃ c, t.packed vd va w j = (some (.error k), c) := by
  obtain ⟨c, hpacked, -⟩ := Team.packed_some (vd := vd) (va := va) ⟨q, hq, ha⟩
  refine ⟨c, ?_⟩
  rw [hpacked, packNumber_of_error hq (Team.packPart_some ha hk)]
  · rfl
  · intro p hp hsome
    have hactive : t.active (j * (32 / w) + p) = true := by simpa [Team.packPart_none] using hsome
    obtain ⟨x, hx⟩ := hbefore p hp hactive
    exact ⟨x.toNat, Team.packPart_some hactive hx⟩

/-- Where bits of the old vd stay and it is poisoned, its token comes after those of the source lanes. -/
theorem Team.packed_of_old_error (hsome : ∃ q, q < 32 / w ∧ t.active (j * (32 / w) + q) = true)
    (hmiss : ∃ q, q < 32 / w ∧ t.active (j * (32 / w) + q) = false)
    (hx : ∀ q, q < 32 / w → t.active (j * (32 / w) + q) = true → ∃ x, t.rv va.toNat (j * (32 / w) + q) = .ok x)
    (hk : t.rv vd.toNat j = .error k) : ∃ c, t.packed vd va w j = (some (.error k), c) := by
  obtain ⟨c, hpacked, -⟩ := Team.packed_some (vd := vd) (va := va) hsome
  choose! x hx using hx
  refine ⟨c, ?_⟩
  rw [hpacked, packNumber_of_old_error (Team.packPart_of_ok hx) (by simpa only [Team.packPart_none] using hmiss) (by rw [hk]; rfl)]
  rfl

end

/-- What VUNPK gives lane l. -/
def Team.unpacked (t : Team) (va : VReg) (sx : Bool) (w : Nat) (l : Nat) : Option (Except Word Word) × Bool :=
  let r := fromLane t va.toNat (some (l / (32 / w)))
  (r.1.map fun x => x.map fun a =>
    let f := a.toNat / 2 ^ (l % (32 / w) * w) % 2 ^ w
    if sx then signField w f else word f, r.2)

theorem exec_vunpk (h : Runs s slot t (.vunpk vd va la sx w6)) :
    Leaves (exec (.vunpk vd va la sx w6) s) slot (t.Crossed vd.toNat (t.unpacked va sx w6.toNat)) := crossInstr_crossed h

section
variable {w : Nat}

theorem Team.unpacked_none (h : t.active (l / (32 / w)) = false) : t.unpacked va sx w l = (none, false) := by simp [unpacked, fromLane, h]

theorem Team.unpacked_of_error {k : Word} (h : t.active (l / (32 / w)) = true) (hk : t.rv va.toNat (l / (32 / w)) = .error k) :
    t.unpacked va sx w l = (some (.error k), true) := by simp [unpacked, fromLane, h, hk, Except.map]

/-- A field of w bits as a signed number. -/
theorem signedOf_eq_toInt {f : Nat} (hw : 0 < w) : signedOf w f = (BitVec.ofNat w f).toInt := by
  have hpow : 2 ^ w = 2 * 2 ^ (w - 1) := by rw [← pow_succ', Nat.sub_add_cancel hw]
  rw [signedOf, BitVec.toInt_eq_toNat_cond, BitVec.toNat_ofNat]
  split <;> split <;> omega

/-- A field of w bits extended with its top bit. -/
theorem getLsbD_signField {f b : Nat} (hw : 0 < w) (hb : b < 32) :
    (signField w (f % 2 ^ w)).getLsbD b = if b < w then f.testBit b else f.testBit (w - 1) := by
  have hmod : BitVec.ofNat w (f % 2 ^ w) = BitVec.ofNat w f := BitVec.eq_of_toNat_eq (by simp)
  rw [signField, signedOf_eq_toInt hw, hmod, ← BitVec.signExtend, BitVec.getLsbD_signExtend, decide_eq_true hb, Bool.true_and,
    BitVec.msb_eq_getLsbD_last, BitVec.getLsbD_ofNat, BitVec.getLsbD_ofNat, decide_eq_true (Nat.sub_lt hw Nat.one_pos), Bool.true_and]
  split
  next h => rw [decide_eq_true h, Bool.true_and]
  next => rfl

/-- A field of w bits extended with zeros. -/
theorem getLsbD_zeroField {f b : Nat} (hb : b < 32) : (word (f % 2 ^ w)).getLsbD b = if b < w then f.testBit b else false := by
  rw [BitVec.getLsbD_ofNat, decide_eq_true hb, Bool.true_and, Nat.testBit_mod_two_pow]
  by_cases h : b < w <;> simp [h]

/-- The field of sub-element q of a word. -/
theorem testBit_subElement (a : Word) (q w b : Nat) : (a.toNat / 2 ^ (q * w)).testBit b = a.getLsbD (q * w + b) := by
  rw [← Nat.shiftRight_eq_div_pow, Nat.testBit_shiftRight]
  rfl

/-- The sub-element that VUNPK gives lane l, extended (R157). -/
theorem Team.unpacked_of_ok {a : Word} (hw : 0 < w) (h : t.active (l / (32 / w)) = true) (ha : t.rv va.toNat (l / (32 / w)) = .ok a) :
    ∃ v, t.unpacked va sx w l = (some (.ok v), true) ∧ ∀ b, b < 32 → v.getLsbD b =
      if b < w then a.getLsbD (l % (32 / w) * w + b) else (sx && a.getLsbD (l % (32 / w) * w + w - 1)) := by
  refine ⟨_, by rw [unpacked, fromLane, if_pos h, ha]; rfl, fun b hb => ?_⟩
  rw [Nat.add_sub_assoc hw, ← testBit_subElement, ← testBit_subElement]
  cases sx with
  | true => exact getLsbD_signField hw hb
  | false => exact getLsbD_zeroField hb

end

end
/-! ## VTOS (R158, R159) -/

/-- The lanes among a list that are poisoned in a register, with their tokens. -/
def Team.poisonedIn (t : Team) (r : Nat) (ls : List Nat) : List (Nat × Word) :=
  ls.filterMap fun l => match t.rv r l with
    | .error k => some (l, k)
    | .ok _ => none

theorem Team.poisonedIn_nil {t : Team} {r : Nat} {ls : List Nat} (h : ∀ l ∈ ls, ∃ w, t.rv r l = .ok w) : t.poisonedIn r ls = [] := by
  rw [poisonedIn, List.filterMap_eq_nil_iff]
  intro l hl
  obtain ⟨w, hw⟩ := h l hl
  rw [hw]

theorem Team.poisonedIn_cons {t : Team} {r l : Nat} {ls : List Nat} {k : Word}
    (h : ls.find? (fun l => (t.lane r l).dead || (t.lane r l).tag) = some l) (hk : t.rv r l = .error k) :
    ∃ rest, t.poisonedIn r ls = (l, k) :: rest := by
  obtain ⟨-, before, after, rfl, hbefore⟩ := List.find?_eq_some_iff_append.mp h
  have hnil : t.poisonedIn r before = [] := Team.poisonedIn_nil fun m hm => by
    have hclean := hbefore m hm
    simp only [Bool.not_or, Bool.and_eq_true, Bool.not_eq_true'] at hclean
    obtain ⟨hdead, htag⟩ := hclean
    exact ⟨(t.lane r m).data, by simp [Team.rv, Lane.read, hdead, htag]⟩
  refine ⟨t.poisonedIn r after, ?_⟩
  rw [poisonedIn, List.filterMap_append, ← poisonedIn, hnil, List.filterMap_cons, hk]
  rfl

/-- A fold of additions is the sum modulo 2^32. -/
theorem foldl_add_eq_word (ws : List Word) (a : Word) : ws.foldl (· + ·) a = word (a.toNat + (ws.map BitVec.toNat).sum) := by
  induction ws generalizing a with
  | nil => simp
  | cons w ws ih =>
    rw [List.foldl_cons, ih, List.map_cons, List.sum_cons, ← Nat.add_assoc]
    apply BitVec.eq_of_toNat_eq
    simp

/-- A fold of a choice between words is the fold of the choice between their numbers. -/
theorem foldl_toNat_eq_word {f : Word → Word → Word} {g : Nat → Nat → Nat} (h : ∀ a b, (f a b).toNat = g a.toNat b.toNat)
    (ws : List Word) {a : Word} {m : Nat} (hm : a.toNat = m) : ws.foldl f a = word (ws.foldl (fun a b => g a b.toNat) m) := by
  induction ws generalizing a m with
  | nil => exact hm ▸ BitVec.eq_of_toNat_eq (by simp)
  | cons w ws ih => rw [List.foldl_cons, List.foldl_cons, ih (m := g m w.toNat) (by rw [h, hm])]

theorem toNat_greater (a b : Word) : (if a.ult b then b else a).toNat = max a.toNat b.toNat := by
  simp only [BitVec.ult, decide_eq_true_eq]
  split <;> omega

theorem toNat_lesser (a b : Word) : (if b.ult a then b else a).toNat = min a.toNat b.toNat := by
  simp only [BitVec.ult, decide_eq_true_eq]
  split <;> omega

section
variable {s : State} {slot : Nat} {t : Team} {i : Instr} {va : VReg} {sb : SReg} {ls : List Nat} {f : List Word → Option Word}

/-- Every VTOS reads the lanes and makes the word that the rules give it. -/
theorem exec_vtos (s : State) (hv : Claim.vtosResult t i = some (va, sb, ls, f)) :
    ∃ (la : Bool) (lanes : Team → List Nat) (g : List Word → Option Word),
      exec i s = vtosInstr i s va sb la lanes g ∧ lanes t = ls ∧ ∀ ws, g ws = f ws := by
  cases i
  case vtosIdx =>
    cases hv
    exact ⟨_, _, _, show exec _ s = execVtosIdx _ _ _ _ s by rfl, rfl, fun _ => rfl⟩
  case vtosLast =>
    cases hv
    exact ⟨_, _, _, show exec _ s = execVtosLast _ _ _ _ s by rfl, rfl, fun _ => rfl⟩
  case vtosOr =>
    cases hv
    exact ⟨_, _, _, show exec _ s = execVtosOr _ _ _ _ s by rfl, rfl, fun _ => rfl⟩
  case vtosFirst =>
    cases hv
    exact ⟨_, _, _, show exec _ s = execVtosFirst _ _ _ _ s by rfl, List.take_one, fun _ => rfl⟩
  case vtosAnd =>
    cases hv
    exact ⟨_, _, _, show exec _ s = execVtosAnd _ _ _ _ s by rfl, rfl, fun _ => rfl⟩
  case vtosAdd =>
    cases hv
    exact ⟨_, _, _, show exec _ s = execVtosAdd _ _ _ _ s by rfl, rfl, fun ws => congrArg some (by simpa using foldl_add_eq_word ws 0)⟩
  case vtosMaxn =>
    cases hv
    exact ⟨_, _, _, show exec _ s = execVtosMaxn _ _ _ _ s by rfl, rfl, fun ws => congrArg some (foldl_toNat_eq_word toNat_greater ws rfl)⟩
  case vtosMinn =>
    cases hv
    exact ⟨_, _, _, show exec _ s = execVtosMinn _ _ _ _ s by rfl, rfl, fun ws => congrArg some (foldl_toNat_eq_word toNat_lesser ws rfl)⟩
  all_goals cases hv

/-- The move of the PC looks at the PC and the loop alone. -/
theorem Team.advance_pc_of_loop {t u : Team} (hpc : u.pc = t.pc) (hloop : u.ctl.loop = t.ctl.loop) : u.advance.pc = t.advance.pc := by
  unfold Team.advance
  rw [hpc, hloop]
  dsimp only
  split
  · split <;> rfl
  · rfl

/-- The team that a VTOS leaves: last-use marks and, where there is a word, its scalar register. -/
def Team.toScalar (t : Team) (ms : List (Nat × Bool)) (r : Nat) (x : Option Word) : Team :=
  match x with
  | some w => (t.lastUse ms).ws r w
  | none => t.lastUse ms

theorem Team.toScalar_pc (ms : List (Nat × Bool)) (r : Nat) (x : Option Word) : (t.toScalar ms r x).advance.pc = t.advance.pc := by
  obtain ⟨v, hframe⟩ := t.lastUse_frame ms
  cases x with
  | none => exact Team.advance_pc_of_loop (by rw [toScalar, hframe]) (by rw [toScalar, hframe])
  | some w => exact Team.advance_pc_of_loop (by rw [toScalar, Team.ws_pc, hframe]) (by rw [toScalar, Team.ws_loop, hframe])

theorem Team.toScalar_scalars (ms : List (Nat × Bool)) (r : Nat) (x : Option Word) : SameScalars t (t.toScalar ms r x).advance [r] := by
  intro q hq
  rw [Team.rs_advance]
  cases x with
  | none => exact t.lastUse_rs ms q
  | some w => exact (Team.rs_ws_ne _ r w (by simpa using hq)).trans (t.lastUse_rs ms q)

theorem Team.toScalar_word (ms : List (Nat × Bool)) (r : Nat) (x : Option Word) :
    (t.toScalar ms r x).advance.rs r = match x with | some w => (t.ws r w).rs r | none => t.rs r := by
  rw [Team.rs_advance]
  cases x with
  | none => exact t.lastUse_rs ms r
  | some w =>
    obtain ⟨hbeats, hctl⟩ := t.lastUse_control ms
    dsimp only [toScalar]
    rw [Team.rs_ws, Team.rs_ws, Team.inExec, Team.inExec, hbeats, hctl]

section
variable {la : Bool} {lanes : Team → List Nat}

/-- A VTOS that reads no poisoned lane. -/
theorem vtosInstr_of_ok (h : Runs s slot t i) (hok : ∀ l ∈ lanes t, ∃ w, t.rv va.toNat l = .ok w) :
    vtosInstr i s va sb la lanes f = .next ((s.dropOperands slot t [(va.toNat, la)]).setTeam slot
      (t.toScalar [(va.toNat, la)] sb.toNat (f ((lanes t).map fun l => (t.lane va.toNat l).data))).advance) := by
  rw [vtosInstr, issue_runs h]
  have hnil := Team.poisonedIn_nil hok
  dsimp only
  split
  next hbad => exact absurd (hbad.symm.trans hnil) (List.cons_ne_nil _ _)
  next => rfl

/-- A VTOS that reads a poisoned lane traps with the token of the first. -/
theorem vtosInstr_of_error (h : Runs s slot t i) {l : Nat} {k : Word}
    (hfind : (lanes t).find? (fun l => (t.lane va.toNat l).dead || (t.lane va.toNat l).tag) = some l) (hk : t.rv va.toNat l = .error k) :
    ∃ flw, vtosInstr i s va sb la lanes f = .next (s.trap slot (Report.raise k flw)) := by
  rw [vtosInstr, issue_runs h]
  obtain ⟨rest, hcons⟩ := Team.poisonedIn_cons hfind hk
  dsimp only
  split
  next hbad =>
    obtain ⟨rfl, -⟩ := List.cons.inj (hbad.symm.trans hcons)
    exact ⟨_, rfl⟩
  next hbad => exact absurd (hbad.symm.trans hcons).symm (List.cons_ne_nil _ _)

end

theorem State.sameMemory_dropOperands (s : State) (slot : Nat) (t u : Team) (ms : List (Nat × Bool)) :
    SameMemory s ((s.dropOperands slot t ms).setTeam slot u) := by
  obtain ⟨cores, hframe⟩ := s.dropOperands_frame slot t ms
  intro k
  rw [hframe]
  rfl

/-- The cause of a deferred fault is the token's code, with the mark of a deferred fault (R379). -/
theorem Report.causeWord_raise (k : Word) (flw : List Word) : (Report.raise k flw).causeWord = word (k.toNat / 2 ^ 24 + 256) := by
  have hlt : k.toNat / 2 ^ 24 < 256 := by omega
  have hcode : (k.extractLsb' 24 8).toNat = k.toNat / 2 ^ 24 := by
    rw [BitVec.extractLsb'_toNat, Nat.shiftRight_eq_div_pow]
    omega
  rw [causeWord, raise, hcode, Nat.mod_eq_of_lt hlt]
  rfl

end

/-- An instruction that runs has passed the checks of its fields (R53, R54). -/
theorem Runs.wf {s : State} {slot : Nat} {t : Team} {i : Instr} (h : Runs s slot t i) : i.wf = true := by
  obtain ⟨-, -, -, hgo⟩ := h
  by_contra hwf
  rw [Team.gate_illegal (by simp [hwf])] at hgo
  cases hgo

/-- Settles O7: the moves, VPACK and VUNPK by what their lanes receive, VTOS by the lanes it reads and the word it makes. -/
theorem crossLaneResults : Obligations.CrossLaneResults := by
  refine ⟨fun i s slot t vd va src h hsrc => ?_, fun s slot t vd va la lb keep sx w7 w6 => ⟨fun h => ?_, fun h => ?_⟩,
    fun i s slot t va sb ls f h hv => ⟨fun hok => ?_, fun l k hfind hk => ?_⟩⟩
  · obtain ⟨s', t', hexec, hteam, hcrossed⟩ := exec_move h hsrc
    refine ⟨s', t', hexec, hteam, fun l hl => (hcrossed l hl).1, fun l hl ha => ?_⟩
    have hreceived : t.Received t' vd.toNat l (moveFrom t va.toNat (src l)) := (hcrossed l hl).2 ha
    refine ⟨fun k hk => ?_, fun x hx hidle => ?_, fun n hn hactive => ?_⟩
    · rw [hk] at hreceived
      exact hreceived
    · rw [hx, moveFrom_none hidle] at hreceived
      obtain ⟨hdata, htag, hcond, hpois⟩ := hreceived
      exact ⟨hcond, hpois, hdata, htag⟩
    · rw [hn, moveFrom_some _ hactive] at hreceived
      exact hreceived.of_move
  · obtain ⟨s', t', hexec, hteam, hcrossed⟩ := exec_vpack h
    refine ⟨s', t', hexec, hteam, fun j hj => ?_⟩
    obtain ⟨hidle, hreceived⟩ := hcrossed j hj
    refine ⟨hidle, fun ha => ⟨fun hnone => ?_, fun x d hsome hx hd => ?_, fun q k hq hactive hk hbefore => ?_, fun k hsome hmiss hx hk => ?_⟩⟩
    · exact (Team.packed_none hnone ▸ hreceived ha : t.Received t' vd.toNat j (none, false))
    · obtain ⟨v, c, hpacked, hc, hbits⟩ := Team.packed_of_ok hsome hx hd
      obtain ⟨hlane, hcond, hpois⟩ : t.Received t' vd.toNat j (some (.ok v), c) := hpacked ▸ hreceived ha
      rw [hlane, hcond]
      exact ⟨rfl, rfl, hbits, hc, hpois⟩
    · obtain ⟨c, hpacked⟩ := Team.packed_of_error (vd := vd) hq hactive hk hbefore
      exact (hpacked ▸ hreceived ha : t.Received t' vd.toNat j (some (.error k), c))
    · obtain ⟨c, hpacked⟩ := Team.packed_of_old_error hsome hmiss hx hk
      exact (hpacked ▸ hreceived ha : t.Received t' vd.toNat j (some (.error k), c))
  · obtain ⟨s', t', hexec, hteam, hcrossed⟩ := exec_vunpk h
    have hw : 0 < w6.toNat := (of_decide_eq_true h.wf).1
    refine ⟨s', t', hexec, hteam, fun l hl => ?_⟩
    obtain ⟨hidle, hreceived⟩ := hcrossed l hl
    refine ⟨hidle, fun ha => ⟨fun hnone => ?_, fun a hactive hword => ?_, fun k hactive hk => ?_⟩⟩
    · exact (Team.unpacked_none hnone ▸ hreceived ha : t.Received t' vd.toNat l (none, false))
    · obtain ⟨v, hunpacked, hbits⟩ := Team.unpacked_of_ok (sx := sx) hw hactive hword
      obtain ⟨hlane, hcond, hpois⟩ : t.Received t' vd.toNat l (some (.ok v), true) := hunpacked ▸ hreceived ha
      rw [hlane]
      exact ⟨rfl, rfl, hbits, hcond, hpois⟩
    · exact (Team.unpacked_of_error hactive hk ▸ hreceived ha : t.Received t' vd.toNat l (some (.error k), true))
  · obtain ⟨la, lanes, g, hexec, rfl, hg⟩ := exec_vtos s hv
    obtain rfl : g = f := funext hg
    rw [hexec, vtosInstr_of_ok h hok]
    exact ⟨_, _, rfl, State.team?_setTeam _ _ _, Team.toScalar_pc _ _ _, State.sameMemory_dropOperands _ _ _ _ _, Team.toScalar_scalars _ _ _,
      Team.toScalar_word _ _ _⟩
  · obtain ⟨la, lanes, g, hexec, rfl, -⟩ := exec_vtos s hv
    obtain ⟨flw, htrap⟩ := vtosInstr_of_error (sb := sb) (la := la) (f := g) h hfind hk
    obtain ⟨-, hcurrent, -⟩ := h
    obtain ⟨t', ⟨hteam, hstatus, hpc, hregs, hcause, -⟩, -, -, -, htoken, -⟩ := State.trapped_trap hcurrent (Report.raise k flw)
    exact ⟨_, t', hexec.trans htrap, hteam, hstatus, hpc, htoken, hcause.trans (Report.causeWord_raise k flw), hregs⟩

end Sys2Proof.Machine
end

section
/-! SUPPORT. The pairwise tree (R174): the model's levels are those of the rules, what holds of every node, and the greatest and least value. -/

namespace Sys2Proof.Machine

/-! ## The levels of the tree (R174) -/

section
variable {α β : Type}

/-- The nodes of a level of the tree over x 0, ..., x (n - 1), a node without a partner carried. -/
def treeNode (op : Nat → Nat → α → α → α) (n : Nat) (x : Nat → α) : Nat → Nat → α
  | 0, i => x i
  | t + 1, i =>
    if 2 * i + 1 < (n + 2 ^ t - 1) / 2 ^ t then op t i (treeNode op n x t (2 * i)) (treeNode op n x t (2 * i + 1)) else treeNode op n x t (2 * i)

/-- A level of the tree has half as many nodes as the level before it, rounded up. -/
theorem treeWidth_succ (n t : Nat) : (n + 2 ^ (t + 1) - 1) / 2 ^ (t + 1) = ((n + 2 ^ t - 1) / 2 ^ t + 1) / 2 := by
  have hpos : 0 < 2 ^ t := Nat.two_pow_pos t
  rw [← Nat.add_div_right _ hpos, Nat.div_div_eq_div_mul, pow_succ]
  congr 1
  omega

theorem pairUp_range (op : Nat → α → α → α) (m i : Nat) (y : Nat → α) : pairUp op i ((List.range m).map y) =
    (List.range ((m + 1) / 2)).map fun j => if 2 * j + 1 < m then op (i + j) (y (2 * j)) (y (2 * j + 1)) else y (2 * j) := by
  induction m using Nat.twoStepInduction generalizing i y with
  | zero => rfl
  | one => rfl
  | more m ih _ =>
    have hhead : (List.range (m + 2)).map y = y 0 :: y 1 :: (List.range m).map fun j => y (j + 2) := by
      simp [List.range_succ_eq_map, Function.comp_def]
    rw [hhead, pairUp, ih, show (m + 2 + 1) / 2 = (m + 1) / 2 + 1 by omega, List.range_succ_eq_map, List.map_cons, List.map_map]
    refine congrArg₂ _ (if_pos (by omega)).symm (List.map_congr_left fun j _ => ?_)
    simp only [Function.comp, show 2 * (j + 1) + 1 < m + 2 ↔ 2 * j + 1 < m by omega, show i + (j + 1) = i + 1 + j by omega]
    rfl

theorem pairUp_level (op : Nat → Nat → α → α → α) (n t : Nat) (x : Nat → α) :
    pairUp (op t) 0 ((List.range ((n + 2 ^ t - 1) / 2 ^ t)).map (treeNode op n x t)) =
      (List.range ((n + 2 ^ (t + 1) - 1) / 2 ^ (t + 1))).map (treeNode op n x (t + 1)) := by
  rw [pairUp_range, ← treeWidth_succ]
  refine List.map_congr_left fun j _ => ?_
  rw [Nat.zero_add]
  rfl

/-- The levels end at one node. -/
theorem treeGo_level (op : Nat → Nat → α → α → α) (n : Nat) (x : Nat → α) (fuel t : Nat) (hpos : 1 ≤ (n + 2 ^ t - 1) / 2 ^ t)
    (hfuel : (n + 2 ^ t - 1) / 2 ^ t ≤ fuel + 1) : ∃ depth, (n + 2 ^ depth - 1) / 2 ^ depth = 1 ∧
      treeGo op fuel t ((List.range ((n + 2 ^ t - 1) / 2 ^ t)).map (treeNode op n x t)) = [treeNode op n x depth 0] := by
  have hone (h : (n + 2 ^ t - 1) / 2 ^ t = 1) : (List.range ((n + 2 ^ t - 1) / 2 ^ t)).map (treeNode op n x t) = [treeNode op n x t 0] := by
    rw [h]; rfl
  induction fuel generalizing t with
  | zero =>
    have h : (n + 2 ^ t - 1) / 2 ^ t = 1 := by omega
    exact ⟨t, h, hone h⟩
  | succ fuel ih =>
    rw [treeGo, List.length_map, List.length_range]
    split
    next hle =>
      have h : (n + 2 ^ t - 1) / 2 ^ t = 1 := by omega
      exact ⟨t, h, hone h⟩
    next hle =>
      rw [pairUp_level]
      have hw := treeWidth_succ n t
      refine ih (t + 1) (by omega) (by omega) fun h => ?_
      rw [h]; rfl

/-- The tree of the model is that of the rules (R174). -/
theorem tree_range (op : Nat → Nat → α → α → α) {n : Nat} (hn : 0 < n) (x : Nat → α) :
    ∃ r, tree op ((List.range n).map x) = some r ∧ Claim.treeOf op n x r := by
  have hwidth : (n + 2 ^ 0 - 1) / 2 ^ 0 = n := by simp
  obtain ⟨depth, hdepth, hgo⟩ := treeGo_level op n x n 0 (by omega) (by omega)
  rw [hwidth] at hgo
  refine ⟨treeNode op n x depth 0, ?_, treeNode op n x, depth, fun _ => rfl, fun _ _ => rfl, hdepth, rfl⟩
  rw [tree, List.length_map, List.length_range]
  exact congrArg List.head? hgo

/-! ## What holds of the result of a tree -/

section
variable {op : Nat → Nat → α → α → α} {n : Nat} {x : Nat → α} {r : α}

/-- What holds of the leaves and passes through the nodes holds of the result. -/
theorem treeOf_holds {P : α → Prop} (h : Claim.treeOf op n x r) (hleaf : ∀ i, P (x i)) (hnode : ∀ t i a b, P a → P b → P (op t i a b)) :
    P r := by
  obtain ⟨y, depth, hzero, hsucc, -, rfl⟩ := h
  have hall (t i : Nat) : P (y t i) := by
    induction t generalizing i with
    | zero => exact hzero i ▸ hleaf i
    | succ t ih =>
      rw [hsucc]
      split
      · exact hnode _ _ _ _ (ih _) (ih _)
      · exact ih _
  exact hall depth 0

/-- A map that commutes with the nodes gives the tree of the mapped leaves. -/
theorem treeOf_map {op' : Nat → Nat → β → β → β} {φ : α → β} (h : Claim.treeOf op n x r)
    (hφ : ∀ t i a b, φ (op t i a b) = op' t i (φ a) (φ b)) : Claim.treeOf op' n (fun i => φ (x i)) (φ r) := by
  obtain ⟨y, depth, hzero, hsucc, hdepth, rfl⟩ := h
  exact ⟨fun t i => φ (y t i), depth, fun i => congrArg φ (hzero i), fun t i => by simp only [hsucc, apply_ite φ, hφ], hdepth, rfl⟩

/-- Where every node is one of its two operands and stands in R to both, the result is a leaf and stands in R to every leaf. -/
theorem treeOf_select {op : α → α → α} {R : α → α → Prop} (h : Claim.treeOf (fun _ _ => op) n x r) (hrefl : ∀ a, R a a)
    (htrans : ∀ a b c, R a b → R b c → R a c) (hop : ∀ a b, (op a b = a ∨ op a b = b) ∧ R (op a b) a ∧ R (op a b) b) :
    (∃ i, i < n ∧ r = x i) ∧ ∀ i, i < n → R r (x i) := by
  obtain ⟨y, depth, hzero, hsucc, hdepth, rfl⟩ := h
  have hlevel (t i : Nat) (hi : i < (n + 2 ^ t - 1) / 2 ^ t) : (∃ j, j < n ∧ y t i = x j) ∧ ∀ j, j < n → j / 2 ^ t = i → R (y t i) (x j) := by
    induction t generalizing i with
    | zero =>
      have hi' : i < n := by simpa using hi
      refine ⟨⟨i, hi', hzero i⟩, fun j _ hj => ?_⟩
      rw [pow_zero, Nat.div_one] at hj
      exact hzero i ▸ hj ▸ hrefl _
    | succ t ih =>
      rw [treeWidth_succ] at hi
      have hhalf (j : Nat) (hj : j / 2 ^ (t + 1) = i) : j / 2 ^ t = 2 * i ∨ j / 2 ^ t = 2 * i + 1 := by
        rw [pow_succ, ← Nat.div_div_eq_div_mul] at hj
        omega
      obtain ⟨hleft, habove⟩ := ih (2 * i) (by omega)
      rw [hsucc]
      split
      next hpair =>
        obtain ⟨hright, habove'⟩ := ih (2 * i + 1) hpair
        obtain ⟨hsel, hR, hR'⟩ := hop (y t (2 * i)) (y t (2 * i + 1))
        constructor
        · show ∃ j, j < n ∧ op (y t (2 * i)) (y t (2 * i + 1)) = x j
          rcases hsel with h | h <;> rw [h] <;> assumption
        · intro j hj hij
          rcases hhalf j hij with h | h
          · exact htrans _ _ _ hR (habove j hj h)
          · exact htrans _ _ _ hR' (habove' j hj h)
      next hlone =>
        refine ⟨hleft, fun j hj hij => ?_⟩
        have hwidth : j / 2 ^ t < (n + 2 ^ t - 1) / 2 ^ t := by
          rw [Nat.lt_iff_add_one_le, ← Nat.add_div_right _ (Nat.two_pow_pos t)]
          exact Nat.div_le_div_right (by omega)
        rcases hhalf j hij with h | h
        · exact habove j hj h
        · omega
  obtain ⟨hleaf, hR⟩ := hlevel depth 0 (by omega)
  refine ⟨hleaf, fun i hi => hR i hi (Nat.div_eq_of_lt ?_)⟩
  have hle := Nat.lt_mul_div_succ (n + 2 ^ depth - 1) (Nat.two_pow_pos depth)
  rw [hdepth] at hle
  omega

end
end

/-! ## The greatest and the least value (R165, R176) -/

/-- A value is no worse than another in an order: it is a NaN only where the other one is, and the other one does not come before it. -/
def NoWorse (before : Val → Val → Prop) (a b : Val) : Prop := b ≠ .nan → a ≠ .nan ∧ ¬ before a b

theorem NoWorse.refl {before : Val → Val → Prop} (h : ∀ a, ¬ before a a) (a : Val) : NoWorse before a a := fun ha => ⟨ha, h a⟩

theorem NoWorse.trans {before : Val → Val → Prop} (h : ∀ a b c, before a c → b ≠ .nan → before a b ∨ before b c) (a b c : Val)
    (hab : NoWorse before a b) (hbc : NoWorse before b c) : NoWorse before a c := by
  intro hc
  obtain ⟨hb, hnot⟩ := hbc hc
  obtain ⟨ha, hnot'⟩ := hab hb
  exact ⟨ha, fun hac => (h a b c hac hb).elim hnot' hnot⟩

theorem Claim.below_irrefl (a : Val) : ¬ Claim.below a a := fun h => Claim.below_asymm h h

/-- Of two values with one below the other, a third that is not a NaN is above the one or below the other. -/
theorem Claim.below_or_below {a b c : Val} (h : Claim.below a c) (hb : b ≠ .nan) : Claim.below a b ∨ Claim.below b c := by
  cases b with
  | nan => exact absurd rfl hb
  | inf k => cases a <;> cases c <;> simp_all [Claim.below]
  | fin k p q =>
    cases a <;> cases c
    case fin.fin => exact (lt_or_ge _ _).imp_right fun hle => lt_of_le_of_lt hle h
    all_goals simp_all [Claim.below]

theorem Claim.below_trichotomy {a b : Val} (ha : a ≠ .nan) (hb : b ≠ .nan) : Claim.below a b ∨ Claim.below b a ∨ Claim.equals a b := by
  cases a <;> cases b
  case fin.fin => exact (lt_trichotomy _ _).imp_right Or.symm
  case inf.inf n k => cases n <;> cases k <;> simp [Claim.below, Claim.equals]
  case inf.fin n _ _ _ | fin.inf _ _ _ n => cases n <;> simp [Claim.below]
  all_goals contradiction

section
variable {before : Val → Val → Prop} {op : Val → Val → Val} {a b : Val}

/-- A choice of the better of two values that prefers either to a NaN is no worse than both. -/
theorem NoWorse.choice (hirrefl : ∀ a, ¬ before a a) (hleft : ∀ b, op .nan b = b) (hright : ∀ a, op a .nan = a)
    (hop : a ≠ .nan → b ≠ .nan → op a b = a ∧ ¬ before a b ∨ op a b = b ∧ ¬ before b a) :
    (op a b = a ∨ op a b = b) ∧ NoWorse before (op a b) a ∧ NoWorse before (op a b) b := by
  by_cases ha : a = .nan
  · rw [ha, hleft]
    exact ⟨.inr rfl, fun h => absurd rfl h, NoWorse.refl hirrefl b⟩
  by_cases hb : b = .nan
  · rw [hb, hright]
    exact ⟨.inl rfl, NoWorse.refl hirrefl a, fun h => absurd rfl h⟩
  rcases hop ha hb with ⟨h, hnot⟩ | ⟨h, hnot⟩ <;> rw [h]
  · exact ⟨.inl rfl, NoWorse.refl hirrefl a, fun _ => ⟨ha, hnot⟩⟩
  · exact ⟨.inr rfl, fun _ => ⟨hb, hnot⟩, NoWorse.refl hirrefl b⟩

theorem maxVal_choice (ha : a ≠ .nan) (hb : b ≠ .nan) :
    maxVal a b = a ∧ ¬ Claim.below a b ∨ maxVal a b = b ∧ ¬ Claim.below b a := by
  rcases Claim.below_trichotomy ha hb with h | h | h
  · exact .inr ⟨(minMax_below ha hb h).2, Claim.below_asymm h⟩
  · exact .inl ⟨(minMax_above ha hb h).2, Claim.below_asymm h⟩
  · obtain ⟨hab, hba⟩ := Claim.equals_not_below h
    rw [(minMax_equals ha hb h).2]
    split
    · exact .inr ⟨rfl, hba⟩
    · exact .inl ⟨rfl, hab⟩

theorem minVal_choice (ha : a ≠ .nan) (hb : b ≠ .nan) :
    minVal a b = a ∧ ¬ Claim.below b a ∨ minVal a b = b ∧ ¬ Claim.below a b := by
  rcases Claim.below_trichotomy ha hb with h | h | h
  · exact .inl ⟨(minMax_below ha hb h).1, Claim.below_asymm h⟩
  · exact .inr ⟨(minMax_above ha hb h).1, Claim.below_asymm h⟩
  · obtain ⟨hab, hba⟩ := Claim.equals_not_below h
    rw [(minMax_equals ha hb h).1]
    split
    · exact .inl ⟨rfl, hba⟩
    · exact .inr ⟨rfl, hab⟩

end

section
variable {n : Nat} {x : Nat → Val} {r : Val}

/-- The tree of the maximum gives a leaf that no other leaf exceeds. -/
theorem treeOf_maxVal (h : Claim.treeOf (fun _ _ => maxVal) n x r) : (∃ i, i < n ∧ r = x i) ∧ ∀ i, i < n → NoWorse Claim.below r (x i) :=
  treeOf_select h (NoWorse.refl Claim.below_irrefl) (NoWorse.trans fun _ _ _ => Claim.below_or_below) fun _ _ =>
    NoWorse.choice Claim.below_irrefl (fun b => (minMax_nan_left b).2.1) (fun a => (minMax_nan_right a).2.1) maxVal_choice

/-- The tree of the minimum gives a leaf that exceeds no other leaf. -/
theorem treeOf_minVal (h : Claim.treeOf (fun _ _ => minVal) n x r) :
    (∃ i, i < n ∧ r = x i) ∧ ∀ i, i < n → NoWorse (fun a b => Claim.below b a) r (x i) :=
  treeOf_select h (NoWorse.refl Claim.below_irrefl) (NoWorse.trans fun _ _ _ hca hb => (Claim.below_or_below hca hb).symm) fun _ _ =>
    NoWorse.choice Claim.below_irrefl (fun b => (minMax_nan_left b).1) (fun a => (minMax_nan_right a).1) minVal_choice

end

end Sys2Proof.Machine
end

section
/-! SUPPORT. Dot products (R98, R174, R175): statistics without a magnitude, the sum of an integer slot, the tree of a float or fixed slot, and
what VDOT leaves in its lanes. -/

namespace Sys2Proof.Machine

/-! ## Statistics without a magnitude (R97, R98) -/

theorem Stat.join_flags (x y : Stat) (b : Nat) : (x.join y).flags.getLsbD b = (x.flags.getLsbD b || y.flags.getLsbD b) := BitVec.getLsbD_or

theorem Stat.join_amax_of_left {x y : Stat} (h : x.amax = 0) : (x.join y).amax = y.amax := by
  apply BitVec.eq_of_toNat_eq
  rw [Stat.join, maxPattern_toNat, h]
  exact Nat.zero_max _

theorem Stat.join_amax_of_right {x y : Stat} (h : y.amax = 0) : (x.join y).amax = x.amax := by
  apply BitVec.eq_of_toNat_eq
  rw [Stat.join, maxPattern_toNat, h]
  exact Nat.max_zero _

theorem Stat.all_amax_zero {xs : List Stat} (h : ∀ x ∈ xs, x.amax = 0) : (Stat.all xs).amax = 0 := by
  apply BitVec.eq_of_toNat_eq
  rw [← Nat.zero_max (Stat.all xs).amax.toNat, Stat.max_all_amax]
  induction xs with
  | nil => rfl
  | cons x xs ih =>
    obtain ⟨hx, hxs⟩ := List.forall_mem_cons.mp h
    rw [List.foldl_cons, hx]
    exact ih hxs

theorem statSrc_amax (v : Val) : (statSrc v).amax = 0 := by
  unfold statSrc
  split <;> rfl

/-- Sources add no magnitude. -/
theorem Stat.all_sources_amax (vs : List Val) : (Stat.all (vs.map statSrc)).amax = 0 := by
  refine Stat.all_amax_zero fun x hx => ?_
  obtain ⟨v, -, rfl⟩ := List.mem_map.mp hx
  exact statSrc_amax v

/-- Statistics without a magnitude leave AMAX of every slot. -/
theorem Team.statistics_amax_of_zero {t : Team} {x : Stat} (h : x.amax = 0) (n : Nat) :
    sget 0 (t.statistics x).amax n = sget 0 t.fmt.amax n := by
  by_cases hn : n = t.slot
  · subst hn
    apply BitVec.eq_of_toNat_eq
    rw [Team.statistics_amax_slot, h]
    exact Nat.max_zero _
  · exact Team.statistics_amax_other t x hn

/-! ## The dot product of a lane (R175) -/

/-- The format of the result in an integer slot: 32 bits, modulo 2^32 where SAT does not clamp (R175). -/
def dotFormat : Fmt := { fmtOf (builtin 14) with ovf := false }

theorem dotFormat_wrap (x : Int) : word (dotFormat.wrap x) = BitVec.ofInt 32 x := by
  have hwidth : dotFormat.w = 32 := by decide
  apply BitVec.eq_of_toNat_eq
  rw [Fmt.wrap, hwidth, BitVec.toNat_ofNat, BitVec.toNat_ofInt, Nat.mod_eq_of_lt (by omega)]

/-- An integer clamped under SAT and else modulo 2^32, with OVC where it lies outside 32 bits. -/
theorem encodeInt_dotFormat (sat : Bool) (x : Int) :
    word (encodeInt dotFormat sat x).code = BitVec.ofInt 32 (if sat then max (-2 ^ 31) (min (2 ^ 31 - 1) x) else x) ∧
    (x < -2 ^ 31 ∨ 2 ^ 31 ≤ x → (encodeInt dotFormat sat x).ovc = true) := by
  have hmin : dotFormat.minInt = -2 ^ 31 := by decide
  have hmax : dotFormat.maxInt = 2 ^ 31 - 1 := by decide
  have hovf : dotFormat.ovf = false := by decide
  rw [encodeInt, hmin, hmax, hovf, Bool.or_false]
  by_cases hin : -2 ^ 31 ≤ x ∧ x ≤ 2 ^ 31 - 1
  · have hclamp : max (-2 ^ 31) (min (2 ^ 31 - 1) x) = x := by omega
    rw [if_pos hin, dotFormat_wrap, hclamp, ite_self]
    exact ⟨rfl, fun hout => by omega⟩
  · rw [if_neg hin]
    cases sat with
    | false => exact ⟨dotFormat_wrap x, fun _ => rfl⟩
    | true =>
      have hclamp : max (-2 ^ 31) (min (2 ^ 31 - 1) x) = if x < 0 then -2 ^ 31 else 2 ^ 31 - 1 := by split <;> omega
      simp only [if_true]
      rw [hclamp]
      exact ⟨dotFormat_wrap _, fun _ => trivial⟩

/-- A value rounded to binary32 under RNE. -/
def roundF32 (x : Val) : Val := decodeVal binary32 (encodeVal binary32 0 false 0 x.exact).code

/-- The same with the overflow flag, as the products and the nodes of the tree carry it. -/
def flaggedF32 (x : Val) : Val × Stat := (roundF32 x, { flags := if (toF32 0 false 0 x.exact).ovc then flagOvc else 0, amax := 0 })

/-- A node of the tree of VDOT with the flags of all that lies below it. -/
def dotNode (x y : Val × Stat) : Val × Stat :=
  let z := flaggedF32 (sumVals false [x.1, y.1])
  (z.1, (x.2.join y.2).join z.2)

section
variable (t : Team) (f : Fmt) (l a b : Nat) (d : Word)

/-- The sum of the products of an integer slot and the old integer of the lane. -/
def dotSum : Int := ((List.range f.count).map fun q => (f.element a q).intAt 0 * (f.element b q).intAt 0).sum + d.toInt

/-- The tree of the products of a float or fixed slot. -/
def dotTree : Val × Stat :=
  (tree (fun _ _ => dotNode) ((List.range f.count).map fun q => flaggedF32 (mulVals (f.element a q) (f.element b q)))).getD
    (.fin false 0 0, Stat.none)

/-- What VDOT gives a lane from its containers and its old word. -/
def Team.dotOf : Nat × Stat :=
  if f.isInteger then t.dotInt ((List.range f.count).map (f.element a)) ((List.range f.count).map (f.element b)) d
  else t.dotFloat l ((List.range f.count).map (f.element a)) ((List.range f.count).map (f.element b)) (ofF32 d)

theorem zip_elements : ((List.range f.count).map (f.element a)).zip ((List.range f.count).map (f.element b)) =
    (List.range f.count).map fun q => (f.element a q, f.element b q) := List.zip_map'

theorem Team.dotOf_integer (h : f.isInteger = true) : t.dotOf f l a b d = ((encodeInt dotFormat t.sat (dotSum f a b d)).code,
    { flags := if (encodeInt dotFormat t.sat (dotSum f a b d)).ovc then flagOvc else 0, amax := 0 }) := by
  rw [Team.dotOf, if_pos h, Team.dotInt, zip_elements, List.map_map]
  rfl

theorem Team.dotOf_float (h : f.isInteger = false) : t.dotOf f l a b d =
    ((t.enc32 l 0 (sumVals t.down [(dotTree f a b).1, ofF32 d]).exact).1,
      ((dotTree f a b).2.join (t.enc32 l 0 (sumVals t.down [(dotTree f a b).1, ofF32 d]).exact).2).join (Stat.all ((ofF32 d ::
        (List.range f.count).map (f.element a) ++ (List.range f.count).map (f.element b)).map statSrc))) := by
  rw [Team.dotOf, if_neg (by simp [h]), Team.dotFloat, zip_elements, List.map_map]
  rfl

/-- The tree over the products (R174); its statistics hold no magnitude. -/
theorem dotTree_spec (h : 0 < f.count) :
    Claim.treeOf (fun _ _ x y => roundF32 (sumVals false [x, y])) f.count (fun q => roundF32 (mulVals (f.element a q) (f.element b q)))
      (dotTree f a b).1 ∧ (dotTree f a b).2.amax = 0 := by
  obtain ⟨r, hr, htree⟩ := tree_range (fun _ _ => dotNode) h fun q => flaggedF32 (mulVals (f.element a q) (f.element b q))
  rw [dotTree, hr]
  refine ⟨treeOf_map (φ := Prod.fst) htree fun _ _ _ _ => rfl, treeOf_holds (P := fun z => z.2.amax = 0) htree (fun _ => rfl) fun _ _ x y hx hy => ?_⟩
  exact (Stat.join_amax_of_left ((Stat.join_amax_of_left hx).trans hy)).trans rfl

theorem dotTree_amax : (dotTree f a b).2.amax = 0 := by
  rcases Nat.eq_zero_or_pos f.count with h | h
  · rw [dotTree, h]
    rfl
  · exact (dotTree_spec f a b h).2

/-- VDOT adds no magnitude (R175). -/
theorem Team.dotOf_amax : (t.dotOf f l a b d).2.amax = 0 := by
  cases h : f.isInteger with
  | true => rw [Team.dotOf_integer t f l a b d h]
  | false =>
    rw [Team.dotOf_float t f l a b d h, Stat.join_amax_of_left]
    · exact Stat.all_sources_amax _
    · exact (Stat.join_amax_of_left (dotTree_amax f a b)).trans rfl

end

/-! ## What VDOT leaves (R175) -/

section
variable {s : State} {slot : Nat} {t : Team} {vd va vb : VReg} {la lb keep : Bool} {l : Nat}

/-- What VDOT gives a lane: a result with its statistics, or the token of the first poisoned source. -/
def Team.dot (t : Team) (vd va vb : VReg) (l : Nat) : Except Word (Nat × Stat) := do
  let a ← t.readIn (t.fmtAt t.slot) va.toNat l
  let b ← t.readIn (t.fmtAt t.slot) vb.toNat l
  let d ← t.rv vd.toNat l
  pure (t.dotOf (t.fmtAt t.slot) l a b d)

/-- The statistics of a lane's result. -/
def dotStat : Except Word (Nat × Stat) → Stat
  | .ok r => r.2
  | .error _ => Stat.none

/-- The team that VDOT leaves: last-use marks, the results of the active lanes, the statistics and the next PC. -/
def Team.dotted (t : Team) (vd va vb : VReg) (la lb : Bool) : Team :=
  ((((t.lastUse (hints2 va vb la lb t)).wv vd.toNat (t.writeActive fun l => (t.dot vd va vb l).map fun r => word r.1)).addStat t.slot
    (Stat.all (t.activeLanes.map fun l => dotStat (t.dot vd va vb l)))).countSr t.slot).advance

theorem exec_vdot (h : Runs s slot t (.vdot vd va vb la lb keep)) :
    ∃ s', exec (.vdot vd va vb la lb keep) s = .next s' ∧ s'.team? slot = some (t.dotted vd va vb la lb) :=
  ⟨_, issue_runs h _, State.team?_setTeam _ _ _⟩

theorem Team.lane_dotted (hl : l < t.lanes) : (t.dotted vd va vb la lb).lane vd.toNat l =
    if t.active l then laneOf ((t.dot vd va vb l).map fun r => word r.1) else t.lane vd.toNat l := by
  rw [Team.dotted, Team.lane_advance, Team.lane_regs (congrArg _ (Team.countSr_regs _ _).1)]
  show ((t.lastUse _).wv vd.toNat (t.writeActive _)).lane vd.toNat l = _
  exact Team.lane_wv_writeActive _ ((t.lanes_lastUse _).symm ▸ hl) (t.lane_lastUse_inactive _ _ _ hl)

theorem Team.dotted_fmt : (t.dotted vd va vb la lb).fmt = t.statistics (Stat.all (t.activeLanes.map fun l => dotStat (t.dot vd va vb l))) := by
  obtain ⟨v, hmarks⟩ := t.lastUse_frame (hints2 va vb la lb t)
  have hfmt : (t.lastUse (hints2 va vb la lb t)).fmt = t.fmt := by rw [hmarks]
  have hmode : (t.lastUse (hints2 va vb la lb t)).mode = t.mode := by rw [hmarks]
  rw [Team.dotted, Team.advance_fmt]
  exact Team.counted_fmt (u := (t.lastUse (hints2 va vb la lb t)).wv _ _) hfmt hmode _

theorem Team.dotStat_amax : (dotStat (t.dot vd va vb l)).amax = 0 := by
  unfold Team.dot
  cases t.readIn (t.fmtAt t.slot) va.toNat l with
  | error k => rfl
  | ok a =>
    cases t.readIn (t.fmtAt t.slot) vb.toNat l with
    | error k => rfl
    | ok b =>
      cases t.rv vd.toNat l with
      | error k => rfl
      | ok d => exact t.dotOf_amax _ l a b d

theorem Team.dot_of_ok {a b : Nat} {d : Word} (ha : t.readIn (t.fmtAt t.slot) va.toNat l = .ok a)
    (hb : t.readIn (t.fmtAt t.slot) vb.toNat l = .ok b) (hd : t.rv vd.toNat l = .ok d) :
    t.dot vd va vb l = .ok (t.dotOf (t.fmtAt t.slot) l a b d) := by
  rw [Team.dot, ha, hb, hd]
  rfl

/-- A token of va comes before one of vb, and that before one of vd (R10). -/
theorem Team.dot_of_error {k : Word} :
    (t.readIn (t.fmtAt t.slot) va.toNat l = .error k → t.dot vd va vb l = .error k) ∧
    (∀ a, t.readIn (t.fmtAt t.slot) va.toNat l = .ok a → t.readIn (t.fmtAt t.slot) vb.toNat l = .error k → t.dot vd va vb l = .error k) ∧
    (∀ a b, t.readIn (t.fmtAt t.slot) va.toNat l = .ok a → t.readIn (t.fmtAt t.slot) vb.toNat l = .ok b → t.rv vd.toNat l = .error k →
      t.dot vd va vb l = .error k) := by
  refine ⟨fun ha => ?_, fun a ha hb => ?_, fun a b ha hb hd => ?_⟩
  · rw [Team.dot, ha]; rfl
  · rw [Team.dot, ha, hb]; rfl
  · rw [Team.dot, ha, hb, hd]; rfl

/-- A flag that the result of an active lane sets is set afterwards. -/
theorem Team.dotted_flag {r : Nat × Stat} {b : Nat} (hl : l < t.lanes) (ha : t.active l = true) (hr : t.dot vd va vb l = .ok r)
    (hb : r.2.flags.getLsbD b = true) : (t.dotted vd va vb la lb).fmt.flags.getLsbD b = true := by
  rw [Team.dotted_fmt, Team.statistics_flags, Stat.all_flags, Bool.or_eq_true, List.any_eq_true]
  exact .inr ⟨_, List.mem_map.mpr ⟨l, List.mem_filter.mpr ⟨List.mem_range.mpr hl, ha⟩, rfl⟩, by rw [hr]; exact hb⟩

theorem Team.dotted_amax (n : Nat) : sget 0 (t.dotted vd va vb la lb).fmt.amax n = sget 0 t.fmt.amax n := by
  rw [Team.dotted_fmt]
  refine Team.statistics_amax_of_zero (Stat.all_amax_zero fun x hx => ?_) n
  obtain ⟨l, -, rfl⟩ := List.mem_map.mp hx
  exact Team.dotStat_amax

section
variable {a b : Nat} {d : Word}

/-- An active lane of an integer slot, and OVC where its sum lies outside 32 bits (R175). -/
theorem Team.lane_dotted_integer (hl : l < t.lanes) (ha : t.active l = true) (hdot : t.dot vd va vb l = .ok (t.dotOf (t.fmtAt t.slot) l a b d))
    (h : (t.fmtAt t.slot).isInteger = true) :
    (t.dotted vd va vb la lb).lane vd.toNat l = laneOf (.ok (BitVec.ofInt 32
      (if t.sat then max (-2 ^ 31) (min (2 ^ 31 - 1) (dotSum (t.fmtAt t.slot) a b d)) else dotSum (t.fmtAt t.slot) a b d))) ∧
    (dotSum (t.fmtAt t.slot) a b d < -2 ^ 31 ∨ 2 ^ 31 ≤ dotSum (t.fmtAt t.slot) a b d →
      (t.dotted vd va vb la lb).fmt.flags.getLsbD 3 = true) := by
  have hof := t.dotOf_integer (t.fmtAt t.slot) l a b d h
  obtain ⟨hcode, hovc⟩ := encodeInt_dotFormat t.sat (dotSum (t.fmtAt t.slot) a b d)
  constructor
  · rw [Team.lane_dotted hl, if_pos ha, hdot, hof]
    exact congrArg (fun w => laneOf (.ok w)) hcode
  · intro hout
    refine Team.dotted_flag hl ha hdot ?_
    rw [hof, hovc hout]
    exact (by decide : flagOvc.getLsbD 3 = true)

/-- An active lane of a float or fixed slot: the tree of the products plus the old value, in binary32 (R175). -/
theorem Team.lane_dotted_float (hl : l < t.lanes) (ha : t.active l = true) (hdot : t.dot vd va vb l = .ok (t.dotOf (t.fmtAt t.slot) l a b d))
    (h : (t.fmtAt t.slot).isInteger = false) : (t.dotted vd va vb la lb).lane vd.toNat l =
      laneOf (.ok (word (t.enc32 l 0 (sumVals t.down [(dotTree (t.fmtAt t.slot) a b).1, ofF32 d]).exact).1)) := by
  rw [Team.lane_dotted hl, if_pos ha, hdot, t.dotOf_float _ l a b d h]
  rfl

end

end

end Sys2Proof.Machine
end

section
/-! SUPPORT. Reductions (R98, R174, R176): the statistics of a result, and what a reduction without a poisoned element leaves. -/

namespace Sys2Proof.Machine

/-! ## The statistics of a result and of its sources (R98) -/

section
variable (f : Fmt) (e : Enc)

/-- A result sets the flag of its infinity or NaN, and none of the other two. -/
theorem statOf_flags : ((statOf f e).flags.getLsbD 0 = true ↔ decodeVal f e.code = .inf false) ∧
    ((statOf f e).flags.getLsbD 1 = true ↔ decodeVal f e.code = .inf true) ∧
    ((statOf f e).flags.getLsbD 2 = true ↔ decodeVal f e.code = .nan) := by
  unfold statOf
  cases decodeVal f e.code with
  | nan => cases e.ovc <;> simp [flagOvc, flagNan]
  | inf n => cases e.ovc <;> cases n <;> simp [flagOvc, flagPinf, flagNinf]
  | fin n m x => cases e.ovc <;> simp [flagOvc]

theorem statOf_amax_fin {n : Bool} {m : Nat} {x : Int} (h : decodeVal f e.code = .fin n m x) :
    (statOf f e).amax = magPattern (decodeVal f e.code) := by
  rw [statOf, h]

theorem statOf_amax_zero (h : ∀ n m x, decodeVal f e.code ≠ .fin n m x) : (statOf f e).amax = 0 := by
  unfold statOf
  cases hv : decodeVal f e.code with
  | nan => rfl
  | inf n => rfl
  | fin n m x => exact absurd hv (h n m x)

end

/-- Sources set NAN where one of them is a NaN, and neither flag of an infinity. -/
theorem Stat.all_sources_flags (vs : List Val) : (Stat.all (vs.map statSrc)).flags.getLsbD 0 = false ∧
    (Stat.all (vs.map statSrc)).flags.getLsbD 1 = false ∧ ((Stat.all (vs.map statSrc)).flags.getLsbD 2 = true ↔ Val.nan ∈ vs) := by
  have hflag (b : Nat) (v : Val) : (statSrc v).flags.getLsbD b = (v.isNan && flagNan.getLsbD b) := by
    cases v <;> simp [statSrc, Val.isNan, Stat.none]
  simp only [Stat.all_flags, List.any_map, Function.comp_def, hflag]
  simp [flagNan, Val.isNan]

/-- Statistics that hold no magnitude and set no flag but OVC. -/
def Stat.OnlyOvc (x : Stat) : Prop := x.amax = 0 ∧ ∀ b, b < 3 → x.flags.getLsbD b = false

theorem Stat.OnlyOvc.none : Stat.none.OnlyOvc := ⟨rfl, fun _ _ => BitVec.getLsbD_zero⟩

theorem Stat.OnlyOvc.join {x y : Stat} (hx : x.OnlyOvc) (hy : y.OnlyOvc) : (x.join y).OnlyOvc := by
  obtain ⟨hxm, hxf⟩ := hx
  obtain ⟨hym, hyf⟩ := hy
  exact ⟨(Stat.join_amax_of_left hxm).trans hym, fun b hb => by rw [Stat.join_flags, hxf b hb, hyf b hb]; rfl⟩

theorem Team.addNode_onlyOvc (t : Team) (l q : Nat) (a b : Val) : (t.addNode l q a b).2.OnlyOvc := by
  refine ⟨rfl, fun k hk => ?_⟩
  have hovc : flagOvc.getLsbD k = false := by interval_cases k <;> rfl
  rw [Team.addNode, BitVec.getLsbD_and, hovc, Bool.and_false]

/-! ## The tree over the elements (R176) -/

/-- The value of the n-th element, a NaN for one that is poisoned. -/
def Team.elementAt (t : Team) (va n : Nat) : Val := (((t.elements va)[n]?).map elementVal).getD .nan

theorem map_eq_range_map {α β : Type} (g : α → β) (d : β) (xs : List α) :
    xs.map g = (List.range xs.length).map fun n => (xs[n]?.map g).getD d := by
  refine List.ext_getElem (by simp) fun n h _ => ?_
  have hn : n < xs.length := by simpa using h
  simp [List.getElem?_eq_getElem hn]

theorem Team.map_elementVal (t : Team) (va : Nat) : (t.elements va).map elementVal = (List.range (t.elements va).length).map (t.elementAt va) :=
  map_eq_range_map elementVal .nan _

/-- The statistics of a reduction: those of its result, of the nodes and of the sources. -/
def Team.reduceStat (t : Team) (va : Nat) (r : Val × Stat) : Stat :=
  ((statOf (t.fmtAt t.slot) (encodeVal (t.fmtAt t.slot) 0 false 0 r.1.exact)).join r.2).join (Stat.all (((t.elements va).map elementVal).map statSrc))

theorem Team.reduced_tree {t : Team} {va : Nat} (node : Nat → Nat → Val × Stat → Val × Stat → Val × Stat) (h : firstToken (t.elements va) = none)
    (hne : t.elements va ≠ []) : ∃ r, Claim.treeOf node (t.elements va).length (fun n => (t.elementAt va n, Stat.none)) r ∧
      t.reduced va node = .ok (List.replicate (t.fmtAt t.slot).count (encodeVal (t.fmtAt t.slot) 0 false 0 r.1.exact).code, t.reduceStat va r) := by
  have hleaves : (t.elements va).map (fun e => (elementVal e, Stat.none)) =
      (List.range (t.elements va).length).map fun n => (t.elementAt va n, Stat.none) := by
    calc _ = ((t.elements va).map elementVal).map fun v => (v, Stat.none) := List.map_map.symm
      _ = _ := by rw [t.map_elementVal, List.map_map]; rfl
  obtain ⟨r, hr, htree⟩ := tree_range node (List.length_pos_of_ne_nil hne) fun n => (t.elementAt va n, Stat.none)
  refine ⟨r, htree, ?_⟩
  rw [Team.reduced, h, hleaves, hr, Team.reduceStat, List.map_map]
  rfl

/-- The statistics of a reduction whose nodes set no flag but OVC. -/
theorem Team.reduceStat_spec {t : Team} {va : Nat} {r : Val × Stat} (hr : r.2.OnlyOvc) :
    let z := decodeVal (t.fmtAt t.slot) (encodeVal (t.fmtAt t.slot) 0 false 0 r.1.exact).code
    (∀ n m e, z = .fin n m e → (t.reduceStat va r).amax = magPattern z) ∧
    ((∀ n m e, z ≠ .fin n m e) → (t.reduceStat va r).amax = 0) ∧
    ((t.reduceStat va r).flags.getLsbD 0 = true ↔ z = .inf false) ∧
    ((t.reduceStat va r).flags.getLsbD 1 = true ↔ z = .inf true) ∧
    ((t.reduceStat va r).flags.getLsbD 2 = true ↔ z = .nan ∨ ∃ n, n < (t.elements va).length ∧ t.elementAt va n = .nan) := by
  intro z
  obtain ⟨hmag, hflags⟩ := hr
  have hamax : (t.reduceStat va r).amax = (statOf (t.fmtAt t.slot) (encodeVal (t.fmtAt t.slot) 0 false 0 r.1.exact)).amax :=
    (Stat.join_amax_of_right (Stat.all_sources_amax _)).trans (Stat.join_amax_of_right hmag)
  have hflag (b : Nat) (hb : b < 3) : (t.reduceStat va r).flags.getLsbD b = true ↔
      (statOf (t.fmtAt t.slot) (encodeVal (t.fmtAt t.slot) 0 false 0 r.1.exact)).flags.getLsbD b = true ∨
        (Stat.all (((t.elements va).map elementVal).map statSrc)).flags.getLsbD b = true := by
    rw [Team.reduceStat, Stat.join_flags, Stat.join_flags, hflags b hb, Bool.or_false, Bool.or_eq_true]
  obtain ⟨hp, hn, hnan⟩ := statOf_flags (t.fmtAt t.slot) (encodeVal (t.fmtAt t.slot) 0 false 0 r.1.exact)
  obtain ⟨hsrcp, hsrcn, hsrcnan⟩ := Stat.all_sources_flags ((t.elements va).map elementVal)
  refine ⟨fun n m e hz => hamax.trans (statOf_amax_fin _ _ hz), fun hz => hamax.trans (statOf_amax_zero _ _ hz), ?_, ?_, ?_⟩
  · rw [hflag 0 (by decide), hp, hsrcp]
    simp [z]
  · rw [hflag 1 (by decide), hn, hsrcn]
    simp [z]
  · rw [hflag 2 (by decide), hnan, hsrcnan, t.map_elementVal]
    simp [z]

/-! ## What a reduction leaves (R98, R176) -/

/-- The lanes, AMAX and the flags after a reduction whose tree gives y. -/
def Team.ReducedTo (t : Team) (vd va : Nat) (y : Val) (u : Team) : Prop :=
  let f := t.fmtAt t.slot
  let c := (encodeVal f 0 false 0 y.exact).code
  let z := decodeVal f c
  (∀ h l, h < Claim.slotWidth t → l < t.lanes → t.active l = true →
    u.lane (vd + h) l = Claim.slotLane f (.ok (List.replicate f.count c, Stat.none)) h) ∧
  (∀ n m e, z = .fin n m e → (sget 0 u.fmt.amax t.slot).toNat = max (sget 0 t.fmt.amax t.slot).toNat (magPattern z).toNat) ∧
  ((∀ n m e, z ≠ .fin n m e) → sget 0 u.fmt.amax t.slot = sget 0 t.fmt.amax t.slot) ∧
  (∀ n, n ≠ t.slot → sget 0 u.fmt.amax n = sget 0 t.fmt.amax n) ∧
  (u.fmt.flags.getLsbD 0 = true ↔ t.fmt.flags.getLsbD 0 = true ∨ z = .inf false) ∧
  (u.fmt.flags.getLsbD 1 = true ↔ t.fmt.flags.getLsbD 1 = true ∨ z = .inf true) ∧
  (u.fmt.flags.getLsbD 2 = true ↔
    t.fmt.flags.getLsbD 2 = true ∨ z = .nan ∨ ∃ n, n < (t.elements va).length ∧ t.elementAt va n = .nan) ∧
  (t.fmt.flags.getLsbD 3 = true → u.fmt.flags.getLsbD 3 = true)

section
variable {s : State} {slot : Nat} {t : Team} {i : Instr} {vd va : VReg} {la keep : Bool}

theorem reduceInstr_leaves_statistics {node : Team → Nat → Nat → Val × Stat → Val × Stat → Val × Stat} {P : Team → Prop} (h : Runs s slot t i)
    (hne : t.elements va.toNat ≠ []) (hP : P (t.writeSlot (hints1 va la t) vd.toNat (fun _ => t.reduced va.toNat (node t))
      (t.reduced va.toNat (node t)).stat).advance) : Leaves (reduceInstr i s vd va la keep node) slot P := by
  have hstat : (t.reduced va.toNat (node t)).stat =
      if (t.elements va.toNat).isEmpty then Stat.none else (t.reduced va.toNat (node t)).stat := (if_neg (by simpa using hne)).symm
  rw [hstat] at hP
  rw [reduceInstr, issue_runs h]
  exact State.done_leaves hP

/-- A reduction without a poisoned element, whose nodes set no flag but OVC. -/
theorem reduceInstr_reducedTo {node : Team → Nat → Nat → Val × Stat → Val × Stat → Val × Stat} (h : Runs s slot t i)
    (hnone : firstToken (t.elements va.toNat) = none) (hne : t.elements va.toNat ≠ [])
    (hnode : ∀ lv n a b, a.2.OnlyOvc → b.2.OnlyOvc → (node t lv n a b).2.OnlyOvc) :
    ∃ r, Claim.treeOf (node t) (t.elements va.toNat).length (fun n => (t.elementAt va.toNat n, Stat.none)) r ∧
      Leaves (reduceInstr i s vd va la keep node) slot (t.ReducedTo vd.toNat va.toNat r.1) := by
  obtain ⟨r, htree, hcodes⟩ := t.reduced_tree (node t) hnone hne
  have hr : r.2.OnlyOvc := treeOf_holds (P := fun z => z.2.OnlyOvc) htree (fun _ => Stat.OnlyOvc.none) hnode
  refine ⟨r, htree, reduceInstr_leaves_statistics h hne ?_⟩
  obtain ⟨hfin, hspecial, hpinf, hninf, hnan⟩ := t.reduceStat_spec (va := va.toNat) hr
  rw [hcodes]
  refine ⟨fun k l hk hl ha => ?_, ?_⟩
  · rw [t.lane_writeSlot _ _ _ _ hl hk, if_pos ha]
    rfl
  · rw [Team.writeSlot_fmt]
    refine ⟨fun n m e hz => ?_, fun hz => ?_, fun n hn => t.statistics_amax_other _ hn, ?_, ?_, ?_, fun h3 => ?_⟩
    · rw [← hfin n m e hz]
      exact t.statistics_amax_slot _
    · exact Team.statistics_amax_of_zero (hspecial hz) _
    · rw [← hpinf, t.statistics_flags, Bool.or_eq_true]
      rfl
    · rw [← hninf, t.statistics_flags, Bool.or_eq_true]
      rfl
    · rw [← hnan, t.statistics_flags, Bool.or_eq_true]
      rfl
    · rw [t.statistics_flags, h3, Bool.true_or]

/-- VREDADD: the tree whose nodes are encoded into the slot (R176). -/
theorem exec_vredadd {lb : Bool} (h : Runs s slot t (.vredadd vd va la lb keep)) (hnone : firstToken (t.elements va.toNat) = none)
    (hne : t.elements va.toNat ≠ []) : ∃ y,
      Claim.treeOf (fun lv n a b => (t.addNode n lv a b).1) (t.elements va.toNat).length (t.elementAt va.toNat) y ∧
      Leaves (exec (.vredadd vd va la lb keep) s) slot (t.ReducedTo vd.toNat va.toNat y) := by
  have hnode (lv n : Nat) (a b : Val × Stat) (ha : a.2.OnlyOvc) (hb : b.2.OnlyOvc) :
      ((a.2.join b.2).join (t.addNode n lv a.1 b.1).2).OnlyOvc := (ha.join hb).join (t.addNode_onlyOvc n lv a.1 b.1)
  obtain ⟨r, htree, hleaves⟩ := reduceInstr_reducedTo (vd := vd) (la := la) (keep := keep)
    (node := fun t lv i a b => ((t.addNode i lv a.1 b.1).1, (a.2.join b.2).join (t.addNode i lv a.1 b.1).2)) h hnone hne hnode
  exact ⟨r.1, treeOf_map (φ := Prod.fst) htree fun _ _ _ _ => rfl, hleaves⟩

/-- A reduction that chooses values: its nodes set no flag. -/
theorem reduceInstr_choice {op : Val → Val → Val} (h : Runs s slot t i) (hnone : firstToken (t.elements va.toNat) = none)
    (hne : t.elements va.toNat ≠ []) : ∃ y, Claim.treeOf (fun _ _ => op) (t.elements va.toNat).length (t.elementAt va.toNat) y ∧
      Leaves (reduceInstr i s vd va la keep fun _ _ _ a b => (op a.1 b.1, Stat.none)) slot (t.ReducedTo vd.toNat va.toNat y) := by
  obtain ⟨r, htree, hleaves⟩ := reduceInstr_reducedTo (vd := vd) (la := la) (keep := keep)
    (node := fun _ _ _ a b => (op a.1 b.1, Stat.none)) h hnone hne fun _ _ _ _ _ _ => Stat.OnlyOvc.none
  exact ⟨r.1, treeOf_map (φ := Prod.fst) htree fun _ _ _ _ => rfl, hleaves⟩

end

end Sys2Proof.Machine
end

section
/-! SUPPORT. Scans (R177): the running value over the elements, the elements of one lane among all, and what a scan gives a lane. -/

namespace Sys2Proof.Machine

/-! ## The running value (R177) -/

section
variable {step : Nat → Nat → Val → Val → Val × Stat} {es : List (Nat × Nat × Except Word Val)} {k : Word} {m : Nat}

/-- The running value after one more element: the first token stays. -/
def scanNext (step : Nat → Nat → Val → Val → Val × Stat) (acc : Except Word (Option Val)) (e : Nat × Nat × Except Word Val) :
    Except Word (Option Val) :=
  acc.bind fun o => e.2.2.map fun b => some (o.elim b fun a => (step e.1 e.2.1 a b).1)

/-- The running value after the first m elements. -/
def scanAfter (step : Nat → Nat → Val → Val → Val × Stat) (es : List (Nat × Nat × Except Word Val)) (m : Nat) : Except Word (Option Val) :=
  (es.take m).foldl (scanNext step) (.ok none)

/-- The running value up to element e where no element is poisoned. -/
def scanValue (step : Nat → Nat → Val → Val → Val × Stat) (es : List (Nat × Nat × Except Word Val)) : Nat → Val
  | 0 => (es[0]?.map elementVal).getD .nan
  | e + 1 => (es[e + 1]?.map fun x => (step x.1 x.2.1 (scanValue step es e) (elementVal x)).1).getD .nan

theorem scanGo_fst (acc : Except Word (Option Val)) (x : Stat) (es : List (Nat × Nat × Except Word Val)) : (scanGo step acc x es).1 =
    es.mapIdx fun p e => (e.1, e.2.1, (es.take p).foldl (scanNext step) acc, (es.take (p + 1)).foldl (scanNext step) acc) := by
  induction es generalizing acc x with
  | nil => rfl
  | cons e es ih =>
    obtain ⟨l, q, v⟩ := e
    rw [List.mapIdx_cons]
    rcases acc with k | _ | a <;> cases v <;> exact congrArg _ (ih _ _)

theorem scanAfter_succ (hm : m < es.length) : scanAfter step es (m + 1) = scanNext step (scanAfter step es m) es[m] := by
  rw [scanAfter, List.take_succ_eq_append_getElem hm, List.foldl_append]
  rfl

/-- No token among the first m elements. -/
theorem scanAfter_of_ok (hm : m ≤ es.length) (h : ∀ e l q k, e < m → es[e]? ≠ some (l, q, .error k)) :
    scanAfter step es m = .ok (if m = 0 then none else some (scanValue step es (m - 1))) := by
  induction m with
  | zero => rfl
  | succ m ih =>
    rw [scanAfter_succ hm, ih (by omega) fun e l q k he => h e l q k (by omega)]
    have hget : es[m]? = some es[m] := List.getElem?_eq_getElem hm
    rcases hx : es[m] with ⟨l, q, k | b⟩
    · exact absurd (hget.trans (congrArg some hx)) (h m l q k (by omega))
    · cases m with
      | zero => simp [scanNext, scanValue, elementVal, hget, hx, Except.bind, Except.map]
      | succ m => simp [scanNext, scanValue, elementVal, hget, hx, Except.bind, Except.map]

theorem foldl_scanNext_error (es : List (Nat × Nat × Except Word Val)) : es.foldl (scanNext step) (.error k) = .error k := by
  induction es with
  | nil => rfl
  | cons e es ih => exact ih

/-- The first token ends the running value. -/
theorem foldl_scanNext_firstToken (h : firstToken es = some k) (o : Option Val) : es.foldl (scanNext step) (.ok o) = .error k := by
  induction es generalizing o with
  | nil => cases h
  | cons e es ih =>
    obtain ⟨l, q, v⟩ := e
    cases v with
    | error w =>
      obtain rfl : w = k := Option.some.inj h
      exact foldl_scanNext_error es
    | ok b => exact ih h _

theorem firstToken_append (xs ys : List (Nat × Nat × Except Word Val)) : firstToken (xs ++ ys) = (firstToken xs).or (firstToken ys) :=
  List.findSome?_append

theorem firstToken_ne_none (h : ∃ (e l q : Nat) (k : Word), es[e]? = some (l, q, .error k)) : firstToken es ≠ none := by
  obtain ⟨e, l, q, k, he⟩ := h
  intro hnone
  exact Option.some_ne_none k (List.findSome?_eq_none_iff.mp hnone _ (List.mem_of_getElem? he))

/-- A token among the first m elements: the first of all stays. -/
theorem scanAfter_of_error (h : ∃ e l q k, e < m ∧ es[e]? = some (l, q, .error k)) (hk : firstToken es = some k) :
    scanAfter step es m = .error k := by
  obtain ⟨e, l, q, w, hem, he⟩ := h
  have hne : firstToken (es.take m) ≠ none := firstToken_ne_none ⟨e, l, q, w, by rw [List.getElem?_take_of_lt hem, he]⟩
  obtain ⟨v, hv⟩ := Option.ne_none_iff_exists'.mp hne
  rw [← List.take_append_drop m es, firstToken_append, hv] at hk
  exact foldl_scanNext_firstToken (hv.trans hk) none

end

/-! ## The elements of one lane (R176) -/

/-- The elements stand lane by lane: those of an active lane come after count elements for each active lane below it. -/
theorem Team.elements_split (t : Team) (va : Nat) {l : Nat} (hl : l < t.lanes) (ha : t.active l = true) :
    ∃ pre mid post, t.elements va = pre ++ (mid ++ post) ∧ pre.length = (t.fmtAt t.slot).count * ((List.range l).filter t.active).length ∧
      mid.length = (t.fmtAt t.slot).count ∧ (∀ e ∈ pre, e.1 ≠ l) ∧ (∀ e ∈ mid, e.1 = l) ∧ ∀ e ∈ post, e.1 ≠ l := by
  have hlanes : t.activeLanes = (List.range l).filter t.active ++
      l :: ((List.range (t.lanes - l - 1)).map fun j => l + (j + 1)).filter t.active := by
    rw [Team.activeLanes, show t.lanes = l + (t.lanes - l - 1 + 1) by omega, List.range_add, List.filter_append, List.range_succ_eq_map,
      List.map_cons, List.map_map, Nat.add_zero, List.filter_cons_of_pos ha]
    simp [Function.comp_def]
  have hmem (ls : List Nat) (e : Nat × Nat × Except Word Val) (he : e ∈ (ls.map fun l =>
      (List.range (t.fmtAt t.slot).count).map fun q => (l, q, (t.readIn (t.fmtAt t.slot) va l).map fun c => (t.fmtAt t.slot).element c q)).flatten) :
      e.1 ∈ ls := by
    obtain ⟨_, hblock, he⟩ := List.mem_flatten.mp he
    obtain ⟨n, hn, rfl⟩ := List.mem_map.mp hblock
    obtain ⟨q, -, rfl⟩ := List.mem_map.mp he
    exact hn
  rw [Team.elements, hlanes, List.map_append, List.flatten_append, List.map_cons, List.flatten_cons]
  refine ⟨_, _, _, rfl, ?_, by simp, fun e he => ?_, by simp, fun e he => ?_⟩
  · simp [List.length_flatten, Function.comp_def, Nat.mul_comm]
  · have hlow : e.1 < l := List.mem_range.mp (List.mem_of_mem_filter (hmem _ e he))
    exact hlow.ne
  · obtain ⟨n, -, hn⟩ := List.mem_map.mp (List.mem_of_mem_filter (hmem _ e he))
    omega

/-- Of entries with a key, those of one key that stand together. -/
theorem filter_mapIdx_key {α β : Type} {key : α → Nat} {l : Nat} {pre mid post : List α} (hpre : ∀ e ∈ pre, key e ≠ l)
    (hmid : ∀ e ∈ mid, key e = l) (hpost : ∀ e ∈ post, key e ≠ l) (f : Nat → β) :
    ((((pre ++ (mid ++ post)).mapIdx fun p e => (key e, f p)).filter fun r => r.1 == l).map (·.2)) =
      (List.range mid.length).map fun q => f (pre.length + q) := by
  have hout {xs : List α} (h : ∀ e ∈ xs, key e ≠ l) (g : Nat → β) : (xs.mapIdx fun p e => (key e, g p)).filter (fun r => r.1 == l) = [] := by
    refine List.filter_eq_nil_iff.mpr fun r hr => ?_
    obtain ⟨p, hp, rfl⟩ := List.mem_mapIdx.mp hr
    simpa using h _ (List.getElem_mem hp)
  have hin {xs : List α} (h : ∀ e ∈ xs, key e = l) (g : Nat → β) :
      (xs.mapIdx fun p e => (key e, g p)).filter (fun r => r.1 == l) = xs.mapIdx fun p e => (key e, g p) := by
    refine List.filter_eq_self.mpr fun r hr => ?_
    obtain ⟨p, hp, rfl⟩ := List.mem_mapIdx.mp hr
    simpa using h _ (List.getElem_mem hp)
  rw [List.mapIdx_append, List.mapIdx_append, List.filter_append, List.filter_append]
  rw [hout hpre, hout (g := fun p => f (p + mid.length + pre.length)) hpost, hin (g := fun p => f (p + pre.length)) hmid]
  refine List.ext_getElem (by simp) fun q _ _ => ?_
  simp [Nat.add_comm]

/-! ## What a scan gives a lane (R177) -/

section
variable {t : Team} {va : Nat} {before : Bool} {step : Nat → Nat → Val → Val → Val × Stat} {l : Nat}

/-- The number of elements on which the result at position p rests. -/
def scanReach (before : Bool) (p : Nat) : Nat := if before then p else p + 1

/-- The result of a scan at position p. -/
def Team.scanOut (t : Team) (va : Nat) (before : Bool) (step : Nat → Nat → Val → Val → Val × Stat) (p : Nat) : Except Word (Nat × Stat) :=
  (scanAfter step (t.elements va) (scanReach before p)).map fun o =>
    let e := encodeVal (t.fmtAt t.slot) 0 false 0 (o.getD (.fin false 0 0)).exact
    (e.code, statOf (t.fmtAt t.slot) e)

/-- The position of the first element of a lane. -/
def Team.firstElement (t : Team) (l : Nat) : Nat := (t.fmtAt t.slot).count * ((List.range l).filter t.active).length

/-- The codes of a scan's results at the positions of a lane. -/
def Team.scanned (t : Team) (va : Nat) (before : Bool) (step : Nat → Nat → Val → Val → Val × Stat) (l : Nat) : LaneCodes :=
  ((List.range (t.fmtAt t.slot).count).mapM fun q => t.scanOut va before step (t.firstElement l + q)).map fun rs =>
    (rs.map (·.1), Stat.all (rs.map (·.2)))

/-- The results of a scan that the model collects for a lane. -/
def Team.scanCollected (t : Team) (va : Nat) (before : Bool) (step : Nat → Nat → Val → Val → Val × Stat) (l : Nat) : LaneCodes := do
  let outs := (scanGo step (.ok none) Stat.none (t.elements va)).1.map fun r =>
    (r.1, (if before then r.2.2.1 else r.2.2.2).map fun o =>
      let e := encodeVal (t.fmtAt t.slot) 0 false 0 (o.getD (.fin false 0 0)).exact
      (e.code, statOf (t.fmtAt t.slot) e))
  let rs ← ((outs.filter fun r => r.1 == l).map (·.2)).mapM id
  pure (rs.map (·.1), Stat.all (rs.map (·.2)))

theorem Team.scanCollected_eq (ha : t.active l = true) : t.scanCollected va before step l = t.scanned va before step l := by
  have hl : l < t.lanes := by
    rw [Team.active, Bool.and_eq_true, Bool.and_eq_true] at ha
    obtain ⟨⟨hl, -⟩, -⟩ := ha
    exact of_decide_eq_true hl
  obtain ⟨pre, mid, post, hes, hpre, hmid, hpre', hmid', hpost'⟩ := t.elements_split va hl ha
  have houts : ((scanGo step (.ok none) Stat.none (t.elements va)).1.map fun r =>
      (r.1, (if before then r.2.2.1 else r.2.2.2).map fun o =>
        let e := encodeVal (t.fmtAt t.slot) 0 false 0 (o.getD (.fin false 0 0)).exact
        (e.code, statOf (t.fmtAt t.slot) e))) = (t.elements va).mapIdx fun p e => (e.1, t.scanOut va before step p) := by
    refine (List.mapIdx_eq_iff.mpr fun p => ?_).symm
    rw [List.getElem?_map, scanGo_fst, List.getElem?_mapIdx, Option.map_map]
    cases before <;> rfl
  have hlane := filter_mapIdx_key hpre' hmid' hpost' (t.scanOut va before step)
  rw [← hes, hpre, hmid] at hlane
  rw [Team.scanCollected, houts, hlane, List.mapM_map, Team.scanned]
  rfl

/-- The result at position p where no element is poisoned: the running value up to p, or before p, a zero at first. -/
def Team.scanResult (t : Team) (va : Nat) (before : Bool) (step : Nat → Nat → Val → Val → Val × Stat) (p : Nat) : Val :=
  if before = false then scanValue step (t.elements va) p else if p = 0 then .fin false 0 0 else scanValue step (t.elements va) (p - 1)

theorem Team.scanOut_of_ok {p : Nat} (hp : p < (t.elements va).length)
    (h : ∀ (e l q : Nat) (k : Word), e < scanReach before p → (t.elements va)[e]? ≠ some (l, q, .error k)) :
    ∃ x, t.scanOut va before step p = .ok ((encodeVal (t.fmtAt t.slot) 0 false 0 (t.scanResult va before step p).exact).code, x) := by
  have hreach : scanReach before p ≤ (t.elements va).length := by unfold scanReach; split <;> omega
  rw [Team.scanOut, scanAfter_of_ok hreach h]
  refine ⟨_, congrArg Except.ok (Prod.ext ?_ rfl)⟩
  unfold scanReach
  cases before with
  | false => rfl
  | true => cases p <;> rfl

theorem Team.scanOut_of_error {p : Nat} {k : Word} (h : ∃ (e l q : Nat) (k : Word), e < scanReach before p ∧
    (t.elements va)[e]? = some (l, q, .error k)) (hk : firstToken (t.elements va) = some k) : t.scanOut va before step p = .error k := by
  rw [Team.scanOut, scanAfter_of_error h hk]
  rfl

/-- The results of a lane rest on a poisoned element. -/
def Team.ScanPoisoned (t : Team) (va : Nat) (before : Bool) (l : Nat) : Prop :=
  ∃ (e l' q : Nat) (k : Word), (t.elements va)[e]? = some (l', q, .error k) ∧
    (if before then e + 1 else e) < t.firstElement l + (t.fmtAt t.slot).count

theorem scanReach_le_iff {e p n : Nat} : (if before then e + 1 else e) < p + (n + 1) ↔ e < scanReach before (p + n) := by
  unfold scanReach
  split <;> omega

theorem Team.position_lt {q : Nat} (hl : l < t.lanes) (ha : t.active l = true) (hq : q < (t.fmtAt t.slot).count) :
    t.firstElement l + q < (t.elements va).length := by
  obtain ⟨pre, mid, post, hes, hpre, hmid, -⟩ := t.elements_split va hl ha
  rw [hes, List.length_append, List.length_append, hpre, hmid, Team.firstElement]
  omega

theorem Team.scanned_of_ok (hl : l < t.lanes) (ha : t.active l = true) (h : ¬ t.ScanPoisoned va before l) :
    ∃ x, t.scanned va before step l = .ok ((List.range (t.fmtAt t.slot).count).map fun q =>
      (encodeVal (t.fmtAt t.slot) 0 false 0 (t.scanResult va before step (t.firstElement l + q)).exact).code, x) := by
  have hout (q : Nat) (hq : q ∈ List.range (t.fmtAt t.slot).count) : ∃ x, t.scanOut va before step (t.firstElement l + q) =
      .ok ((encodeVal (t.fmtAt t.slot) 0 false 0 (t.scanResult va before step (t.firstElement l + q)).exact).code, x) := by
    have hq' := List.mem_range.mp hq
    refine Team.scanOut_of_ok (Team.position_lt hl ha hq') fun e l' p k he hget => h ⟨e, l', p, k, hget, ?_⟩
    exact (scanReach_le_iff.mpr he).trans_le (by omega)
  have : Nonempty Stat := ⟨Stat.none⟩
  choose! x hx using hout
  rw [Team.scanned, mapM_of_ok (x := fun q =>
    ((encodeVal (t.fmtAt t.slot) 0 false 0 (t.scanResult va before step (t.firstElement l + q)).exact).code, x q)) hx]
  exact ⟨_, congrArg Except.ok (Prod.ext List.map_map rfl)⟩

/-- Values read one after another, each of them there or poisoned with the same token. -/
theorem mapM_of_common_error {α β : Type} {g : α → Except Word β} {k : Word} {as : List α} (h : ∀ a ∈ as, g a = .error k ∨ ∃ x, g a = .ok x)
    (hk : ∃ a ∈ as, g a = .error k) : as.mapM g = .error k := by
  induction as with
  | nil => simp at hk
  | cons a as ih =>
    obtain ⟨ha, has⟩ := List.forall_mem_cons.mp h
    rw [List.mapM_cons]
    rcases ha with ha | ⟨x, hx⟩
    · rw [ha]; rfl
    · have htail : ∃ b ∈ as, g b = .error k := by simpa [hx] using hk
      rw [hx, ih has htail]; rfl

theorem Team.scanned_of_error {k : Word} (hl : l < t.lanes) (ha : t.active l = true) (h : t.ScanPoisoned va before l)
    (hk : firstToken (t.elements va) = some k) : t.scanned va before step l = .error k := by
  obtain ⟨e, l', p, w, hget, he⟩ := h
  have hcount : (t.fmtAt t.slot).count ≠ 0 := fun hzero => by simp [Team.firstElement, hzero] at he
  obtain ⟨n, hn⟩ := Nat.exists_eq_succ_of_ne_zero hcount
  rw [hn] at he
  rw [Team.scanned, mapM_of_common_error (k := k)]
  · rfl
  · intro q hq
    by_cases hbad : ∃ (e l' p : Nat) (w : Word), e < scanReach before (t.firstElement l + q) ∧ (t.elements va)[e]? = some (l', p, .error w)
    · exact .inl (Team.scanOut_of_error hbad hk)
    · obtain ⟨x, hx⟩ := Team.scanOut_of_ok (step := step) (before := before) (Team.position_lt hl ha (List.mem_range.mp hq))
        fun e l' p w he hget => hbad ⟨e, l', p, w, he, hget⟩
      exact .inr ⟨_, hx⟩
  · exact ⟨n, List.mem_range.mpr (by omega), Team.scanOut_of_error ⟨e, l', p, w, scanReach_le_iff.mp he, hget⟩ hk⟩

end

/-! ## What a scan leaves (R177) -/

theorem Team.writeSlot_congr {t : Team} {c c' : Nat → LaneCodes} (h : ∀ l, t.active l = true → c l = c' l) (ms : List (Nat × Bool)) (vd : Nat)
    (x : Stat) : t.writeSlot ms vd c x = t.writeSlot ms vd c' x := by
  have hwrites : (fun l => if t.active l then some (LaneCodes.lane (t.fmtAt t.slot) (c l)) else none) =
      fun l => if t.active l then some (LaneCodes.lane (t.fmtAt t.slot) (c' l)) else none := by
    funext l
    split
    next ha => rw [h l ha]
    next => rfl
  rw [Team.writeSlot, Team.writeSlot, hwrites]

/-- A scan leaves in each active lane the codes of its results. -/
theorem scanInstr_lanes {s : State} {slot : Nat} {t : Team} {i : Instr} {vd va : VReg} {la keep before : Bool}
    {step : Team → Nat → Nat → Val → Val → Val × Stat} (h : Runs s slot t i) :
    Leaves (scanInstr i s vd va la keep before step) slot fun u => ∀ l h, l < t.lanes → h < Claim.slotWidth t →
      u.lane (vd.toNat + h) l = if t.active l then Claim.slotLane (t.fmtAt t.slot) (t.scanned va.toNat before (step t) l) h
        else t.lane (vd.toNat + h) l := by
  have hlane (x : Stat) (l h : Nat) (hl : l < t.lanes) (hh : h < Claim.slotWidth t) :
      (t.writeSlot (hints1 va la t) vd.toNat (t.scanCollected va.toNat before (step t)) x).advance.lane (vd.toNat + h) l =
        if t.active l then Claim.slotLane (t.fmtAt t.slot) (t.scanned va.toNat before (step t) l) h else t.lane (vd.toNat + h) l := by
    rw [Team.writeSlot_congr fun _ => Team.scanCollected_eq]
    exact t.lane_writeSlot _ _ _ x hl hh
  rw [scanInstr, issue_runs h]
  exact State.done_leaves (hlane _)

end Sys2Proof.Machine
end

section
/-! SUPPORT. Quantisation (R178, R179): numbers written into the registers of a format together with the cond window, and what VQNT and VDQNT give
a lane. -/

namespace Sys2Proof.Machine

/-! ## Numbers written with the cond window (R92, R96, R117) -/

/-- The registers that a number of a format takes. -/
def Fmt.width (f : Fmt) : Nat := if f.pack then 2 else 1

/-- A register of a destination after numbers are written in the lanes for which g gives some. -/
theorem Team.lane_wvAll_slotWrites (u : Team) {f : Fmt} {r h l : Nat} (g : Nat → Option (Except Word Nat)) (hl : l < u.lanes)
    (hh : h < f.width) : (u.wvAll (slotWrites f r g)).lane (r + h) l =
      ((g l).map fun x => laneOf (x.map fun n => word (n / 2 ^ (32 * h)))).getD (u.lane (r + h) l) := by
  unfold Team.wvAll slotWrites
  unfold Fmt.width at hh
  cases hp : f.pack with
  | false =>
    obtain rfl : h = 0 := by simpa [hp] using hh
    exact (Team.lane_wv u r _ r l hl).trans (if_pos rfl)
  | true =>
    simp only [if_true, List.foldl_cons, List.foldl_nil]
    rw [hp, if_pos rfl] at hh
    rw [Team.lane_wv (u.wv r _) _ _ _ _ hl, Team.lane_wv u _ _ _ _ hl, Team.lane_wv u _ _ _ _ hl]
    obtain rfl | rfl : h = 0 ∨ h = 1 := by omega
    · rw [if_neg (by omega)]
      exact if_pos rfl
    · rw [if_pos rfl, if_neg (by omega)]

/-- A lane of the w registers from vd and its cond bit after a result: no number keeps data and tags, a number comes with the cond bit, a token
poisons the lane and its cond bit. -/
def Team.ReceivedWide (t t' : Team) (vd w l : Nat) : Option (Except Word Nat) × Bool → Prop
  | (none, c) => (∀ h, h < w → (t'.lane (vd + h) l).data = (t.lane (vd + h) l).data ∧ (t'.lane (vd + h) l).tag = (t.lane (vd + h) l).tag) ∧
      t'.cond l = c ∧ maskBit t'.ctl.cpois l = false
  | (some (.ok n), c) => (∀ h, h < w → t'.lane (vd + h) l = laneOf (.ok (word (n / 2 ^ (32 * h))))) ∧ t'.cond l = c ∧
      maskBit t'.ctl.cpois l = false
  | (some (.error k), _) => (∀ h, h < w → t'.lane (vd + h) l = laneOf (.error k)) ∧ maskBit t'.ctl.cpois l = true

/-- A team after each active lane received its result and the others kept the registers of vd and their cond bit. -/
def Team.CrossedWide (t : Team) (vd w : Nat) (r : Nat → Option (Except Word Nat) × Bool) (t' : Team) : Prop :=
  ∀ l, l < t.lanes → (t.active l = false → (∀ h, h < w → t'.lane (vd + h) l = t.lane (vd + h) l) ∧ t'.cond l = t.cond l) ∧
    (t.active l = true → t.ReceivedWide t' vd w l (r l))

/-- What a result gives the cond window. -/
def condOf (r : Option (Except Word Nat) × Bool) : Except Word Bool :=
  match r.1 with
  | some (.error k) => .error k
  | _ => .ok r.2

/-- The team that writes results: last-use marks, the numbers of the active lanes, the cond window, the statistics and the next PC. -/
def Team.writeWide (t : Team) (f : Fmt) (ms : List (Nat × Bool)) (vd : Nat) (r : Nat → Option (Except Word Nat) × Bool) (x : Stat) : Team :=
  (((((t.lastUse ms).wvAll (slotWrites f vd fun l => if t.active l then (r l).1 else none)).condLanes fun l =>
    if t.active l then some (condOf (r l)) else none).addStat t.slot x).countSr t.slot).advance

theorem Team.writeWide_crossed (t : Team) (f : Fmt) (ms : List (Nat × Bool)) (vd : Nat) (r : Nat → Option (Except Word Nat) × Bool) (x : Stat) :
    t.CrossedWide vd f.width r (t.writeWide f ms vd r x) := by
  intro l hl
  have hl' : l < (t.lastUse ms).lanes := (t.lanes_lastUse ms).symm ▸ hl
  set g := fun l => if t.active l then (r l).1 else none with hg
  set c := fun l => if t.active l then some (condOf (r l)) else none with hc
  set u := (t.lastUse ms).wvAll (slotWrites f vd g) with hu
  obtain ⟨v, hframe⟩ := (t.lastUse ms).wvAll_frame (slotWrites f vd g)
  have hlu : l < u.lanes := by rw [hu, hframe]; exact hl'
  obtain ⟨hregs, -, hctl⟩ := ((u.condLanes c).addStat t.slot x).countSr_regs t.slot
  have hlane (h : Nat) (hh : h < f.width) : (t.writeWide f ms vd r x).lane (vd + h) l =
      ((g l).map fun x => laneOf (x.map fun n => word (n / 2 ^ (32 * h)))).getD ((t.lastUse ms).lane (vd + h) l) := by
    rw [← Team.lane_wvAll_slotWrites (t.lastUse ms) g hl' hh, Team.writeWide, Team.lane_advance, Team.lane_regs (congrArg _ hregs)]
    exact Team.lane_regs (u.condLanes_regs_v c).1 _ _
  have hcond : (t.writeWide f ms vd r x).cond l = u.condBit c l := by
    rw [← u.cond_condLanes c hlu, Team.writeWide, Team.advance_cond, Team.cond, Team.cond, Team.rs_regs (congrArg _ hregs)]
    rfl
  have hpois : maskBit (t.writeWide f ms vd r x).ctl.cpois l = u.condPoison c l := by
    rw [← Team.maskBit_condLanes hlu, Team.writeWide, (Team.advance_tokens _).1, hctl]
    rfl
  have hkeep : u.cond l = t.cond l := by
    rw [← t.cond_lastUse ms l, hu, hframe]
    rfl
  simp only [Team.condBit, Team.condPoison, hg, hc] at hlane hcond hpois
  refine ⟨fun ha => ?_, fun ha => ?_⟩
  · simp only [ha, Bool.false_eq_true, if_false] at hlane hcond
    exact ⟨fun h hh => (hlane h hh).trans (t.lane_lastUse_inactive ms _ l hl ha), hcond.trans hkeep⟩
  · simp only [ha, if_true] at hlane hcond hpois
    rcases hr : r l with ⟨_ | k | n, b⟩ <;> simp only [hr, condOf] at hlane hcond hpois
    · refine ⟨fun h hh => ?_, hcond, hpois⟩
      rw [hlane h hh]
      exact t.lane_lastUse ms _ l hl
    · exact ⟨hlane, hpois⟩
    · exact ⟨hlane, hcond, hpois⟩

/-! ## VQNT (R178) -/

section
variable {s : State} {slot : Nat} {t : Team} {vd va : VReg} {sb : SReg} {la keep : Bool} {j l : Nat} {e : Word}

/-- The code that VQNT makes of a binary32 word for sub-element q of lane j. -/
def Team.quantCode (t : Team) (sb : SReg) (j : Nat) (w : Word) (q : Nat) : Nat :=
  (t.enc t.slot j q (mulVals (ofF32 w) (ofF32 (t.rs sb.toNat))).exact).1

/-- The source lane of sub-element q of lane j. -/
def Team.quantLane (t : Team) (j q : Nat) : Nat := j * (t.fmtAt t.slot).count + q

/-- Sub-element q of lane j, where its source lane is active. -/
def Team.quantPart (t : Team) (va : VReg) (sb : SReg) (j q : Nat) : Option (Except Word Nat) :=
  if t.active (t.quantLane j q) then some ((t.rv va.toNat (t.quantLane j q)).map fun w => t.quantCode sb j w q) else none

/-- What VQNT gives lane j: the number of its container and its cond bit. -/
def Team.quantised (t : Team) (vd va : VReg) (sb : SReg) (j : Nat) : Option (Except Word Nat) × Bool :=
  packLanes (t.fmtAt t.slot).count (t.fmtAt t.slot).w (t.quantPart va sb j) (t.readIn (t.fmtAt t.slot) vd.toNat j)

/-- The sub-elements with their statistics, as the model keeps them. -/
def Team.quantSource (t : Team) (va : VReg) (sb : SReg) (j q : Nat) : Option (Except Word (Nat × Stat)) :=
  if t.active (t.quantLane j q) then
    some ((t.rv va.toNat (t.quantLane j q)).map fun w =>
      let e := t.enc t.slot j q (mulVals (ofF32 w) (ofF32 (t.rs sb.toNat))).exact
      (e.1, ((statSrc (ofF32 w)).join (statSrc (ofF32 (t.rs sb.toNat)))).join e.2))
  else none

theorem Team.quantSource_code (q : Nat) : (t.quantSource va sb j q).map (fun x => x.map (·.1)) = t.quantPart va sb j q := by
  unfold Team.quantSource Team.quantPart
  split
  · cases t.rv va.toNat (t.quantLane j q) <;> rfl
  · rfl

theorem exec_vqnt (h : Runs s slot t (.vqnt vd va sb la keep)) :
    Leaves (exec (.vqnt vd va sb la keep) s) slot (t.CrossedWide vd.toNat (Claim.slotWidth t) (t.quantised vd va sb)) := by
  have hquant : (fun j => packLanes (t.fmtAt t.slot).count (t.fmtAt t.slot).w (fun q => (t.quantSource va sb j q).map fun x => x.map (·.1))
      (t.readIn (t.fmtAt t.slot) vd.toNat j)) = t.quantised vd va sb := by
    simp only [Team.quantSource_code]
    rfl
  rw [← hquant]
  exact ⟨_, _, issue_runs h _, State.team?_setTeam _ _ _, t.writeWide_crossed (t.fmtAt t.slot) [(va.toNat, la)] vd.toNat _ _⟩

theorem Team.quantPart_none {q : Nat} : t.quantPart va sb j q = none ↔ t.active (t.quantLane j q) = false := by simp [quantPart]

theorem Team.quantPart_some {q : Nat} {x : Except Word Word} (ha : t.active (t.quantLane j q) = true) (hx : t.rv va.toNat (t.quantLane j q) = x) :
    t.quantPart va sb j q = some (x.map fun w => t.quantCode sb j w q) := by rw [quantPart, if_pos ha, hx]

theorem Team.quantised_none (h : ∀ q, q < (t.fmtAt t.slot).count → t.active (t.quantLane j q) = false) :
    t.quantised vd va sb j = (none, false) :=
  packLanes_none fun q hq => Team.quantPart_none.mpr (h q hq)

/-- With an active source lane VQNT gives a container, and the cond bit says whether every source lane is active. -/
theorem Team.quantised_some (h : ∃ q, q < (t.fmtAt t.slot).count ∧ t.active (t.quantLane j q) = true) : ∃ c,
    t.quantised vd va sb j = (some (packNumber (t.fmtAt t.slot).count (t.fmtAt t.slot).w (t.quantPart va sb j)
      (t.readIn (t.fmtAt t.slot) vd.toNat j)), c) ∧ (c = true ↔ ∀ q, q < (t.fmtAt t.slot).count → t.active (t.quantLane j q) = true) := by
  obtain ⟨q, hq, ha⟩ := h
  refine ⟨_, packLanes_some ⟨q, hq, by simp [quantPart, ha]⟩, all_isSome_iff.trans ?_⟩
  simp [Team.quantPart_none]

theorem Team.quantPart_of_ok {x : Nat → Word}
    (hx : ∀ q, q < (t.fmtAt t.slot).count → t.active (t.quantLane j q) = true → t.rv va.toNat (t.quantLane j q) = .ok (x q)) :
    ∀ q, q < (t.fmtAt t.slot).count → t.quantPart va sb j q ≠ none → t.quantPart va sb j q = some (.ok (t.quantCode sb j (x q) q)) := by
  intro q hq hsome
  have ha : t.active (t.quantLane j q) = true := by simpa [Team.quantPart_none] using hsome
  exact Team.quantPart_some ha (hx q hq ha)

/-- The container that VQNT makes of source lanes that are not poisoned, bit by bit. -/
theorem Team.quantised_of_ok {x : Nat → Word} {d : Nat} (hsome : ∃ q, q < (t.fmtAt t.slot).count ∧ t.active (t.quantLane j q) = true)
    (hx : ∀ q, q < (t.fmtAt t.slot).count → t.active (t.quantLane j q) = true → t.rv va.toNat (t.quantLane j q) = .ok (x q))
    (hd : (∃ q, q < (t.fmtAt t.slot).count ∧ t.active (t.quantLane j q) = false) → t.readIn (t.fmtAt t.slot) vd.toNat j = .ok d) :
    ∃ m c, t.quantised vd va sb j = (some (.ok m), c) ∧
      (c = true ↔ ∀ q, q < (t.fmtAt t.slot).count → t.active (t.quantLane j q) = true) ∧
      ∀ b, m.testBit b = (decide (b / (t.fmtAt t.slot).w < (t.fmtAt t.slot).count) &&
        if t.active (t.quantLane j (b / (t.fmtAt t.slot).w)) then
          (t.quantCode sb j (x (b / (t.fmtAt t.slot).w)) (b / (t.fmtAt t.slot).w)).testBit (b % (t.fmtAt t.slot).w)
        else d.testBit b) := by
  have hw : 0 < (t.fmtAt t.slot).w := by
    obtain ⟨q, hq, -⟩ := hsome
    by_contra hzero
    simp [Fmt.count, Nat.eq_zero_of_not_pos hzero] at hq
  obtain ⟨c, hquant, hc⟩ := Team.quantised_some (vd := vd) (va := va) (sb := sb) hsome
  obtain ⟨m, hm, hbits⟩ := packNumber_of_ok (old := t.readIn (t.fmtAt t.slot) vd.toNat j) (d := d) hw (Team.quantPart_of_ok (sb := sb) hx) fun hmiss =>
    hd (by simpa only [Team.quantPart_none] using hmiss)
  refine ⟨m, c, by rw [hquant, hm], hc, fun b => ?_⟩
  rw [hbits]
  cases ha : t.active (t.quantLane j (b / (t.fmtAt t.slot).w)) with
  | true => rw [if_neg (by simp [quantPart, ha])]; rfl
  | false => rw [if_pos (Team.quantPart_none.mpr ha)]; rfl

/-- The first poisoned source lane poisons what VQNT makes. -/
theorem Team.quantised_of_error {q : Nat} (hq : q < (t.fmtAt t.slot).count) (ha : t.active (t.quantLane j q) = true)
    (he : t.rv va.toNat (t.quantLane j q) = .error e)
    (hbefore : ∀ p, p < q → t.active (t.quantLane j p) = true → ∃ x, t.rv va.toNat (t.quantLane j p) = .ok x) :
    ∃ c, t.quantised vd va sb j = (some (.error e), c) := by
  obtain ⟨c, hquant, -⟩ := Team.quantised_some (vd := vd) (va := va) (sb := sb) ⟨q, hq, ha⟩
  refine ⟨c, ?_⟩
  rw [hquant, packNumber_of_error hq (Team.quantPart_some ha he)]
  intro p hp hsome
  have hactive : t.active (t.quantLane j p) = true := by simpa [Team.quantPart_none] using hsome
  obtain ⟨x, hx⟩ := hbefore p hp hactive
  exact ⟨_, Team.quantPart_some hactive hx⟩

/-- Where bits of the old vd stay and it is poisoned, its token comes after those of the source lanes. -/
theorem Team.quantised_of_old_error (hsome : ∃ q, q < (t.fmtAt t.slot).count ∧ t.active (t.quantLane j q) = true)
    (hmiss : ∃ q, q < (t.fmtAt t.slot).count ∧ t.active (t.quantLane j q) = false)
    (hx : ∀ q, q < (t.fmtAt t.slot).count → t.active (t.quantLane j q) = true → ∃ x, t.rv va.toNat (t.quantLane j q) = .ok x)
    (he : t.readIn (t.fmtAt t.slot) vd.toNat j = .error e) : ∃ c, t.quantised vd va sb j = (some (.error e), c) := by
  obtain ⟨c, hquant, -⟩ := Team.quantised_some (vd := vd) (va := va) (sb := sb) hsome
  choose! x hx using hx
  refine ⟨c, ?_⟩
  rw [hquant, packNumber_of_old_error (Team.quantPart_of_ok hx) (by simpa only [Team.quantPart_none] using hmiss) he]

/-! ## VDQNT (R179) -/

/-- What VDQNT gives lane l: the code of its sub-element in binary32, and whether its source lane is active. -/
def Team.dequantised (t : Team) (va : VReg) (sb : SReg) (l : Nat) : Option (Except Word Nat) × Bool :=
  if t.active (l / (t.fmtAt t.slot).count) then
    (some ((t.readIn (t.fmtAt t.slot) va.toNat (l / (t.fmtAt t.slot).count)).map fun c =>
      (t.enc32 l 0 (mulVals ((t.fmtAt t.slot).element c (l % (t.fmtAt t.slot).count)) (ofF32 (t.rs sb.toNat))).exact).1), true)
  else (none, false)

theorem Team.wvAll_slotWrites_binary32 (u : Team) (r : Nat) (g : Nat → Option (Except Word Nat)) :
    u.wvAll (slotWrites binary32 r g) = u.wv r fun l => (g l).map fun x => laneOf (x.map word) := by
  have hpack : binary32.pack = false := by decide
  simp [Team.wvAll, slotWrites, hpack]

/-- The results with their statistics, as the model keeps them. -/
def Team.dequantSource (t : Team) (va : VReg) (sb : SReg) (l : Nat) : Option (Except Word (Nat × Stat)) :=
  if t.active (l / (t.fmtAt t.slot).count) then
    some ((t.readIn (t.fmtAt t.slot) va.toNat (l / (t.fmtAt t.slot).count)).map fun c =>
      let v := (t.fmtAt t.slot).element c (l % (t.fmtAt t.slot).count)
      let e := t.enc32 l 0 (mulVals v (ofF32 (t.rs sb.toNat))).exact
      (e.1, (statSrc v).join e.2))
  else none

theorem Team.dequantised_lane : (t.dequantised va sb l).1.map (fun x => laneOf (x.map word)) =
    (t.dequantSource va sb l).map fun y => laneOf (y.map fun p => word p.1) := by
  unfold Team.dequantised Team.dequantSource
  split
  · cases t.readIn (t.fmtAt t.slot) va.toNat (l / (t.fmtAt t.slot).count) <;> rfl
  · rfl

theorem Team.dequantised_cond : condOf (t.dequantised va sb l) =
    match t.dequantSource va sb l with
    | some (.error e) => .error e
    | some (.ok _) => .ok true
    | none => .ok false := by
  unfold Team.dequantised Team.dequantSource
  split
  · cases t.readIn (t.fmtAt t.slot) va.toNat (l / (t.fmtAt t.slot).count) <;> rfl
  · rfl

theorem exec_vdqnt (h : Runs s slot t (.vdqnt vd va sb la keep)) :
    Leaves (exec (.vdqnt vd va sb la keep) s) slot (t.CrossedWide vd.toNat 1 (t.dequantised va sb)) := by
  have hlanes : (fun l => (if t.active l then (t.dequantised va sb l).1 else none).map fun x => laneOf (x.map word)) =
      fun l => if t.active l then (t.dequantSource va sb l).map fun y => laneOf (y.map fun p => word p.1) else none := by
    funext l
    split
    · exact Team.dequantised_lane
    · rfl
  have hwrites (x : Stat) := t.writeWide_crossed binary32 (hints1 va la t) vd.toNat (t.dequantised va sb) x
  simp only [Team.writeWide, Team.wvAll_slotWrites_binary32, hlanes, Team.dequantised_cond] at hwrites
  exact ⟨_, _, issue_runs h _, State.team?_setTeam _ _ _, hwrites _⟩

theorem Team.dequantised_none (h : t.active (l / (t.fmtAt t.slot).count) = false) : t.dequantised va sb l = (none, false) := by
  simp [dequantised, h]

theorem Team.dequantised_some {x : Except Word Nat} (h : t.active (l / (t.fmtAt t.slot).count) = true)
    (hx : t.readIn (t.fmtAt t.slot) va.toNat (l / (t.fmtAt t.slot).count) = x) : t.dequantised va sb l = (some (x.map fun c =>
      (t.enc32 l 0 (mulVals ((t.fmtAt t.slot).element c (l % (t.fmtAt t.slot).count)) (ofF32 (t.rs sb.toNat))).exact).1), true) := by
  rw [dequantised, if_pos h, hx]

end

end Sys2Proof.Machine
end

section
/-! SUPPORT. O11: dot products, reductions, scans and quantisation (R98, R174 to R179). -/

namespace Sys2Proof.Machine

/-- A bit of a register of a container. -/
theorem getLsbD_word_div (m h : Nat) {b : Nat} (hb : b < 32) : (word (m / 2 ^ (32 * h))).getLsbD b = m.testBit (32 * h + b) := by
  rw [BitVec.getLsbD_ofNat, decide_eq_true hb, Bool.true_and, ← Nat.shiftRight_eq_div_pow, Nat.testBit_shiftRight]

/-- Settles O11: VDOT by its integer sum or its tree, the reductions by the tree of their values, the scans by their running value, VQNT and VDQNT
by the containers that they give a lane. -/
theorem dotsAndScans : Obligations.DotsAndScans := by
  refine ⟨?_, ?_, ?_, ?_⟩
  · intro s slot t vd va vb la lb keep f hruns
    obtain ⟨s', hexec, hteam⟩ := exec_vdot hruns
    refine ⟨s', _, hexec, hteam, Team.dotted_amax, fun l hl ha => ?_, fun l k hl ha => ?_, fun l a b d hl ha hva hvb hvd => ?_⟩
    · rw [Team.lane_dotted hl, ha]
      rfl
    · obtain ⟨hva, hvb, hvd⟩ := t.dot_of_error (vd := vd) (va := va) (vb := vb) (l := l) (k := k)
      rw [Team.lane_dotted hl, if_pos ha]
      exact ⟨fun h => by rw [hva h]; rfl, fun a h h' => by rw [hvb a h h']; rfl, fun a b h h' h'' => by rw [hvd a b h h' h'']; rfl⟩
    · have hdot := Team.dot_of_ok hva hvb hvd
      refine ⟨fun hkind => ?_, fun h1 h2 hcount => ?_⟩
      · exact Team.lane_dotted_integer hl ha hdot (by simpa [Fmt.isInteger] using hkind)
      · obtain ⟨htree, -⟩ := dotTree_spec f a b hcount
        exact ⟨_, htree, Team.lane_dotted_float hl ha hdot (by simp [Fmt.isInteger, f, h1, h2])⟩
  · intro i s slot t vd va la lb keep f es x hi hruns hnone hne
    rcases hi with rfl | rfl | rfl
    · obtain ⟨y, htree, s', t', hexec, hteam, hreduced⟩ := exec_vredadd hruns hnone hne
      exact ⟨s', t', y, hexec, hteam, fun _ => htree, fun h => absurd rfl h, hreduced⟩
    · obtain ⟨y, htree, s', t', hexec, hteam, hreduced⟩ := reduceInstr_choice (op := maxVal) (vd := vd) (la := la) (keep := keep) hruns hnone hne
      obtain ⟨hleaf, hbest⟩ := treeOf_maxVal htree
      refine ⟨s', t', y, hexec, hteam, nofun, fun _ => ⟨hleaf, fun n hn hx => ?_⟩, hreduced⟩
      rw [if_pos rfl]
      exact hbest n hn hx
    · obtain ⟨y, htree, s', t', hexec, hteam, hreduced⟩ := reduceInstr_choice (op := minVal) (vd := vd) (la := la) (keep := keep) hruns hnone hne
      obtain ⟨hleaf, hbest⟩ := treeOf_minVal htree
      refine ⟨s', t', y, hexec, hteam, nofun, fun _ => ⟨hleaf, fun n hn hx => ?_⟩, hreduced⟩
      rw [if_neg nofun]
      exact hbest n hn hx
  · intro s slot t vd va la lb keep f es scan add
    have hscan (i : Instr) (before : Bool) (step : Team → Nat → Nat → Val → Val → Val × Stat)
        (hexec : exec i s = scanInstr i s vd va la keep before step) : scan i before fun l q a b => (step t l q a b).1 := by
      intro hruns
      obtain ⟨s', t', hnext, hteam, hlanes⟩ := scanInstr_lanes (vd := vd) (va := va) (la := la) (keep := keep) (before := before) (step := step) hruns
      refine ⟨s', t', scanValue (step t) es, hexec.trans hnext, hteam, fun l q v hv => ?_, fun e l q v hv => ?_, fun l h hl hh => ?_⟩
      · rw [scanValue, hv]
        rfl
      · rw [scanValue, hv]
        rfl
      · rw [hlanes l h hl hh]
        refine ⟨fun ha => by rw [ha]; rfl, fun ha => ?_⟩
        rw [if_pos ha]
        refine ⟨fun hok => ?_, fun k hbad hk => ?_⟩
        · obtain ⟨y, hy⟩ := Team.scanned_of_ok (step := step t) hl ha hok
          rw [hy]
          rfl
        · rw [Team.scanned_of_error hl ha hbad hk]
    exact ⟨hscan _ false (fun t l q a b => t.addNode l q a b) rfl, hscan _ true (fun t l q a b => t.addNode l q a b) rfl,
      hscan _ false (fun _ _ _ a b => (maxVal a b, Stat.none)) rfl, hscan _ false (fun _ _ _ a b => (minVal a b, Stat.none)) rfl⟩
  · intro s slot t vd va sb la keep f n k stays inactive poisoned
    refine ⟨fun hruns => ?_, fun hruns => ?_⟩
    · obtain ⟨s', t', hexec, hteam, hcrossed⟩ := exec_vqnt hruns
      refine ⟨s', t', hexec, hteam, fun j hj => ?_⟩
      obtain ⟨hidle, hreceived⟩ := hcrossed j hj
      refine ⟨hidle, fun ha => ⟨fun hnone => ?_, fun x d hsome hx hd => ?_, fun q e hq hactive he hbefore => ?_, fun e hsome hmiss hx he => ?_⟩⟩
      · exact (Team.quantised_none hnone ▸ hreceived ha : t.ReceivedWide t' vd.toNat _ j (none, false))
      · obtain ⟨m, c, hquant, hc, hbits⟩ := Team.quantised_of_ok (sb := sb) hsome hx hd
        obtain ⟨hlane, hcond, hpois⟩ : t.ReceivedWide t' vd.toNat _ j (some (.ok m), c) := hquant ▸ hreceived ha
        rw [hcond]
        refine ⟨fun h hh => ?_, hc, hpois⟩
        rw [hlane h hh]
        exact ⟨rfl, rfl, fun b hb => (getLsbD_word_div m h hb).trans (hbits _)⟩
      · obtain ⟨c, hquant⟩ := Team.quantised_of_error (vd := vd) (sb := sb) hq hactive he hbefore
        exact (hquant ▸ hreceived ha : t.ReceivedWide t' vd.toNat _ j (some (.error e), c))
      · obtain ⟨c, hquant⟩ := Team.quantised_of_old_error (sb := sb) hsome hmiss hx he
        exact (hquant ▸ hreceived ha : t.ReceivedWide t' vd.toNat _ j (some (.error e), c))
    · obtain ⟨s', t', hexec, hteam, hcrossed⟩ := exec_vdqnt hruns
      refine ⟨s', t', hexec, hteam, fun l hl => ?_⟩
      obtain ⟨hidle, hreceived⟩ := hcrossed l hl
      refine ⟨hidle, fun ha => ⟨fun hnone => ?_, fun c hactive hc => ?_, fun e hactive he => ?_⟩⟩
      · exact (Team.dequantised_none hnone ▸ hreceived ha : t.ReceivedWide t' vd.toNat 1 l (none, false))
      · obtain ⟨hlane, hcond, hpois⟩ : t.ReceivedWide t' vd.toNat 1 l (some (.ok _), true) := Team.dequantised_some hactive hc ▸ hreceived ha
        exact ⟨(hlane 0 one_pos).trans (by rw [Nat.mul_zero, pow_zero, Nat.div_one]; rfl), hcond, hpois⟩
      · exact (Team.dequantised_some hactive he ▸ hreceived ha : t.ReceivedWide t' vd.toNat 1 l (some (.error e), true))

end Sys2Proof.Machine
end
